-- ==== Sys2Proof/Word.lean ====
section
/-!
DEFINITION. The words of the machine: bytes, 32-bit register words and 64-bit words (R43, R46, R72).
-/
namespace Sys2Proof

/-- One byte of memory. -/
abbrev Byte := BitVec 8

/-- A vector register (R43), an index register (R47), a 32-bit operand. -/
abbrev Word := BitVec 32

/-- A uniform register (R46), an address, a word of program text (R72). -/
abbrev DWord := BitVec 64

/-- A 10-bit register field of an instruction word (R83, R84). -/
abbrev Fld := BitVec 10

end Sys2Proof
end

