-- ==== Sys2Proof/Syntax.lean ====
section
/-!
DEFINITION. The instructions of the Ryupex Y16 (R84–R93) and the other steps of the opcode table, as syntax: one
constructor per row of the table. Instruction fields keep the manual's letters (D, A, B, C, BI, XS, U or FS); what a
field value means is read from them by the meanings, and which values an instruction accepts is `Instr.wf`.
-/
namespace Sys2Proof

/-- Format A (R84): the fields every ALU word has; `c` is the modifier field MD or a third register, `u` is bit [6]
(U or FS). -/
structure FmtA where
  guard : BitVec 8
  d : Fld
  a : Fld
  b : Fld
  c : Fld
  bi : Bool
  xs : BitVec 2
  u : Bool
  deriving DecidableEq, Repr

/-- Format T (R89): the three-source floating point of major 0x11. -/
structure FmtT where
  f : FmtA
  ftz : Bool
  rm : BitVec 3
  deriving DecidableEq, Repr

/-- Format L (R89, R107): TERN, with its truth table. -/
structure FmtL where
  guard : BitVec 8
  d : Fld
  a : Fld
  b : Fld
  c : Fld
  lut : BitVec 8
  u : Bool
  deriving DecidableEq, Repr

/-- Format C (R89, R116): the conversions; `src` is the source type of FN[4:0]. -/
structure FmtC where
  f : FmtA
  src : BitVec 5
  deriving DecidableEq, Repr

/-- Format I (R90): a 32-bit immediate. -/
structure FmtI where
  guard : BitVec 8
  d : Fld
  imm : Word
  u : Bool
  deriving DecidableEq, Repr

/-- Format W (R90): a 64-bit immediate in a second word. -/
structure FmtW where
  guard : BitVec 8
  d : Fld
  u : Bool
  imm : DWord
  deriving DecidableEq, Repr

/-- Format B (R91): the branches. -/
structure FmtB where
  guard : BitVec 8
  off : Word
  a : Fld
  deriving DecidableEq, Repr

/-- Format M (R92): the memory instructions. Bit [15] is L, or SGN on ATOM and RED (R157). -/
structure FmtM where
  guard : BitVec 8
  d : Fld
  a : Fld
  b : Fld
  nud : BitVec 4
  l : Bool
  scope : BitVec 3
  ord : BitVec 2
  wid : BitVec 3
  fs : Bool
  deriving DecidableEq, Repr

/-- A block header (R73). -/
structure Header where
  len : BitVec 8
  wait : BitVec 12
  seta : BitVec 4
  setb : BitVec 4
  reconv : BitVec 16
  live : BitVec 7
  pf : BitVec 3
  uni : Bool
  deriving DecidableEq, Repr

/-- The incoming CXL snoops (R303). -/
inductive Snoop where
  | snpInv | snpData | snpCur | biSnpInv | biSnpData | biSnpCur
  deriving DecidableEq, Repr

/-- What the pool port reports (R289). -/
inductive PoolLoss where
  | linkDown
  | removed (dom : Nat)
  | viral
  deriving DecidableEq, Repr

/-- Where an uncorrectable error was found (R360). -/
inductive EccPlace where
  | data (sector : Nat)
  | block (blk : Nat)
  /-- a tag of an L1 (its core), an L2 slice or an MSC, by its key; a tree-cache entry of a router -/
  | tag (cache set way : Nat)
  /-- the tag of an entry of a cluster's instruction cache -/
  | itag (cluster entry : Nat)
  | tree (x y set way : Nat)
  | config
  deriving DecidableEq, Repr

/-- What one packet of a message from another package carries (R283). -/
inductive Payload where
  /-- Bytes of a peer's store or copy, for a physical address of this package. -/
  | write (pa : Nat) (bytes : List Byte)
  /-- A contribution to a window of this package: window, element, OP, TY, value, contributions merged. -/
  | contribution (win elem : Nat) (op : Nat) (ty : Nat) (value : BitVec 128) (count : Nat)
  /-- A change of a span, by its page (R257): of a page of the sender, 0 that this package loses it, 1 that it holds it S from
  now on; of a page of this package, 1 that the sender holds it S, 2 that it holds it M, 0 that it no longer holds it. -/
  | span (page grant : Nat)
  deriving DecidableEq, Repr

/-- One packet of a message from another package (R283): sender, message id, sequence number, packet count. -/
structure Packet where
  fid : Nat
  msg : Nat
  seq : Nat
  count : Nat
  payload : Payload
  deriving DecidableEq, Repr

/-- One packet of a remote message to a registered region (R300). A message's first packet carries its check. -/
structure RemoteMsg where
  conn : Nat
  seq : Nat
  region : Nat
  key : Word
  offset : Nat
  length : Nat
  write : Bool
  /-- which packet of the message, and of how many -/
  packet : Nat
  packets : Nat
  /-- the bytes this packet carries, and where in the message they lie -/
  at_ : Nat
  bytes : List Byte
  deriving DecidableEq, Repr

/-- One step of the machine: an instruction of program text, or a step of another agent. -/
inductive Instr where
  /-- BLOCK_HEADER (R75): A path arriving at a header word spends one issue on it: held lanes stay at the reconvergence point, the header is checked, WAIT is honoured, the reconvergence entry is made and SETA/SETB are adopted. -/
  | blockHeader (h : Header)
  /-- NOP (R95): The all-zero word takes one issue of its path and has no other effect. -/
  | nop
  /-- IADD (R102): Integer add of a and b, optionally saturating. -/
  | iadd (f : FmtA)
  /-- ISUB (R102): Integer subtract a minus b, optionally saturating. -/
  | isub (f : FmtA)
  /-- IADDC (R103): 32-bit add with carry in and carry out through a predicate. -/
  | iaddc (f : FmtA)
  /-- ISUBB (R103): 32-bit subtract with borrow in and borrow out through a predicate. -/
  | isubb (f : FmtA)
  /-- IABS (R102): Integer absolute value, optionally saturating. -/
  | iabs (f : FmtA)
  /-- INEG (R102): Integer negation, optionally saturating. -/
  | ineg (f : FmtA)
  /-- IMIN (R102): Signed or unsigned integer minimum. -/
  | imin (f : FmtA)
  /-- IMAX (R102): Signed or unsigned integer maximum. -/
  | imax (f : FmtA)
  /-- IADD64 (R102): 64-bit integer add, optionally saturating. -/
  | iadd64 (f : FmtA)
  /-- IMUL (R104): Low w bits of the integer product. -/
  | imul (f : FmtA)
  /-- IMULH (R104): High w bits of the signed or unsigned double-width product. -/
  | imulh (f : FmtA)
  /-- IMAD (R104): Low 32 bits of a times b plus c. -/
  | imad (f : FmtA)
  /-- IMADW (R104): 64-bit product of two 32-bit operands, signed or unsigned, plus a 64-bit addend. -/
  | imadw (signed : Bool) (f : FmtA)
  /-- ICMP (R105): Integer compare that writes a predicate. -/
  | icmp (f : FmtA)
  /-- SEL (R105): Selects a or b by a predicate, 32 or 64 bits. -/
  | sel (w64 : Bool) (f : FmtA)
  /-- AND (R106): Bitwise AND. -/
  | and (f : FmtA)
  /-- OR (R106): Bitwise OR. -/
  | or (f : FmtA)
  /-- XOR (R106): Bitwise XOR. -/
  | xor (f : FmtA)
  /-- NOT (R106): Bitwise complement. -/
  | not (f : FmtA)
  /-- TERN (R107): Three-input bitwise function given by an 8-bit truth table. -/
  | tern (f : FmtL)
  /-- SHL (R108): Logical shift left. -/
  | shl (f : FmtA)
  /-- SHR (R108): Logical shift right. -/
  | shr (f : FmtA)
  /-- SAR (R108): Arithmetic shift right. -/
  | sar (f : FmtA)
  /-- ROT (R108): Rotate left by s mod w. -/
  | rot (f : FmtA)
  /-- FSHL (R108): Funnel shift left of a:b, keeping the high word. -/
  | fshl (f : FmtA)
  /-- FSHR (R108): Funnel shift right of a:b, keeping the low word. -/
  | fshr (f : FmtA)
  /-- POPC (R109): Population count. -/
  | popc (f : FmtA)
  /-- CLZ (R109): Count of leading zeros. -/
  | clz (f : FmtA)
  /-- CTZ (R109): Count of trailing zeros. -/
  | ctz (f : FmtA)
  /-- BREV (R109): Bit reversal. -/
  | brev (f : FmtA)
  /-- BFX (R109): Bit-field extract, signed or unsigned. -/
  | bfx (f : FmtA)
  /-- BFI (R109): Bit-field insert of a into c. -/
  | bfi (f : FmtA)
  /-- PRMB (R109): Byte permute of b:a under the control of c. -/
  | prmb (f : FmtA)
  /-- LEA (R110): Forms a 64-bit address as a plus b shifted left. -/
  | lea (f : FmtA)
  /-- FADD (R111): Floating-point add with a single rounding. -/
  | fadd (f : FmtA)
  /-- FSUB (R111): Floating-point subtract with a single rounding. -/
  | fsub (f : FmtA)
  /-- FMUL (R111): Floating-point multiply with a single rounding. -/
  | fmul (f : FmtA)
  /-- FMIN (R112): Floating-point minimum with NaN and signed-zero rules. -/
  | fmin (f : FmtA)
  /-- FMAX (R112): Floating-point maximum with NaN and signed-zero rules. -/
  | fmax (f : FmtA)
  /-- FCMP (R113): Floating-point compare that writes a predicate. -/
  | fcmp (f : FmtA)
  /-- FSCALE (R111): Multiplies a by 2 to the power of an integer b. -/
  | fscale (f : FmtA)
  /-- FDIVF (R111): Correctly rounded FP32 division. -/
  | fdivf (f : FmtA)
  /-- PKADD (R111): Element-wise add of packed half-precision pairs. -/
  | pkadd (f : FmtA)
  /-- PKMUL (R111): Element-wise multiply of packed half-precision pairs. -/
  | pkmul (f : FmtA)
  /-- FFMA (R115): FP32 fused multiply-add with one rounding. -/
  | ffma (f : FmtT)
  /-- PKFMA (R115): Packed fused multiply-add on two FP16 or BF16 elements. -/
  | pkfma (bh : Bool) (f : FmtT)
  /-- FCLASS (R114): Writes a one-hot class mask of a floating-point operand. -/
  | fclass (f : FmtA)
  /-- FRND (R114): Rounds to an integral value in the operand's own format. -/
  | frnd (f : FmtA)
  /-- FGEXP (R114): Writes floor(log2 |a|) as a signed integer. -/
  | fgexp (f : FmtA)
  /-- FRCP (R114): Correctly rounded reciprocal. -/
  | frcp (f : FmtA)
  /-- FRSQ (R114): Correctly rounded reciprocal square root. -/
  | frsq (f : FmtA)
  /-- FSQRT (R114): Correctly rounded square root. -/
  | fsqrt (f : FmtA)
  /-- FEX2 (R114): Correctly rounded 2 to the power a. -/
  | fex2 (f : FmtA)
  /-- FLG2 (R114): Correctly rounded base-2 logarithm. -/
  | flg2 (f : FmtA)
  /-- FSIN (R114): Correctly rounded sine in radians. -/
  | fsin (f : FmtA)
  /-- FCOS (R114): Correctly rounded cosine in radians. -/
  | fcos (f : FmtA)
  /-- FTANH (R114): Correctly rounded hyperbolic tangent. -/
  | ftanh (f : FmtA)
  /-- FCVT (R117): Converts between floating-point formats with one rounding, stochastic rounding included. -/
  | fcvt (f : FmtC)
  /-- F2I (R117): Converts a float to a saturated integer. -/
  | f2i (f : FmtC)
  /-- I2F (R117): Converts an integer to a float with one rounding. -/
  | i2f (f : FmtC)
  /-- QBLK (R119): Quantises 32 FP32 values into one block with scale, extra value and error report. -/
  | qblk (f : FmtA)
  /-- DQBLK (R120): Decodes one block into 32 FP32 registers exactly. -/
  | dqblk (f : FmtA)
  /-- PACK8 (R121): Replaces one packed element of d with the low element of a. -/
  | pack8 (f : FmtA)
  /-- SPLIT8 (R121): Extracts one packed element of a, zero-extended. -/
  | split8 (f : FmtA)
  /-- PLOP (R129): Computes a predicate from two predicates by a 4-entry table. -/
  | plop (f : FmtA)
  /-- PMOV (R130): Moves n predicates to or from the bits of a vector register. -/
  | pmov (f : FmtA)
  /-- XSET (R131): Sets base and limit of an index register and clears its index. -/
  | xset (f : FmtA)
  /-- XIDX (R131): Sets the index of an index register. -/
  | xidx (f : FmtA)
  /-- XADD (R131): Adds to the index of an index register. -/
  | xadd (f : FmtA)
  /-- VTOS (R132): Copies the lowest participating lane's value into a uniform register, optionally checking agreement. -/
  | vtos (f : FmtA)
  /-- STOV (R133): Broadcasts a uniform register into a vector register of every executing lane. -/
  | stov (f : FmtA)
  /-- MOV (R101): Register-to-register move of 32 or 64 bits. -/
  | mov (f : FmtA)
  /-- MOVI (R101): Moves a 32-bit immediate into a register. -/
  | movi (f : FmtI)
  /-- MOVW (R101): Moves a 64-bit immediate from the second word into a pair or uniform register. -/
  | movw (f : FmtW)
  /-- MOV_SPECIAL (R51): Reads a special register into a vector or uniform register. -/
  | movSpecial (f : FmtA)
  /-- MOV_INDEX (R101): Reads an index register's 32-bit value into a register. -/
  | movIndex (f : FmtA)
  /-- QSWAP (R134): Exchanges values within a quad by XOR of the position. -/
  | qswap (f : FmtA)
  /-- QBCAST (R134): Broadcasts one quad position's value within each quad. -/
  | qbcast (f : FmtA)
  /-- GSHFL (R134): Reads a value from any lane of the group named per lane. -/
  | gshfl (f : FmtA)
  /-- VOTE (R135): All, any or uniform vote of a predicate over participating lanes. -/
  | vote (f : FmtA)
  /-- BALLOT (R135): Writes the 64-bit mask of participating lanes where a predicate holds. -/
  | ballot (f : FmtA)
  /-- MATCH (R135): Writes the mask of participating lanes holding the same value. -/
  | matchLanes (f : FmtA)
  /-- REDUX (R136): Reduces a value over participating lanes to every lane or a uniform register. -/
  | redux (f : FmtA)
  /-- ELECT (R135): Sets a predicate in the lowest participating lane only. -/
  | elect (f : FmtA)
  /-- BRA (R125): Branches executing lanes to a checked header at a word offset. -/
  | bra (f : FmtB)
  /-- BRX (R125): Branches each executing lane to the header address in a pair. -/
  | brx (f : FmtB)
  /-- CALL (R126): Branches to an offset target and writes the return address into a link pair. -/
  | call (f : FmtB)
  /-- CALLX (R126): Branches to the address in a pair and writes the return address into it. -/
  | callx (f : FmtB)
  /-- RET (R125): Returns to the address in a pair, as BRX. -/
  | ret (f : FmtB)
  /-- EXIT (R127): Turns executing lanes into helpers, leaving reconvergence entries and barrier counts, and ends the group when no ordinary lane remains. -/
  | exitLanes (f : FmtB)
  /-- YIELD (R128): Takes one issue and lets the group be swapped as if its quantum had expired. -/
  | yieldGroup (f : FmtB)
  /-- BAR (R137): Executing lanes arrive at a block barrier and wait. -/
  | bar (f : FmtA)
  /-- CBAR (R137): Executing lanes arrive at a cohort barrier and wait. -/
  | cbar (f : FmtA)
  /-- WAITC (R142): Each lane reads a word and completes when it satisfies a condition, otherwise waits for triggers. -/
  | waitc (f : FmtA)
  /-- SLEEP (R144): Executing lanes wait for at least b cycles of the core clock. -/
  | sleep (f : FmtA)
  /-- LD (R153): Loads one access per executing lane from a generic address. -/
  | ld (sx : Bool) (f : FmtM)
  /-- ST (R153): Stores one access per executing lane to a generic address. -/
  | st (f : FmtM)
  /-- LDV (R154): Loads a contiguous run from a uniform base, one element per lane. -/
  | ldv (f : FmtM)
  /-- STV (R154): Stores a contiguous run at a uniform base, one element per lane. -/
  | stv (f : FmtM)
  /-- SLD (R155): Loads from the block's local store by offset. -/
  | sld (sx : Bool) (f : FmtM)
  /-- SST (R155): Stores to the block's local store by offset. -/
  | sst (f : FmtM)
  /-- ATOM (R158): Performs an atomic operation on a location and returns the old value. -/
  | atom (far : Bool) (op : BitVec 5) (f : FmtM)
  /-- RED (R158): Performs an atomic reduction on a location with no result. -/
  | red (far : Bool) (op : BitVec 5) (f : FmtM)
  /-- PREF (R162): Prefetches a sector into L1 and L2 or L2 only, with a next-use class. -/
  | pref (f : FmtM)
  /-- CWB (R163): Writes dirty bytes of a range home on software-managed pages. -/
  | cwb (f : FmtM)
  /-- CINV (R163): Drops clean sectors of a range from the core's L1 and the die's L2. -/
  | cinv (f : FmtM)
  /-- CDISC (R163): Discards every sector of a range from every cache without write-back. -/
  | cdisc (f : FmtM)
  /-- IPF (R164): Fills instruction-cache lines of a range. -/
  | ipf (f : FmtM)
  /-- IPIN (R164): Fills and pins instruction-cache lines of a range for the context. -/
  | ipin (f : FmtM)
  /-- IUNPIN (R164): Releases the context's pins on instruction-cache lines of a range. -/
  | iunpin (f : FmtM)
  /-- FENCE (R165): Orders the lane's earlier and later accesses by kind and scope. -/
  | fence (f : FmtM)
  /-- TCFG (R177): Loads the tile configuration block and queues the clearing of all tiles. -/
  | tcfg (f : FmtA)
  /-- OMCLAIM (R178): Claims a range of operand slots and queues their zeroing. -/
  | omclaim (f : FmtA)
  /-- OMREL (R178): Frees a range of operand slots and queues their discard. -/
  | omrel (f : FmtA)
  /-- OMLD (R179): Queues the copy of an operand image from memory into a slot. -/
  | omld (isB : Bool) (f : FmtA)
  /-- OMST (R179): Queues the copy of a slot's image into memory. -/
  | omst (isB : Bool) (f : FmtA)
  /-- MMA (R180): Checks the format vote and parameter block and queues a matrix multiply-accumulate. -/
  | mma (f : FmtA)
  /-- ACZ (R183): Queues the zeroing of an accumulator tile. -/
  | acz (f : FmtA)
  /-- ACLD (R183): Queues the load of an accumulator tile from memory. -/
  | acld (f : FmtA)
  /-- ACST (R20): Queues the row-major store of an accumulator tile to memory. -/
  | acst (f : FmtA)
  /-- ACRD (R183): Reads one row of a tile into a vector register across lanes. -/
  | acrd (f : FmtA)
  /-- MSAVE (R184): Stops the block's MMA at a row boundary and writes the matrix save record. -/
  | msave (f : FmtA)
  /-- MRES (R185): Checks and restores a matrix save record and requeues the saved MMAs. -/
  | mres (f : FmtA)
  /-- CPY (R263): Each executing lane starts one byte copy, optionally posting a completion word. -/
  | cpy (f : FmtA)
  /-- CPYT (R272): Each executing lane starts one tensor copy described in memory. -/
  | cpyt (f : FmtA)
  /-- CSEAL (R268): Seals the lane's open copies into the next numbered batch. -/
  | cseal (f : FmtA)
  /-- CWAIT (R269): Waits for covered batches and reports one failed batch by a trap. -/
  | cwait (f : FmtA)
  /-- XRED (R280): Sends one reduction contribution per lane to consecutive window elements. -/
  | xred (f : FmtA)
  /-- SPRED (R280): Sends one reduction contribution per lane to an indexed window element. -/
  | spred (f : FmtA)
  /-- ESAVE (R275): Stops the block's outstanding copies and writes the engine save record. -/
  | esave (f : FmtA)
  /-- ERES (R275): Checks an engine save record and requeues its copies. -/
  | eres (f : FmtA)
  /-- ESC (R200): Escalates executing lanes' frames into a higher rung's ring and retires them. -/
  | esc (f : FmtA)
  /-- LDONE (R201): Stores each lane's result record by item id and marks the item done. -/
  | ldone (f : FmtA)
  /-- LQRY (R202): Writes the state of a rung's ring on the issuing core. -/
  | lqry (f : FmtA)
  /-- LDRAIN (R203): Forces a rung's ring on the core into FIRING. -/
  | ldrain (f : FmtA)
  /-- TRAP (R349): Raises the TRAP trap with the immediate as tval. -/
  | trap (f : FmtI)
  /-- BKPT (R349): Raises the BREAKPOINT trap. -/
  | bkpt (f : FmtI)
  /-- SYSR (R350): Reads a system register into a uniform register. -/
  | sysr (f : FmtI)
  /-- SYSW (R350): Writes a uniform register's value into a system register. -/
  | sysw (f : FmtI)
  /-- LAUNCH (R351): Checks a device-side launch descriptor, writes its status and enqueues it when accepted. -/
  | launch (f : FmtA)
  /-- LSTAT (R352): Writes a launch count of the issuing context into a uniform register. -/
  | lstat (f : FmtA)
  /-- RTE (R353): Returns lanes from a handler past or at the trapping word. -/
  | rte (f : FmtA)
  /-- MEMORY_OP_COMPLETE (R151): A long-latency memory operation completes, delivers its data and releases its flag. -/
  | memoryOpComplete (op : Nat) (lanes : DWord)
  /-- MATRIX_OP_BEGIN (R174): A queued matrix operation begins once earlier operations on its resources have completed. -/
  | matrixOpBegin (core op : Nat)
  /-- MATRIX_OP_COMPLETE (R181): A matrix operation finishes its rows or bytes and releases its flag. -/
  | matrixOpComplete (core op rows : Nat)
  /-- LEAVE_GRANT (R359): A waiting heavy operation is granted a power-leave token. -/
  | leaveGrant (die : Nat)
  /-- COPY_COMPLETE (R263): A copy writes its last payload byte, posts its completion word and releases its flag. -/
  | copyComplete (copy n : Nat)
  /-- COPY_FAULT (R270): A running copy meets a missing translation, sets its progress point and writes a fault entry. -/
  | copyFault (copy : Nat)
  /-- COPY_FAIL (R270): A running copy meets a failure that cannot resume and becomes FAILED. -/
  | copyFail (copy : Nat)
  /-- BARRIER_PHASE_COMPLETE (R138): When all expected lanes have arrived and no bound copy is pending the phase completes and releases its lanes. -/
  | barrierPhaseComplete (cohort : Bool) (blk bar : Nat)
  /-- WAITC_TRIGGER (R143): A write, atomic, payload or invalidation reaching a watched sector rechecks its waiting lanes. -/
  | waitcTrigger (sector : Nat)
  /-- WAITC_POLL (R143): A lane without a monitor rechecks its word every 256 cycles. -/
  | waitcPoll (blk grp lane : Nat)
  /-- SLEEP_EXPIRE (R144): A sleeping lane's cycle count runs out and it becomes selectable. -/
  | sleepExpire (blk grp lane : Nat)
  /-- QUANTUM_EXPIRE (R37): An active group reaches 64 issues and may be swapped for a ready pending group. -/
  | quantumExpire (blk grp : Nat)
  /-- GROUP_SWAP (R37): An active group that cannot issue is exchanged with the longest-waiting ready pending group. -/
  | groupSwap (blk grp : Nat)
  /-- ICACHE_FILL (R40): An instruction-cache miss fill arrives and the frozen sequencer may issue again. -/
  | icacheFill (blk grp : Nat)
  /-- RING_HOLD_EXPIRE (R190): A ring's oldest frame has waited HOLD cycles and the ring fires. -/
  | ringHoldExpire (core launch rung : Nat)
  /-- PACKED_GROUP_START (R196): A firing ring finds room and starts a packed group from its oldest frames. -/
  | packedGroupStart (core launch rung : Nat)
  /-- LADDER_DONE_WRITE (R191): Once every item is done the ladder completion word is written as a release. -/
  | ladderDoneWrite (launch : Nat)
  /-- OWNER_IDLE_EXPIRE (R221): An owner-table entry's idle count reaches 65,536 and its lines become orphans. -/
  | ownerIdleExpire (cache owner : Nat)
  /-- LAUNCH_RECORD (R334): The command processor reads a submitted launch record, checks it and raises HEAD. -/
  | launchRecord (asid queue : Nat)
  /-- DEPENDENCE_MET (R336): A waiting launch's dependence words reach their values and it becomes READY. -/
  | dependenceMet (launch : Nat)
  /-- COHORT_PLACE (R337): The dispatcher places a cohort's blocks on cores of one cluster. -/
  | cohortPlace (launch : Nat) (cores : List Nat)
  /-- BLOCK_START (R226): A block whose staging has finished or whose fault is resolved begins issuing. -/
  | blockStart (blk : Nat)
  /-- PRIORITY_AGE (R337): A launch waiting 2^20 hub cycles without placement gains one step of effective priority. -/
  | priorityAge (launch : Nat)
  /-- BLOCK_PREEMPT (R339): After a higher-priority launch finds no room for 2^16 hub cycles a block is saved to a context-save frame. -/
  | blockPreempt (blk : Nat)
  /-- BLOCK_RESTORE (R339): A saved block is reloaded onto a core of its cluster with its matrix and engine state. -/
  | blockRestore (blk core : Nat)
  /-- BLOCK_END (R26): A block whose groups have ended and whose copies and matrix work are done ends and frees its resources. -/
  | blockEnd (blk : Nat)
  /-- LAUNCH_COMPLETE (R335): When every block and copy of a launch has ended its completion word is written. -/
  | launchComplete (launch : Nat)
  /-- TEARDOWN_REPORT (R338): Once nothing of a torn-down context remains, the hub writes the teardown report and clears BUSY. -/
  | teardownReport (asid : Nat)
  /-- FAULT_ENTRY_APPEND (R341): The hub appends a held fault-queue entry, raises TAIL and signals MSI-X vector 0. -/
  | faultEntryAppend
  /-- RESOLVE_RECORD (R308): A write to RSLV resolves fault entries of one page by RETRY or FAIL. -/
  | resolveRecord (rslv : DWord)
  /-- FQHEAD_WRITE (R341): Host software advances FQHEAD and frees slots for held entries. -/
  | fqheadWrite (head : DWord)
  /-- TINV_PAGE (R321): TINV KIND 0 removes one page's translations, L1 lines and instruction lines. -/
  | tinvPage (tinv : DWord)
  /-- TINV_ASID (R321): TINV KIND 1 removes every translation of one ASID. -/
  | tinvAsid (tinv : DWord)
  /-- TINV_ALL (R321): TINV KIND 2 removes every translation. -/
  | tinvAll (tinv : DWord)
  /-- MIGRATION_ACTIVATE (R325): Host software sets a migration entry's STATE to 1 and the hub checks and activates it. -/
  | migrationActivate (n : Nat)
  /-- MIGRATION_PULL (R326): A line of a migrating page is pulled to the new frame by a first touch or by the engine. -/
  | migrationPull (n line : Nat)
  /-- KRES_WRITE (R317): A write to a KRES range register or KRESLOCK takes effect before lock and is ignored and counted after. -/
  | kresWrite (reg : Nat) (v : DWord)
  /-- COUNTER_CLEAR (R364): A write of 0 clears a performance-event counter. -/
  | counterClear (die ev : Nat)
  /-- REGISTER_WRITE (R341): A write to a host register without its own row, such as FQBASE, updates it or is ignored. -/
  | registerWrite (off : Nat) (v : DWord)
  /-- FENCEOUT (R256): Removes a coherence agent, clearing links, writing back or poisoning its sectors and losing its domain. -/
  | fenceout (agent : DWord)
  /-- READMIT (R292): Re-admits a fenced agent and raises its incarnation on every die. -/
  | readmit (agent : DWord)
  /-- POOLLOSE (R289): Declares a pool domain lost. -/
  | poollose (dom : DWord)
  /-- POOLSET (R304): Maps or clears a pool HPA range to a pool domain. -/
  | poolset (range base size dom : DWord)
  /-- HALT (R293): Stops every core of a compute die at an instruction boundary in DEBUG_HOLD. -/
  | halt (die : DWord)
  /-- RESUME (R293): Ends a die's debugger hold and restarts suspended timers. -/
  | resume (die : DWord)
  /-- FIDSET (R297): Sets the package's own fabric id. -/
  | fidset (fid : DWord)
  /-- ROUTESET (R297): Writes one route-table entry's link mask. -/
  | routeset (fid mask : DWord)
  /-- WINSET (R278): Installs a reduction window with its count and error bit cleared. -/
  | winset (win desc : DWord)
  /-- REGSET (R301): Registers a remote region and makes it VALID. -/
  | regset (region entry : DWord)
  /-- REVOKE (R301): Starts revocation of a remote region. -/
  | revoke (region cword : DWord)
  /-- SCRUB (R287): Writes zero to every sector of a physical range and clears its poison. -/
  | scrub (base len : DWord)
  /-- TCLIMIT (R207): Sets or clears the two-entry tree-cache limit of one router. -/
  | tclimit (x y on : DWord)
  /-- REGTABLE (R299): Sets the host-memory region and connection tables of the remote access unit. -/
  | regtable (rbase rcount cbase ccount : DWord)
  /-- CTXCREATE (R329): Creates a context from a context descriptor. -/
  | ctxcreate (desc : DWord)
  /-- CTXTEAR (R338): Tears a context down from the cycle the dispatcher receives it. -/
  | ctxtear (asid report : DWord)
  /-- ATTEST (R363): Writes a signed quote of the nonce, measurements, version and service level. -/
  | attest (nonce out : DWord)
  /-- RD (R247): A coherence read travels toward the home, is caught by the tree and is steered to a holder. -/
  | rd (m : Nat)
  /-- OWN (R248): A request for ownership reaches the root, which invalidates holders and grants M. -/
  | own (m : Nat)
  /-- DATA (R247): Data with a grant travels to the requester, grafting links along its route. -/
  | data (m : Nat)
  /-- NH (R247): A not-held answer makes the steering router try its next untried link. -/
  | nh (m : Nat)
  /-- INV (R248): An invalidation with a sector mask travels down every link and holders drop masked sectors. -/
  | inv (m : Nat)
  /-- ACK (R248): Invalidation acknowledgements merge upward, carrying dirty sectors and clearing pruned links. -/
  | ack (m : Nat)
  /-- PRUNE (R211): Prune-down travels down an evicted subtree and every router and holder drops the line. -/
  | prune (m : Nat)
  /-- PACK (R250): Prune acknowledgements merge back to the evicting router. -/
  | pack (m : Nat)
  /-- UNLINK (R211): A router unlinks from its parent, which frees its entry when its mask empties. -/
  | unlink (m : Nat)
  /-- WB (R250): A holder writes a dirty sector back to the home without a tree entry. -/
  | wb (m : Nat)
  /-- WBA (R250): The home acknowledges a write-back to its holder. -/
  | wba (m : Nat)
  /-- REFUSE (R212): A refused requester resends, becoming persistent after 8 refusals. -/
  | refuse (m : Nat)
  /-- MALFORMED_MESSAGE (R246): A message of an unlisted TYPE is dropped and counted by the first router. -/
  | malformedMessage (typ : BitVec 5) (x y : Nat)
  /-- CXL_SNOOP (R303): An incoming CXL snoop is served at the root and the hub answers invalid. -/
  | cxlSnoop (k : Snoop) (sectors : List Nat)
  /-- SLICE_RETENTION (R254): A die's power controller puts an idle L2 slice's data array into retention. -/
  | sliceRetention (die slice : Nat)
  /-- AGENT_SILENT (R255): A request outstanding for 2^26 cycles writes an agent-silent record. -/
  | agentSilent (req : Nat)
  /-- POOL_SILENT (R289): A pool request unanswered for 2^27 hub cycles writes a pool-silent record. -/
  | poolSilent (req : Nat)
  /-- POOL_PORT_LOSS (R289): The pool port reports link down, device removal or viral, losing pool domains. -/
  | poolPortLoss (c : PoolLoss)
  /-- LINK_DOWN (R297): A Prawell link fails retraining, its flits are replayed elsewhere and a record is written. -/
  | linkDown (link : Nat)
  /-- LINK_UP (R298): A link of a route returns and held messages go on. -/
  | linkUp (link : Nat)
  /-- PRAWELL_PACKET (R283): A packet of an inter-package message arrives and is applied once. -/
  | prawellPacket (p : Packet)
  /-- CONTRIBUTION_APPLY (R282): The destination hub applies a reduction contribution to its window and counts it. -/
  | contributionApply (c : Nat)
  /-- REMOTE_MESSAGE (R300): A remote read or write to a registered region is checked and performed. -/
  | remoteMessage (m : RemoteMsg)
  /-- REMOTE_WRITE_TIMEOUT (R300): A remote write whose packets stop for 2^27 hub cycles is discarded whole. -/
  | remoteWriteTimeout (conn seq : Nat)
  /-- RESET (R358): At reset the security block derives the identity key, measures, and verifies and boots a configuration record. -/
  | reset
  /-- DIE_BRINGUP_DONE (R355): A die passes or fails bring-up. -/
  | dieBringupDone (agent : Nat) (passed : Bool)
  /-- CHANNEL_TRAINED (R355): An HBM channel completes training at half or full rate. -/
  | channelTrained (ch : Nat) (full ok : Bool)
  /-- SERVICE_LEVEL_STEP (R355): The device moves up one service level and signals MSI-X vector 1. -/
  | serviceLevelStep
  /-- ECC_CORRECTED (R360): A corrected soft error is counted. -/
  | eccCorrected (die : Nat)
  /-- ECC_UNCORRECTABLE (R360): An uncorrectable error poisons sectors, stops groups or halts placement. -/
  | eccUncorrectable (at_ : EccPlace)
  /-- IDE_KEY_EXCHANGE (R363): IDE keys for a port are exchanged over the DOE mailbox. -/
  | ideKeyExchange (pool : Bool) (key : DWord)
  /-- CXL_MEM_ACCESS (R303): A host read or write to device HBM over CXL.mem arrives at the hub and is served and ordered at the line's root. -/
  | cxlMemAccess (pa : Nat) (write : Option (List Byte)) (n : Nat)
  /-- CXL_RESPONSE (R303): The host or a pool device answers the hub's outward CXL read, ownership request or back-invalidation snoop, and the hub completes the inward grant. `data` holds the bytes of the sectors the answer carries. -/
  | cxlResponse (req : Nat) (exclusive poisoned : Bool) (data : List Byte)
  /-- REMOTE_MESSAGE_FINISH (R301): A remote message's accesses are performed, INFLIGHT falls by one, and a REVOKING region becomes FREE and has its completion word written. -/
  | remoteMessageFinish (id : Nat)
  /-- FLIT_CRC_FAIL (R297): A flit that fails its CRC check on a Prawell link is replayed. -/
  | flitCrcFail (link : Nat)
  deriving DecidableEq, Repr

/-- What moves next (the model's schedule, log entry 10): a core gives its next issue slot, the clocks advance by
one arithmetic cycle, or another agent takes a step of the opcode table. -/
inductive Action where
  | slot (core : Nat)
  | tick
  | event (i : Instr)
  deriving DecidableEq, Repr, Inhabited

end Sys2Proof
end

