-- ==== Sys2Proof/Machine/Legal.lean ====
section
/-!
DEFINITION. Which field values each instruction accepts: the decode checks of R96 that the word alone decides (R43–R45,
R74, R83–R92 and each instruction's own field rules), and the registers each instruction names. The checks that need
the block (the reservation of R43, the position rules of R77 and R126) are made when the word issues.
-/
namespace Sys2Proof

/-- What a register field names (R83). -/
inductive Opd where
  /-- the field must be zero -/
  | zero
  /-- one vector register -/
  | r32
  /-- an even-odd pair (R44) -/
  | r64
  /-- four registers from a multiple of 4 (R92) -/
  | quad
  /-- n registers in a row -/
  | range (n : Nat)
  /-- one uniform register -/
  | ureg
  /-- n uniform registers in a row -/
  | urange (n : Nat)
  /-- n predicates in a row -/
  | pred (n : Nat)
  /-- a number below n: a slot, a tile, an index register, a special register -/
  | below (n : Nat)
  /-- not a register field -/
  | any
  deriving DecidableEq, Repr

/-- One field of an instruction, what it names, and whether XS makes it an indexed operand (R85). -/
structure Use where
  kind : Opd
  fld : Fld
  idx : Bool
  deriving DecidableEq, Repr

/-- What bit [6] of a Format A word is (R84, R86). -/
inductive Bit6 where
  | u | fs | zero
  deriving DecidableEq, Repr

/-- Whether BI may, must or must not be set (R84). -/
inductive Imm where
  | no | may | must
  deriving DecidableEq, Repr

/-- What the word-only checks of one instruction look at. -/
structure Chk where
  guard : BitVec 8
  uses : List Use
  ok : Bool
  deriving DecidableEq, Repr

/-- A guard field that names a predicate or no guard (R45). -/
def guardOk (g : BitVec 8) : Bool :=
  decide ((g.extractLsb' 0 7).toNat ≤ 95) || g == 0x7F#8

/-- A field value that its operand kind accepts (R44, R83, R92, R99). An indexed field is checked under R48. -/
def Use.ok (o : Use) : Bool :=
  let n := o.fld.toNat
  if o.idx then (match o.kind with | .r32 | .r64 => true | _ => false)
  else match o.kind with
    | .zero => n == 0
    | .r32 => true
    | .r64 => n % 2 == 0
    | .quad => n % 4 == 0
    | .range k => decide (n + k ≤ 1024)
    | .ureg => decide (n < 128)
    | .urange k => decide (n + k ≤ 128)
    | .pred k => decide (n + k ≤ 96)
    | .below k => decide (n < k)
    | .any => true

/-- What a field names in the uniform form (R86, R99). -/
def Opd.uniform : Opd → Opd
  | .r32 => .ureg
  | .r64 => .ureg
  | .quad => .ureg
  | .range n => .urange n
  | o => o

namespace FmtA
/-- TY of MD (R87). -/
def ty (f : FmtA) : Nat := (f.c.extractLsb' 6 4).toNat
/-- RM or CC of MD (R87). -/
def rm (f : FmtA) : Nat := (f.c.extractLsb' 3 3).toNat
/-- FTZ of MD (R87). -/
def ftz (f : FmtA) : Bool := f.c.getLsbD 2
/-- SAT of MD (R87). -/
def sat (f : FmtA) : Bool := f.c.getLsbD 1
/-- The immediate sext(B, 10) (R84). -/
def imm (f : FmtA) : Int := f.b.toInt
end FmtA

namespace FmtC
/-- TYD of the conversions (R89). -/
def tyd (f : FmtC) : Nat := (f.f.c.extractLsb' 5 5).toNat
/-- RM of the conversions (R89). -/
def rm (f : FmtC) : Nat := (f.f.c.extractLsb' 2 3).toNat
/-- FTZ of the conversions (R89). -/
def ftz (f : FmtC) : Bool := f.f.c.getLsbD 1
/-- SAT of the conversions (R89). -/
def sat (f : FmtC) : Bool := f.f.c.getLsbD 0
end FmtC

/-- The checks of a Format A word: its operand kinds, BI, XS and bit [6] (R84–R86), beside the instruction's own. -/
def chkA (f : FmtA) (b6 : Bit6) (d a b c : Opd) (imm : Imm) (xs : Bool) (ok : Bool) : Chk :=
  let uni := f.u && b6 == .u
  let conv := fun (o : Opd) => if uni then o.uniform else o
  { guard := f.guard
    uses :=
      [⟨conv d, f.d, f.xs == 3#2⟩, ⟨conv a, f.a, f.xs == 1#2⟩] ++
      (if f.bi then [] else [⟨conv b, f.b, f.xs == 2#2⟩]) ++ [⟨conv c, f.c, false⟩]
    ok := ok &&
      (match imm with | .no => !f.bi | .may => true | .must => f.bi) &&
      (f.xs == 0#2 || (xs && !uni && !(f.xs == 2#2 && f.bi))) &&
      !(f.u && b6 == .zero) }

/-- The register kind of a type of w bits (R44). -/
def rw (w : Nat) : Opd := if w == 64 then .r64 else .r32

/-- The width of a type code (R87). -/
def tyWidth (ty : Nat) : Nat := if ty == 4 || ty == 8 || ty == 10 then 64 else 32

/-- MD with a type of a list and no rounding, flushing or saturation beyond what is said (R87, R100). -/
def mdOk (f : FmtA) (tys : List Nat) (rmMax : Nat) (ftz sat : Bool) : Bool :=
  tys.contains f.ty && decide (f.rm ≤ rmMax) && (ftz || !f.ftz) && (sat || !f.sat) && !f.c.getLsbD 0

/-- FTZ is accepted with `.f32` alone (R60, R111). -/
def ftz32 (f : FmtA) : Bool := f.ty == 11

/-- Two sources of the type's width (R100). -/
def chkTyped (f : FmtA) (imm : Imm) (tys : List Nat) (sat : Bool) : Chk :=
  let r := rw (tyWidth f.ty)
  chkA f .u r r r .any imm true (mdOk f tys 0 false sat)

/-- One source of the type's width (R100). -/
def chkTyped1 (f : FmtA) (tys : List Nat) (sat : Bool) : Chk :=
  let r := rw (tyWidth f.ty)
  chkA f .u r r .zero .any .no true (mdOk f tys 0 false sat)

/-- Three sources (R89). -/
def chkThree (f : FmtA) (d c : Opd) : Chk := chkA f .u d .r32 .r32 c .no true true

/-- Two floating-point sources (R111). -/
def chkFp2 (f : FmtA) (tys : List Nat) (imm : Imm) : Chk :=
  chkA f .u .r32 .r32 .r32 .any imm true (mdOk f tys 3 (ftz32 f) true)

/-- One floating-point source (R114). -/
def chkFp1 (f : FmtA) (tys : List Nat) (rmMax : Nat) (sat : Bool) : Chk :=
  chkA f .u .r32 .r32 .zero .any .no true (mdOk f tys rmMax (ftz32 f) sat)

/-- An instruction of majors 0x1C–0x26 without a uniform form (R122). -/
def chkZ (f : FmtA) (d a b : Opd) (imm : Imm) (xs ok : Bool) : Chk := chkA f .zero d a b .any imm xs ok

/-- The six float types and the eight integer types of the conversions (R116). -/
def floatTys : List Nat := [11, 12, 13, 16, 17, 18]
def intTys : List Nat := [1, 2, 3, 4, 5, 6, 7, 8]

/-- The checks of a Format C word (R89, R116). -/
def chkC (f : FmtC) (srcs dsts : List Nat) (ftz sat : Bool) : Chk :=
  let sr := f.rm == 4
  chkA f.f .u (rw (tyWidth f.tyd)) (rw (tyWidth f.src.toNat)) (if sr then .r32 else .zero) .any .no true
    (srcs.contains f.src.toNat && dsts.contains f.tyd && decide (f.rm ≤ 4) && (ftz || !f.ftz) && (sat || !f.sat))

/-- The checks of a Format T word (R89). -/
def chkT (f : FmtT) (ftz : Bool) : Chk :=
  chkA f.f .u .r32 .r32 .r32 .r32 .no true (decide (f.rm.toNat ≤ 3) && (ftz || !f.ftz))

/-- The checks of a Format B word (R91, R124). -/
def chkB (f : FmtB) (a : Opd) (off : Bool) : Chk :=
  { guard := f.guard, uses := [⟨a, f.a, false⟩], ok := off || f.off == 0#32 }

/-- The data registers of an access of width code WID (R146). -/
def widOpd (wid : Nat) : Opd := if wid == 3 then .r64 else if wid == 4 then .quad else .r32

/-- The checks of a Format M word (R92, R148). -/
def chkM (f : FmtM) (d a b : Opd) (ords : List Nat) (scopes : List Nat) (nud last : Bool) (wids : List Nat)
    (ok : Bool) : Chk :=
  { guard := f.guard
    uses := [⟨d, f.d, false⟩, ⟨a, f.a, false⟩, ⟨b, f.b, false⟩]
    ok := ok && ords.contains f.ord.toNat && scopes.contains f.scope.toNat && (nud || f.nud == 0#4) &&
      (last || !f.l) && wids.contains f.wid.toNat }

/-- The scopes of R92. -/
def allScopes : List Nat := [0, 1, 2, 3, 4]

/-- A load or store: operand kinds, orders, and the fields of R148. -/
def chkLdSt (f : FmtM) (a : Opd) (load loc : Bool) (sx : Bool) : Chk :=
  chkM f (widOpd f.wid.toNat) a .any (if load then [0, 1] else [0, 2]) allScopes (!loc) (load && !loc) [0, 1, 2, 3, 4]
    (!sx || decide (f.wid.toNat ≤ 1))

/-- The widths and the SGN bit an atomic operation accepts (R158). -/
def atomOk (op : Nat) (wid : Nat) (sgn : Bool) : Bool :=
  decide (op ≤ 10) && (if op == 10 then wid == 4 else wid == 2 || wid == 3) && (!sgn || op == 1 || op == 2)

/-- ATOM (R148, R157–R160). -/
def chkAtom (far : Bool) (op : BitVec 5) (f : FmtM) : Chk :=
  let w := f.wid.toNat
  let b : Opd := if op.toNat == 10 then .r32
    else if op.toNat == 7 then (if w == 3 then .quad else .range 2) else widOpd w
  chkM f (widOpd w) .r64 b [0, 1, 2, 3] (if far then [3, 4] else allScopes) (!far) true [2, 3, 4]
    (atomOk op.toNat w f.l)

/-- RED (R148, R157–R160). -/
def chkRed (far : Bool) (op : BitVec 5) (f : FmtM) : Chk :=
  let w := f.wid.toNat
  chkM f (if op.toNat == 10 then .r32 else widOpd w) .r64 .any [0, 2] (if far then [3, 4] else allScopes) (!far) true
    [2, 3, 4] (atomOk op.toNat w f.l && !(op.toNat == 6 || op.toNat == 7))

/-- A cache or instruction-cache range form (R148, R163, R164). -/
def chkRange (f : FmtM) : Chk := chkM f .zero .r64 .r32 [0] [3] false false [0] true

/-- C of a matrix instruction that reaches memory: NUD, and L where it is accepted (R175). -/
def matC (f : FmtA) (last : Bool) : Bool := f.c.extractLsb' 0 5 == 0#5 && (last || !f.c.getLsbD 5)

/-- A matrix or engine instruction: bit [6] is FS, no indexed operand (R172, R275). -/
def chkF (f : FmtA) (d a b : Opd) (imm : Imm) (ok : Bool) : Chk := chkA f .fs d a b .any imm false ok

/-- The system register numbers of R52. -/
def sysNumbers : List Nat := [0x000, 0x001, 0x002, 0x003, 0x010, 0x011, 0x020, 0x021]

/-- The types a reduction operation accepts (R278). -/
def redTypes (op : Nat) : List Nat :=
  if op ≤ 2 then [3, 4, 7, 8] else if op ≤ 5 then [7, 8] else if op == 10 then [11] else []

/-- XRED and SPRED (R279): TY in C[9:6], OP in C[5:2]. -/
def chkRedw (f : FmtA) (imm : Imm) : Chk :=
  chkF f (rw (tyWidth f.ty)) .r32 .r32 imm
    (f.c.extractLsb' 0 2 == 0#2 && (redTypes (f.c.extractLsb' 2 4).toNat).contains f.ty)

/-- The registers QBLK and DQBLK give a block (R118). -/
def blkRegs (fmt : Nat) : Nat := if fmt == 1 then 5 else 9

/-- The word-only checks of an instruction of program text; none for a header and for a step of another agent. -/
def Instr.chk : Instr → Option Chk
  | .nop => some { guard := 0x7F#8, uses := [], ok := true }
  | .iadd f => some (chkTyped f .may [3, 7] true)
  | .isub f => some (chkTyped f .may [3, 4, 7, 8] true)
  | .iaddc f => some (chkA f .u .r32 .r32 .r32 (.pred 1) .may true true)
  | .isubb f => some (chkA f .u .r32 .r32 .r32 (.pred 1) .may true true)
  | .iabs f => some (chkTyped1 f [3, 4] true)
  | .ineg f => some (chkTyped1 f [3, 4] true)
  | .imin f => some (chkTyped f .may [3, 4, 7, 8] false)
  | .imax f => some (chkTyped f .may [3, 4, 7, 8] false)
  | .iadd64 f => some (chkTyped f .may [4, 8] true)
  | .imul f => some (chkTyped f .may [3, 4, 7, 8] false)
  | .imulh f => some (chkTyped f .may [3, 4, 7, 8] false)
  | .imad f => some (chkThree f .r32 .r32)
  | .imadw _ f => some (chkThree f .r64 .r64)
  | .icmp f =>
    let r := rw (tyWidth f.ty)
    some (chkA f .u (.pred 1) r r .any .may true (mdOk f [3, 4, 7, 8] 5 false false))
  | .sel w64 f =>
    let r : Opd := if w64 then .r64 else .r32
    some (chkA f .u r r r .any .may true (decide ((f.c.extractLsb' 0 7).toNat < 96) && f.c.extractLsb' 7 2 == 0#2))
  | .and f => some (chkTyped f .may [9, 10] false)
  | .or f => some (chkTyped f .may [9, 10] false)
  | .xor f => some (chkTyped f .may [9, 10] false)
  | .not f => some (chkTyped1 f [9, 10] false)
  | .tern f =>
    let r : Opd := if f.u then .ureg else .r32
    some { guard := f.guard, uses := [⟨r, f.d, false⟩, ⟨r, f.a, false⟩, ⟨r, f.b, false⟩, ⟨r, f.c, false⟩], ok := true }
  | .shl f | .shr f | .sar f | .rot f =>
    let r := rw (tyWidth f.ty)
    some (chkA f .u r r .r32 .any .may true (mdOk f [9, 10] 0 false false))
  | .fshl f => some (chkThree f .r32 .r32)
  | .fshr f => some (chkThree f .r32 .r32)
  | .popc f | .clz f | .ctz f =>
    some (chkA f .u .r32 (rw (tyWidth f.ty)) .zero .any .no true (mdOk f [9, 10] 0 false false))
  | .brev f => some (chkTyped1 f [9, 10] false)
  | .bfx f => some (chkA f .u .r32 .r32 .r32 .any .no true (mdOk f [3, 7] 0 false false))
  | .bfi f => some (chkThree f .r32 .r32)
  | .prmb f => some (chkThree f .r32 .r32)
  | .lea f => some (chkA f .u .r64 .r64 .r32 .any .may true (mdOk f [3, 7] 7 false false))
  | .fadd f | .fsub f | .fmul f => some (chkFp2 f [11, 12, 13] .no)
  | .fmin f | .fmax f =>
    some (chkA f .u .r32 .r32 .r32 .any .no true (mdOk f [11, 12, 13] 0 (ftz32 f) false))
  | .fcmp f => some (chkA f .u (.pred 1) .r32 .r32 .any .no true (mdOk f [11, 12, 13] 7 (ftz32 f) false))
  | .fscale f => some (chkFp2 f [11, 12, 13] .may)
  | .fdivf f => some (chkFp2 f [11] .no)
  | .pkadd f | .pkmul f => some (chkFp2 f [14, 15] .no)
  | .ffma f => some (chkT f true)
  | .pkfma _ f => some (chkT f false)
  | .fclass f => some (chkFp1 f [11, 12, 13] 0 false)
  | .frnd f => some (chkFp1 f [11, 12, 13] 3 false)
  | .fgexp f => some (chkFp1 f [11, 12, 13] 0 false)
  | .frcp f | .frsq f | .fsqrt f | .fex2 f | .flg2 f | .fsin f | .fcos f | .ftanh f => some (chkFp1 f [11] 3 true)
  | .fcvt f => some (chkC f floatTys floatTys (f.src == 11#5 || f.tyd == 11) true)
  | .f2i f => some (chkC f floatTys intTys (f.src == 11#5) false)
  | .i2f f => some (chkC f intTys floatTys false true)
  | .qblk f =>
    some (chkA f .u (.range (blkRegs f.ty)) (.range 32) (if f.rm == 4 then .r32 else .zero) .any .no false
      (mdOk f [1, 2] 4 false false))
  | .dqblk f =>
    some (chkA f .u (.range 32) (.range (blkRegs f.ty)) .zero .any .no false (mdOk f [1, 2] 0 false false))
  | .pack8 f | .split8 f => some (chkA f .u .r32 .r32 .r32 .any .may true (mdOk f [1, 2] 0 false false))
  | .plop f => some (chkZ f (.pred 1) (.pred 1) (.pred 1) .no false (f.c.extractLsb' 4 6 == 0#6))
  | .pmov f =>
    let n := (f.c.extractLsb' 1 5).toNat + 1
    some (chkZ f (if f.c.getLsbD 0 then .pred n else .r32) (if f.c.getLsbD 0 then .r32 else .pred n) .zero .no false
      (f.c.extractLsb' 6 4 == 0#4))
  | .xset f => some (chkZ f (.below 8) .r32 .r32 .may false (f.c == 0#10))
  | .xidx f | .xadd f =>
    some (chkZ f (.below 8) (if f.bi then .zero else .r32) .zero .may false (f.c == 0#10))
  | .vtos f => some (chkZ f .ureg (rw (tyWidth f.ty)) .zero .no (f.xs == 1#2) (mdOk f [9, 10] 0 false true))
  | .stov f => some (chkZ f (rw (tyWidth f.ty)) .ureg .zero .no (f.xs == 3#2) (mdOk f [9, 10] 0 false false))
  | .mov f => some (chkTyped1 f [9, 10] false)
  | .movi f =>
    some { guard := f.guard, uses := [⟨if f.u then .ureg else .r32, f.d, false⟩], ok := true }
  | .movw f =>
    some { guard := f.guard, uses := [⟨if f.u then .ureg else .r64, f.d, false⟩], ok := true }
  | .movSpecial f =>
    some (chkA f .u (rw (tyWidth f.ty)) (.below 15) .zero .any .no true
      (mdOk f (if f.u then [10] else [9, 10]) 0 false false))
  | .movIndex f =>
    some (chkA f .u .r32 (.below 8) .zero .any .no true (mdOk f (if f.u then [10] else [9]) 0 false false))
  | .qswap f | .qbcast f =>
    let r := rw (tyWidth f.ty)
    some (chkZ f r r .any .must false (mdOk f [9, 10] 0 false false && decide (f.b.toNat ≤ 3)))
  | .gshfl f =>
    let r := rw (tyWidth f.ty)
    some (chkZ f r r .r32 .may false (mdOk f [9, 10] 0 false false))
  | .vote f => some (chkZ f (.pred 1) (.pred 1) .zero .no false (mdOk f [0] 2 false false))
  | .ballot f => some (chkZ f .r64 (.pred 1) .zero .no false (f.c == 0#10))
  | .matchLanes f => some (chkZ f .r64 (rw (tyWidth f.ty)) .zero .no false (mdOk f [9, 10] 0 false false))
  | .redux f =>
    let r := rw (tyWidth f.ty)
    some (chkZ f (if f.ftz then .ureg else r) r .zero .no false
      (mdOk f (if f.rm ≤ 2 then [3, 4, 7, 8, 11] else [9, 10]) 5 true false))
  | .elect f => some (chkZ f (.pred 1) .zero .zero .no false (f.c == 0#10))
  | .bra f => some (chkB f .zero true)
  | .brx f => some (chkB f .r64 false)
  | .call f => some (chkB f .r64 true)
  | .callx f => some (chkB f .r64 false)
  | .ret f => some (chkB f .r64 false)
  | .exitLanes f => some (chkB f .zero false)
  | .yieldGroup f => some (chkB f .zero false)
  | .bar f => some (chkZ f .zero .zero .any .must false (f.c == 0#10 && decide (f.b.toNat ≤ 15)))
  | .cbar f => some (chkZ f .zero .zero .any .must false (f.c == 0#10 && decide (f.b.toNat ≤ 3)))
  | .waitc f =>
    let r := rw (tyWidth f.ty)
    some (chkZ f r .r64 r .may false (mdOk f [3, 4, 7, 8] 5 true true))
  | .sleep f => some (chkZ f .zero .zero .r32 .may false (f.c == 0#10))
  | .ld sx f => some (chkLdSt f .r64 true false sx)
  | .st f => some (chkLdSt f .r64 false false false)
  | .ldv f => some (chkLdSt f .ureg true false false)
  | .stv f => some (chkLdSt f .ureg false false false)
  | .sld sx f => some (chkLdSt f .r32 true true sx)
  | .sst f => some (chkLdSt f .r32 false true false)
  | .atom far op f => some (chkAtom far op f)
  | .red far op f => some (chkRed far op f)
  | .pref f => some (chkM f (.below 2) .r64 .zero [0] [3] true false [0] true)
  | .cwb f | .cinv f | .cdisc f | .ipf f | .ipin f | .iunpin f => some (chkRange f)
  | .fence f => some (chkM f .zero .zero .zero [0, 1, 2, 3] allScopes false false [0] true)
  | .tcfg f => some (chkF f .zero .ureg .zero .no (f.c == 0#10))
  | .omclaim f | .omrel f =>
    some (chkF f (.below 64) .zero .any .must
      (f.c == 0#10 && decide (1 ≤ f.imm) && decide (f.d.toNat + f.b.toNat ≤ 64)))
  | .omld _ f => some (chkF f (.below 64) .r64 .zero .no (matC f true))
  | .omst _ f => some (chkF f (.below 64) .r64 .zero .no (matC f false))
  | .mma f => some (chkF f .zero .r32 .r32 .no (f.c == 0#10))
  | .acz f => some (chkF f (.below 8) .zero .zero .no (matC f false))
  | .acld f => some (chkF f (.below 8) .r64 .zero .no (matC f true))
  | .acst f => some (chkF f (.below 8) .r64 .zero .no (matC f false))
  | .acrd f => some (chkF f .r32 (.below 8) .r32 .may (f.c == 0#10 && (!f.bi || decide (f.b.toNat ≤ 63))))
  | .msave f | .mres f => some (chkF f .zero .r64 .zero .no (matC f false))
  | .cpy f =>
    some { guard := f.guard
           uses := [⟨.r64, f.d, false⟩, ⟨.r64, f.a, false⟩, ⟨.r64, f.b, false⟩,
             ⟨if f.bi then .quad else .zero, f.c, false⟩]
           ok := f.xs == 0#2 }
  | .cpyt f =>
    some { guard := f.guard
           uses := [⟨.zero, f.d, false⟩, ⟨.r64, f.a, false⟩, ⟨.r32, f.b, false⟩,
             ⟨if f.bi then .quad else .zero, f.c, false⟩]
           ok := f.xs == 0#2 }
  | .cseal f => some (chkF f .zero .zero .zero .no (f.c == 0#10))
  | .cwait f => some (chkF f .zero .zero .r32 .may (f.c == 0#10))
  | .xred f => some (chkRedw f .may)
  | .spred f => some (chkRedw f .no)
  | .esave f | .eres f => some (chkF f .zero .r64 .zero .no (f.c == 0#10))
  | .esc f => some (chkZ f .zero .r32 .any .must false (f.c == 0#10 && decide (f.b.toNat ≤ 3)))
  | .ldone f => some (chkZ f .zero .r32 .zero .no false (f.c == 0#10))
  | .lqry f => some (chkZ f .r32 .zero .any .must false (f.c == 0#10 && decide (f.b.toNat ≤ 3)))
  | .ldrain f => some (chkZ f .zero .zero .any .must false (f.c == 0#10 && decide (f.b.toNat ≤ 3)))
  | .trap f => some { guard := f.guard, uses := [⟨.zero, f.d, false⟩], ok := !f.u }
  | .bkpt f => some { guard := f.guard, uses := [⟨.zero, f.d, false⟩], ok := !f.u && f.imm == 0#32 }
  | .sysr f => some { guard := f.guard, uses := [⟨.ureg, f.d, false⟩], ok := !f.u && sysNumbers.contains f.imm.toNat }
  | .sysw f => some { guard := f.guard, uses := [⟨.ureg, f.d, false⟩], ok := !f.u && sysNumbers.contains f.imm.toNat }
  | .launch f => some (chkZ f .ureg (.urange 3) (.pred 1) .no false (f.c == 0#10))
  | .lstat f => some (chkZ f .ureg .zero .any .must false (f.c == 0#10 && decide (f.b.toNat ≤ 2)))
  | .rte f => some (chkZ f .zero .zero .any .must false (f.c == 0#10 && decide (f.b.toNat ≤ 1)))
  | _ => none

/-- Whether the row is an instruction of program text other than a header. -/
def Instr.isWord (i : Instr) : Bool := i.chk.isSome

/-- A header that R74 does not refuse. -/
def Header.legal (h : Header) : Bool :=
  h.len != 0#8 && !(h.seta == 12#4 || h.seta == 13#4 || h.seta == 14#4) &&
  !(h.setb == 12#4 || h.setb == 13#4 || h.setb == 14#4) && decide (h.pf.toNat ≤ 4)

/-- The checks of R96 that the word alone decides. -/
def Instr.legal (i : Instr) : Bool :=
  match i.chk with
  | some c => guardOk c.guard && c.ok && c.uses.all Use.ok
  | none => match i with | .blockHeader h => h.legal | _ => true

/-- The guard field of an instruction (R45); a word without one executes in every lane. -/
def Instr.guard (i : Instr) : BitVec 8 := match i.chk with | some c => c.guard | none => 0x7F#8

/-- A vector register named by an instruction: a direct range, or an indexed operand (R43, R85). -/
inductive VReg where
  | dir (first n : Nat)
  | idx (j : Nat) (k : Int) (w64 : Bool)
  deriving DecidableEq, Repr

/-- The indexed operand v[xJ+k] of a field (R85). -/
def Fld.index (f : Fld) : Nat × Int := ((f.extractLsb' 7 3).toNat, (f.extractLsb' 0 7).toInt)

/-- The vector registers one use names. -/
def Use.vregs (o : Use) : List VReg :=
  if o.idx then
    (match o.kind with
      | .r64 => [.idx (Fld.index o.fld).1 (Fld.index o.fld).2 true]
      | .r32 => [.idx (Fld.index o.fld).1 (Fld.index o.fld).2 false]
      | _ => [])
  else match o.kind with
    | .r32 => [.dir o.fld.toNat 1]
    | .r64 => [.dir o.fld.toNat 2]
    | .quad => [.dir o.fld.toNat 4]
    | .range n => [.dir o.fld.toNat n]
    | _ => []

/-- The vector registers an instruction names, read or written. -/
def Instr.vregs (i : Instr) : List VReg :=
  match i.chk with
  | some c => c.uses.flatMap Use.vregs
  | none => []

end Sys2Proof
end

