-- ==== Sys2Proof/WellFormed.lean ====
section
/-!
DEFINITION. Well-formed instructions: those whose field values the decode checks of R96 accept (the checks themselves
are `Instr.legal`, beside the operand tables they read).
-/
namespace Sys2Proof

/-- A well-formed instruction: no field breaks R96. -/
def Instr.WellFormed (i : Instr) : Prop := i.legal = true

end Sys2Proof
end

