-- ==== Sys2Proof/Decode.lean ====
section
/-!
DEFINITION. The decoder of program text (R72–R97): total on any words, rejecting by name; and the encoder, written from
the same format tables. Field extraction, the reserved bits of each format and the opcode map of R93 stand here; which
field values an instruction accepts is `Instr.legal`.
-/
namespace Sys2Proof

/-- Why a word is no instruction (R96). -/
inductive Reject where
  /-- no function of R93 has this major and FN, or a bit that the format marks reserved is set -/
  | notListed
  /-- a field value that the instruction does not accept -/
  | badField (i : Instr)
  deriving DecidableEq, Repr

/-- FN, bits [5:0] (R84). -/
def Enc.fn (w : DWord) : BitVec 6 := w.extractLsb' 0 6

/-- The fields of Format A (R84). -/
def Enc.fmtA (w : DWord) : FmtA :=
  { guard := w.extractLsb' 50 8, d := w.extractLsb' 40 10, a := w.extractLsb' 30 10, b := w.extractLsb' 20 10,
    c := w.extractLsb' 10 10, bi := w.getLsbD 9, xs := w.extractLsb' 7 2, u := w.getLsbD 6 }

/-- The fields of Format T (R89). -/
def Enc.fmtT (w : DWord) : FmtT := { f := Enc.fmtA w, ftz := w.getLsbD 5, rm := w.extractLsb' 2 3 }

/-- The fields of Format L (R89). -/
def Enc.fmtL (w : DWord) : FmtL :=
  { guard := w.extractLsb' 50 8, d := w.extractLsb' 40 10, a := w.extractLsb' 30 10, b := w.extractLsb' 20 10,
    c := w.extractLsb' 10 10, lut := w.extractLsb' 7 3 ++ w.extractLsb' 1 5, u := w.getLsbD 6 }

/-- The fields of Format C (R89). -/
def Enc.fmtC (w : DWord) : FmtC := { f := Enc.fmtA w, src := w.extractLsb' 0 5 }

/-- The fields of Format I (R90). -/
def Enc.fmtI (w : DWord) : FmtI :=
  { guard := w.extractLsb' 50 8, d := w.extractLsb' 40 10, imm := w.extractLsb' 8 32, u := w.getLsbD 6 }

/-- The reserved bits of Format W's first word are zero (R90). -/
def Enc.wZero (w : DWord) : Bool := w.extractLsb' 7 33 == 0#33

/-- The fields of Format W (R90). -/
def Enc.fmtW (w w2 : DWord) : FmtW :=
  { guard := w.extractLsb' 50 8, d := w.extractLsb' 40 10, u := w.getLsbD 6, imm := w2 }

/-- The fields of Format B (R91). -/
def Enc.fmtB (w : DWord) : FmtB :=
  { guard := w.extractLsb' 50 8, off := w.extractLsb' 18 32, a := w.extractLsb' 8 10 }

/-- The fields of Format M (R92). -/
def Enc.fmtM (w : DWord) : FmtM :=
  { guard := w.extractLsb' 50 8, d := w.extractLsb' 40 10, a := w.extractLsb' 30 10, b := w.extractLsb' 20 10,
    nud := w.extractLsb' 16 4, l := w.getLsbD 15, scope := w.extractLsb' 12 3, ord := w.extractLsb' 10 2,
    wid := w.extractLsb' 7 3, fs := w.getLsbD 6 }

/-- The fields of a header (R73). -/
def Enc.header (w : DWord) : Header :=
  { len := w.extractLsb' 50 8, wait := w.extractLsb' 38 12, seta := w.extractLsb' 34 4, setb := w.extractLsb' 30 4,
    reconv := w.extractLsb' 14 16, live := w.extractLsb' 7 7, pf := w.extractLsb' 4 3, uni := w.getLsbD 3 }

/-- Format T's operation (R89). -/
def decMaj11 (w : DWord) : Option Instr :=
  match (w.extractLsb' 0 2).toNat with
  | 0 => some (.ffma (Enc.fmtT w))
  | 1 => some (.pkfma false (Enc.fmtT w))
  | 2 => some (.pkfma true (Enc.fmtT w))
  | _ => none

/-- Major 0x00 (R93). -/
def decMaj00 (w : DWord) : Option Instr :=
  match (Enc.fn w).toNat with
  | 0 => some (.iadd (Enc.fmtA w))
  | 1 => some (.isub (Enc.fmtA w))
  | 2 => some (.iaddc (Enc.fmtA w))
  | 3 => some (.isubb (Enc.fmtA w))
  | 4 => some (.iabs (Enc.fmtA w))
  | 5 => some (.ineg (Enc.fmtA w))
  | 6 => some (.imin (Enc.fmtA w))
  | 7 => some (.imax (Enc.fmtA w))
  | 8 => some (.iadd64 (Enc.fmtA w))
  | _ => none

/-- Major 0x01 (R93). -/
def decMaj01 (w : DWord) : Option Instr :=
  match (Enc.fn w).toNat with
  | 0 => some (.imul (Enc.fmtA w))
  | 1 => some (.imulh (Enc.fmtA w))
  | 2 => some (.imad (Enc.fmtA w))
  | 3 => some (.imadw true (Enc.fmtA w))
  | 4 => some (.imadw false (Enc.fmtA w))
  | _ => none

/-- Major 0x02 (R93). -/
def decMaj02 (w : DWord) : Option Instr :=
  match (Enc.fn w).toNat with
  | 0 => some (.icmp (Enc.fmtA w))
  | 1 => some (.sel false (Enc.fmtA w))
  | 2 => some (.sel true (Enc.fmtA w))
  | _ => none

/-- Major 0x03 (R93). -/
def decMaj03 (w : DWord) : Option Instr :=
  match (Enc.fn w).toNat with
  | 0 => some (.and (Enc.fmtA w))
  | 1 => some (.or (Enc.fmtA w))
  | 2 => some (.xor (Enc.fmtA w))
  | 3 => some (.not (Enc.fmtA w))
  | _ => none

/-- Major 0x04 (R93). -/
def decMaj04 (w : DWord) : Option Instr :=
  match (Enc.fn w).toNat with
  | 0 => some (.shl (Enc.fmtA w))
  | 1 => some (.shr (Enc.fmtA w))
  | 2 => some (.sar (Enc.fmtA w))
  | 3 => some (.rot (Enc.fmtA w))
  | 4 => some (.fshl (Enc.fmtA w))
  | 5 => some (.fshr (Enc.fmtA w))
  | _ => none

/-- Major 0x05 (R93). -/
def decMaj05 (w : DWord) : Option Instr :=
  match (Enc.fn w).toNat with
  | 0 => some (.popc (Enc.fmtA w))
  | 1 => some (.clz (Enc.fmtA w))
  | 2 => some (.ctz (Enc.fmtA w))
  | 3 => some (.brev (Enc.fmtA w))
  | 4 => some (.bfx (Enc.fmtA w))
  | 5 => some (.bfi (Enc.fmtA w))
  | 6 => some (.prmb (Enc.fmtA w))
  | _ => none

/-- Major 0x06 (R93). -/
def decMaj06 (w : DWord) : Option Instr :=
  match (Enc.fn w).toNat with
  | 0 => some (.lea (Enc.fmtA w))
  | _ => none

/-- Major 0x10 (R93). -/
def decMaj10 (w : DWord) : Option Instr :=
  match (Enc.fn w).toNat with
  | 0 => some (.fadd (Enc.fmtA w))
  | 1 => some (.fsub (Enc.fmtA w))
  | 2 => some (.fmul (Enc.fmtA w))
  | 3 => some (.fmin (Enc.fmtA w))
  | 4 => some (.fmax (Enc.fmtA w))
  | 5 => some (.fcmp (Enc.fmtA w))
  | 6 => some (.fscale (Enc.fmtA w))
  | 7 => some (.fdivf (Enc.fmtA w))
  | 8 => some (.pkadd (Enc.fmtA w))
  | 9 => some (.pkmul (Enc.fmtA w))
  | _ => none

/-- Major 0x12 (R93). -/
def decMaj12 (w : DWord) : Option Instr :=
  match (Enc.fn w).toNat with
  | 0 => some (.fclass (Enc.fmtA w))
  | 1 => some (.frnd (Enc.fmtA w))
  | 2 => some (.fgexp (Enc.fmtA w))
  | 3 => some (.frcp (Enc.fmtA w))
  | 4 => some (.frsq (Enc.fmtA w))
  | 5 => some (.fsqrt (Enc.fmtA w))
  | 6 => some (.fex2 (Enc.fmtA w))
  | 7 => some (.flg2 (Enc.fmtA w))
  | 8 => some (.fsin (Enc.fmtA w))
  | 9 => some (.fcos (Enc.fmtA w))
  | 10 => some (.ftanh (Enc.fmtA w))
  | _ => none

/-- Major 0x1B (R93). -/
def decMaj1B (w : DWord) : Option Instr :=
  match (Enc.fn w).toNat with
  | 0 => some (.qblk (Enc.fmtA w))
  | 1 => some (.dqblk (Enc.fmtA w))
  | 2 => some (.pack8 (Enc.fmtA w))
  | 3 => some (.split8 (Enc.fmtA w))
  | _ => none

/-- Major 0x1C (R93). -/
def decMaj1C (w : DWord) : Option Instr :=
  match (Enc.fn w).toNat with
  | 0 => some (.plop (Enc.fmtA w))
  | 1 => some (.pmov (Enc.fmtA w))
  | _ => none

/-- Major 0x1D (R93). -/
def decMaj1D (w : DWord) : Option Instr :=
  match (Enc.fn w).toNat with
  | 0 => some (.xset (Enc.fmtA w))
  | 1 => some (.xidx (Enc.fmtA w))
  | 2 => some (.xadd (Enc.fmtA w))
  | _ => none

/-- Major 0x1E (R93). -/
def decMaj1E (w : DWord) : Option Instr :=
  match (Enc.fn w).toNat with
  | 0 => some (.vtos (Enc.fmtA w))
  | 1 => some (.stov (Enc.fmtA w))
  | _ => none

/-- Major 0x1F (R93). -/
def decMaj1F (w w2 : DWord) : Option Instr :=
  match (Enc.fn w).toNat with
  | 2 => if Enc.wZero w then some (.movw (Enc.fmtW w w2)) else none
  | 0 => some (.mov (Enc.fmtA w))
  | 1 => if w.getLsbD 7 then none else some (.movi (Enc.fmtI w))
  | 3 => some (.movSpecial (Enc.fmtA w))
  | 4 => some (.movIndex (Enc.fmtA w))
  | _ => none

/-- Major 0x20 (R93). -/
def decMaj20 (w : DWord) : Option Instr :=
  match (Enc.fn w).toNat with
  | 0 => some (.qswap (Enc.fmtA w))
  | 1 => some (.qbcast (Enc.fmtA w))
  | _ => none

/-- Major 0x21 (R93). -/
def decMaj21 (w : DWord) : Option Instr :=
  match (Enc.fn w).toNat with
  | 0 => some (.gshfl (Enc.fmtA w))
  | _ => none

/-- Major 0x22 (R93). -/
def decMaj22 (w : DWord) : Option Instr :=
  match (Enc.fn w).toNat with
  | 0 => some (.vote (Enc.fmtA w))
  | 1 => some (.ballot (Enc.fmtA w))
  | 2 => some (.matchLanes (Enc.fmtA w))
  | 3 => some (.redux (Enc.fmtA w))
  | 4 => some (.elect (Enc.fmtA w))
  | _ => none

/-- Major 0x24 (R93). -/
def decMaj24 (w : DWord) : Option Instr :=
  match (Enc.fn w).toNat with
  | 0 => if w.extractLsb' 6 2 == 0#2 then some (.bra (Enc.fmtB w)) else none
  | 1 => if w.extractLsb' 6 2 == 0#2 then some (.brx (Enc.fmtB w)) else none
  | 2 => if w.extractLsb' 6 2 == 0#2 then some (.call (Enc.fmtB w)) else none
  | 3 => if w.extractLsb' 6 2 == 0#2 then some (.callx (Enc.fmtB w)) else none
  | 4 => if w.extractLsb' 6 2 == 0#2 then some (.ret (Enc.fmtB w)) else none
  | 5 => if w.extractLsb' 6 2 == 0#2 then some (.exitLanes (Enc.fmtB w)) else none
  | 6 => if w.extractLsb' 6 2 == 0#2 then some (.yieldGroup (Enc.fmtB w)) else none
  | _ => none

/-- Major 0x25 (R93). -/
def decMaj25 (w : DWord) : Option Instr :=
  match (Enc.fn w).toNat with
  | 0 => some (.bar (Enc.fmtA w))
  | 1 => some (.cbar (Enc.fmtA w))
  | _ => none

/-- Major 0x26 (R93). -/
def decMaj26 (w : DWord) : Option Instr :=
  match (Enc.fn w).toNat with
  | 0 => some (.waitc (Enc.fmtA w))
  | 1 => some (.sleep (Enc.fmtA w))
  | _ => none

/-- Major 0x28 (R93). -/
def decMaj28 (w : DWord) : Option Instr :=
  match (Enc.fn w).toNat with
  | 0 => some (.ld false (Enc.fmtM w))
  | 1 => some (.ld true (Enc.fmtM w))
  | _ => none

/-- Major 0x29 (R93). -/
def decMaj29 (w : DWord) : Option Instr :=
  match (Enc.fn w).toNat with
  | 0 => some (.st (Enc.fmtM w))
  | _ => none

/-- Major 0x2A (R93). -/
def decMaj2A (w : DWord) : Option Instr :=
  match (Enc.fn w).toNat with
  | 0 => some (.ldv (Enc.fmtM w))
  | 1 => some (.stv (Enc.fmtM w))
  | _ => none

/-- Major 0x2B (R93). -/
def decMaj2B (w : DWord) : Option Instr :=
  match (Enc.fn w).toNat with
  | 0 => some (.sld false (Enc.fmtM w))
  | 1 => some (.sld true (Enc.fmtM w))
  | 2 => some (.sst (Enc.fmtM w))
  | _ => none

/-- Major 0x2E (R93). -/
def decMaj2E (w : DWord) : Option Instr :=
  match (Enc.fn w).toNat with
  | 0 => some (.pref (Enc.fmtM w))
  | 1 => some (.cwb (Enc.fmtM w))
  | 2 => some (.cinv (Enc.fmtM w))
  | 3 => some (.cdisc (Enc.fmtM w))
  | _ => none

/-- Major 0x2F (R93). -/
def decMaj2F (w : DWord) : Option Instr :=
  match (Enc.fn w).toNat with
  | 0 => some (.ipf (Enc.fmtM w))
  | 1 => some (.ipin (Enc.fmtM w))
  | 2 => some (.iunpin (Enc.fmtM w))
  | 3 => some (.fence (Enc.fmtM w))
  | _ => none

/-- Major 0x30 (R93). -/
def decMaj30 (w : DWord) : Option Instr :=
  match (Enc.fn w).toNat with
  | 0 => some (.tcfg (Enc.fmtA w))
  | 1 => some (.omclaim (Enc.fmtA w))
  | 2 => some (.omrel (Enc.fmtA w))
  | _ => none

/-- Major 0x31 (R93). -/
def decMaj31 (w : DWord) : Option Instr :=
  match (Enc.fn w).toNat with
  | 0 => some (.omld false (Enc.fmtA w))
  | 1 => some (.omld true (Enc.fmtA w))
  | 2 => some (.omst false (Enc.fmtA w))
  | 3 => some (.omst true (Enc.fmtA w))
  | _ => none

/-- Major 0x32 (R93). -/
def decMaj32 (w : DWord) : Option Instr :=
  match (Enc.fn w).toNat with
  | 0 => some (.mma (Enc.fmtA w))
  | _ => none

/-- Major 0x33 (R93). -/
def decMaj33 (w : DWord) : Option Instr :=
  match (Enc.fn w).toNat with
  | 0 => some (.acz (Enc.fmtA w))
  | 1 => some (.acld (Enc.fmtA w))
  | 2 => some (.acst (Enc.fmtA w))
  | 3 => some (.acrd (Enc.fmtA w))
  | 4 => some (.msave (Enc.fmtA w))
  | 5 => some (.mres (Enc.fmtA w))
  | _ => none

/-- Major 0x34 (R93). -/
def decMaj34 (w : DWord) : Option Instr :=
  match (Enc.fn w).toNat with
  | 0 => some (.cpy (Enc.fmtA w))
  | 1 => some (.cpyt (Enc.fmtA w))
  | 2 => some (.cseal (Enc.fmtA w))
  | 3 => some (.cwait (Enc.fmtA w))
  | _ => none

/-- Major 0x35 (R93). -/
def decMaj35 (w : DWord) : Option Instr :=
  match (Enc.fn w).toNat with
  | 0 => some (.xred (Enc.fmtA w))
  | 1 => some (.spred (Enc.fmtA w))
  | 2 => some (.esave (Enc.fmtA w))
  | 3 => some (.eres (Enc.fmtA w))
  | _ => none

/-- Major 0x36 (R93). -/
def decMaj36 (w : DWord) : Option Instr :=
  match (Enc.fn w).toNat with
  | 0 => some (.esc (Enc.fmtA w))
  | 1 => some (.ldone (Enc.fmtA w))
  | 2 => some (.lqry (Enc.fmtA w))
  | 3 => some (.ldrain (Enc.fmtA w))
  | _ => none

/-- Major 0x37 (R93). -/
def decMaj37 (w : DWord) : Option Instr :=
  match (Enc.fn w).toNat with
  | 0 => if w.getLsbD 7 then none else some (.trap (Enc.fmtI w))
  | 1 => if w.getLsbD 7 then none else some (.bkpt (Enc.fmtI w))
  | 2 => if w.getLsbD 7 then none else some (.sysr (Enc.fmtI w))
  | 3 => if w.getLsbD 7 then none else some (.sysw (Enc.fmtI w))
  | 4 => some (.launch (Enc.fmtA w))
  | 5 => some (.lstat (Enc.fmtA w))
  | 6 => some (.rte (Enc.fmtA w))
  | _ => none

/-- The instruction whose fields a word holds (R93); `w2` is the word after it, used by Format W alone. -/
def decodeRaw (w w2 : DWord) : Option Instr :=
  if w == 0#64 then some .nop else
  match (w.extractLsb' 58 6).toNat with
  | 0x00 => decMaj00 w
  | 0x01 => decMaj01 w
  | 0x02 => decMaj02 w
  | 0x03 => decMaj03 w
  | 0x04 => decMaj04 w
  | 0x05 => decMaj05 w
  | 0x06 => decMaj06 w
  | 0x0E => if w.getLsbD 0 then none else some (.tern (Enc.fmtL w))
  | 0x10 => decMaj10 w
  | 0x11 => decMaj11 w
  | 0x12 => decMaj12 w
  | 0x18 => if w.getLsbD 5 then none else some (.fcvt (Enc.fmtC w))
  | 0x19 => if w.getLsbD 5 then none else some (.f2i (Enc.fmtC w))
  | 0x1A => if w.getLsbD 5 then none else some (.i2f (Enc.fmtC w))
  | 0x1B => decMaj1B w
  | 0x1C => decMaj1C w
  | 0x1D => decMaj1D w
  | 0x1E => decMaj1E w
  | 0x1F => decMaj1F w w2
  | 0x20 => decMaj20 w
  | 0x21 => decMaj21 w
  | 0x22 => decMaj22 w
  | 0x24 => decMaj24 w
  | 0x25 => decMaj25 w
  | 0x26 => decMaj26 w
  | 0x28 => decMaj28 w
  | 0x29 => decMaj29 w
  | 0x2A => decMaj2A w
  | 0x2B => decMaj2B w
  | 0x2C => some (.atom (w.getLsbD 5) (w.extractLsb' 0 5) (Enc.fmtM w))
  | 0x2D => some (.red (w.getLsbD 5) (w.extractLsb' 0 5) (Enc.fmtM w))
  | 0x2E => decMaj2E w
  | 0x2F => decMaj2F w
  | 0x30 => decMaj30 w
  | 0x31 => decMaj31 w
  | 0x32 => decMaj32 w
  | 0x33 => decMaj33 w
  | 0x34 => decMaj34 w
  | 0x35 => decMaj35 w
  | 0x36 => decMaj36 w
  | 0x37 => decMaj37 w
  | 0x3E => if w.extractLsb' 0 3 == 0#3 then some (.blockHeader (Enc.header w)) else none
  | _ => none

/-- The instruction of a word, or why it is none (R96). A header's own checks are R74. -/
def decodeWord (w w2 : DWord) : Except Reject Instr :=
  match decodeRaw w w2 with
  | none => .error .notListed
  | some i => if i.legal then .ok i else .error (.badField i)

/-- A word whose major opcode is that of a header (R73). -/
def isHeaderWord (w : DWord) : Bool := w.extractLsb' 58 6 == 0x3E#6

/-- The first word of a two-word form (R90): MOVW. -/
def isTwoWord (w : DWord) : Bool := w.extractLsb' 58 6 == 0x1F#6 && Enc.fn w == 2#6

/-- A bit as a one-bit field. -/
def Enc.bit (b : Bool) : BitVec 1 := BitVec.ofBool b

/-- A Format A word (R84). -/
def Enc.ofA (maj : BitVec 6) (f : FmtA) (fn : BitVec 6) : DWord :=
  (maj ++ f.guard ++ f.d ++ f.a ++ f.b ++ f.c ++ Enc.bit f.bi ++ f.xs ++ Enc.bit f.u ++ fn : BitVec 64)

/-- A Format T word (R89). -/
def Enc.ofT (f : FmtT) (op : BitVec 2) : DWord := Enc.ofA 0x11#6 f.f (Enc.bit f.ftz ++ f.rm ++ op : BitVec 6)

/-- A Format L word (R89). -/
def Enc.ofL (f : FmtL) : DWord :=
  (0x0E#6 ++ f.guard ++ f.d ++ f.a ++ f.b ++ f.c ++ f.lut.extractLsb' 5 3 ++ Enc.bit f.u ++ f.lut.extractLsb' 0 5 ++ 0#1 :
    BitVec 64)

/-- A Format C word (R89). -/
def Enc.ofC (maj : BitVec 6) (f : FmtC) : DWord := Enc.ofA maj f.f (0#1 ++ f.src : BitVec 6)

/-- A Format I word (R90). -/
def Enc.ofI (maj : BitVec 6) (f : FmtI) (fn : BitVec 6) : DWord :=
  (maj ++ f.guard ++ f.d ++ f.imm ++ 0#1 ++ Enc.bit f.u ++ fn : BitVec 64)

/-- The first word of Format W (R90). -/
def Enc.ofW (f : FmtW) : DWord := (0x1F#6 ++ f.guard ++ f.d ++ 0#33 ++ Enc.bit f.u ++ 2#6 : BitVec 64)

/-- A Format B word (R91). -/
def Enc.ofB (maj : BitVec 6) (f : FmtB) (fn : BitVec 6) : DWord :=
  (maj ++ f.guard ++ f.off ++ f.a ++ 0#2 ++ fn : BitVec 64)

/-- A Format M word (R92). -/
def Enc.ofM (maj : BitVec 6) (f : FmtM) (fn : BitVec 6) : DWord :=
  (maj ++ f.guard ++ f.d ++ f.a ++ f.b ++ f.nud ++ Enc.bit f.l ++ f.scope ++ f.ord ++ f.wid ++ Enc.bit f.fs ++ fn :
    BitVec 64)

/-- A header word (R73). -/
def Enc.ofHeader (h : Header) : DWord :=
  (0x3E#6 ++ h.len ++ h.wait ++ h.seta ++ h.setb ++ h.reconv ++ h.live ++ h.pf ++ Enc.bit h.uni ++ 0#3 : BitVec 64)

/-- The words of an instruction; none for a step of another agent. -/
def encode : Instr → List DWord
  | .blockHeader h => [Enc.ofHeader h]
  | .nop => [0#64]
  | .tern f => [Enc.ofL f]
  | .ffma f => [Enc.ofT f 0#2]
  | .pkfma false f => [Enc.ofT f 1#2]
  | .pkfma true f => [Enc.ofT f 2#2]
  | .fcvt f => [Enc.ofC 0x18#6 f]
  | .f2i f => [Enc.ofC 0x19#6 f]
  | .i2f f => [Enc.ofC 0x1A#6 f]
  | .movw f => [Enc.ofW f, f.imm]
  | .atom far op f => [Enc.ofM 0x2C#6 f (Enc.bit far ++ op : BitVec 6)]
  | .red far op f => [Enc.ofM 0x2D#6 f (Enc.bit far ++ op : BitVec 6)]
  | .iadd f => [Enc.ofA 0x00#6 f 0#6]
  | .isub f => [Enc.ofA 0x00#6 f 1#6]
  | .iaddc f => [Enc.ofA 0x00#6 f 2#6]
  | .isubb f => [Enc.ofA 0x00#6 f 3#6]
  | .iabs f => [Enc.ofA 0x00#6 f 4#6]
  | .ineg f => [Enc.ofA 0x00#6 f 5#6]
  | .imin f => [Enc.ofA 0x00#6 f 6#6]
  | .imax f => [Enc.ofA 0x00#6 f 7#6]
  | .iadd64 f => [Enc.ofA 0x00#6 f 8#6]
  | .imul f => [Enc.ofA 0x01#6 f 0#6]
  | .imulh f => [Enc.ofA 0x01#6 f 1#6]
  | .imad f => [Enc.ofA 0x01#6 f 2#6]
  | .imadw true f => [Enc.ofA 0x01#6 f 3#6]
  | .imadw false f => [Enc.ofA 0x01#6 f 4#6]
  | .icmp f => [Enc.ofA 0x02#6 f 0#6]
  | .sel false f => [Enc.ofA 0x02#6 f 1#6]
  | .sel true f => [Enc.ofA 0x02#6 f 2#6]
  | .and f => [Enc.ofA 0x03#6 f 0#6]
  | .or f => [Enc.ofA 0x03#6 f 1#6]
  | .xor f => [Enc.ofA 0x03#6 f 2#6]
  | .not f => [Enc.ofA 0x03#6 f 3#6]
  | .shl f => [Enc.ofA 0x04#6 f 0#6]
  | .shr f => [Enc.ofA 0x04#6 f 1#6]
  | .sar f => [Enc.ofA 0x04#6 f 2#6]
  | .rot f => [Enc.ofA 0x04#6 f 3#6]
  | .fshl f => [Enc.ofA 0x04#6 f 4#6]
  | .fshr f => [Enc.ofA 0x04#6 f 5#6]
  | .popc f => [Enc.ofA 0x05#6 f 0#6]
  | .clz f => [Enc.ofA 0x05#6 f 1#6]
  | .ctz f => [Enc.ofA 0x05#6 f 2#6]
  | .brev f => [Enc.ofA 0x05#6 f 3#6]
  | .bfx f => [Enc.ofA 0x05#6 f 4#6]
  | .bfi f => [Enc.ofA 0x05#6 f 5#6]
  | .prmb f => [Enc.ofA 0x05#6 f 6#6]
  | .lea f => [Enc.ofA 0x06#6 f 0#6]
  | .fadd f => [Enc.ofA 0x10#6 f 0#6]
  | .fsub f => [Enc.ofA 0x10#6 f 1#6]
  | .fmul f => [Enc.ofA 0x10#6 f 2#6]
  | .fmin f => [Enc.ofA 0x10#6 f 3#6]
  | .fmax f => [Enc.ofA 0x10#6 f 4#6]
  | .fcmp f => [Enc.ofA 0x10#6 f 5#6]
  | .fscale f => [Enc.ofA 0x10#6 f 6#6]
  | .fdivf f => [Enc.ofA 0x10#6 f 7#6]
  | .pkadd f => [Enc.ofA 0x10#6 f 8#6]
  | .pkmul f => [Enc.ofA 0x10#6 f 9#6]
  | .fclass f => [Enc.ofA 0x12#6 f 0#6]
  | .frnd f => [Enc.ofA 0x12#6 f 1#6]
  | .fgexp f => [Enc.ofA 0x12#6 f 2#6]
  | .frcp f => [Enc.ofA 0x12#6 f 3#6]
  | .frsq f => [Enc.ofA 0x12#6 f 4#6]
  | .fsqrt f => [Enc.ofA 0x12#6 f 5#6]
  | .fex2 f => [Enc.ofA 0x12#6 f 6#6]
  | .flg2 f => [Enc.ofA 0x12#6 f 7#6]
  | .fsin f => [Enc.ofA 0x12#6 f 8#6]
  | .fcos f => [Enc.ofA 0x12#6 f 9#6]
  | .ftanh f => [Enc.ofA 0x12#6 f 10#6]
  | .qblk f => [Enc.ofA 0x1B#6 f 0#6]
  | .dqblk f => [Enc.ofA 0x1B#6 f 1#6]
  | .pack8 f => [Enc.ofA 0x1B#6 f 2#6]
  | .split8 f => [Enc.ofA 0x1B#6 f 3#6]
  | .plop f => [Enc.ofA 0x1C#6 f 0#6]
  | .pmov f => [Enc.ofA 0x1C#6 f 1#6]
  | .xset f => [Enc.ofA 0x1D#6 f 0#6]
  | .xidx f => [Enc.ofA 0x1D#6 f 1#6]
  | .xadd f => [Enc.ofA 0x1D#6 f 2#6]
  | .vtos f => [Enc.ofA 0x1E#6 f 0#6]
  | .stov f => [Enc.ofA 0x1E#6 f 1#6]
  | .mov f => [Enc.ofA 0x1F#6 f 0#6]
  | .movi f => [Enc.ofI 0x1F#6 f 1#6]
  | .movSpecial f => [Enc.ofA 0x1F#6 f 3#6]
  | .movIndex f => [Enc.ofA 0x1F#6 f 4#6]
  | .qswap f => [Enc.ofA 0x20#6 f 0#6]
  | .qbcast f => [Enc.ofA 0x20#6 f 1#6]
  | .gshfl f => [Enc.ofA 0x21#6 f 0#6]
  | .vote f => [Enc.ofA 0x22#6 f 0#6]
  | .ballot f => [Enc.ofA 0x22#6 f 1#6]
  | .matchLanes f => [Enc.ofA 0x22#6 f 2#6]
  | .redux f => [Enc.ofA 0x22#6 f 3#6]
  | .elect f => [Enc.ofA 0x22#6 f 4#6]
  | .bra f => [Enc.ofB 0x24#6 f 0#6]
  | .brx f => [Enc.ofB 0x24#6 f 1#6]
  | .call f => [Enc.ofB 0x24#6 f 2#6]
  | .callx f => [Enc.ofB 0x24#6 f 3#6]
  | .ret f => [Enc.ofB 0x24#6 f 4#6]
  | .exitLanes f => [Enc.ofB 0x24#6 f 5#6]
  | .yieldGroup f => [Enc.ofB 0x24#6 f 6#6]
  | .bar f => [Enc.ofA 0x25#6 f 0#6]
  | .cbar f => [Enc.ofA 0x25#6 f 1#6]
  | .waitc f => [Enc.ofA 0x26#6 f 0#6]
  | .sleep f => [Enc.ofA 0x26#6 f 1#6]
  | .ld false f => [Enc.ofM 0x28#6 f 0#6]
  | .ld true f => [Enc.ofM 0x28#6 f 1#6]
  | .st f => [Enc.ofM 0x29#6 f 0#6]
  | .ldv f => [Enc.ofM 0x2A#6 f 0#6]
  | .stv f => [Enc.ofM 0x2A#6 f 1#6]
  | .sld false f => [Enc.ofM 0x2B#6 f 0#6]
  | .sld true f => [Enc.ofM 0x2B#6 f 1#6]
  | .sst f => [Enc.ofM 0x2B#6 f 2#6]
  | .pref f => [Enc.ofM 0x2E#6 f 0#6]
  | .cwb f => [Enc.ofM 0x2E#6 f 1#6]
  | .cinv f => [Enc.ofM 0x2E#6 f 2#6]
  | .cdisc f => [Enc.ofM 0x2E#6 f 3#6]
  | .ipf f => [Enc.ofM 0x2F#6 f 0#6]
  | .ipin f => [Enc.ofM 0x2F#6 f 1#6]
  | .iunpin f => [Enc.ofM 0x2F#6 f 2#6]
  | .fence f => [Enc.ofM 0x2F#6 f 3#6]
  | .tcfg f => [Enc.ofA 0x30#6 f 0#6]
  | .omclaim f => [Enc.ofA 0x30#6 f 1#6]
  | .omrel f => [Enc.ofA 0x30#6 f 2#6]
  | .omld false f => [Enc.ofA 0x31#6 f 0#6]
  | .omld true f => [Enc.ofA 0x31#6 f 1#6]
  | .omst false f => [Enc.ofA 0x31#6 f 2#6]
  | .omst true f => [Enc.ofA 0x31#6 f 3#6]
  | .mma f => [Enc.ofA 0x32#6 f 0#6]
  | .acz f => [Enc.ofA 0x33#6 f 0#6]
  | .acld f => [Enc.ofA 0x33#6 f 1#6]
  | .acst f => [Enc.ofA 0x33#6 f 2#6]
  | .acrd f => [Enc.ofA 0x33#6 f 3#6]
  | .msave f => [Enc.ofA 0x33#6 f 4#6]
  | .mres f => [Enc.ofA 0x33#6 f 5#6]
  | .cpy f => [Enc.ofA 0x34#6 f 0#6]
  | .cpyt f => [Enc.ofA 0x34#6 f 1#6]
  | .cseal f => [Enc.ofA 0x34#6 f 2#6]
  | .cwait f => [Enc.ofA 0x34#6 f 3#6]
  | .xred f => [Enc.ofA 0x35#6 f 0#6]
  | .spred f => [Enc.ofA 0x35#6 f 1#6]
  | .esave f => [Enc.ofA 0x35#6 f 2#6]
  | .eres f => [Enc.ofA 0x35#6 f 3#6]
  | .esc f => [Enc.ofA 0x36#6 f 0#6]
  | .ldone f => [Enc.ofA 0x36#6 f 1#6]
  | .lqry f => [Enc.ofA 0x36#6 f 2#6]
  | .ldrain f => [Enc.ofA 0x36#6 f 3#6]
  | .trap f => [Enc.ofI 0x37#6 f 0#6]
  | .bkpt f => [Enc.ofI 0x37#6 f 1#6]
  | .sysr f => [Enc.ofI 0x37#6 f 2#6]
  | .sysw f => [Enc.ofI 0x37#6 f 3#6]
  | .launch f => [Enc.ofA 0x37#6 f 4#6]
  | .lstat f => [Enc.ofA 0x37#6 f 5#6]
  | .rte f => [Enc.ofA 0x37#6 f 6#6]
  | _ => []

/-- Decode from the words that stand at an address. -/
def decodeWords : List DWord → Except Reject Instr
  | [] => .error .notListed
  | [w] => decodeWord w 0#64
  | w :: w2 :: _ => decodeWord w w2

/-- The instruction the decoder reads from a row of the opcode table (bit 0 the lowest bit of the first word; bits
above `nbits` are zero). -/
def decodeTableWord (nbits w : Nat) : Option Instr :=
  let v := w % 2 ^ nbits
  match decodeWord (BitVec.ofNat 64 v) (BitVec.ofNat 64 (v / 2 ^ 64)) with
  | .ok i => some i
  | .error _ => none

end Sys2Proof
end

