-- ==== Sys2Proof/Config.lean ====
section
/-!
DEFINITION. What the device fixes (R21, R35, R216, R364 and others) and the values the manual leaves open. The open
values are opaque: nothing can be proved about which value they are, so a claim about them holds for every value.
-/
namespace Sys2Proof.Config

/-- Cores of a compute die, of a cluster, and of the device (R50, R217). -/
abbrev coresPerDie : Nat := 128
abbrev coresPerCluster : Nat := 8
abbrev numCores : Nat := 2048

/-- Issue slots of a core per cycle, and groups of its active set (R36). -/
abbrev issueSlots : Nat := 4
abbrev activeMax : Nat := 8

/-- Resident groups, resident blocks and registers of a core (R35). -/
abbrev maxGroups : Nat := 48
abbrev maxBlocks : Nat := 16
abbrev maxRegs : Nat := 4096

/-- Issues of a quantum (R37); the wait count at which a path is forced (R31). -/
abbrev quantum : Nat := 64
abbrev forceAt : Nat := 64

/-- The banks of a core of a die that its boot firmware reports unusable (R53), a bit per bank. -/
opaque unusableBanks : Nat → Nat → BitVec 32

/-- A bank of local store, a block-window entry (R53, R213). -/
abbrev bankBytes : Nat := 49152
abbrev windowBytes : Nat := 0x200000

/-- What moves next when no agenda is left (log entry 10): R22, R36, R40, R151 and the mesh leave the order open. -/
opaque schedule : Nat → Action

/-- Whether the candidate execution of R229 is kept from now on, or any longer (log entry 14); the argument is State.fresh. -/
opaque mayChoose : Nat → Bool

/-- Which of the places that R240 allows an access takes among the accesses performed; the argument is State.fresh. -/
opaque choose : Nat → Nat

/-- A byte the manual leaves unspecified: local store before it is written (R42), a byte of a sector declared dead
(R156, R163), an overlapping copy byte (R263, R272). The first argument is State.fresh. -/
opaque freeByte : Nat → Nat → Byte

/-- Whether a cluster's TLB still holds a translation it was given, at a moment, for a page (R319, R322): the manual does
not fix what a full way replaces, and allows either translation until TINV is complete. -/
opaque tlbHolds : Nat → Nat → Bool

/-- Which leaf of a disagreeing CONT group serves a translation (R316). -/
opaque freeLeaf : Nat → BitVec 4

/-- A byte of the private section of a context-save frame (R340): block, offset. -/
opaque privateByte : Nat → Nat → Byte

/-- The number of units a line takes in the MSC, less one (R219): a fixed function of its 256 bytes. -/
opaque mscUnits : List Byte → BitVec 2

/-- Ed25519 verification against the Kwearasum signing key of the mask ROM (R358): message, signature. -/
opaque recordSigned : List Byte → List Byte → Bool

/-- SHA-512 (R362): byte i of the digest of a message. -/
opaque sha512 : List Byte → Nat → Byte

/-- The boot firmware image the security block loads (R362), as its digest's byte i. -/
opaque firmwareDigest : Nat → Byte

/-- Byte i of the device's Ed25519 public key, derived from its seed (R362). -/
opaque identityKey : Nat → Byte

/-- Byte i of the Ed25519 signature of a message by the identity key (R363). -/
opaque identitySign : List Byte → Nat → Byte

/-- What another package holds in its memory (R297, R312): fabric id and address, at a moment counted by State.fresh. -/
opaque peerByte : Nat → Nat → Nat → Byte

end Sys2Proof.Config
end

