-- ==== Sys2Proof/Machine/Cells.lean ====
section
/-!
DEFINITION. Sparse storage in one canonical form: `Cells w` for bytes and registers (an unlisted key reads as zero),
`Tbl α` for the parts of the device that exist only while they are in use.
-/
namespace Sys2Proof.Machine

/-- A sparse array of w-bit values: keys strictly rising, no entry equal to zero, which is what an unlisted key
reads as. -/
abbrev Cells (w : Nat) := List (Nat × BitVec w)

/-- The value at a key; zero where the key is not listed. -/
def Cells.get {w : Nat} : Cells w → Nat → BitVec w
  | [], _ => 0#w
  | (k, v) :: rest, a => if k = a then v else Cells.get rest a

/-- Remove a key. -/
def Cells.erase {w : Nat} (m : Cells w) (a : Nat) : Cells w := m.filter fun kv => kv.1 ≠ a

/-- List a key with a value, at its place. -/
def Cells.insert {w : Nat} : Cells w → Nat → BitVec w → Cells w
  | [], a, x => [(a, x)]
  | (k, v) :: rest, a, x =>
    if a < k then (a, x) :: (k, v) :: rest
    else if k = a then (a, x) :: rest
    else (k, v) :: Cells.insert rest a x

/-- Write a value at a key, keeping the canonical form: writing zero removes the entry. -/
def Cells.set {w : Nat} (m : Cells w) (a : Nat) (x : BitVec w) : Cells w :=
  if x = 0#w then m.erase a else m.insert a x

/-- Every key is above a bound, the keys rise and no entry is zero. -/
def Cells.wfFrom {w : Nat} : Option Nat → Cells w → Bool
  | _, [] => true
  | lo, (k, v) :: rest =>
    (match lo with
      | none => true
      | some b => decide (b < k)) && decide (v ≠ 0#w) && Cells.wfFrom (some k) rest

/-- The canonical form: keys strictly rising, no entry equal to what an unlisted key reads as. -/
def Cells.wf {w : Nat} (m : Cells w) : Bool := Cells.wfFrom none m

/-- Write a list of values at consecutive keys. -/
def Cells.setMany {w : Nat} (m : Cells w) (a : Nat) : List (BitVec w) → Cells w
  | [] => m
  | x :: xs => Cells.setMany (m.set a x) (a + 1) xs

/-- n values at consecutive keys. -/
def Cells.getMany {w : Nat} (m : Cells w) (a n : Nat) : List (BitVec w) :=
  (List.range n).map fun i => m.get (a + i)

/-- Drop every key of the range [a, a + n). -/
def Cells.clearRange {w : Nat} (m : Cells w) (a n : Nat) : Cells w :=
  m.filter fun kv => !(decide (a ≤ kv.1) && decide (kv.1 < a + n))

/-- Byte memory: addresses strictly rising, no entry equal to zero. -/
abbrev Memory := List Host.Cell

/-- What an unlisted address of memory reads as (log entry 2). -/
def Memory.unlisted : Byte := 0#8

/-- The canonical form of memory. -/
def Memory.wf (m : Memory) : Bool := Cells.wf (w := 8) m

/-- One byte of memory. -/
def Memory.get (m : Memory) (a : Nat) : Byte := Cells.get (w := 8) m a

/-- Write one byte of memory. -/
def Memory.set (m : Memory) (a : Nat) (b : Byte) : Memory := Cells.set (w := 8) m a b

/-- A table of parts in use, by key. -/
abbrev Tbl (α : Type) := List (Nat × α)

/-- The part with a key, if it is in use. -/
def Tbl.get? {α : Type} : Tbl α → Nat → Option α
  | [], _ => none
  | (k, v) :: rest, a => if k = a then some v else Tbl.get? rest a

/-- The part with a key, or what a part not in use is. -/
def Tbl.getD {α : Type} (t : Tbl α) (a : Nat) (d : α) : α := (Tbl.get? t a).getD d

/-- Put a part at its key. -/
def Tbl.set {α : Type} : Tbl α → Nat → α → Tbl α
  | [], a, x => [(a, x)]
  | (k, v) :: rest, a, x =>
    if a < k then (a, x) :: (k, v) :: rest
    else if k = a then (a, x) :: rest
    else (k, v) :: Tbl.set rest a x

/-- Take a part out of use. -/
def Tbl.erase {α : Type} (t : Tbl α) (a : Nat) : Tbl α := t.filter fun kv => kv.1 ≠ a

/-- Change one part, if it is in use. -/
def Tbl.modify {α : Type} (t : Tbl α) (a : Nat) (f : α → α) : Tbl α :=
  t.map fun kv => if kv.1 = a then (kv.1, f kv.2) else kv

/-- The parts in use, without their keys. -/
def Tbl.vals {α : Type} (t : Tbl α) : List α := t.map Prod.snd

/-- The keys in use. -/
def Tbl.keys {α : Type} (t : Tbl α) : List Nat := t.map Prod.fst

/-- The little-endian bytes of a value: n bytes, the lowest first (R72, R146). -/
def toBytes (n : Nat) (v : Nat) : List Byte :=
  (List.range n).map fun i => BitVec.ofNat 8 (v >>> (8 * i))

/-- The value of little-endian bytes. -/
def ofBytes : List Byte → Nat
  | [] => 0
  | b :: bs => b.toNat + 256 * ofBytes bs

end Sys2Proof.Machine
end

