-- ==== Sys2Proof/Machine/State.lean ====
section
/-!
DEFINITION. The state of the device as plain data: every piece of state the manual gives the machine, and the model's
own fields (agenda, tick, fresh, nextId, cur). `State.reset` is the machine right after reset.
-/
namespace Sys2Proof.Machine

/-- Why the machine stops. Both are raised where the manual says that nothing is there; stopping is safe. -/
inductive Fault where
  /-- Raised by the memory operations: a physical address of HBM at or above the capacity of R295, where no frame
  exists. Safe: the machine stops where the manual gives the access no effect. -/
  | noSuchFrame (addr : Nat)
  deriving DecidableEq, Repr

/-- What the model has no meaning for. -/
inductive Refusal where
  /-- Raised by the dispatch of an instruction without a meaning yet. Safe: nothing happens. -/
  | notModelled (mnemonic : String)
  deriving DecidableEq, Repr

/-- What a lane is (R23, R25). -/
inductive LaneKind where
  | ordinary | helper | empty
  deriving DecidableEq, Repr

/-- The block a lane is inside of, and the flags its header chose (R72, R75). -/
structure BlkPos where
  hdr : DWord
  len : Nat
  seta : BitVec 4
  setb : BitVec 4
  deriving DecidableEq, Repr

/-- A location: a byte of memory by its key, or a byte of a block's local store (R227). -/
inductive Loc where
  | mem (key : Nat)
  | ls (blk : Nat) (off : Nat)
  deriving DecidableEq, Repr

/-- A WAITC that has not completed (R141–R143): what it reads, the condition, and how it is watched. -/
structure Watch where
  va : DWord
  loc : Loc
  width : Nat
  signed : Bool
  cc : Nat
  cmp : DWord
  acq : Bool
  sys : Bool
  dest : Nat
  /-- the clock of the last read, for the lane that polls; none before the first read -/
  readAt : Option DWord
  /-- the read under way has asked for a software-managed sector afresh -/
  asked : Bool
  /-- the lane has been restored: it reads its word again at once (R143) -/
  again : Bool
  /-- its place in the lane's program order, and path A's operations of the same issue (R152) -/
  id : Nat
  after : Option (Nat × Nat)
  /-- holds counted for it (R214, R298, R356) -/
  counted : List Nat
  deriving DecidableEq, Repr

/-- Whether a lane may be selected (R27). -/
inductive Wait where
  | running
  /-- held at a reconvergence point (R30) -/
  | held
  | bar (b : Nat)
  | cbar (c : Nat)
  | waitc (w : Watch)
  /-- its path has issued, and its instruction waits for what path A of the same issue does first (R28, R152) -/
  | late
  /-- asleep until the core's z.clock reaches a value (R144) -/
  | sleep (till : DWord)
  deriving DecidableEq, Repr

/-- A lane whose escalation led here (R204): what it issued before an identity comes first. -/
structure Before where
  blk : Nat
  grp : Nat
  lane : Nat
  id : Nat
  deriving DecidableEq, Repr

/-- One lane (R42). -/
structure Lane where
  kind : LaneKind
  pc : DWord
  pos : Option BlkPos
  v : Cells 32
  p : BitVec 96
  x : Cells 32
  wait : Wait
  /-- the wait count W (R31) -/
  w : Nat
  cause : BitVec 8
  tval : DWord
  epc : DWord
  inHandler : Bool
  /-- RHDR (R345), with the fields of that block's header -/
  rhdr : DWord
  rpos : Option BlkPos
  /-- z.batch, and how often its count has wrapped (R268, R269) -/
  batch : Word
  wraps : Nat
  item : Word
  /-- the DONE bit (R192) -/
  done : Bool
  /-- the lanes that its frame comes from (R204) -/
  froms : List Before
  deriving DecidableEq, Repr

/-- An entry of the reconvergence table (R29). -/
structure Recon where
  target : DWord
  members : DWord
  deriving DecidableEq, Repr

/-- One chosen path (R27): its PC, its lanes, and whether it was forced in (R31). -/
structure Path where
  pc : DWord
  lanes : DWord
  forced : Bool
  deriving DecidableEq, Repr

/-- A handler entry that waits for the translation of the handler's header (R54). -/
structure PendTrap where
  code : BitVec 8
  tval : DWord
  epc : DWord
  lanes : DWord
  deriving DecidableEq, Repr

/-- Instruction lines on their way by a header's PF request (R79): a line, the lines of the block at a header, or those of the
block that the last instruction of a block of n words branches to; pinned perhaps. -/
inductive TextFill where
  | line (va : DWord) (pin : Bool)
  | block (hdr : DWord) (pin : Bool)
  | target (hdr : DWord) (n : Nat)
  deriving DecidableEq, Repr

/-- A path B that has issued and whose instruction has not had its effect yet (R28, R152): the path and its instruction, where the
identities of its issue begin and those of path A end, and the holds counted for what it reads. -/
structure Late where
  path : Path
  instr : Instr
  firstId : Nat
  lastId : Nat
  counted : List Nat
  deriving DecidableEq, Repr

/-- One group. -/
structure Group where
  rung : Nat
  lanes : List Lane
  s : Cells 64
  /-- f0–f11: how many operations assigned to the flag are outstanding (R49) -/
  flags : List Nat
  /-- the reconvergence table, earliest entry first (R29) -/
  recon : List Recon
  /-- the paths chosen and not yet issued (R28), and the PCs waiting to be forced (R31) -/
  choice : List Path
  forceq : List DWord
  active : Bool
  /-- issues since it entered the active set (R37) -/
  quantum : Nat
  /-- the core cycle of the last issue (R36), and when it became ready in the pending set (R37) -/
  lastIssue : DWord
  since : Nat
  /-- the fault entries the group waits for (R306) -/
  parked : List Nat
  /-- the lanes and the word that parked -/
  parkLanes : DWord
  parkPc : DWord
  pendTrap : Option PendTrap
  stopped : Bool
  ended : Bool
  /-- the instruction line whose fill the sequencer waits for (R40) -/
  frozen : Option DWord
  /-- YIELD asked for a swap (R128) -/
  yielded : Bool
  /-- the PCs of the standing choice with the events counted for their waits: hazards (R81), holds of reads at issue (R214, R298,
  R356); and whether it waits for room in the copy engine (R266) -/
  stalls : List (DWord × Nat)
  full : Bool
  /-- PF requests not served yet (R79) -/
  fills : List TextFill
  /-- paths B that have issued and whose instruction waits for path A of their issue (R28, R152) -/
  lates : List Late
  deriving DecidableEq, Repr

/-- A block barrier (R138): its phase and the bound copies pending in it. Arrivals and the expected count are the
counts of the lanes that wait and that have not exited. -/
structure Bar where
  phase : Nat
  pending : Nat
  deriving DecidableEq, Repr

/-- Launch staging of a block (R226): the entry and byte it has reached. -/
structure Staging where
  entry : Nat
  byte : Nat
  /-- the fault entry it waits for -/
  waits : Option Nat
  /-- holds counted for the piece it waits for (R214, R298, R356) -/
  counted : List Nat := []
  deriving DecidableEq, Repr

/-- What an operation of the matrix queue does (R174). -/
inductive MKind where
  | tcfg
  | omclaim (first n : Nat)
  | omrel (first n : Nat)
  | omld (isB : Bool) (slot : Nat) (last : Bool)
  | omst (isB : Bool) (slot : Nat)
  /-- an MMA by its parameter block -/
  | mma (pb : List Byte)
  | acz (t : Nat)
  | acld (t : Nat) (last : Bool)
  | acst (t : Nat)
  | acrd (t : Nat) (dest : Nat) (rows : List (Nat × Nat))
  | msave
  /-- MRES with the tiles it restores -/
  | mres (tiles : Cells 32)
  deriving DecidableEq, Repr

/-- Who watches a sector through a monitor (R143): a lane in WAITC, or the command processor for a queue's TAIL (R331) or a
dependence word of a launch (R336). -/
inductive Watcher where
  | lane (blk grp lane : Nat)
  | queue (asid n : Nat)
  | dep (launch : Nat) (va : DWord)
  deriving DecidableEq, Repr

/-- A monitor in use (R143): the core or slice it belongs to, the sector's key, whose it is, and whether a write, an
atomic, a copy or an invalidation has reached the sector since its watcher last read. -/
structure Monitor where
  place : Nat
  sector : Nat
  owner : Watcher
  trig : Bool
  deriving DecidableEq, Repr

/-- What a translation says of its page, as an access and a line of a cache keep it (R319, R321): R, W, SWM and MIG in bits
0 to 3, G in bit 4, its level in bits 5 and 6. -/
abbrev LeafBits := BitVec 7

/-- An operation accepted into a matrix queue (R173). -/
structure MOp where
  id : Nat
  kind : MKind
  blk : Nat
  grp : Nat
  lane : Nat
  flag : Option Nat
  /-- the TCB in force at acceptance (R177) -/
  tcb : DWord
  /-- the address of its instruction (R298) -/
  pc : DWord
  addr : DWord
  /-- its range, in order (R176): where each piece lies, its bytes, and its leaf -/
  spans : List (Loc × Nat × LeafBits)
  nud : Nat
  clock : Word
  /-- row steps or bytes done -/
  prog : Nat
  begun : Bool
  /-- holds a leave token; has asked for one (R182) -/
  leave : Bool
  asked : Bool
  /-- path A's operations of the same issue: where their identities begin and end (R152) -/
  after : Option (Nat × Nat)
  /-- holds counted for the piece it waits for (R214, R298, R356) -/
  counted : List Nat
  /-- a translation of its range has been removed: the L1 keeps nothing of it (R321) -/
  stale : Bool := false
  deriving DecidableEq, Repr

/-- A frame of a ring (R196). -/
structure Frame where
  item : Word
  words : List Word
  stamp : DWord
  /-- the lanes it comes from (R204) -/
  froms : List Before
  deriving DecidableEq, Repr

/-- A ring of a core (R196), oldest frame first. -/
structure Ring where
  frames : List Frame
  /-- LDRAIN named it -/
  forced : Bool
  /-- it fires; the trigger that counts (R197) -/
  firing : Option Nat
  deriving DecidableEq, Repr

/-- One block, or one packed ladder group (R194). -/
structure Block where
  asid : Nat
  launch : Nat
  cohort : Nat
  no : Nat
  /-- the rung, for a packed ladder group -/
  packed : Option Nat
  core : Nat
  resident : Bool
  started : Bool
  /-- order of becoming resident (R36), and of its start: a restored block keeps it (R339) -/
  order : Nat
  startOrder : Nat
  /-- the block as an owner of cache lines: a restored block is a new one (R221) -/
  owner : Nat
  regs : Nat
  lanes : Nat
  lstore : Nat
  oslots : Nat
  reuse : Word
  bars : Tbl Bar
  /-- local store, the bytes written since the block started (a bit per byte of a sector), its place in the banks -/
  ls : Cells 8
  lsDef : Cells 64
  lsBase : Nat
  /-- the matrix block's configuration, its CLAIMED slots and their bytes (key 12288 × slot + offset) -/
  mconf : Bool
  claimed : BitVec 64
  slots : Cells 8
  /-- MMAs saved by pre-emption, with the first one's EPMM (R186) -/
  savedMma : List (List Byte)
  savedEpmm : DWord
  savedTcb : DWord
  savedTiles : Cells 32
  groups : Tbl Group
  staging : Option Staging
  /-- the code of a FAILED batch that no CWAIT reported (R270) -/
  failCode : Option (BitVec 8)
  /-- the save frame it was saved to, and the free value its private section was written with -/
  frame : Option (Nat × Nat)
  /-- pre-emption has chosen it: its groups issue no more (R339) -/
  leaving : Bool
  /-- MMAs that pre-emption took out of the queue, with the flags they hold (R186) -/
  savedOps : List MOp
  /-- rings saved with it, by rung, their stamps as ages; the share it was saved with (R206) -/
  rings : Tbl Ring
  share : Nat
  cluster : Nat
  /-- a private section that host software changed is found at restoration (R340) -/
  spoiled : Bool
  deriving DecidableEq, Repr

/-- One lane's access of a memory instruction. -/
structure Acc where
  lane : Nat
  va : DWord
  loc : Loc
  /-- its translation, and whether it was translated afresh rather than served by an L1 line (R319) -/
  leaf : LeafBits
  fresh : Bool
  /-- the value to store, the operand, or the range length -/
  val : BitVec 128
  /-- the swap value of CAS -/
  val2 : DWord
  done : Bool
  /-- holds counted for it (R214, R298, R356) -/
  counted : List Nat
  /-- the host or the pool has answered for its sector, without poison (R150, R304) -/
  clean : Bool := false
  /-- its translation has been removed: the L1 keeps nothing of it (R321) -/
  stale : Bool := false
  deriving DecidableEq, Repr

/-- The access's page is software-managed. -/
def Acc.swm (a : Acc) : Bool := a.leaf.getLsbD 2

/-- What an outstanding memory operation is (R151). -/
inductive OpKind where
  | load (sx : Bool)
  | store
  | atom (op : Nat) (sgn : Bool)
  | red (op : Nat) (sgn : Bool)
  | cwb | cinv | cdisc
  /-- the drop of a last-use load (R156) -/
  | drop
  | fence (kind : BitVec 2)
  | pref (l2 : Bool)
  | ifill (pin : Bool)
  | unpin
  /-- LDONE's stores (R201) -/
  | ldone
  deriving DecidableEq, Repr

/-- An outstanding memory operation. -/
structure Op where
  kind : OpKind
  blk : Nat
  grp : Nat
  core : Nat
  asid : Nat
  flag : Option Nat
  wid : Nat
  acq : Bool
  rel : Bool
  scope : Nat
  far : Bool
  last : Bool
  nud : Nat
  clock : Word
  dest : Nat
  /-- the instruction's address (R298) -/
  pc : DWord
  /-- the operations of its group that come first where they meet, from one identity to before another: those of path A of the
  same issue (R152), or the load that a drop follows (R156) -/
  after : Option (Nat × Nat)
  accs : List Acc
  deriving DecidableEq, Repr

/-- An agent of the memory model (R228, R233): a lane, an engine or a unit of the device, or what reaches its memory from
outside. -/
inductive Agent where
  | lane (blk grp lane : Nat)
  | unit
  | outside
  deriving DecidableEq, Repr

/-- An access or a fence of a candidate execution (R228, R229). -/
structure Ev where
  who : Agent
  /-- its place in its lane's program order; of a unit's completion word, the window (twice its number and 1) or the launch (twice its
  number and 2) it is of -/
  id : Nat
  reads : Bool
  writes : Bool
  /-- its own order and scope; a fence's kind -/
  acq : Bool
  rel : Bool
  scope : Nat
  fence : Option (BitVec 2)
  /-- an ATOM or a RED (R235) -/
  atomic : Bool
  loc : Loc
  n : Nat
  /-- path A's operations of the same issue: where their identities begin and end (R152) -/
  after : Option (Nat × Nat)
  /-- of a copy of the lane: nothing later of the lane follows it (R264); the barrier that the copy is bound to -/
  copy : Bool
  bar : Option Nat
  /-- of cached bytes of a software-managed page (R259) -/
  swm : Bool
  /-- the core whose matrix queue holds it -/
  queue : Option Nat
  /-- a read: how many of the accesses performed it comes after -/
  saw : Nat
  /-- a write: the bytes it replaced -/
  old : List Byte
  deriving DecidableEq, Repr

/-- An order that no access makes: a barrier phase (R139), CWAIT (R284), a launch (R338, R351), a resolved fault (R309). The accesses of
some lanes issued before an identity, the payload writes of their copies of some identities or bound to a barrier, the writes from
outside and every access among the first performed come before what other lanes issue from an identity on, and before every access of
a launch, toward a scope. -/
structure Mark where
  froms : List (Nat × Nat × DWord)
  upto : Nat
  /-- copies, from one identity to before another -/
  copies : List (Nat × Nat)
  /-- a barrier, and how many accesses have been performed -/
  bar : Option (Nat × Nat)
  host : Nat
  all : Nat
  tos : List (Nat × Nat × DWord)
  id : Nat
  launch : Option Nat
  scope : Nat
  deriving DecidableEq, Repr

/-- The candidate execution as far as it is kept (the model's own; R229, R240): the accesses performed since, in the order of their
performance; marks; the batches that the copies of a lane have been sealed into, by wraps and number, from one identity to before
another (R268); which reads the registers of lanes are computed from (R230); and which reads the addresses of a lane's operations of a
range of identities are computed from. -/
structure Trace where
  evs : List Ev
  marks : List Mark
  seals : List (Agent × (Nat × Nat) × Nat × Nat)
  taint : List ((Nat × Nat × Nat × Nat) × List Nat)
  deps : List (Agent × Nat × Nat × List Nat)
  deriving DecidableEq, Repr

/-- The state of a copy (R267, R270). -/
inductive CopyState where
  | pending
  /-- waits for a fault entry -/
  | faulted (eid : Nat)
  | failed (code : BitVec 8) (addr : DWord)
  deriving DecidableEq, Repr

/-- A copy of the engine (R263, R272), outstanding or failed and not yet reported. -/
structure Copy where
  /-- a CPYT, and its descriptor once it has been read (R271, R275) -/
  tensor : Bool
  desc : List Byte
  /-- descriptor address of a CPYT, source of a CPY -/
  src : DWord
  dst : DWord
  len : Nat
  ctl : Word
  post : Bool
  caddr : DWord
  cval : DWord
  /-- elements or bytes done; the progress tuple of a restored CPYT until its descriptor is read (R274) -/
  prog : Nat
  tup : DWord
  st : CopyState
  blk : Nat
  grp : Nat
  lane : Nat
  core : Nat
  asid : Nat
  /-- 0 while in the open set -/
  batch : Word
  wraps : Nat
  /-- the block's reuse clock at its acceptance (R149, R221) -/
  clock : Word
  flag : Option Nat
  leave : Bool
  asked : Bool
  /-- held in a save record (R267) -/
  saved : Bool
  /-- its batch's failure has been reported (R269) -/
  reported : Bool
  /-- path A's operations of the same issue: where their identities begin and end (R152) -/
  after : Option (Nat × Nat)
  /-- holds counted for the piece it waits for (R214, R298, R356) -/
  counted : List Nat
  deriving DecidableEq, Repr

/-- One core. -/
structure Core where
  bankrole : DWord
  tcb : DWord
  /-- accumulator tiles (key 4096 × tile + 64 × row + column) -/
  tiles : Cells 32
  mq : List MOp
  /-- groups that issued in this cycle (R36) -/
  issued : List (Nat × Nat)
  deriving DecidableEq, Repr

/-- A request for power leave (R359): the core, whether its copy engine asks, the operation, and the hub cycle in which it
arrived. -/
structure LeaveReq where
  core : Nat
  engine : Bool
  id : Nat
  at_ : Nat
  deriving DecidableEq, Repr

/-- A compute die: who waits for leave (R359), and a debugger's hold (R293). -/
structure Die where
  /-- what the arithmetic clock stood at when the die's cores left reset (R41) -/
  base : DWord
  taken : Nat
  /-- the banks of its cores that boot firmware has reported unusable, a bit per bank (R53) -/
  unusable : Cells 32
  /-- in the order in which they are granted -/
  queue : List LeaveReq
  hold : Bool
  deriving DecidableEq, Repr

/-- A TLB entry (R319): the page, its level and its leaf. -/
structure TlbEnt where
  asid : Nat
  vpn : Nat
  level : Nat
  leaf : DWord
  deriving DecidableEq, Repr

/-- An instruction-cache line (R40, R164): its text as fetched, and the contexts that pin it. -/
structure ILine where
  asid : Nat
  va : DWord
  global : Bool
  /-- the level of the translation it was fetched through (R321), and the physical line -/
  level : Nat
  line : Nat
  words : List DWord
  /-- the sectors that came poisoned (R291) -/
  bad : BitVec 4
  pins : List Nat
  deriving DecidableEq, Repr

/-- One cluster. -/
structure Cluster where
  tlb : List TlbEnt
  /-- oldest fill first -/
  icache : List ILine
  /-- the reverse map (R320): physical line, ASID, virtual line; oldest first -/
  rmap : List (Nat × Nat × Nat)
  deriving DecidableEq, Repr

/-- A line of a cache and its replacement fields (R221). -/
structure CLine where
  tag : Nat
  asid : Nat
  set : Nat
  way : Nat
  sectors : BitVec 4
  evictFirst : Bool
  deadline : Option Word
  owner : Nat
  stamp : Nat
  /-- counted for a context under R224, or marked demoted -/
  counted : Option Nat
  demoted : Bool
  /-- the clusters whose L1s may hold each sector (R218): bit 16 × sector + cluster -/
  presence : DWord
  /-- the frame of an MSC line (R219); the physical line of an L1 or L2 line -/
  frame : Nat
  /-- an L1 line's translation, from the fill (R319) -/
  leaf : LeafBits
  /-- the units that an MSC line takes in its frame (R219) -/
  units : Nat := 0
  deriving DecidableEq, Repr

/-- An owner-table entry (R221); owner 0 is a free entry. -/
structure Owner where
  owner : Nat
  seen : Word
  idle : Nat
  asid : Nat
  deriving DecidableEq, Repr

/-- One cache: an L1, an L2 slice or an MSC. -/
structure Cache where
  lines : List CLine
  owners : List Owner
  count : Nat
  deriving DecidableEq, Repr

/-- A cached sector of a software-managed page (R258): where it is, its bytes, and the bytes that are dirty. -/
structure SwmCopy where
  /-- an L1 by its core, or an L2 by 2048 + die -/
  cache : Nat
  sector : Nat
  bytes : List Byte
  dirty : DWord
  deriving DecidableEq, Repr

/-- A context (R329). -/
structure Ctx where
  root : Nat
  trapvec : DWord
  nearq : DWord
  status : Nat
  saveBase : Nat
  saveSlots : Nat
  /-- save frames in use -/
  frames : List Nat
  /-- launch queues: base, LOG2N, HEAD -/
  queues : List (Nat × Nat × DWord)
  tdmask : DWord
  /-- CTXTEAR has been received: report address and the counts so far (launches, raced, groups, copies, faults) -/
  tearing : Option (Nat × List Nat)
  deriving DecidableEq, Repr

/-- A rung of a ladder (R188). -/
structure Rung where
  entry : DWord
  frame : Nat
  regs : Nat
  hold : Nat
  ring : Nat
  deriving DecidableEq, Repr

/-- A ladder descriptor (R188). -/
structure Ladder where
  items : Nat
  rbase : DWord
  rstride : Nat
  doneAddr : DWord
  doneVal : DWord
  rungs : List Rung
  deriving DecidableEq, Repr

/-- A staging entry (R225). -/
structure Stage where
  src : DWord
  stride : DWord
  dst : Nat
  len : Nat
  deriving DecidableEq, Repr

/-- What a launch is doing (R336). -/
inductive LState where
  | waiting | ready | dispatching | running | done | discarded
  deriving DecidableEq, Repr

/-- An accepted launch (R332, R333, R336). -/
structure Launch where
  asid : Nat
  /-- a device-side launch, with what R342 reports of its issuer: group, core, block field -/
  device : Option (Nat × Nat × Word)
  queue : Nat
  desc : DWord
  entry : DWord
  arg : DWord
  cohorts : Nat
  lanes : Nat
  regs : Nat
  lstore : Nat
  blocks : Nat
  oslots : Nat
  spread : Bool
  tag : Word
  ladder : Option Ladder
  stages : List Stage
  caddr : DWord
  cval : DWord
  prio : Nat
  /-- effective priority, and the hub cycle its ageing counts from (R337) -/
  eff : Nat
  ageFrom : Nat
  /-- the hub cycle since which it has found no room (R339) -/
  roomFrom : Option Nat
  /-- dependence words not yet met -/
  deps : List (DWord × DWord)
  st : LState
  readyOrder : Nat
  /-- its place among launches of equal priority (R337) -/
  turn : Nat
  nextCohort : Nat
  doneCount : Nat
  ladderDone : Bool
  /-- the code of the first stop record (R347) and of a FAILED batch (R270) -/
  firstStop : Option (BitVec 8)
  failCode : Option (BitVec 8)
  /-- when it became resident on a core, for R197 -/
  residentOrder : Nat
  deriving DecidableEq, Repr

/-- A fault-queue entry (R305, R342), before SEQ is assigned. -/
structure FqEntry where
  id : Nat
  bytes : List Byte
  deriving DecidableEq, Repr

/-- What waits for a translation-fault entry (R306, R308). -/
inductive Waiter where
  | group (blk grp : Nat)
  | copy (id : Nat)
  | staging (blk : Nat)
  deriving DecidableEq, Repr

/-- An outstanding translation-fault entry. -/
structure Outst where
  id : Nat
  asid : Nat
  va : DWord
  /-- SEQ once appended -/
  seq : Option Word
  waiter : Waiter
  deriving DecidableEq, Repr

/-- A reduction window (R278, R282). -/
structure Window where
  base : Nat
  out : Nat
  count : Nat
  op : Nat
  ty : Nat
  expect : Nat
  doneAddr : Nat
  doneVal : DWord
  received : Nat
  discarded : Nat
  done : Bool
  deriving DecidableEq, Repr

/-- A reduction contribution on its way to a window of this package, or to another one (R280, R281). -/
structure Contrib where
  id : Nat
  fid : Nat
  win : Nat
  elem : Nat
  op : Nat
  ty : Nat
  value : BitVec 128
  count : Nat
  /-- the lane that made it, for its order with that lane's later accesses (R284), and its launch (R335); none for a message's -/
  lane : Option (Nat × Nat × Nat)
  launch : Option Nat
  /-- the message that brought it, until that is whole (R283) -/
  msg : Option (Nat × Nat)
  /-- its hold for the service of its element's home has been counted (R356) -/
  held : Bool
  deriving DecidableEq, Repr

/-- A region of the remote access unit (R299). -/
structure Region where
  base : Nat
  len : Nat
  key : Word
  perm : BitVec 8
  st : Nat
  inflight : Nat
  deriving DecidableEq, Repr

/-- Why a remote message is refused, or a write discarded (R300). -/
inductive Refuse where
  | key | bounds | perm | domain | timeout
  deriving DecidableEq, Repr

/-- A remote message (R300). -/
structure Remote where
  id : Nat
  conn : Nat
  seq : Nat
  region : Nat
  base : Nat
  length : Nat
  write : Bool
  packets : Nat
  /-- packets arrived and the bytes they carried -/
  got : List Nat
  bytes : List (Nat × List Byte)
  /-- the hub cycle of the last packet -/
  lastAt : Nat
  /-- refused, or discarded whole: it only keeps its place in the sequence -/
  refused : Option Refuse
  deriving DecidableEq, Repr

/-- A span entry of the hub (R257): a page of another package that this one holds, or one of its own that others hold; the
fields of R208, the link mask over the Prawell ports; held M, here or there. -/
structure Span where
  links : BitVec 8
  up : Nat
  root : Bool
  m : Bool
  /-- the sectors of another package's page whose bytes have come -/
  got : DWord
  deriving DecidableEq, Repr

/-- An inter-package message being assembled (R283). -/
structure Inbound where
  fid : Nat
  msg : Nat
  count : Nat
  got : List Nat
  /-- payload writes, and what its contributions have counted so far: window, received, discarded; both wait for the whole
  message -/
  writes : List (Nat × List Byte)
  counts : List (Nat × Nat × Nat)
  deriving DecidableEq, Repr

/-- What a unit of the hub does at a home: it writes bytes, a completion word of a window or a launch (see `Ev.id`), or performs an
atomic ADD or OR to a word; the host writes or reads some bytes (R191, R282, R303, R330, R335, R356). -/
inductive HubWrite where
  | bytes (bs : List Byte)
  | host (bs : List Byte)
  | word (v : DWord) (id : Nat)
  | add (n : Nat)
  | or (v : DWord)
  | share (n : Nat)
  deriving DecidableEq, Repr

/-- An access of the hub that is held until its homes can perform it (R303, R356, R363): where, what, whether it is of the mailbox
command that runs, and the context whose completion word it is (R338). -/
structure HeldWrite where
  key : Nat
  what : HubWrite
  own : Bool
  ctx : Option Nat
  deriving DecidableEq, Repr

/-- What a mailbox command waits for whose memory is not in service (R356): its bytes, or that its own are written. -/
inductive CmdWait where
  | nothing | reads | writes
  deriving DecidableEq, Repr

/-- The hub. -/
structure Hub where
  /-- hub cycles of the 2 GHz mesh clock -/
  cycle : Nat
  busy : Bool
  code : BitVec 8
  marg : List DWord
  result : BitVec 8
  fqbase : DWord
  fqtail : DWord
  fqhead : DWord
  /-- SEQ of the next entry appended (R305) -/
  seq : Word
  held : List FqEntry
  outst : List Outst
  tinv : DWord
  /-- operations that may have used a removed translation: BUSY reads 1 while one is not performed (R321) -/
  tinvOps : List Nat
  kres : List (Nat × Nat)
  kresLock : Bool
  interleave : Cells 16
  /-- frames of 4 KiB that HBM holds (R295, R296) -/
  hbmFrames : Nat
  /-- frames of the healthy channels that no page uses: the stranded remainder (R296) -/
  stranded : Nat
  /-- lost domains by bit of R57 (R289) -/
  lost : BitVec 32
  /-- pool ranges: base, size, domain (R304) -/
  pools : Tbl (Nat × Nat × Nat)
  fid : Nat
  routes : Cells 8
  linkUp : BitVec 8
  inbound : List Inbound
  contribs : List Contrib
  windows : Tbl Window
  /-- the migration table as 64-bit words (key 8 × entry + word) -/
  mig : Cells 64
  regions : Tbl Region
  /-- live connections whose state the hub caches, with the sequence number of the message to be performed next -/
  conns : Tbl Nat
  remotes : List Remote
  regtable : Option (Nat × Nat × Nat × Nat)
  /-- the completion words of revocations in progress, by region -/
  revokes : Tbl Nat
  /-- the cached regions and the cached connections, latest used last; those whose entry is in the host-memory tables; the
  live connections by their place in the table (R299) -/
  regUsed : List Nat
  connUsed : List Nat
  regSpilled : List Nat
  connSpilled : List Nat
  connPlace : List Nat
  /-- misses of the two caches, and writes discarded because their packets stopped (R299, R300) -/
  missed : Nat
  timedOut : Nat
  /-- refusals that the remote access unit has answered with: connection, sequence number, kind (R299, R300) -/
  refusals : List (Nat × Nat × Refuse)
  /-- span entries by page (R257) -/
  spans : Tbl Span
  /-- fenced agents (R292), and those that passed bring-up again since -/
  fenced : BitVec 25
  requalified : BitVec 25
  /-- memory dies re-admitted with every sector poisoned (R292) -/
  mdPoison : BitVec 8
  placeHalt : Bool
  /-- how often MSI-X vectors 0 and 1 were signalled -/
  msix0 : Nat
  msix1 : Nat
  /-- sectors of this package's memory that the host holds (R303) -/
  hostHeld : List Nat
  /-- accesses of the hub's units held until their homes can perform them, and whether a command waits there (R303, R356, R363) -/
  waiting : List HeldWrite
  cmd : CmdWait
  /-- entries of the migration table whose activation waits for the service of their leaf's home (R325, R356) -/
  activating : List Nat
  /-- sectors for which a hold of a request of the hub has been counted (R356) -/
  noted : List Nat
  /-- sectors of host and pool memory whose bytes have come for a walk or for a unit of the hub (R303) -/
  fetched : List Nat
  /-- host and pool sectors whose outward grant is exclusive -/
  outward : List Nat
  deriving DecidableEq, Repr

/-- A message type of R246. -/
inductive MsgType where
  | rd | own | data | nh | inv | ack | prune | pack | unlink | wb | wba | refuse
  deriving DecidableEq, Repr

/-- A coherence message in flight (R245): its fields, the stop it has reached, and the requests it belongs to. -/
structure Msg where
  typ : MsgType
  line : Nat
  smask : BitVec 4
  /-- the requesting slice: its die, and its request -/
  die : Nat
  req : Nat
  inc : BitVec 8
  agent : Nat
  grant : BitVec 3
  pers : Bool
  need : Bool
  pruned : Bool
  /-- direction of travel: 0 none, 1 N, 2 E, 3 S, 4 W -/
  dir : Nat
  /-- the stop the message is at, and the stop it travels to -/
  x : Nat
  y : Nat
  tx : Nat
  ty : Nat
  /-- the routers that steered the read, latest first: stop number 20 y + x, the links tried there (TRIED), and the direction
  in which the read came (R247) -/
  trail : List (Nat × BitVec 5 × Nat)
  /-- where the catch of a read stands in the order of the device's messages (R251) -/
  caught : Nat
  /-- the router that caught the read before it went on to the root: the answer passes back through it (R247, R249) -/
  via : Option Nat
  /-- an RD that its catcher sent on to the root (R247) -/
  rooted : Bool
  /-- a REFUSE that does not count toward the 8 (R254) -/
  uncounted : Bool
  /-- the die whose copy an INV leaves alone (R248) -/
  exempt : Option Nat
  /-- the wait for its home's service has been counted (R356) -/
  noted : Bool
  /-- delivered to the local port rather than to a router -/
  atLocal : Bool
  deriving DecidableEq, Repr

/-- A tree entry of a router (R208), with the acknowledgements it waits for. -/
structure TreeEnt where
  x : Nat
  y : Nat
  line : Nat
  /-- bit 0 local, 1 N, 2 E, 3 S, 4 W (the order of TRIED, R245) -/
  links : BitVec 5
  up : Nat
  root : Bool
  /-- requests that hold the line transient here (R249) -/
  transient : List Nat
  evicting : Bool
  /-- links whose ACK or PACK is awaited, and the dirty sectors collected; the request or the eviction it is for, and the side
  that asked and is answered (0: none, at the root or where the eviction began) -/
  awaiting : BitVec 5
  dirty : BitVec 4
  awaitReq : Nat
  asker : Nat
  /-- chosen as a victim while acknowledgements are awaited: evicted once they have merged (R207, R249) -/
  doomed : Bool
  /-- order of creation or last forwarding (R207) -/
  stamp : Nat
  way : Nat
  /-- this router chose it as a victim (R211) -/
  origin : Bool
  deriving DecidableEq, Repr

/-- What a request carries for replacement (R221): its class, its clock and its owner. -/
structure Want where
  cls : Nat
  clock : Word
  owner : Nat
  deriving DecidableEq, Repr

/-- An outstanding request of a slice (R245, R255). -/
structure Req where
  die : Nat
  line : Nat
  smask : BitVec 4
  own : Bool
  need : Bool
  /-- the store covers every sector of its mask, and the slice held them all when it asked (R244, R248, R251) -/
  whole : Bool
  held : Bool
  /-- TAG: unique per requesting slice while outstanding (R245) -/
  tag : BitVec 12
  refusals : Nat
  pers : Bool
  core : Nat
  asid : Nat
  /-- the core's clock when the request was made or its timer restarted -/
  clock : DWord
  /-- the agent that last received it -/
  agent : Nat
  reported : Bool
  /-- waits for an outward grant or a host back-invalidation at the hub (R303); the message that resumes -/
  outward : Option Msg
  /-- the hub cycle in which it went outward; a pool-silent record has been written (R289) -/
  outAt : Nat
  outReported : Bool
  /-- snoops and far operations have no requester (R251, R160); a snoop leaves the sectors invalid outward (R303) -/
  noGrant : Bool
  snoop : Bool
  /-- the fill of a software-managed sector from the host or the pool (R258, R303) -/
  swm : Bool
  want : Want
  deriving DecidableEq, Repr

/-- The mesh: router trees, messages, requests, sector states (R207–R212, R244–R256). -/
structure Mesh where
  trees : List TreeEnt
  msgs : Tbl Msg
  reqs : Tbl Req
  /-- state of a sector in a die's slice (key 16 × sector + die): 0 I, 1 S, 2 E, 3 O, 4 M -/
  sect : Cells 3
  /-- what the home holds of sectors whose latest bytes have not reached it yet (R219, R244) -/
  stale : Tbl (List Byte)
  /-- the OWN being served at a root: line, request (R248) -/
  serving : List (Nat × Nat)
  /-- persistent requests at a home stop in arrival order: stop key, request (R252) -/
  persist : List (Nat × Nat)
  inc : Cells 8
  tclimit : List (Nat × Nat)
  /-- slices whose data array is in retention: die, slice (R254) -/
  retained : List (Nat × Nat)
  stamp : Nat
  deriving DecidableEq, Repr

/-- The security block and boot (R354–R363). -/
structure Boot where
  level : BitVec 2
  bootstat : BitVec 4
  /-- external flash -/
  flash : Cells 8
  /-- the booted record -/
  record : Option (List Byte)
  fwMeasure : List Byte
  recMeasure : List Byte
  pubkey : List Byte
  /-- agents that passed, and that failed, bring-up -/
  passed : BitVec 25
  failed : BitVec 25
  /-- channels (64 × MD + 32 × STACK + CH) trained at half rate, at full rate, and that cannot train at full rate -/
  half : List Nat
  full : List Nat
  stuck : List Nat
  /-- IDE keys of the host and pool ports -/
  ideHost : Option DWord
  idePool : Option DWord
  deriving DecidableEq, Repr

/-- How the instruction at issue ended. -/
inductive Result where
  | none | done | trapped
  /-- for these entries: the page, the lanes that missed in it, the kind (R306) -/
  | parked (lanes : DWord) (entries : List (DWord × DWord × Nat))
  /-- it cannot issue yet (R28); the event that the reason counts, if any -/
  | stalled (why : Option Nat)
  /-- it can issue, and has its effect after path A's operations of the same issue (R28, R152) -/
  | behind
  deriving DecidableEq, Repr

/-- The path at issue (model's own): block, group, lanes, PC, its group as it stood before the issue (R28, R123), and the
result. -/
structure Cursor where
  blk : Nat
  grp : Nat
  lanes : DWord
  pc : DWord
  forced : Bool
  before : Group
  result : Result
  /-- path B of its issue, and the identities handed out before the issue (R149, R152) -/
  pathB : Bool
  firstId : Nat
  /-- where the identities of path A end, for path B -/
  lastId : Nat
  /-- path A of the same issue has had its effect (R28) -/
  follows : Bool
  deriving DecidableEq, Repr

/-- The device. -/
structure State where
  agenda : List Action
  tick : Nat
  fresh : Nat
  nextId : Nat
  cur : Cursor
  mem : Memory
  /-- poisoned sectors (R291; the sense is turned round for the sectors of `hub.mdPoison`), and the bytes last use or CDISC left unspecified (R156, R163), by sector key -/
  poison : Cells 1
  dead : Cells 64
  /-- which drop left a sector's dead bytes, by sector: one drop leaves one value (R229) -/
  deadId : Tbl Nat
  cores : Tbl Core
  dies : Tbl Die
  clusters : Tbl Cluster
  blocks : Tbl Block
  ops : Tbl Op
  /-- the candidate execution, while it is kept; without it every access is performed in its order and reads what memory
  holds (R240, log entry 14) -/
  trace : Option Trace
  monitors : List Monitor
  copies : Tbl Copy
  ctxs : Tbl Ctx
  launches : Tbl Launch
  rings : Tbl Ring
  /-- phases of the cohort barriers (key 4 × cohort key + barrier) -/
  cbars : Tbl Nat
  hub : Hub
  mesh : Mesh
  caches : Tbl Cache
  swm : List SwmCopy
  /-- frames reached through a software-managed page since the last TINV: they behave as such for every access (R259) -/
  swmFrames : List Nat
  boot : Boot
  /-- performance events (key 64 × die + event) -/
  counters : Cells 64
  deriving DecidableEq, Repr

/-- A lane that has not started: every register zero (R42). -/
def Lane.init : Lane :=
  { kind := .empty, pc := 0#64, pos := none, v := [], p := 0#96, x := [], wait := .running, w := 0, cause := 0#8,
    tval := 0#64, epc := 0#64, inHandler := false, rhdr := 0#64, rpos := none, batch := 0#32, wraps := 0,
    item := 0#32, done := false, froms := [] }

/-- A group that has not started (R42). -/
def Group.init : Group :=
  { rung := 0, lanes := [], s := [], flags := List.replicate 12 0, recon := [], choice := [], forceq := [],
    active := false, quantum := 0, lastIssue := 0#64, since := 0, parked := [], parkLanes := 0#64, parkPc := 0#64,
    pendTrap := none, stopped := false, ended := false, frozen := none, yielded := false, stalls := [], full := false, fills := [], lates := [] }

/-- A block that is not there: no registers, no lanes, no local store. -/
def Block.init : Block :=
  { asid := 0, launch := 0, cohort := 0, no := 0, packed := none, core := 0, resident := false, started := false,
    order := 0, startOrder := 0, owner := 0, regs := 0, lanes := 0, lstore := 0, oslots := 0, reuse := 0#32, bars := [], ls := [], lsDef := [],
    lsBase := 0, mconf := false, claimed := 0#64, slots := [], savedMma := [], savedEpmm := 0#64, savedTcb := 0#64,
    savedTiles := [], groups := [], staging := none, failCode := none, frame := none, leaving := false, savedOps := [], rings := [], share := 0, cluster := 0, spoiled := false }

/-- A core after reset (R41, R53; tiles and TCB: log entry 3). -/
def Core.init : Core :=
  { bankrole := 0xFFFFFFFFFFFFFFFF#64, tcb := 0#64, tiles := [], mq := [], issued := [] }

def Die.init : Die := { base := 0#64, taken := 0, unusable := [], queue := [], hold := false }

def Cluster.init : Cluster := { tlb := [], icache := [], rmap := [] }

def Cache.init : Cache := { lines := [], owners := [], count := 0 }

/-- A context that is not live. -/
def Ctx.init : Ctx :=
  { root := 0, trapvec := 0#64, nearq := 256#64, status := 0, saveBase := 0, saveSlots := 0, frames := [], queues := [],
    tdmask := 0#64, tearing := none }

/-- A launch that is not there. -/
def Launch.init : Launch :=
  { asid := 0, device := none, queue := 0, desc := 0#64, entry := 0#64, arg := 0#64, cohorts := 1, lanes := 1, regs := 8,
    lstore := 0, blocks := 1, oslots := 0, spread := false, tag := 0#32, ladder := none, stages := [], caddr := 0#64,
    cval := 0#64, prio := 0, eff := 0, ageFrom := 0, roomFrom := none, deps := [], st := .waiting, readyOrder := 0, turn := 0,
    nextCohort := 0, doneCount := 0, ladderDone := false, firstStop := none, failCode := none, residentOrder := 0 }

def Ring.init : Ring := { frames := [], forced := false, firing := none }

def Bar.init : Bar := { phase := 0, pending := 0 }

/-- The hub after reset (R286, R294, R317, R321, R341; log entries 4 to 7). -/
def Hub.init : Hub :=
  { cycle := 0, busy := false, code := 0#8, marg := [0#64, 0#64, 0#64, 0#64], result := 0#8, fqbase := 0#64,
    fqtail := 0#64, fqhead := 0#64, seq := 0#32, held := [], outst := [], tinv := 0#64,
    tinvOps := [], kres := List.replicate 16 (0, 0), kresLock := false, interleave := [], hbmFrames := 0, stranded := 0, lost := 0#32,
    pools := [], fid := 0, routes := [], linkUp := 0xFF#8, inbound := [], contribs := [],
    windows := [], mig := [], regions := [], conns := [], remotes := [], regtable := none, revokes := [], regUsed := [],
    connUsed := [], regSpilled := [], connSpilled := [], connPlace := [], missed := 0, timedOut := 0, refusals := [], spans := [],
    fenced := 0#25,
    requalified := 0#25, mdPoison := 0#8, placeHalt := false, msix0 := 0, msix1 := 0, hostHeld := [], waiting := [], cmd := .nothing, activating := [],
    noted := [], fetched := [], outward := [] }

/-- The mesh after reset: no tree, no message, every sector I, every incarnation 0 (R255). -/
def Mesh.init : Mesh :=
  { trees := [], msgs := [], reqs := [], sect := [], stale := [], serving := [], persist := [], inc := [], tclimit := [],
    retained := [], stamp := 0 }

/-- The security block after reset, before it has read the flash (R354, R355, R357, R362; log entry 8). -/
def Boot.init : Boot :=
  { level := 0#2, bootstat := 0#4, flash := [], record := none
    fwMeasure := (List.range 64).map Config.firmwareDigest, recMeasure := (List.range 64).map (Config.sha512 [])
    pubkey := (List.range 32).map Config.identityKey,
    passed := 0#25, failed := 0#25, half := [], full := [], stuck := [], ideHost := none, idePool := none }

def Cursor.init : Cursor :=
  { blk := 0, grp := 0, lanes := 0#64, pc := 0#64, forced := false, before := Group.init, result := .none, pathB := false, firstId := 0, lastId := 0,
    follows := false }

/-- The device right after reset. -/
def State.reset : State :=
  { agenda := [], tick := 0, fresh := 0, nextId := 1, cur := Cursor.init, mem := [], poison := [], dead := [], deadId := [],
    cores := [], dies := [], clusters := [], blocks := [], ops := [], trace := none, monitors := [], copies := [], ctxs := [], launches := [],
    rings := [], cbars := [], hub := Hub.init, mesh := Mesh.init, caches := [], swm := [], swmFrames := [], boot := Boot.init,
    counters := [] }

end Sys2Proof.Machine
end

