-- ==== Sys2Proof/Machine/Base.lean ====
section
/-!
DEFINITION. Reading and changing the parts of the state: cores, blocks, groups, lanes, launches, counters, bytes of
memory and of local store. Every meaning goes through these.
-/
namespace Sys2Proof.Machine

/-- The lanes of a mask, ascending. -/
def lanesOf (m : DWord) : List Nat := (List.range 64).filter fun i => m.getLsbD i

/-- The mask of the lanes that satisfy a test. -/
def maskOf (p : Nat → Bool) : DWord :=
  (List.range 64).foldl (fun m i => if p i then m ||| (1#64 <<< i) else m) 0#64

/-- One lane's mask. -/
def laneBit (i : Nat) : DWord := 1#64 <<< i

/-- The number of lanes of a mask. -/
def countLanes (m : DWord) : Nat := (lanesOf m).length

/-- The lowest lane of a mask: the elected lane (R71, R172). -/
def lowest (m : DWord) : Nat := (lanesOf m).headD 0

/-- Bits [hi:lo] of a value, as a number. -/
def bits {w : Nat} (v : BitVec w) (lo n : Nat) : Nat := (v.extractLsb' lo n).toNat

namespace State

/-- One core (R41, R42). -/
def core (s : State) (c : Nat) : Core := s.cores.getD c Core.init

/-- Change one core. -/
def setCore (s : State) (c : Nat) (k : Core) : State := { s with cores := s.cores.set c k }

/-- One compute die. -/
def die (s : State) (d : Nat) : Die := s.dies.getD d Die.init

def setDie (s : State) (d : Nat) (k : Die) : State := { s with dies := s.dies.set d k }

/-- One cluster (R217: cluster c of die d is number 16 d + c, which is core / 8). -/
def cluster (s : State) (c : Nat) : Cluster := s.clusters.getD c Cluster.init

def setCluster (s : State) (c : Nat) (k : Cluster) : State := { s with clusters := s.clusters.set c k }

/-- One block; a block that is not there has no lanes. -/
def block (s : State) (b : Nat) : Block := s.blocks.getD b Block.init

def setBlock (s : State) (b : Nat) (k : Block) : State := { s with blocks := s.blocks.set b k }

/-- Change a block that is there. -/
def onBlock (s : State) (b : Nat) (f : Block → Block) : State := { s with blocks := s.blocks.modify b f }

/-- One group of a block. -/
def group (s : State) (b g : Nat) : Group := (s.block b).groups.getD g Group.init

/-- Put a group at its place in a block that is there. -/
def setGroup (s : State) (b g : Nat) (k : Group) : State :=
  s.onBlock b fun blk => { blk with groups := blk.groups.set g k }

def onGroup (s : State) (b g : Nat) (f : Group → Group) : State := s.setGroup b g (f (s.group b g))

/-- One lane of a group. -/
def lane (s : State) (b g l : Nat) : Lane := (s.group b g).lanes.getD l Lane.init

/-- Change the lanes of a mask. -/
def onLanes (s : State) (b g : Nat) (m : DWord) (f : Nat → Lane → Lane) : State :=
  s.onGroup b g fun grp =>
    { grp with lanes := grp.lanes.mapIdx fun i ln => if m.getLsbD i then f i ln else ln }

/-- One context (R329). -/
def ctx (s : State) (a : Nat) : Ctx := s.ctxs.getD a Ctx.init

def setCtx (s : State) (a : Nat) (k : Ctx) : State := { s with ctxs := s.ctxs.set a k }

/-- Change a context that is live. -/
def onCtx (s : State) (a : Nat) (f : Ctx → Ctx) : State := { s with ctxs := s.ctxs.modify a f }

/-- One launch. -/
def launch (s : State) (l : Nat) : Launch := s.launches.getD l Launch.init

def onLaunch (s : State) (l : Nat) (f : Launch → Launch) : State := { s with launches := s.launches.modify l f }

/-- One ring (R196). -/
def ring (s : State) (k : Nat) : Ring := s.rings.getD k Ring.init

def setRing (s : State) (k : Nat) (r : Ring) : State :=
  if r.frames = [] then { s with rings := s.rings.erase k } else { s with rings := s.rings.set k r }

/-- Count performance events (R364). -/
def count (s : State) (die ev : Nat) (n : Nat := 1) : State :=
  { s with counters := s.counters.set (64 * die + ev) (s.counters.get (64 * die + ev) + BitVec.ofNat 64 n) }

/-- A new identity for a part of the model. -/
def bumpId (s : State) : State := { s with nextId := s.nextId + 1 }

/-- Take the next free value. -/
def bumpFresh (s : State) : State := { s with fresh := s.fresh + 1 }

/-- Put an action at the end of the agenda. -/
def later (s : State) (a : Action) : State := { s with agenda := s.agenda ++ [a] }

end State

/-- The die and the cluster of a core (R217). -/
def dieOf (core : Nat) : Nat := core / Config.coresPerDie
def clusterOf (core : Nat) : Nat := core / Config.coresPerCluster

/-- z.clock of a core (R41): the arithmetic cycles, one for two hub cycles, since its die's cores left reset. R41 relates no two
cores' counts; here all of them count the hub's cycles, so that those of one die agree and those of two dies differ by a constant
(DESIGN CHOICE, log entry 83). -/
def State.clock (s : State) (core : Nat) : DWord :=
  BitVec.ofNat 64 (s.hub.cycle / 2) - (s.die (dieOf core)).base

/-- The moment at which a group becomes pending, for the order of R37: groups that one resolve record makes ready in one
cycle are told apart by what is added to it (R308). -/
def State.now (s : State) : Nat := s.hub.cycle * 2 ^ 20

/-- The die number of the hub in R57 and R287. -/
def hubDie : Nat := 24

/-- The place of a ring: its core, launch and rung (R188). -/
def ringKey (core launch rung : Nat) : Nat := (launch * Config.numCores + core) * 4 + rung

/-- The number of a block: its launch and its entry z.cohort × 8 + z.block (R213); packed groups, each with an identity of its
own, stand above. -/
def blockKey (launch entry : Nat) : Nat := launch * 2 ^ 20 + entry
def packedKey (id : Nat) : Nat := 2 ^ 64 + id

/-- A byte's key: its tier (R312) and its physical address. -/
def memKey (tier pa : Nat) : Nat := tier * 2 ^ 52 + pa
def keyTier (key : Nat) : Nat := key / 2 ^ 52
def keyPa (key : Nat) : Nat := key % 2 ^ 52

/-- The sector of a byte (R216). -/
def sectorOf (key : Nat) : Nat := key / 64

/-- A memory byte was declared dead and not written since (R156, R163). -/
def State.isDead (s : State) (key : Nat) : Bool := (s.dead.get (sectorOf key)).getLsbD (key % 64)

/-- One byte of memory; a dead byte is a free value, one for each drop (R156, R229). -/
def State.memByte (s : State) (key : Nat) : Byte :=
  if s.isDead key then Config.freeByte (s.deadId.getD (sectorOf key) 0) key else s.mem.get key

/-- n bytes of memory. -/
def State.memBytes (s : State) (key n : Nat) : List Byte := (List.range n).map fun i => s.memByte (key + i)

/-- A 64-bit word of memory (R72). -/
def State.memDWord (s : State) (key : Nat) : DWord := BitVec.ofNat 64 (ofBytes (s.memBytes key 8))

/-- Something reaches a sector, and triggers the monitors that watch it (R143); the sector as `Loc.sector` numbers it. -/
def reached (sector : Nat) (ms : List Monitor) : List Monitor :=
  ms.map fun m => if m.sector == sector then { m with trig := true } else m

def State.reach (s : State) (sector : Nat) : State := { s with monitors := reached sector s.monitors }

/-- Write one byte of memory; the write defines a dead byte again (R156) and triggers the sector's monitors (R143). -/
def State.setMemByte (s : State) (key : Nat) (b : Byte) : State :=
  { s with
    mem := s.mem.set key b
    monitors := reached (2 * (key / 64)) s.monitors
    dead := s.dead.set (sectorOf key) (s.dead.get (sectorOf key) &&& ~~~(1#64 <<< (key % 64))) }

/-- Write bytes at consecutive addresses. -/
def State.putMemBytes (s : State) (key : Nat) : List Byte → State
  | [] => s
  | b :: bs => (s.setMemByte key b).putMemBytes (key + 1) bs

/-- A byte of local store has been written since the block started (R42). -/
def Block.lsWritten (b : Block) (off : Nat) : Bool := (b.lsDef.get (off / 64)).getLsbD (off % 64)

/-- One byte of a block's local store; before it is written it is a free value (R42). -/
def State.lsByte (s : State) (blk off : Nat) : Byte :=
  let b := s.block blk
  if b.lsWritten off then b.ls.get off else Config.freeByte 0 (blk * 2 ^ 21 + off)

/-- Write one byte of local store. -/
def Block.setLs (b : Block) (off : Nat) (v : Byte) : Block :=
  { b with
    ls := b.ls.set off v
    lsDef := b.lsDef.set (off / 64) (b.lsDef.get (off / 64) ||| (1#64 <<< (off % 64))) }

/-- The location some bytes on. -/
def Loc.at_ : Loc → Nat → Loc
  | .mem k, i => .mem (k + i)
  | .ls b o, i => .ls b (o + i)

/-- One byte of a location (R227). -/
def State.locByte (s : State) (l : Loc) (i : Nat) : Byte :=
  match l with
  | .mem k => s.memByte (k + i)
  | .ls b o => s.lsByte b (o + i)

/-- n bytes of a location. -/
def State.locBytes (s : State) (l : Loc) (n : Nat) : List Byte := (List.range n).map fun i => s.locByte l i

/-- A write of n bytes of a location, by a unit of the device until another agent is named (R229). -/
def State.writeEv (s : State) (l : Loc) (n : Nat) : Ev :=
  { who := .unit, id := 0, reads := false, writes := true, acq := false, rel := false, scope := 4, fence := none, atomic := false
    loc := l, n := n, after := none, copy := false, bar := none, swm := false, queue := none, saw := 0, old := s.locBytes l n }

/-- While the candidate execution is kept, a write is noted with the bytes it replaces. -/
def State.record (s : State) (l : Loc) (n : Nat) : State :=
  { s with trace := s.trace.map fun t => { t with evs := t.evs ++ [s.writeEv l n] } }

/-- Write bytes of memory. -/
def State.setMemBytes (s : State) (key : Nat) (bs : List Byte) : State := (s.record (.mem key) bs.length).putMemBytes key bs

/-- Declare every byte of a sector dead (R156, R163). -/
def State.killSector (s : State) (sector : Nat) : State :=
  { s.record (.mem (64 * sector)) 64 with
    dead := s.dead.set sector (BitVec.allOnes 64)
    deadId := s.deadId.set sector s.fresh
    fresh := s.fresh + 1
    monitors := reached (2 * sector) s.monitors }

namespace State

/-- How many accesses have been performed while the candidate execution is kept. -/
def traceLen (s : State) : Nat := match s.trace with | some t => t.evs.length | none => 0

/-- Writes noted since are those of an agent outside the device. -/
def fromOutside (s : State) (since : Nat) : State :=
  { s with trace := s.trace.map fun t =>
      { t with evs := t.evs.mapIdx fun i e => if since ≤ i && e.who == .unit then { e with who := .outside } else e } }

/-- The last write noted is the completion word of a unit: a release (R191, R284, R335). -/
def asRelease (s : State) (since id : Nat) : State :=
  { s with trace := s.trace.map fun t =>
      { t with evs := t.evs.mapIdx fun i e => if since ≤ i && e.who == .unit then { e with rel := true, id := id } else e } }

/-- While the candidate execution is kept, lanes are marked; the mark is told how many accesses have been performed. -/
def mark (s : State) (m : Nat → Mark) : State :=
  { s with trace := s.trace.map fun t => { t with marks := t.marks ++ [m t.evs.length] } }

/-- An order that no access makes yet. -/
def noMark : Mark :=
  { froms := [], upto := 0, copies := [], bar := none, host := 0, all := 0, tos := [], id := 0, launch := none, scope := 4 }

end State

/-- The 64-byte sector of a location, memory and local store apart (R143). -/
def Loc.sector : Loc → Nat
  | .mem k => 2 * (k / 64)
  | .ls b o => 2 * (b * 2 ^ 15 + o / 64) + 1

/-- Write bytes of a location. A write to local store triggers the monitors of the sectors it reaches (R143). -/
def State.setLoc (s : State) (l : Loc) (bs : List Byte) : State :=
  match l with
  | .mem k => s.setMemBytes k bs
  | .ls b o =>
    let s1 := (s.record l bs.length).onBlock b fun blk => bs.foldl (fun (a : Block × Nat) v => (a.1.setLs a.2 v, a.2 + 1)) (blk, o) |>.1
    (List.range ((o % 64 + bs.length + 63) / 64)).foldl (fun t i => t.reach (Loc.sector (.ls b (o + 64 * i)))) s1

/-- Whether two ranges of locations meet (R227). -/
def Loc.meets (a : Loc) (n : Nat) (b : Loc) (m : Nat) : Bool :=
  match a, b with
  | .mem x, .mem y => decide (x < y + m) && decide (y < x + n)
  | .ls p x, .ls q y => p == q && decide (x < y + m) && decide (y < x + n)
  | _, _ => false

/-- A vector register of a lane (R42). -/
def Lane.vreg (l : Lane) (r : Nat) : Word := l.v.get r

/-- A pair: the low register holds bits 31:0 (R44). -/
def Lane.vpair (l : Lane) (r : Nat) : DWord := (l.v.get (r + 1) ++ l.v.get r : BitVec 64)

/-- Write a vector register. -/
def Lane.setV (l : Lane) (r : Nat) (x : Word) : Lane := { l with v := l.v.set r x }

/-- Write a pair (R44). -/
def Lane.setVpair (l : Lane) (r : Nat) (x : DWord) : Lane :=
  (l.setV r (x.extractLsb' 0 32)).setV (r + 1) (x.extractLsb' 32 32)

/-- A predicate of a lane (R45). -/
def Lane.pred (l : Lane) (p : Nat) : Bool := l.p.getLsbD p

/-- Write a predicate. -/
def Lane.setP (l : Lane) (p : Nat) (b : Bool) : Lane :=
  { l with p := if b then l.p ||| (1#96 <<< p) else l.p &&& ~~~(1#96 <<< p) }

/-- A uniform register of a group (R46). -/
def Group.ureg (g : Group) (r : Nat) : DWord := g.s.get r

def Group.setU (g : Group) (r : Nat) (x : DWord) : Group := { g with s := g.s.set r x }

/-- One lane of a group. -/
def Group.lane (g : Group) (i : Nat) : Lane := g.lanes.getD i Lane.init

/-- The ordinary lanes of a group: its active lanes (R33). -/
def Group.ordinary (g : Group) : DWord := maskOf fun i => (g.lane i).kind == .ordinary

/-- Whether the lane may be selected (R27). -/
def Lane.selectable (l : Lane) : Bool := l.kind == .ordinary && l.wait == .running

/-- Update a group that is gone from no launch: whether an issuing lane passes its guard (R45). -/
def Lane.guardHolds (l : Lane) (g : BitVec 8) : Bool :=
  g == 0x7F#8 || xor (l.pred (bits g 0 7)) (g.getLsbD 7)

end Sys2Proof.Machine
end

