-- ==== Sys2Proof/Machine/Service.lean ====
section
/-!
DEFINITION. Which agents are in service (R292, R354–R356). Agents are numbered as R57 numbers their bits.
-/
namespace Sys2Proof.Machine

/-- The lowest-numbered agent of a range that has passed bring-up. -/
def State.lowestPassed (s : State) (first n : Nat) : Option Nat :=
  ((List.range n).map (first + ·)).find? fun a => s.boot.passed.getLsbD a

/-- The service level has brought an agent into service (R354). -/
def State.levelServes (s : State) (a : Nat) : Bool :=
  let k := s.boot.level.toNat
  s.boot.passed.getLsbD a &&
  (decide (2 ≤ k) ||
    (k == 1 && (a == hubDie || s.lowestPassed 0 16 == some a || s.lowestPassed 16 8 == some a)))

/-- An agent is in service: its level is reached, and it is neither fenced nor lost (R289, R292, R354). -/
def State.inService (s : State) (a : Nat) : Bool :=
  s.levelServes a && !s.hub.fenced.getLsbD a && !s.hub.lost.getLsbD a

/-- A die in DEBUG_HOLD (R293). -/
def State.held (s : State) (die : Nat) : Bool := (s.die die).hold

end Sys2Proof.Machine
end

