-- ==== Sys2Proof/Machine/Translate.lean ====
section
/-!
DEFINITION. Where an address leads: local-store windows (R213, R214), the five-level walk and the cluster TLB
(R311–R319), kernel-reserved frames (R317, R318), the interleave table (R294–R296) and the domains of R57 and R288.
-/
namespace Sys2Proof.Machine

/-- The interleave entry of an HBM page (R295). -/
def interleaveIndex (pa : Nat) : Nat :=
  let pfn := pa / 4096
  (pfn % 4096) ^^^ (pfn / 4096 % 4096) ^^^ (pfn / 2 ^ 24 % 4096)

/-- The channel word of an HBM address (R294). -/
def State.channel (s : State) (pa : Nat) : BitVec 16 := s.hub.interleave.get (interleaveIndex pa)

/-- The pool domain of a pool address, if a range holds it (R304). Of ranges that overlap the one with the lowest number decides (DESIGN
CHOICE, log entry 75). -/
def State.poolDomain (s : State) (pa : Nat) : Option Nat :=
  (s.hub.pools.vals.find? fun r => decide (r.1 ≤ pa) && decide (pa < r.1 + r.2.1)).map fun r => r.2.2

/-- The domain bit of R57 an access to a byte reaches: its home (R288). None for pool memory outside every range. -/
def State.homeDomain (s : State) (key : Nat) : Option Nat :=
  match keyTier key with
  | 0 => some (16 + bits (s.channel (keyPa key)) 12 3)
  | 2 => (s.poolDomain (keyPa key)).map (25 + ·)
  | _ => some hubDie

/-- The links of a route that are up (R297). -/
def State.route (s : State) (fid : Nat) : BitVec 8 := s.hub.routes.get fid &&& s.hub.linkUp

/-- The fabric id of a peer address (R312). -/
def peerFid (key : Nat) : Nat := keyPa key / 2 ^ 40 % 4096

/-- A byte lies in a lost domain, or on a route without a live link (R290, R298). -/
def State.isLost (s : State) (key : Nat) : Bool :=
  (match s.homeDomain key with | some d => s.hub.lost.getLsbD d | none => false) ||
  (keyTier key == 3 && s.route (peerFid key) == 0#8)

/-- The sector of a byte is homed on a memory die that was re-admitted with every sector poisoned (R292). -/
def State.startsPoisoned (s : State) (key : Nat) : Bool :=
  keyTier key == 0 && s.hub.mdPoison.getLsbD (bits (s.channel (keyPa key)) 12 3)

/-- A byte's sector is poisoned (R291). -/
def State.isPoisoned (s : State) (key : Nat) : Bool := xor (s.poison.get (sectorOf key) == 1#1) (s.startsPoisoned key)

/-- Poison a sector, or clear its poison (R291). -/
def State.setPoison (s : State) (sector : Nat) (b : Bool) : State :=
  { s with poison := s.poison.set sector (if xor b (s.startsPoisoned (64 * sector)) then 1#1 else 0#1) }

/-- HBM holds the frame (R295). -/
def State.frameExists (s : State) (key : Nat) : Bool :=
  keyTier key ≠ 0 || decide (keyPa key / 4096 < s.hub.hbmFrames)

/-- The frame lies in a locked range (R317); ranges are HBM addresses (log entry 21). -/
def State.kresLocked (s : State) (key : Nat) : Bool :=
  s.hub.kresLock && keyTier key == 0 &&
  s.hub.kres.any fun r => decide (r.1 / 4096 ≤ keyPa key / 4096) && decide (keyPa key / 4096 < r.1 / 4096 + r.2)

/-- Set bits of a context's touched-domain mask (R57, R288). -/
def State.touchDomains (s : State) (asid : Nat) (ds : List Nat) : State :=
  s.onCtx asid fun c => { c with tdmask := ds.foldl (fun m d => m ||| (1#64 <<< d)) c.tdmask }

/-- What an access needs of its leaf (R314). -/
structure Need where
  r : Bool
  w : Bool
  x : Bool
  /-- a poisoned sector of the range refuses the access (step 5 of R150) -/
  p : Bool
  deriving DecidableEq, Repr

def needR : Need := { r := true, w := false, x := false, p := true }
def needW : Need := { r := false, w := true, x := false, p := true }
def needRW : Need := { r := true, w := true, x := false, p := true }
def needX : Need := { r := false, w := false, x := true, p := true }

/-- CWB and CINV, which skip a poisoned sector by itself (R150, R163). -/
def needRange : Need := { needW with p := false }

/-! ### What a request at a home waits for -/

/-- What a walk, a pull, or a unit of the hub waits for: the bytes of a sector of host or pool memory, ownership of a sector (R303,
R326), or the service of a sector's home (R356). -/
inductive Ask where
  | read (sector : Nat)
  | own (sector : Nat)
  | serve (sector : Nat)
  /-- the first touch of a migrating page's line (R326) -/
  | pull (key : Nat)
  deriving DecidableEq, Repr

namespace State

/-- The memory die that homes an HBM line (R294). -/
def homeMd (s : State) (line : Nat) : Nat := bits (s.channel (line * 256)) 12 3

/-- A sector's state in a die's slice: 0 I, 1 S, 2 E, 3 O, 4 M (R244). -/
def sectState (s : State) (die sector : Nat) : Nat := (s.mesh.sect.get (16 * sector + die)).toNat

/-- Some slice holds a sector in a state. -/
def someHolds (s : State) (sector : Nat) (p : Nat → Bool) : Bool := (List.range 16).any fun d => p (s.sectState d sector)

/-- The sectors of a range. -/
def rangeOf (key n : Nat) : List Nat := if n = 0 then [] else (List.range ((key % 64 + n + 63) / 64)).map fun i => key / 64 + i

/-- The home of a sector is in service, or no memory die of this device (R356). -/
def sectorServes (s : State) (sector : Nat) : Bool := keyTier (64 * sector) != 0 || s.levelServes (16 + s.homeMd (sector / 4))

/-- The bytes of a sector of host or pool memory that no slice holds are read outward first (R303). -/
def needsFetch (s : State) (sector : Nat) : Bool :=
  (keyTier (64 * sector) == 1 || keyTier (64 * sector) == 2) && !s.hub.fetched.contains sector &&
  !s.hub.outward.contains sector && !s.someHolds sector (· != 0)

/-- What a read at the homes of a range waits for. -/
def homeAsks (s : State) (key n : Nat) : List Ask :=
  (rangeOf key n).filterMap fun k =>
    if !s.sectorServes k then some (.serve k) else if s.needsFetch k then some (.read k) else none

/-- Bytes that came for a walk or a unit of the hub have been used. -/
def spend (s : State) (sectors : List Nat) : State :=
  if s.hub.fetched = [] then s
  else { s with hub := { s.hub with fetched := s.hub.fetched.filter fun k => !sectors.contains k } }

end State

/-- How a walk ends (R313). -/
inductive WalkEnd where
  /-- it waits for an entry of a table -/
  | wait (as : List Ask)
  | leaf (e : DWord) (level : Nat)
  | missing
  | malformed
  | poison
  | lost
  | noFrame (key : Nat)
  deriving DecidableEq, Repr

/-- A non-zero reserved bit of an entry (R312). -/
def entryReserved (e : DWord) : Bool := bits e 52 6 != 0 || bits e 9 3 != 0 || bits e 1 2 != 0

/-- A valid leaf that R313 calls malformed. -/
def leafMalformed (e : DWord) (level : Nat) : Bool :=
  entryReserved e || decide (4 ≤ level) || (level == 2 && bits e 12 9 != 0) || (level == 3 && bits e 12 18 != 0) ||
  (e.getLsbD 61 && level != 1) || (!e.getLsbD 3 && e.getLsbD 4)

/-- A valid non-leaf entry that R313 calls malformed. -/
def tableMalformed (e : DWord) (level : Nat) : Bool :=
  entryReserved e || level == 1 || bits e 60 4 != 0 || e.getLsbD 8 || bits e 3 4 != 0 || decide (2 ≤ bits e 58 2)

/-- The physical address in bits [51:12] of an entry. -/
def entryPa (e : DWord) : Nat := bits e 12 40 * 4096

/-- One level of the walk after another (R311): the levels left, the table's key. -/
def State.walk (s : State) (va : DWord) : List Nat → Nat → WalkEnd
  | [], _ => .missing
  | level :: rest, table =>
    let key := table + 8 * (va.toNat / 2 ^ (12 + 9 * (level - 1)) % 512)
    if !s.frameExists key then .noFrame key
    else if s.isLost key then .lost
    else if s.homeAsks key 8 ≠ [] then .wait (s.homeAsks key 8)
    else if s.isPoisoned key then .poison
    else
      let e := s.memDWord key
      if !e.getLsbD 0 then .missing
      else if e.getLsbD 7 then (if leafMalformed e level then .malformed else .leaf e level)
      else if tableMalformed e level then .malformed
      else s.walk va rest (memKey (bits e 58 2) (entryPa e))

/-- The sectors of the entries that a walk reads. -/
def State.walkSectors (s : State) (va : DWord) : List Nat → Nat → List Nat
  | [], _ => []
  | level :: rest, table =>
    let key := table + 8 * (va.toNat / 2 ^ (12 + 9 * (level - 1)) % 512)
    let e := s.memDWord key
    sectorOf key :: (if !e.getLsbD 0 || e.getLsbD 7 then [] else s.walkSectors va rest (memKey (bits e 58 2) (entryPa e)))

/-- What came for the walk of a page has been used: the next one reads its entries afresh (R303, R309). -/
def State.spendWalk (s : State) (asid : Nat) (va : DWord) : State :=
  if s.hub.fetched = [] then s else s.spend (s.walkSectors va [5, 4, 3, 2, 1] (memKey 0 (s.ctx asid).root))

/-- The leaf that serves a page of a CONT group (R316): where the 16 leaves disagree, the fields are those of a freely
chosen one, and the frame stays inside the page's own group. -/
def State.contLeaf (s : State) (va : DWord) (root : Nat) (e : DWord) : DWord :=
  if !e.getLsbD 8 then e else
  let j := (Config.freeLeaf (s.fresh + s.tick)).toNat
  let vaj := BitVec.ofNat 64 (va.toNat / 65536 * 65536 + 4096 * j)
  match s.walk vaj [5, 4, 3, 2, 1] (memKey 0 root) with
  | .leaf ej 1 =>
    if ej.getLsbD 8 then
      (ej.extractLsb' 52 12 ++ e.extractLsb' 16 36 ++ BitVec.ofNat 4 (va.toNat / 4096) ++ ej.extractLsb' 0 12 : BitVec 64)
    else e
  | _ => e

/-- The bytes a leaf of a level maps (R311). -/
def levelBytes (level : Nat) : Nat := if level == 1 then 4096 else if level == 2 then 2 ^ 21 else 2 ^ 30

/-- The TLB entry of a page, if the cluster holds one (R319). -/
def State.tlbFind (s : State) (core asid : Nat) (va : DWord) : Option TlbEnt :=
  (s.cluster (clusterOf core)).tlb.find? fun t =>
    (t.asid == asid || t.leaf.getLsbD 6) && t.vpn == va.toNat / levelBytes t.level &&
    Config.tlbHolds (s.fresh + s.tick) (va.toNat / 4096)

/-- How a translation ends, before permissions (R311, R313, R319). -/
def State.lookup (s : State) (core asid : Nat) (va : DWord) : WalkEnd :=
  match s.tlbFind core asid va with
  | some t => .leaf t.leaf t.level
  | none =>
    match s.walk va [5, 4, 3, 2, 1] (memKey 0 (s.ctx asid).root) with
    | .leaf e level => .leaf (if level == 1 then s.contLeaf va (s.ctx asid).root e else e) level
    | w => w

/-- Where an access leads, or why it does not (steps 2–5 of R150). -/
inductive Tr where
  /-- the location, and the leaf that leads there with its level (level 0: a local-store window) -/
  | ok (loc : Loc) (leaf : DWord) (level : Nat)
  | protection
  | kernelReserved
  | missing
  | lost
  | poison
  /-- HBM holds no such frame -/
  | noFrame (key : Nat)
  /-- it waits for bytes or for ownership from outside, or for a home's service (R303, R326, R356) -/
  | wait (as : List Ask)
  deriving DecidableEq, Repr

/-- The byte a leaf maps an address to. -/
def leafKey (e : DWord) (level : Nat) (va : DWord) : Nat :=
  memKey (bits e 58 2) (entryPa e + va.toNat % levelBytes level)

/-- A leaf lets the access through (R314). -/
def leafAllows (e : DWord) (need : Need) : Bool :=
  (!need.r || e.getLsbD 3) && (!need.w || e.getLsbD 4) && (!need.x || e.getLsbD 5)

/-- Some sector of a range is poisoned (R291). -/
def State.rangePoisoned (s : State) (key n : Nat) : Bool :=
  (List.range ((key % 64 + n + 63) / 64)).any fun i => s.isPoisoned (64 * (key / 64 + i))

/-- Steps 4 and 5 of R150 for n bytes in one page, and the frame that must exist. -/
def State.reachable (s : State) (need : Need) (key n : Nat) (leaf : DWord) (level : Nat) : Tr :=
  if s.isLost key then .lost
  else if leaf.getLsbD 62 || (need.p && s.rangePoisoned key n) then .poison
  else if !s.frameExists key then .noFrame key
  else .ok (.mem key) leaf level

/-- A translated access of n bytes in one page (R313, R314, R318, R150 steps 2–5). -/
def State.translated (s : State) (core asid : Nat) (need : Need) (va : DWord) (n : Nat) : Tr :=
  if va.toNat ≥ 2 ^ 57 then .protection else
  match s.lookup core asid va with
  | .missing => .missing
  | .malformed => .protection
  | .poison => .poison
  | .lost => .lost
  | .noFrame k => .noFrame k
  | .wait as => .wait as
  | .leaf e level =>
    let key := leafKey e level va
    if e.getLsbD 63 || s.kresLocked key then .kernelReserved
    else if !leafAllows e need then .protection
    else if keyTier key == 2 && (s.poolDomain (keyPa key)).isNone then .protection
    else s.reachable need key n e level

/-- The leaves that a page table leads to, with their levels: of its entries that are written at all (R311, R313). -/
def State.leavesOf (s : State) : List Nat → Nat → List (DWord × Nat)
  | [], _ => []
  | level :: rest, table =>
    let offs := ((s.mem.filter fun c => decide (table ≤ c.1) && decide (c.1 < table + 4096)).map fun c => (c.1 - table) / 8).eraseDups
    offs.flatMap fun i =>
      let e := s.memDWord (table + 8 * i)
      if !e.getLsbD 0 then []
      else if e.getLsbD 7 then (if leafMalformed e level then [] else [(e, level)])
      else if tableMalformed e level then []
      else s.leavesOf rest (memKey (bits e 58 2) (entryPa e))

/-- A software-managed page of a live context maps a frame (R259). -/
def State.mapsSwm (s : State) (frame : Nat) : Bool :=
  s.ctxs.any fun c => (s.leavesOf [5, 4, 3, 2, 1] (memKey 0 c.2.root)).any fun l =>
    l.1.getLsbD 60 && decide (leafKey l.1 l.2 0#64 / 4096 ≤ frame) &&
    decide (frame < leafKey l.1 l.2 0#64 / 4096 + levelBytes l.2 / 4096)

/-- A frame that a software-managed page maps too behaves as software-managed for every access (R259): the leaf as an access
finds it, and the note that such a page was used. -/
def State.asSwm (s : State) : Tr → Tr
  | .ok (.mem k) leaf level =>
    .ok (.mem k) (if s.swmFrames.contains (k / 4096) || s.mapsSwm (k / 4096) then leaf ||| (1#64 <<< 60) else leaf) level
  | t => t

def State.noteSwm (s : State) : Tr → State
  | .ok (.mem k) leaf _ =>
    if leaf.getLsbD 60 && !s.swmFrames.contains (k / 4096) then { s with swmFrames := (k / 4096) :: s.swmFrames } else s
  | _ => s

/-- Block windows and core windows (R213). -/
def blockWindow (va : DWord) : Bool := va.toNat / 2 ^ 40 == 0x01E000
def coreWindow (va : DWord) : Bool := va.toNat / 2 ^ 32 == 0x01F00000
def inWindow (va : DWord) : Bool := blockWindow va || coreWindow va

/-- Whether an entry of a launch's block windows names a block that has not ended (R214). -/
def State.windowLive (s : State) (launch entry : Nat) : Bool :=
  let l := s.launch launch
  decide (entry / 8 < l.cohorts) && decide (entry % 8 < l.blocks) &&
  (decide (l.nextCohort ≤ entry / 8) || (s.blocks.get? (blockKey launch entry)).isSome)

/-- A core's local-store banks (R53). -/
def Core.lsBanks (c : Core) : Nat :=
  ((List.range 32).filter fun b => bits c.bankrole (2 * b) 2 == 1).length

/-- The block of a context that holds the bytes of an access in a core's local-store banks (R214). One access lies in one block's store
(DESIGN CHOICE, log entry 47). -/
def State.windowBlock (s : State) (asid core off n : Nat) : Option (Nat × Block) :=
  s.blocks.find? fun kb =>
    kb.2.resident && kb.2.core == core && kb.2.asid == asid && decide (kb.2.lsBase ≤ off) &&
    decide (off + n ≤ kb.2.lsBase + kb.2.lstore)

/-- A window access (R213, R214): n bytes at an address, for a lane of a launch and context. -/
def State.windowed (s : State) (launch asid : Nat) (va : DWord) (n : Nat) : Tr :=
  if blockWindow va then
    let entry := va.toNat % 2 ^ 40 / Config.windowBytes
    let off := va.toNat % Config.windowBytes
    if s.windowLive launch entry && decide (off + n ≤ (s.launch launch).lstore)
    then .ok (.ls (blockKey launch entry) off) 0#64 0
    else .protection
  else
    let core := va.toNat % 2 ^ 32 / Config.windowBytes
    let off := va.toNat % Config.windowBytes
    if off + n ≤ (s.core core).lsBanks * Config.bankBytes then
      match s.windowBlock asid core off n with
      | some (b, blk) => .ok (.ls b (off - blk.lsBase)) 0#64 0
      | none => .protection
    else .protection

/-- Where a data access of n bytes leads (R213, R311). -/
def State.resolve (s : State) (core asid launch : Nat) (need : Need) (va : DWord) (n : Nat) : Tr :=
  if inWindow va then s.windowed launch asid va n else s.translated core asid need va n

/-- The sets and ways of a TLB (R319); the set of a translation is log entry 69. -/
def tlbSets : Nat := 256
def tlbWays : Nat := 16

/-- Room for one more translation in a set: of a full one the oldest goes (R319). -/
def tlbRoom (ts : List TlbEnt) (set : Nat) : List TlbEnt :=
  let same := ts.filter fun t => t.vpn % tlbSets == set
  match same.getLast? with
  | some old => if tlbWays ≤ same.length then ts.erase old else ts
  | none => ts

/-- Keep a translation in the cluster's TLB (R319), the latest first. A window has none, and what an L1 line kept from its fill
(a level above 3) is none. -/
def State.fillTlb (s : State) (core asid : Nat) (va : DWord) : Tr → State
  | .ok (.mem _) leaf level =>
    if level == 0 || decide (4 ≤ level) || (s.tlbFind core asid va).isSome then s else
    let c := s.cluster (clusterOf core)
    let t : TlbEnt := { asid := asid, vpn := va.toNat / levelBytes level, level := level, leaf := leaf }
    (s.spendWalk asid va).setCluster (clusterOf core) { c with tlb := t :: tlbRoom c.tlb (t.vpn % tlbSets) }
  | _ => s

/-- The domains that a request brings to its home, when it reaches it (R288): a memory die, or the hub with a pool
domain. -/
def State.homeDomains (s : State) (key : Nat) : List Nat :=
  (match s.homeDomain key with | some d => [d] | none => []) ++ (if keyTier key == 2 then [hubDie] else [])

/-- The domains an access touches where it is served (R288): the die whose slice serves memory, or the die that holds a
window's bytes, once its block is there. -/
def State.accessDomains (s : State) (core : Nat) (loc : Loc) : List Nat :=
  match loc with
  | .mem _ => [dieOf core]
  | .ls b _ => if (s.block b).resident then [dieOf (s.block b).core] else []

end Sys2Proof.Machine
end

