-- ==== Sys2Proof/Machine/Caches.lean ====
section
/-!
DEFINITION. The caches' placement and next-use replacement (R216, R219–R224), the reverse map (R320), and the cached bytes
of software-managed pages (R218, R258). Coherent lines hold no bytes here: their latest bytes are those of memory.
-/
namespace Sys2Proof.Machine

/-! ### One cache -/

/-- A request as replacement sees it (R221). -/
structure CReq where
  tag : Nat
  asid : Nat
  set : Nat
  cls : Nat
  clock : Word
  owner : Nat
  ctx : Nat
  /-- the line's physical number -/
  line : Nat
  /-- a miss brings the line in -/
  alloc : Bool
  ways : Nat
  ownerMax : Nat
  /-- the most lines of classes 1–4 a context may hold (R224) -/
  cap : Option Nat
  /-- its translation, which a fill of an L1 keeps (R319); a hit takes it afresh where it was
  translated afresh -/
  leaf : LeafBits
  refill : Bool
  deriving DecidableEq, Repr

/-- The idle count at which an owner is aged to orphan (R221). -/
def maxIdle : Nat := 65536

/-- The entry of an owner; 0 is nobody: a free entry, and the owner of an orphan line. -/
def Cache.ownerEnt (c : Cache) (o : Nat) : Option Owner := if o = 0 then none else c.owners.find? fun e => e.owner == o

/-- The lines of an owner become orphan lines, for good (R221). -/
def Cache.orphan (c : Cache) (o : Nat) : Cache :=
  { c with lines := c.lines.map fun l => if l.owner == o then { l with owner := 0 } else l }

/-- An owner ends: its entry is free, its lines are orphan lines (R221). -/
def Cache.dropOwner (c : Cache) (o : Nat) : Cache :=
  { c.orphan o with owners := c.owners.map fun e => if e.owner == o then { e with owner := 0, idle := 0 } else e }

/-- The owners whose idle count has reached its end are gone before a request is judged (R221). -/
def Cache.expire (c : Cache) : Cache :=
  (c.owners.filter fun e => e.owner != 0 && decide (maxIdle ≤ e.idle)).foldl (fun k e => k.dropOwner e.owner) c

/-- Update the owner table for a request (R221); the flag says that a full table lost an owner. An instruction fetch has no
owner. -/
def Cache.seeOwner (c0 : Cache) (r : CReq) : Cache × Bool :=
  let c := c0.expire
  let fresh : Owner := { owner := r.owner, seen := r.clock, idle := 0, asid := r.ctx }
  let aged := c.owners.map fun e =>
    if e.owner == r.owner && r.owner != 0 then
      { e with seen := if 0 < (r.clock - e.seen).toInt then r.clock else e.seen, idle := 0, asid := r.ctx }
    else if e.owner == 0 then e else { e with idle := e.idle + 1 }
  if r.owner = 0 || (c.ownerEnt r.owner).isSome then ({ c with owners := aged }, false)
  else match aged.findIdx? fun e => e.owner == 0 with
    | some i => ({ c with owners := aged.set i fresh }, false)
    | none =>
      if aged.length < r.ownerMax then ({ c with owners := aged ++ [fresh] }, false)
      else
        let most := aged.foldl (fun m e => Nat.max m e.idle) 0
        match aged.findIdx? fun e => e.idle == most with
        | some i => ({ (c.orphan ((aged.map Owner.owner).getD i 0)) with owners := aged.set i fresh }, true)
        | none => ({ c with owners := aged }, false)

/-- The rank of a line as a victim (R222). -/
def Cache.rank (c : Cache) (l : CLine) : Nat :=
  if l.evictFirst then 0 else
  match l.deadline with
  | none => 3
  | some d =>
    match c.ownerEnt l.owner with
    | none => 1
    | some o => if (d - o.seen).toInt ≤ 0 then 1 else 2

/-- How far ahead of its owner's clock a line is due (R222). -/
def Cache.ahead (c : Cache) (l : CLine) : Int :=
  match l.deadline, c.ownerEnt l.owner with
  | some d, some o => (d - o.seen).toInt
  | _, _ => 0

/-- The first line goes before the second (R222). -/
def Cache.goesFirst (c : Cache) (a b : CLine) : Bool :=
  let ra := c.rank a
  let rb := c.rank b
  if ra ≠ rb then decide (ra < rb)
  else if ra = 2 ∧ c.ahead a ≠ c.ahead b then decide (c.ahead b < c.ahead a)
  else if ra = 3 ∧ a.stamp ≠ b.stamp then decide (a.stamp < b.stamp)
  else decide (a.way < b.way)

/-- The victim among lines (R222). -/
def Cache.victim (c : Cache) : List CLine → Option CLine
  | [] => none
  | l :: ls => match c.victim ls with
    | none => some l
    | some v => if c.goesFirst l v then some l else some v

/-- The lines counted for a context (R224). -/
def Cache.countedFor (c : Cache) (ctx : Nat) : Nat := (c.lines.filter fun l => l.counted == some ctx).length

/-- Set a line's fields from a request (R221), demoting it past the context's cap (R224); the flag says it was demoted. -/
def Cache.setFields (c : Cache) (r : CReq) (l : CLine) : CLine × Bool :=
  let near := decide (1 ≤ r.cls) && decide (r.cls ≤ 4)
  let past := near && l.counted != some r.ctx &&
    (match r.cap with | some k => decide (k ≤ c.countedFor r.ctx) | none => false)
  let cls := if past then r.cls + 1 else r.cls
  ({ l with
    evictFirst := cls == 15
    deadline := if 1 ≤ cls ∧ cls ≤ 14 then some (r.clock + BitVec.ofNat 32 (2 ^ cls)) else none
    owner := r.owner
    stamp := c.count
    counted := if near && !past && r.cap.isSome then some r.ctx else none
    demoted := past }, past)

/-- Whether a line is the one a request names. -/
def CReq.hits (r : CReq) (l : CLine) : Bool := l.tag == r.tag && l.asid == r.asid && l.set == r.set

/-- What a request did to a cache. -/
structure CDone where
  cache : Cache
  evicted : List CLine
  ownerLost : Bool
  demoted : Bool
  missed : Bool
  deriving DecidableEq, Repr

/-- Serve a request (R221, R222): a hit sets the line's fields, a miss may bring the line in. -/
def Cache.serve (c0 : Cache) (r : CReq) : CDone :=
  let o := c0.seeOwner r
  let c := { o.1 with count := o.1.count + 1 }
  match c.lines.find? r.hits with
  | some l =>
    let f := c.setFields r l
    let k1 := if r.refill then { f.1 with leaf := r.leaf } else f.1
    { cache := { c with lines := c.lines.map fun k => if r.hits k then k1 else k }
      evicted := [], ownerLost := o.2, demoted := f.2, missed := false }
  | none =>
    if !r.alloc || r.ways == 0 then
      { cache := c, evicted := [], ownerLost := o.2, demoted := false, missed := true }
    else
      let inSet := c.lines.filter fun l => l.set == r.set
      let free := (List.range r.ways).find? fun w => !inSet.any fun l => l.way == w
      let gone := match free with | some _ => none | none => c.victim inSet
      let way := match free, gone with | some w, _ => w | none, some v => v.way | none, none => 0
      let kept := { c with lines := c.lines.filter fun l => !(some l == gone) }
      let f := kept.setFields r
        { tag := r.tag, asid := r.asid, set := r.set, way := way, sectors := 0#4, evictFirst := false, deadline := none,
          owner := r.owner, stamp := 0, counted := none, demoted := false, presence := 0#64, frame := r.line,
          leaf := r.leaf }
      { cache := { kept with lines := kept.lines ++ [f.1] }
        evicted := gone.toList, ownerLost := o.2, demoted := f.2, missed := true }

/-! ### The caches of the device -/

/-- The keys of the caches in `State.caches`: the L1 of a core, an L2 slice of a die, the MSC of a memory die. -/
def l2Key (die slice : Nat) : Nat := 2048 + die * 384 + slice
def mscKey (md : Nat) : Nat := 2048 + 16 * 384 + md

/-- The L2 slice of a line, the same on every die (R216). -/
def sliceOf (line : Nat) : Nat :=
  let ln := line % 2 ^ 44
  ((ln % 65536) ^^^ (ln / 65536 % 65536) ^^^ (ln / 2 ^ 32 % 65536)) % 384

namespace State

def cache (s : State) (k : Nat) : Cache := s.caches.getD k Cache.init

def setCache (s : State) (k : Nat) (c : Cache) : State := { s with caches := s.caches.set k c }

/-- The L1 banks of a core (R53, R216). -/
def l1Banks (s : State) (core : Nat) : Nat :=
  ((List.range 32).filter fun b => bits (s.core core).bankrole (2 * b) 2 == 0).length

/-- Count what a request did (R221, R224). -/
def countServe (s : State) (die : Nat) (d : CDone) : State :=
  let s1 := if d.ownerLost then s.count die 7 else s
  if d.demoted then s1.count die 5 else s1

/-! ### Bytes of software-managed pages (R218, R258) -/

/-- The copy a cache holds of a sector: an L1 by its core, an L2 by 2048 + die. -/
def copyOf (s : State) (cache sector : Nat) : Option SwmCopy :=
  s.swm.find? fun c => c.cache == cache && c.sector == sector

def dropCopy (s : State) (cache sector : Nat) : State :=
  { s with swm := s.swm.filter fun c => !(c.cache == cache && c.sector == sector) }

def putCopy (s : State) (c : SwmCopy) : State :=
  { s.dropCopy c.cache c.sector with swm := c :: (s.dropCopy c.cache c.sector).swm }

/-- The bytes of a sector at its home. -/
def homeBytes (s : State) (sector : Nat) : List Byte := s.memBytes (64 * sector) 64

/-- Lay marked bytes over others. -/
def overlay (mask : DWord) (new old : List Byte) : List Byte :=
  old.mapIdx fun i b => if mask.getLsbD i then new.getD i b else b

/-- Rank of an HBM page's entry among those that name its channel, and how many do (R295). -/
def channelRank (s : State) (h : Nat) : Nat × Nat :=
  let c := s.hub.interleave.get h
  ((List.range h).countP fun i => s.hub.interleave.get i == c,
    (List.range 4096).countP fun i => s.hub.interleave.get i == c)

/-- The frame of an HBM page within its channel: q × k_c + rank (R295). -/
def channelFrame (s : State) (pa : Nat) : Nat :=
  let r := s.channelRank (interleaveIndex pa)
  pa / 2 ^ 24 * r.2 + r.1

/-- The set of the MSC a line falls in: PA[22:8] of its address inside its channel (R216, R295). -/
def mscSet (s : State) (line : Nat) : Nat :=
  let pa := line % 2 ^ 44 * 256
  (s.channelFrame pa * 4096 + pa % 4096) / 256 % 32768

/-- A sector as its home holds it: its latest bytes, but for what a slice has not delivered yet (R219, R244). -/
def atHomeBytes (s : State) (sector : Nat) : List Byte := (s.mesh.stale.get? sector).getD (s.homeBytes sector)

/-- The home keeps what it holds of sectors that a slice is about to write (R244). -/
def keepHome (s : State) (key n : Nat) : State :=
  let ks := (rangeOf key n).filter fun k => keyTier (64 * k) == 0 && (s.mesh.stale.get? k).isNone
  if ks = [] then s else
  { s with mesh := { s.mesh with stale := ks.foldl (fun m k => m.set k (s.homeBytes k)) s.mesh.stale } }

/-- The units a line takes in a frame (R219), by its bytes at its home as they stand when it is filled, or written there. -/
def mscUnitsOf (s : State) (line : Nat) : Nat :=
  (Config.mscUnits ((List.range 4).flatMap fun i => s.atHomeBytes (4 * line + i))).toNat + 1

/-- The units the lines of a frame take, as they were last filled or written there (R219). -/
def frameUnits (ls : List CLine) : Nat := (ls.map CLine.units).sum

/-- Put a line into a frame that has room, or make room by R222 over the set (R219). Of several frames that have room it takes the
lowest-numbered one (DESIGN CHOICE, log entry 69). -/
def placeMsc (set line units : Nat) : Nat → Cache → Cache × Nat
  | 0, c => (c, 0)
  | fuel + 1, c =>
    let inSet := c.lines.filter fun l => l.set == set && l.tag != line
    match (List.range 16).find? fun f =>
        let ls := inSet.filter fun l => l.frame == f
        decide (frameUnits ls + units ≤ 4) && decide (ls.length < 4) with
    | some f => (c, f)
    | none =>
      match c.victim inSet with
      | some v => placeMsc set line units fuel { c with lines := c.lines.filter fun l => l != v }
      | none => (c, 0)

/-- A request to the MSC of a memory die: it holds the bytes memory holds (R219, R220). -/
def touchMsc (s : State) (md line cls : Nat) (clock : Word) (owner ctx : Nat) : State :=
  let set := s.mscSet line
  let k := mscKey md
  let d := (s.cache k).serve
    { tag := line, asid := 0, set := set, cls := cls, clock := clock, owner := owner, ctx := ctx, line := 16
      alloc := true, ways := 32, ownerMax := 256, cap := none, leaf := 0#7, refill := false }
  let units := s.mscUnitsOf line
  if d.missed then
    let p := placeMsc set line units 32 d.cache
    (s.setCache k { p.1 with
      lines := p.1.lines.map fun l => if l.tag == line then { l with frame := p.2, units := units } else l }).countServe (16 + md) d
  else (s.setCache k d.cache).countServe (16 + md) d

/-- A write to a line in the MSC may no longer fit its frame: the other lines of the frame go, one at a time (R219). -/
def refitMsc (s : State) (md line : Nat) : Nat → State
  | 0 => s
  | fuel + 1 =>
    let c := s.cache (mscKey md)
    match c.lines.find? fun l => l.tag == line with
    | none => s
    | some l =>
      let frame := c.lines.filter fun k => k.set == l.set && k.frame == l.frame
      if frameUnits frame ≤ 4 then s else
      match c.victim (frame.filter fun k => k.tag != line) with
      | some v =>
        ((s.setCache (mscKey md) { c with lines := c.lines.filter fun k => k != v }).count (16 + md) 6).refitMsc md line fuel
      | none => s

/-- Bytes of a sector have reached its home: its line in the MSC takes the units it needs now, and is refitted (R219). -/
def homeWritten (s0 : State) (sector : Nat) : State :=
  let s : State := if (s0.mesh.stale.get? sector).isNone then s0 else
    { s0 with mesh := { s0.mesh with stale := s0.mesh.stale.erase sector } }
  let line := sector / 4
  let md := s.homeMd line
  let c := s.cache (mscKey md)
  if sector / 2 ^ 46 = 0 && c.lines.any fun l => l.tag == line then
    (s.setCache (mscKey md) { c with
      lines := c.lines.map fun l => if l.tag == line then { l with units := s.mscUnitsOf line } else l }).refitMsc md line 4
  else s

/-- Write a copy's dirty bytes home, and only those (R163, R218). -/
def writeHome (s : State) (c : SwmCopy) : State :=
  if c.dirty == 0#64 then s else
  ((lanesOf c.dirty).foldl (fun t i => t.setMemByte (64 * c.sector + i) (c.bytes.getD i 0#8))
    (s.record (.mem (64 * c.sector)) 64)).homeWritten c.sector

/-- Dirty bytes of an L1 copy reach the die's slice (R218), and trigger what watches the sector there (R143). -/
def toSlice (s : State) (die : Nat) (c : SwmCopy) : State :=
  if c.dirty == 0#64 then s else
  let old := (s.copyOf (2048 + die) c.sector).getD
    { cache := 2048 + die, sector := c.sector, bytes := s.homeBytes c.sector, dirty := 0#64 }
  (s.putCopy { old with bytes := overlay c.dirty c.bytes old.bytes, dirty := old.dirty ||| c.dirty }).reach (2 * c.sector)

/-- An L1 gives up its copy of a sector (R218). -/
def evictL1Copy (s : State) (core sector : Nat) : State :=
  match s.copyOf core sector with
  | some c => (s.toSlice (dieOf core) c).dropCopy core sector
  | none => s

/-- An L1 no longer holds a sector as valid. -/
def dropL1At (s : State) (core sector : Nat) : State :=
  let c := s.cache core
  s.setCache core { c with
    lines := (c.lines.map fun l =>
      if l.frame == sector / 4 then { l with sectors := l.sectors &&& ~~~(1#4 <<< (sector % 4)) } else l).filter
        fun l => l.frame != sector / 4 || l.sectors != 0#4 }

/-- A die's L2 gives up its copy of a sector: the L1s of its die give up theirs first (R218). -/
def evictL2Copy (s : State) (die sector : Nat) : State :=
  let s1 := ((s.swm.filter fun c => c.sector == sector && c.cache / 128 == die && decide (c.cache < 2048)).map
    SwmCopy.cache).foldl (fun t core => (t.evictL1Copy core sector).dropL1At core sector) s
  match s1.copyOf (2048 + die) sector with
  | some c => ((s1.writeHome c).dropCopy (2048 + die) sector).reach (2 * sector)
  | none => s1

/-- The presence bit of a sector and a cluster of its die (R218). -/
def presenceBit (sector cl : Nat) : DWord := 1#64 <<< (16 * (sector % 4) + cl % 16)

/-- The clusters of a die whose L1s may hold a sector, by the slice's mask (R218). -/
def mayHold (s : State) (die sector cl : Nat) : Bool :=
  (s.cache (l2Key die (sliceOf (sector / 4)))).lines.any fun l =>
    l.tag == sector / 4 && (l.presence &&& presenceBit sector cl) != 0#64

/-- The L1s of the marked clusters of a die lose a sector (R218). -/
def dropL1Sector (s : State) (die sector : Nat) : State :=
  { s with
    caches := s.caches.map fun kc =>
      if kc.1 / 128 == die && decide (kc.1 < 2048) && s.mayHold die sector (clusterOf kc.1) then
        (kc.1, { kc.2 with
          lines := (kc.2.lines.map fun l =>
            if l.frame == sector / 4 then { l with sectors := l.sectors &&& ~~~(1#4 <<< (sector % 4)) } else l).filter
              fun l => l.frame != sector / 4 || l.sectors != 0#4 })
      else kc }

def setSect (s : State) (die sector st : Nat) : State :=
  { s with mesh := { s.mesh with sect := s.mesh.sect.set (16 * sector + die) (BitVec.ofNat 3 st) } }

/-- An L2 line none of whose sectors is valid leaves its way free (R222, R224). -/
def freeL2Way (s : State) (die line : Nat) : State :=
  if (List.range 4).any fun i => s.sectState die (4 * line + i) != 0 || (s.copyOf (2048 + die) (4 * line + i)).isSome then s
  else
    let k := l2Key die (sliceOf line)
    let c := s.cache k
    if c.lines.any fun l => l.tag == line then s.setCache k { c with lines := c.lines.filter fun l => l.tag != line } else s

/-- Every cache drops its copy of a sector without writing it back (R156, R163): a line that holds nothing any more leaves its way
free (R222, R224). -/
def discardCopies (s : State) (sector : Nat) : State :=
  let l1s := (s.swm.filter fun c => c.sector == sector && decide (c.cache < 2048)).map SwmCopy.cache
  let t := l1s.foldl (fun (u : State) core => u.dropL1At core sector) { s with swm := s.swm.filter fun c => c.sector != sector }
  (List.range 16).foldl (fun u d => u.freeL2Way d (sector / 4)) t

/-! ### Requests -/

/-- An L1 line leaves its L1: its software-managed bytes go to the slice. -/
def loseL1Line (s : State) (core : Nat) (l : CLine) : State :=
  (List.range 4).foldl (fun t i => t.evictL1Copy core (4 * l.frame + i)) s

/-- The L1 line that holds the sector of an address (R216). -/
def l1Line (s : State) (core asid va : Nat) : Option CLine :=
  if s.l1Banks core = 0 then none else
  (s.cache core).lines.find? fun l => l.tag == va / 256 && l.asid == asid && l.sectors.getLsbD (va / 64 % 4)

/-- What an access keeps of a leaf of a level, and the leaf it makes again (R319). -/
def leafBits (leaf : DWord) (level : Nat) : LeafBits :=
  (BitVec.ofNat 2 level ++ leaf.extractLsb' 6 1 ++ leaf.extractLsb' 61 1 ++ leaf.extractLsb' 60 1 ++ leaf.extractLsb' 4 1 ++
    leaf.extractLsb' 3 1 : BitVec 7)
def bitsLeaf (b : LeafBits) : DWord :=
  ((b.extractLsb' 2 2).setWidth 64 <<< 60) ||| ((b.extractLsb' 4 1).setWidth 64 <<< 6) |||
    ((b.extractLsb' 0 2).setWidth 64 <<< 3) ||| 1#64
def bitsLevel (b : LeafBits) : Nat := bits b 5 2

/-- The levels of an L1 line's translation stand above those of a translation made afresh. -/
def lineLevel (level : Nat) : Nat := level + 4
def isFresh (level : Nat) : Bool := decide (1 ≤ level) && decide (level ≤ 3)

/-- An access that hits its core's L1 is not translated: it has what the line kept from its fill (R319), and the poison and
the lost domain it meets (R150). None where it misses, as a store does on a line filled without W. -/
def l1Serves (s : State) (core asid : Nat) (need : Need) (va : DWord) (n : Nat) : Option Tr :=
  match s.l1Line core asid va.toNat with
  | some l =>
    if leafAllows (bitsLeaf l.leaf) need then
      some (s.reachable need (256 * l.frame + va.toNat % 256) n (bitsLeaf l.leaf) (lineLevel (bitsLevel l.leaf)))
    else none
  | none => none

/-- The lines of a physical line leave the L1s of a cluster, but those that a test keeps. -/
def dropAlias (s : State) (cl pline : Nat) (keep : CLine → Bool) : State :=
  (List.range 8).foldl (fun u i =>
    let k := 8 * cl + i
    let ca := u.cache k
    if ca.lines.any fun l => l.frame == pline && !keep l then
      let u1 := (ca.lines.filter fun l => l.frame == pline && !keep l).foldl (fun v l => v.loseL1Line k l) u
      u1.setCache k { ca with lines := ca.lines.filter fun l => l.frame != pline || keep l }
    else u) s

/-- Some L1 of a cluster holds a physical line. -/
def clusterHolds (s : State) (cl pline : Nat) : Bool :=
  (List.range 8).any fun i => (s.cache (8 * cl + i)).lines.any fun l => l.frame == pline

/-- The reverse map of a cluster before a fill (R320): an older alias of the line is invalidated, lines that no L1 holds are
gone, and a full map drops its oldest line. -/
def aliasL1 (s : State) (core asid vline pline : Nat) : State :=
  let cl := clusterOf core
  let s1 := s.dropAlias cl pline fun l => l.tag == vline && l.asid == asid
  let held := (s1.cluster cl).rmap.filter fun e => s1.clusterHolds cl e.1
  if held.any fun e => e.1 == pline then s1.setCluster cl { s1.cluster cl with rmap := held } else
  let full := decide (8192 ≤ held.length)
  let s2 := if full then (match held.head? with | some e => s1.dropAlias cl e.1 fun _ => false | none => s1) else s1
  s2.setCluster cl { s2.cluster cl with rmap := (if full then held.tail else held) ++ [(pline, asid, vline)] }

/-- A request to the L1 of a core (R216, R218, R221); with `alloc` a miss brings the sector in. -/
def touchL1 (s : State) (core asid va key cls : Nat) (clock : Word) (owner : Nat) (alloc refill : Bool) (leaf : LeafBits) :
    State :=
  if s.l1Banks core = 0 then s else
  let line := key / 256
  let s0 := if alloc then s.aliasL1 core asid (va / 256) line else s
  let d := (s0.cache core).serve
    { tag := va / 256, asid := asid, set := va / 256 % 64, cls := cls, clock := clock, owner := owner, ctx := asid
      line := line, alloc := alloc, ways := 3 * s.l1Banks core, ownerMax := 16, cap := none, leaf := leaf
      refill := refill }
  let mark := fun (l : CLine) =>
    if alloc && l.tag == va / 256 && l.asid == asid then { l with sectors := l.sectors ||| (1#4 <<< (key / 64 % 4)) } else l
  let s1 := (s0.setCache core { d.cache with lines := d.cache.lines.map mark }).countServe (dieOf core) d
  d.evicted.foldl (fun t l => t.loseL1Line core l) s1

end State

end Sys2Proof.Machine
end

