-- ==== Sys2Proof/Machine/MeshBase.lean ====
section
/-!
DEFINITION. The mesh as the other parts use it: its geometry (R208, R217, R294), sector states (R244), messages on their way
(R245), requests of slices (R245, R255), the sectors a slice loses (R218), and the software-managed sectors that caches fill
from their homes (R258, R303).
-/
namespace Sys2Proof.Machine

/-! ### Geometry -/

/-- The lowest corner of a memory die and of a compute die (R217, R294). -/
def mdCorner (d : Nat) : Nat × Nat := if d < 4 then (0, 4 * d) else (18, 4 * (d - 4))
def cdCorner (d : Nat) : Nat × Nat := (2 + 4 * (d % 4), 4 * (d / 4))

/-- The stop of a die's slice for a line (R208, R216). -/
def sliceStop (die line : Nat) : Nat × Nat :=
  let k := sliceOf line / 24
  ((cdCorner die).1 + k % 4, (cdCorner die).2 + k / 4)

/-- The home stop of a line (R208, R244, R294). -/
def State.homeStop (s : State) (line : Nat) : Nat × Nat :=
  if line / 2 ^ 44 = 0 then
    let c := s.channel (line * 256)
    let k := mdCorner (bits c 12 3)
    (k.1 + bits c 11 1, k.2 + bits c 6 5 / 8)
  else (8 + line % 4, 16)

/-- The agent that homes a line (R57, R244). -/
def State.homeOf (s : State) (line : Nat) : Nat :=
  if line / 2 ^ 44 = 0 then 16 + bits (s.channel (line * 256)) 12 3 else hubDie

/-- The agent whose stops include a stop (R217); none at a router that serves no die. -/
def agentAt (x y : Nat) : Option Nat :=
  if 16 ≤ y then (if 8 ≤ x ∧ x ≤ 11 then some hubDie else none)
  else if x < 2 then some (16 + y / 4)
  else if 18 ≤ x then some (20 + y / 4)
  else some (4 * (y / 4) + (x - 2) / 4)

/-- A stop's number. -/
def stopNo (x y : Nat) : Nat := 20 * y + x

/-- The link bit of a direction: 0 local, 1 N, 2 E, 3 S, 4 W (R245). N is toward lower y (log entry 24). -/
def linkBit (d : Nat) : BitVec 5 := 1#5 <<< d

/-- The stop one hop on. -/
def hop (x y d : Nat) : Nat × Nat :=
  match d with
  | 1 => (x, y - 1)
  | 2 => (x + 1, y)
  | 3 => (x, y + 1)
  | 4 => (x - 1, y)
  | _ => (x, y)

/-- The opposite direction. -/
def opposite (d : Nat) : Nat := match d with | 1 => 3 | 2 => 4 | 3 => 1 | 4 => 2 | _ => 0

/-- The next direction by dimension order: along the row, then along the column (R217); 0 at the destination. -/
def routeXY (x y tx ty : Nat) : Nat :=
  if x < tx then 2 else if tx < x then 4 else if ty < y then 1 else if y < ty then 3 else 0

/-- The same route run backward, from where it ends toward where it began: along the column, then along the row. -/
def routeYX (x y tx ty : Nat) : Nat :=
  if ty < y then 1 else if y < ty then 3 else if x < tx then 2 else if tx < x then 4 else 0

/-! ### What the hub does at a home -/

/-- The bytes of an access. -/
def HubWrite.len : HubWrite → Nat
  | .bytes bs => bs.length
  | .host bs => bs.length
  | .share n => n
  | _ => 8

/-- An access of a unit of the device, not of the host itself. -/
def HubWrite.isUnits : HubWrite → Bool
  | .host _ => false
  | .share _ => false
  | _ => true

/-! ### Sector states -/

namespace State

/-- A slice loses a sector: the L1s of its die drop it first (R218), and what watches it there is triggered (R143). -/
def loseSector (s : State) (die sector : Nat) : State :=
  (((s.dropL1Sector die sector).setSect die sector 0).freeL2Way die (sector / 4)).reach (2 * sector)

/-- The slice of a die holds some sector of a line. -/
def holdsLine (s : State) (die line : Nat) : Bool := (List.range 4).any fun i => s.sectState die (4 * line + i) != 0

/-- The sectors of a mask. -/
def sectorsOf (line : Nat) (m : BitVec 4) : List Nat :=
  ((List.range 4).filter fun i => m.getLsbD i).map fun i => 4 * line + i

/-- Ownership of a sector must first be obtained outward: host and pool memory that is presented as shared or invalid, no
ownership having just been obtained for it, and device memory that the host holds (R303). -/
def needsOutward (s : State) (sector : Nat) : Bool :=
  let t := keyTier (64 * sector)
  ((t == 1 || t == 2) && !s.hub.outward.contains sector && !s.someHolds sector fun st => decide (2 ≤ st)) ||
  (t == 0 && s.hub.hostHeld.contains sector)

/-- Ownership obtained outward has been used: what the slices hold presents it from here on (R303). -/
def useOutward (s : State) (sectors : List Nat) : State :=
  { s with hub := { s.hub with outward := s.hub.outward.filter fun k => !sectors.contains k } }

/-- The line has an ownership request in service at its root (R248). -/
def isServing (s : State) (line : Nat) : Bool := s.mesh.serving.any fun p => p.1 == line

/-- Every slice of the package drops a sector, whatever its state (R156, R163, R256). -/
def dropEverywhere (s : State) (sector : Nat) : State :=
  (List.range 16).foldl (fun t d => if t.sectState d sector != 0 then t.loseSector d sector else t) s

/-- A slice's data array comes out of retention for a dirty sector (R254). -/
def leaveRetention (s : State) (die line : Nat) : State :=
  let k := (die, sliceOf line)
  if s.mesh.retained.contains k then
    ({ s with mesh := { s.mesh with retained := s.mesh.retained.filter (· != k) } } : State).count die 12
  else s

/-- Every slice gives a sector up, a dirty one to its home (R248, R254). -/
def recallSector (s : State) (sector : Nat) : State :=
  let ds := (List.range 16).filter fun d => decide (3 ≤ s.sectState d sector)
  let t := (ds.foldl (fun (u : State) d => u.leaveRetention d (sector / 4)) s).dropEverywhere sector
  if ds = [] then t else t.homeWritten sector

/-! ### Messages and requests -/

/-- The current incarnation of an agent (R255). -/
def incOf (s : State) (agent : Nat) : BitVec 8 := s.mesh.inc.get agent

/-- A message leaves a stop. -/
def send (s : State) (m : Msg) : State :=
  { s with mesh := { s.mesh with msgs := s.mesh.msgs.set s.nextId { m with inc := s.incOf m.agent } }, nextId := s.nextId + 1 }

/-- A message that stands nowhere yet. -/
def blankMsg (typ : MsgType) (line : Nat) (smask : BitVec 4) (die req agent : Nat) (at_ to_ : Nat × Nat) : Msg :=
  { typ := typ, line := line, smask := smask, die := die, req := req, inc := 0#8, agent := agent, grant := 0#3
    pers := false, need := false, pruned := false, dir := 0, x := at_.1, y := at_.2, tx := to_.1, ty := to_.2
    trail := [], caught := 0, via := none, rooted := false, uncounted := false, exempt := none, noted := false, atLocal := false }

/-- A persistent request takes its place at its home stop as it first arrives there (R252). -/
def enterPersist (s : State) (stop req : Nat) : State :=
  if s.mesh.persist.any fun p => p.2 == req then s
  else { s with mesh := { s.mesh with persist := s.mesh.persist ++ [(stop, req)] } }

/-- Send, or send again, what a request asks for (R209, R210, R212): from its slice, or from the home where nobody is to be
granted anything. -/
def sendReq (s : State) (id : Nat) (r : Req) : State :=
  let home := s.homeStop r.line
  let src := if r.noGrant then home else sliceStop r.die r.line
  let agent := if r.noGrant then s.homeOf r.line else r.die
  let t := s.send { blankMsg (if r.own then .own else .rd) r.line r.smask r.die id agent src home with
                    pers := r.pers, need := r.need }
  if r.pers && src == home then t.enterPersist (stopNo home.1 home.2) id else t

/-- The lowest TAG that no outstanding request of a slice bears (R245). -/
def freeTag (s : State) (die line : Nat) : BitVec 12 :=
  BitVec.ofNat 12 (((List.range 4096).find? fun t => !s.mesh.reqs.vals.any fun r =>
    r.die == die && sliceOf r.line == sliceOf line && r.tag.toNat == t).getD 0)

/-- A read of sectors of a line for a slice: the request that the others are made from. -/
def newReq (s : State) (die line : Nat) (smask : BitVec 4) (core asid : Nat) : Req :=
  { die := die, line := line, smask := smask, own := false, need := false, whole := false
    held := (sectorsOf line smask).all fun k => s.sectState die k != 0
    tag := s.freeTag die line, refusals := 0, pers := false, core := core, asid := asid, clock := s.clock core
    agent := die, reported := false, outward := none, outAt := 0, outReported := false, noGrant := false, snoop := false
    swm := false, want := { cls := 0, clock := 0#32, owner := 0 } }

/-- An outstanding request does what another asks for. -/
def reqCovers (r q : Req) : Bool :=
  r.die == q.die && r.line == q.line && r.own == q.own && r.noGrant == q.noGrant && r.swm == q.swm &&
  (r.smask &&& q.smask) == q.smask

/-- A request is outstanding from now on. -/
def addReq (s : State) (r : Req) : State :=
  { s with mesh := { s.mesh with reqs := s.mesh.reqs.set s.nextId r }, nextId := s.nextId + 1 }

/-- A request sets out, unless one that does the same is outstanding. -/
def startReq (s : State) (r : Req) : State :=
  if s.mesh.reqs.vals.any fun q => reqCovers q r then s else (s.addReq r).sendReq s.nextId r

/-- The sectors of a line are torn down for a party outside, which no slice's grant follows (R251, R303). -/
def askSnoop (s : State) (line : Nat) (mask : BitVec 4) : State :=
  let u := s.startReq { s.newReq 0 line mask 0 0 with own := true, noGrant := true }
  { u with mesh := { u.mesh with
      reqs := u.mesh.reqs.map fun (r : Nat × Req) =>
        if r.2.line == line && r.2.noGrant && r.2.own && (r.2.smask &&& mask) == mask then (r.1, { r.2 with snoop := true }) else r } }

/-- A read of a sector needs a copy in the die's slice (R244, R247). -/
def askRead (s : State) (die sector core asid : Nat) (w : Want) : State :=
  s.startReq { s.newReq die (sector / 4) (1#4 <<< (sector % 4)) core asid with want := w }

/-- A store to a sector needs ownership; data too, unless the slice holds the sector or the store covers it (R244,
R248). -/
def askOwn (s : State) (die sector core asid : Nat) (whole : Bool) (w : Want) : State :=
  s.startReq { s.newReq die (sector / 4) (1#4 <<< (sector % 4)) core asid with
    want := w, own := true, whole := whole, need := s.sectState die sector == 0 && !whole }

/-- The tree of a line is torn down for an operation at its home (R160), or for a snoop (R251). -/
def askHome (s : State) (sector core asid : Nat) : State :=
  s.startReq { s.newReq (dieOf core) (sector / 4) (1#4 <<< (sector % 4)) core asid with own := true, noGrant := true }

/-- A dirty sector goes to its home without a tree entry (R250). -/
def writeBack (s : State) (die line : Nat) (smask : BitVec 4) : State :=
  s.send (blankMsg .wb line smask die 0 die (sliceStop die line) (s.homeStop line))

/-- A die's slice gives up a line for room: dirty sectors go home, software-managed bytes too (R218, R250). -/
def evictL2Line (s : State) (die line : Nat) : State :=
  let dirty := (List.range 4).foldl
    (fun (m : BitVec 4) i => if 3 ≤ s.sectState die (4 * line + i) then m ||| (1#4 <<< i) else m) 0#4
  let s1 := (List.range 4).foldl (fun t i =>
    let sec := 4 * line + i
    (if t.sectState die sec != 0 then t.loseSector die sec else t).evictL2Copy die sec) s
  if dirty == 0#4 then s1 else (s1.leaveRetention die line).writeBack die line dirty

/-- A slice has a way for a line whose sectors come in: a line of the set goes for it by R222 where none is free (R216). The request that
brought it sets its fields as it is served. -/
def wayL2 (s : State) (die line : Nat) : State :=
  let k := l2Key die (sliceOf line)
  let c := s.cache k
  if c.lines.any fun l => l.tag == line then s else
  let inSet := c.lines.filter fun l => l.set == line % 32
  let free := (List.range 16).find? fun w => !inSet.any fun l => l.way == w
  let gone := match free with | some _ => none | none => c.victim inSet
  let way := match free, gone with | some w, _ => w | none, some v => v.way | none, none => 0
  let s1 := gone.toList.foldl (fun t l => t.evictL2Line die l.frame) s
  let c1 := s1.cache k
  s1.setCache k { c1 with
    lines := (c1.lines.filter fun l => !(some l == gone)) ++
      [{ tag := line, asid := 0, set := line % 32, way := way, sectors := 0#4, evictFirst := false, deadline := none, owner := 0
         stamp := c.count, counted := none, demoted := false, presence := 0#64, frame := line, leaf := 0#7 }] }

/-- A request to the L2 slice of a die (R216, R221, R224); the presence mask notes the cluster
whose L1 takes the sector in, and by its own mask an evicted line leaves the L1s before its slice (R218). -/
def touchL2 (s : State) (die core asid key cls : Nat) (clock : Word) (owner : Nat) (toL1 : Bool) : State :=
  let line := key / 256
  let k := l2Key die (sliceOf line)
  let quota := bits (s.ctx asid).nearq 0 9
  let d := (s.cache k).serve
    { tag := line, asid := 0, set := line % 32, cls := cls, clock := clock, owner := owner, ctx := asid, line := line
      alloc := true, ways := 16, ownerMax := 64, cap := if 256 ≤ quota then none else some (2 * quota), leaf := 0#7
      refill := false }
  let mark := fun (l : CLine) =>
    if toL1 && l.tag == line then { l with presence := l.presence ||| presenceBit (key / 64) (clusterOf core) } else l
  let s1 := d.evicted.foldl (fun t l => t.evictL2Line die l.frame) s
  (s1.setCache k { d.cache with lines := d.cache.lines.map mark }).countServe die d

/-- A home reads a line for a request: it is a request to the home's MSC (R219, R221). -/
def homeReads (s : State) (line asid : Nat) (w : Want) : State :=
  if line / 2 ^ 44 = 0 then s.touchMsc (s.homeMd line) line w.cls w.clock w.owner asid else s

/-! ### Bytes from their homes -/

/-- Bytes of another package are what it holds at this moment: free values (R257, R312). -/
def fetchPeer (s : State) (key n : Nat) : State :=
  if keyTier key = 3 then
    ((s.setMemBytes key ((List.range n).map fun i =>
      Config.peerByte (peerFid key) (keyPa key % 2 ^ 40 + i) s.fresh)).fromOutside s.traceLen).bumpFresh
  else s

/-- A link that a mask names. -/
def lowestLink (m : BitVec 8) : Nat := ((List.range 8).find? fun i => m.getLsbD i).getD 0

def setSpan (s : State) (key : Nat) (p : Span) : State := { s with hub := { s.hub with spans := s.hub.spans.set (key / 4096) p } }

/-- The hub can have a span as an access at its home needs it (R257, R298): a page of another package over a live route, one
of this package at once, unless others hold it in the way and no link to them is live. -/
def spanReady (s : State) (key : Nat) (own : Bool) : Bool :=
  if keyTier key = 3 then s.route (peerFid key) != 0#8 else
  match s.hub.spans.get? (key / 4096) with
  | some p => (!p.m && !own) || (p.links &&& s.hub.linkUp) != 0#8
  | none => true

/-- The hub has the span of a sector for an access at its home (R257): of another package it obtains S, or M where the access
writes, and the sector's bytes; a page of this package that others hold is called home, with what they wrote there, which is
free, and for a write nobody else holds it any more. -/
def spanFor (s : State) (key : Nat) (own : Bool) : State :=
  let old := s.hub.spans.get? (key / 4096)
  if keyTier key = 3 then
    let p := old.getD { links := 0#8, up := lowestLink (s.route (peerFid key)), root := false, m := false, got := 0#64 }
    let i := key / 64 % 64
    let t := if p.got.getLsbD i then s else s.fetchPeer (key / 64 * 64) 64
    t.setSpan key { p with m := p.m || own, got := p.got ||| (1#64 <<< i) }
  else
    match old with
    | none => s
    | some p =>
      let base := key / 4096 * 4096
      let t := if !p.m then s else
        ((List.range 64).foldl (fun (u : State) i => u.homeWritten (base / 64 + i))
          ((s.setMemBytes base ((List.range 4096).map fun i => Config.peerByte 0 (keyPa base + i) s.fresh)).fromOutside
            s.traceLen)).bumpFresh
      if own then { t with hub := { t.hub with spans := t.hub.spans.erase (key / 4096) } } else t.setSpan key { p with m := false }

/-- A software-managed sector of host or pool memory is read outward, with no tree entry (R258, R303). -/
def askSwm (s : State) (die core asid sector : Nat) : State :=
  let line := sector / 4
  let mask : BitVec 4 := 1#4 <<< (sector % 4)
  let home := s.homeStop line
  let r : Req := { s.newReq die line mask core asid with
    agent := hubDie, swm := true, outAt := s.hub.cycle
    outward := some (blankMsg .rd line mask die s.nextId die home home) }
  if s.mesh.reqs.vals.any fun q => reqCovers q r then s else s.addReq r

/-- A die's L2 takes its copy of a software-managed sector as its home has it. -/
def takeL2Copy (s : State) (die sector : Nat) : State :=
  (s.wayL2 die (sector / 4)).putCopy { cache := 2048 + die, sector := sector, bytes := s.homeBytes sector, dirty := 0#64 }

/-- A die's L2 has a copy of a software-managed sector, filled from the home where it had none (R258). False while the home
does not answer: a memory die is not in service (R356), a package has no live route (R298), the host or the pool is asked
(R303). -/
def fillL2Copy (s : State) (die core asid sector : Nat) (w : Want) : State × Bool :=
  if (s.copyOf (2048 + die) sector).isSome then (s, true) else
  let key := 64 * sector
  let t := s.touchDomains asid (s.homeDomains key)
  match keyTier key with
  | 0 =>
    if s.levelServes (16 + s.homeMd (sector / 4)) && s.spanReady key false then (((t.spanFor key false).homeReads (sector / 4) asid w).takeL2Copy die sector, true)
    else (t, false)
  | 3 => if s.route (peerFid key) == 0#8 then (t, false) else ((t.fetchPeer key 64).takeL2Copy die sector, true)
  | _ => (t.askSwm die core asid sector, false)

/-- The copies that serve a core's access to a software-managed sector: an older alias in the cluster gives up its own first
(R320), then the die's L2 and the core's L1 are filled (R218, R258). -/
def fillSwm (s : State) (core asid va sector : Nat) (w : Want) : State × Bool :=
  let s0 := s.dropAlias (clusterOf core) (sector / 4) fun l => l.tag == va / 256 && l.asid == asid
  if (s0.copyOf core sector).isSome then (s0, true) else
  let r := s0.fillL2Copy (dieOf core) core asid sector w
  if !r.2 || s0.l1Banks core = 0 then r else
  (r.1.putCopy { cache := core, sector := sector
                 bytes := ((r.1.copyOf (2048 + dieOf core) sector).map SwmCopy.bytes).getD [], dirty := 0#64 }, true)

/-- What a die's slice needs before it serves a sector to a core without its L1: a copy, under the page's coherence (R244,
R258). False while it waits. -/
def sliceHas (s : State) (core asid sector : Nat) (swm : Bool) (w : Want) : State × Bool :=
  if swm then s.fillL2Copy (dieOf core) core asid sector w
  else if s.sectState (dieOf core) sector == 0 then (s.askRead (dieOf core) sector core asid w, false)
  else (s, true)

/-! ### What the hub asks for itself (R303, R326, R356) -/

/-- The hub reads a sector of host or pool memory outward, for a walk or for a unit of its own. -/
def askHub (s : State) (sector : Nat) : State :=
  let line := sector / 4
  let mask : BitVec 4 := 1#4 <<< (sector % 4)
  let home := s.homeStop line
  let r : Req := { s.newReq 0 line mask 0 0 with
    agent := hubDie, noGrant := true, outAt := s.hub.cycle
    outward := some (blankMsg .rd line mask 0 s.nextId hubDie home home) }
  if s.mesh.reqs.vals.any fun q => reqCovers q r then s else s.addReq r

/-- A request of the hub is held for the service of a sector's home: it counts once (R356). -/
def noteServe (s : State) (sector : Nat) : State :=
  if s.hub.noted.contains sector then s
  else ({ s with hub := { s.hub with noted := sector :: s.hub.noted } } : State).count (16 + s.homeMd (sector / 4)) 25

/-- What has come for walks, or is on its way for them, is used no more: a later walk reads its tables afresh (R309, R321). -/
def dropFetched (s : State) : State :=
  { s with
    hub := { s.hub with fetched := [] }
    mesh := { s.mesh with reqs := s.mesh.reqs.filter fun r => !(r.2.noGrant && !r.2.own && r.2.outward.isSome) } }

/-! ### The host as a reader (R303) -/

/-- The host holds sectors of the device's memory from now on (R303). -/
def toHost (s : State) (ks : List Nat) : State :=
  { s with hub := { s.hub with hostHeld := ks ++ s.hub.hostHeld.filter fun k => !ks.contains k } }

/-- Data of a sector is on its way to a slice that is to hold it E (R209, R244). -/
def grantsE (s : State) (k : Nat) : Bool :=
  s.mesh.msgs.any fun m => m.2.typ == .data && m.2.grant == 2#3 && m.2.line == k / 4 && m.2.smask.getLsbD (k % 4)

/-- A sector that a slice holds is read by an agent outside: it stays, shared, and a dirty one brings its slice out of
retention (R209, R254, R303); what is on its way to be held E is granted S. -/
def shareOut (s : State) (k : Nat) : State :=
  let t : State := if !s.grantsE k then s else
    { s with mesh := { s.mesh with msgs := s.mesh.msgs.map fun (m : Nat × Msg) =>
        if m.2.typ == .data && m.2.grant == 2#3 && m.2.line == k / 4 && m.2.smask.getLsbD (k % 4) then
          (m.1, { m.2 with grant := 1#3 })
        else m } }
  (List.range 16).foldl (fun (v : State) d =>
    match v.sectState d k with
    | 2 => v.setSect d k 1
    | 3 => v.leaveRetention d (k / 4)
    | 4 => (v.leaveRetention d (k / 4)).setSect d k 3
    | _ => v) t

/-! ### The hub's writes -/

/-- IDE keys of a port have been set; until then the traffic that IDE protects is refused (R363). -/
def portOpen (s : State) (pool : Bool) : Bool := if pool then s.boot.idePool.isSome else s.boot.ideHost.isSome

/-- Memory of the host or the pool can be reached: the keys of its port are set (R302, R363). -/
def portServes (s : State) (key : Nat) : Bool :=
  match keyTier key with
  | 1 => s.portOpen false
  | 2 => s.portOpen true
  | _ => true

/-- Bytes reach their home in one step: every cached copy goes first, as an ownership request without a requester would
have it (R248, R251), and the home's MSC refits its line (R219). -/
def homeWrite (s : State) (key : Nat) (bs : List Byte) : State :=
  let secs := rangeOf key bs.length
  secs.foldl (fun t i => t.homeWritten i) ((secs.foldl (fun t i => (t.spanFor (64 * i) true).recallSector i) s).setMemBytes key bs)

/-- An access of the hub's units at its home (R303, R330). -/
def homeUpdate (s : State) (key : Nat) : HubWrite → State
  | .bytes bs => s.homeWrite key bs
  | .host bs => ((s.homeWrite key bs).fromOutside s.traceLen).toHost (rangeOf key bs.length)
  | .word v id => (s.homeWrite key (toBytes 8 v.toNat)).asRelease s.traceLen id
  | .add n => s.homeWrite key (toBytes 8 ((s.memDWord key).toNat + n))
  | .or v => s.homeWrite key (toBytes 8 (s.memDWord key ||| v).toNat)
  | .share n => ((rangeOf key n).foldl shareOut s).toHost (rangeOf key n)

/-- The homes of a range are in service, and its port is open (R356, R363). -/
def homesServe (s : State) (key n : Nat) : Bool := (rangeOf key n).all s.sectorServes && s.portServes key

/-- The memory dies of a range that are not in service. -/
def awaitedDies (s : State) (key n : Nat) : List Nat :=
  (((rangeOf key n).filter fun k => !s.sectorServes k).map fun k => s.homeMd (k / 4)).eraseDups

/-- The sectors that the host holds of what a unit is to write: it gives them up first, so that no update is lost (R303, R330). -/
def hostHas (s : State) (key : Nat) (w : HubWrite) : List Nat :=
  if w.isUnits then (rangeOf key w.len).filter fun k => s.hub.hostHeld.contains k else []

/-- Held accesses that an access comes after: a window's OUT comes before its completion word, a ladder's word before its launch's
(R191, R282, R335). -/
def comesAfter (s : State) (ws : List HeldWrite) : HubWrite → Bool
  | .word _ id => ws.any fun h => match h.what with
      | .word _ j => j == id
      | _ => id % 2 == 1 && (s.hub.windows.get? (id / 2)).any fun w =>
          w.out != 0 && decide (memKey 0 w.out ≤ h.key) && decide (h.key < memKey 0 w.out + 4 * w.count)
  | _ => false

/-- The sectors of a write of the host that slices hold, or are about to: their tree is torn down first (R303). -/
def heldByMesh (s : State) (key : Nat) : HubWrite → List Nat
  | .host bs => (rangeOf key bs.length).filter fun k => s.someHolds k (· != 0) || s.mesh.msgs.any fun m =>
      m.2.typ == .data && m.2.line == k / 4 && m.2.smask.getLsbD (k % 4)
  | _ => []

/-- An access of the host is served at its line's root, in its turn: not while an ownership request is in service there (R251, R303). -/
def hostWaits (s : State) (key : Nat) (w : HubWrite) : Bool :=
  match w with
  | .host _ => (rangeOf key w.len).any fun k => s.isServing (k / 4)
  | .share _ => (rangeOf key w.len).any fun k => s.isServing (k / 4)
  | _ => false

/-- An access of the hub can be performed now. -/
def mayServe (s : State) (ws : List HeldWrite) (key : Nat) (w : HubWrite) : Bool :=
  s.homesServe key w.len && s.hostHas key w == [] && !s.comesAfter ws w && s.heldByMesh key w == [] && !s.hostWaits key w

/-- What stands in the way of an access of the hub is called back (R303). -/
def callBack (s : State) (key : Nat) (w : HubWrite) : State :=
  let t := (s.hostHas key w).foldl (fun (u : State) k => u.askHome k 0 0) s
  (s.heldByMesh key w).foldl (fun (u : State) k => u.askSnoop (k / 4) (1#4 <<< (k % 4))) t

/-- A unit of the hub accesses memory; where a memory die is not in service yet the access is held at its stop, and counts (R356); it is
held too where the host must give the word up first (R303, R330), and while its port is closed (R363). -/
def hubUpdate (s : State) (key : Nat) (w : HubWrite) : State :=
  if s.mayServe s.hub.waiting key w then s.homeUpdate key w
  else
    let u := ((s.awaitedDies key w.len).foldl (fun (u : State) d => u.count (16 + d) 25) s).callBack key w
    { u with hub := { u.hub with waiting := u.hub.waiting ++ [{ key := key, what := w, own := false, ctx := none }] } }

def hubWrite (s : State) (key : Nat) (bs : List Byte) : State := s.hubUpdate key (.bytes bs)

/-- Held accesses in their order: those that can be are performed, the others stay. -/
def serveEach (s : State) : List HeldWrite → List HeldWrite → State
  | [], kept => { s with hub := { s.hub with waiting := kept } }
  | h :: hs, kept =>
    if s.mayServe kept h.key h.what then (s.homeUpdate h.key h.what).serveEach hs kept
    else (s.callBack h.key h.what).serveEach hs (kept ++ [h])

/-- The held accesses whose homes can perform them now are performed, in order (R356). -/
def serveWaiting (s : State) : State :=
  serveEach { s with hub := { s.hub with noted := s.hub.noted.filter fun k => !s.sectorServes k } } s.hub.waiting []

end State

end Sys2Proof.Machine
end

