-- ==== Sys2Proof/Machine/Migrate.lean ====
section
/-!
DEFINITION. Pages pulled on first touch (R324, R326).
-/
namespace Sys2Proof.Machine

namespace State

/-- A word of a migration entry (R324). -/
def migWord (s : State) (n w : Nat) : DWord := s.hub.mig.get (8 * n + w)

def setMigWord (s : State) (n w : Nat) (v : DWord) : State :=
  { s with hub := { s.hub with mig := s.hub.mig.set (8 * n + w) v } }

/-- STATE, PULLED and the two frames of an entry (R324). -/
def migState (s : State) (n : Nat) : Nat := bits (s.migWord n 3) 24 8
def migPulled (s : State) (n : Nat) : BitVec 16 := (s.migWord n 3).setWidth 16
def migOld (s : State) (n : Nat) : Nat := memKey (bits (s.migWord n 3) 16 2) (s.migWord n 0).toNat
def migNew (s : State) (n : Nat) : Nat := memKey (bits (s.migWord n 3) 18 2) (s.migWord n 1).toNat

/-- The ACTIVE entry that moves a frame (R326). -/
def migOf (s : State) (frame : Nat) : Option Nat :=
  (List.range 1024).find? fun n => s.migState n == 1 && s.migNew n == frame

/-- Tear the tree of a line down at once: every copy goes, and the home has the latest bytes (R248, R326). -/
def tearLine (s : State) (line : Nat) : State :=
  let s0 := (List.range 16).foldl (fun (t : State) d =>
    if (List.range 4).any fun i => decide (3 ≤ t.sectState d (4 * line + i)) then t.leaveRetention d line else t) s
  let s1 := (List.range 4).foldl (fun t i => t.recallSector (4 * line + i)) s0
  { s1 with mesh := { s1.mesh with trees := s1.mesh.trees.filter fun e => e.line != line } }

/-- How a request through a leaf with MIG meets its line (R326, R327): it goes on, it waits for the pull, or the old frame is
lost. -/
inductive Pulled where
  | ok (s : State)
  | wait (as : List Ask)
  | lost

/-- The sectors of line l of an entry's old frame. -/
def oldSectors (s : State) (n l : Nat) : List Nat := (List.range 4).map fun i => (s.migOld n + 256 * l) / 64 + i

/-- What the ownership read of a pull waits for (R248, R303, R326, R356): the service of both homes, then that no slice holds a
sector and that what lies outside is owned. -/
def pullAsks (s : State) (n l : Nat) : List Ask :=
  let far := (s.oldSectors n l ++ [(s.migNew n + 256 * l) / 64]).filter fun k => !s.sectorServes k
  if far ≠ [] then far.map .serve
  else ((s.oldSectors n l).filter fun k => s.someHolds k (· != 0) || s.needsOutward k).map .own

/-- Nothing of the old line is on its way in the mesh, and the hub has its span and may use its ports (R257, R363). -/
def pullQuiet (s : State) (n l : Nat) : Bool :=
  let line := (s.migOld n + 256 * l) / 256
  !(s.mesh.serving.any fun p => p.1 == line) && !(s.mesh.msgs.any fun m => m.2.typ == .data && m.2.line == line) &&
  s.spanReady (s.migOld n + 256 * l) true && s.portServes (s.migOld n) && s.portServes (s.migNew n)

/-- What the L2s hold of an old sector's software-managed bytes goes home before the line moves (R327). -/
def flushSwm (s : State) (sector : Nat) : State := (List.range 16).foldl (fun t d => t.evictL2Copy d sector) s

/-- Line l of entry n is written to the new frame, its old sectors being owned (R326, R327). The bytes move, and no access is performed:
they are where they have always been, for every order of R229. -/
def pullLine (s : State) (n l : Nat) : State :=
  let src := s.migOld n + 256 * l
  let dst := s.migNew n + 256 * l
  let s1 := (s.oldSectors n l).foldl (fun t k => (t.flushSwm k).spanFor (64 * k) true) s
  let s2 := s1.putMemBytes dst (s1.memBytes src 256)
  let s3 := (List.range 4).foldl
    (fun t i => (if s2.isPoisoned (src + 64 * i) then t.setPoison (dst / 64 + i) true else t).homeWritten (dst / 64 + i)) s2
  (s3.useOutward (s.oldSectors n l)).setMigWord n 3 (s3.migWord n 3 ||| (1#64 <<< l))

/-- Pull line l of entry n, or wait for it. -/
def pull (s : State) (n l : Nat) : Pulled :=
  if s.isLost (s.migOld n) then .lost
  else if s.pullAsks n l = [] && s.pullQuiet n l then .ok (s.pullLine n l)
  else .wait (s.pullAsks n l)

/-- Bits of the line have been pulled. -/
def linePulled (s : State) (n l : Nat) : Bool := (s.migPulled n).getLsbD l

/-- A request whose leaf carries MIG meets its frame's entry (R326, R327). -/
def pullFirst (s : State) (key : Nat) : Pulled :=
  match s.migOf (key / 4096 * 4096) with
  | none => .ok s
  | some n => if s.linePulled n (key / 256 % 16) then .ok s else s.pull n (key / 256 % 16)

/-- The lines of a range of one page, each touched for the first time perhaps (R326). -/
def firstTouch (s : State) (key n : Nat) : Pulled :=
  (List.range ((key % 256 + n + 255) / 256)).foldl
    (fun a i => match a with | .ok t => t.pullFirst (256 * (key / 256 + i)) | r => r) (.ok s)

/-- A line of a migrating page has not been pulled yet. -/
def unpulled (s : State) (key : Nat) : Bool := (s.migOf (key / 4096 * 4096)).any fun n => !s.linePulled n (key / 256 % 16)

/-- Ask for what a request waits for. -/
def askFor (s : State) (as : List Ask) : State :=
  as.foldl (fun (t : State) a => match a with
    | .read k => t.askHub k
    | .own k => t.askHome k 0 0
    | .serve k => t.noteServe k
    | .pull k => match t.firstTouch k 8 with | .ok u => u | _ => t) s

/-- What a leaf leads to, its MIG bit heeded for n bytes of the page (R326). -/
def throughMig (s : State) (leaf : DWord) (level key n : Nat) : Pulled :=
  if level == 1 && leaf.getLsbD 61 then s.firstTouch key n else .ok s

end State

end Sys2Proof.Machine
end

