-- ==== Sys2Proof/Machine/Fetch.lean ====
section
/-!
DEFINITION. Reading program text: the cluster's instruction cache (R40, R164, R323), the fetch of a word (R314), and
the check of a transfer target (R78).
-/
namespace Sys2Proof.Machine

/-- Lines of an instruction cache, and how many may be pinned (R40, R164). -/
def icacheLines : Nat := 1024
def icachePins : Nat := 256

/-- The 256-byte line of an address. -/
def lineOf (va : DWord) : DWord := BitVec.ofNat 64 (va.toNat / 256 * 256)

/-- A line of an instruction cache serves an address of a context (R321). -/
def ILine.serves (l : ILine) (asid : Nat) (va : DWord) : Bool :=
  (l.global || l.asid == asid) && l.va == lineOf va

/-- The line that holds an address, if the cluster has it. -/
def State.iline (s : State) (core asid : Nat) (va : DWord) : Option ILine :=
  (s.cluster (clusterOf core)).icache.find? fun l => l.serves asid va

/-- A word of a line. -/
def ILine.word (l : ILine) (va : DWord) : DWord := l.words.getD (va.toNat % 256 / 8) 0#64

/-- The word's sector came poisoned. -/
def ILine.poisonedAt (l : ILine) (va : DWord) : Bool := l.bad.getLsbD (va.toNat % 256 / 64)

/-- The bytes of a sector as a die's L2 serves them: a software-managed copy where it holds one (R258); what no slice holds
of another package is what that holds now (R257). -/
def State.l2Byte (s : State) (die key : Nat) : Byte :=
  match s.swm.find? fun c => c.cache == 2048 + die && c.sector == sectorOf key with
  | some c => c.bytes.getD (key % 64) 0#8
  | none =>
    if keyTier key = 3 && !s.someHolds (sectorOf key) (· != 0) then
      Config.peerByte (peerFid key) (keyPa key % 2 ^ 40) s.fresh
    else s.memByte key

/-- A line of text, as it is filled from memory (R323). -/
def State.makeLine (s : State) (core asid : Nat) (va : DWord) (key : Nat) (global : Bool) (level : Nat) : ILine :=
  let base := key / 256 * 256
  { asid := asid, va := lineOf va, global := global, level := level, line := key / 256
    words := (List.range 32).map fun i =>
      BitVec.ofNat 64 (ofBytes ((List.range 8).map fun j => s.l2Byte (dieOf core) (base + 8 * i + j)))
    bad := (List.range 4).foldl (fun m i => if s.isPoisoned (base + 64 * i) then m ||| (1#4 <<< i) else m) 0#4
    pins := [] }

/-- Room for one more line: the oldest line that is not pinned goes (R40). -/
def makeRoom (ls : List ILine) : List ILine :=
  if ls.length < icacheLines then ls else ls.eraseP fun l => l.pins == []

/-- Put a line into a cluster's instruction cache. -/
def State.addLine (s : State) (core : Nat) (l : ILine) : State :=
  let c := s.cluster (clusterOf core)
  s.setCluster (clusterOf core) { c with icache := makeRoom c.icache ++ [l] }

/-- How the fetch of a word ends (R314). -/
inductive Fetched where
  | word (w : DWord)
  /-- the line is not in the instruction cache; its byte's location (R40) -/
  | miss (key : Nat) (leaf : DWord) (level : Nat)
  | trap (code : Nat)
  | missing
  | noFrame (key : Nat)
  /-- its translation, or its line, waits for memory -/
  | wait (as : List Ask)
  deriving DecidableEq, Repr

/-- The trap codes of R343. -/
def cIllegal : Nat := 0x01
def cBadTarget : Nat := 0x02
def cIndexRange : Nat := 0x03
def cUniformSplit : Nat := 0x04
def cMisaligned : Nat := 0x05
def cFormat : Nat := 0x06
def cTileState : Nat := 0x07
def cLadder : Nat := 0x08
def cProtection : Nat := 0x09
def cKernel : Nat := 0x0A
def cPageFault : Nat := 0x0B
def cPoison : Nat := 0x0C
def cLost : Nat := 0x0D
def cTrap : Nat := 0x0E
def cBreak : Nat := 0x0F

/-- Fetch a word of text (R40, R314). -/
def State.fetch (s : State) (core asid : Nat) (va : DWord) : Fetched :=
  if inWindow va then .trap cProtection else
  match s.iline core asid va with
  | some l => if l.poisonedAt va then .trap cPoison else .word (l.word va)
  | none =>
    match s.translated core asid needX va 8 with
    | .ok (.mem k) leaf level => (match s.throughMig leaf level k 8 with | .lost => .trap cLost | _ => .miss k leaf level)
    | .ok (.ls _ _) _ _ => .trap cProtection
    | .protection => .trap cProtection
    | .kernelReserved => .trap cKernel
    | .missing => .missing
    | .lost => .trap cLost
    | .poison => .trap cPoison
    | .noFrame k => .noFrame k
    | .wait as => .wait as

/-- The check of a transfer target (R78). -/
inductive Target where
  | ok
  | trap (code : Nat) (tval : DWord)
  | missing
  | noFrame (key : Nat)
  | wait (as : List Ask)
  deriving DecidableEq, Repr

/-- The word at a target, read as an instruction fetch; on a miss it is read from memory at once, once a migrating line has been
pulled (R326). -/
def State.targetWord (s : State) (core asid : Nat) (va : DWord) : Fetched :=
  match s.fetch core asid va with
  | .miss k leaf level =>
    (match s.throughMig leaf level k 8 with
      | .ok t =>
        if level == 1 && leaf.getLsbD 61 && s.unpulled k then .wait [.pull k] else
        let l := t.makeLine core asid va k false level
        if l.poisonedAt va then .trap cPoison else .word (l.word va)
      | .wait as => .wait as
      | .lost => .trap cLost)
  | r => r

/-- Check a transfer target (R78). -/
def State.checkTarget (s : State) (core asid : Nat) (t : DWord) : Target :=
  if t.toNat % 8 ≠ 0 then .trap cBadTarget 0#64 else
  match s.targetWord core asid t with
  | .word w => if isHeaderWord w then .ok else .trap cBadTarget 0#64
  | .trap c => .trap c t
  | .missing => .missing
  | .miss _ _ _ => .ok
  | .noFrame k => .noFrame k
  | .wait as => .wait as

end Sys2Proof.Machine
end

