-- ==== Sys2Proof/Machine/Flags.lean ====
section
/-!
DEFINITION. The flag computations: completion flags (R49, R80, R82), compare conditions (R88), carries and borrows
(R103), saturation (R102), barrier counts (R138) and the reconvergence table's life (R29, R30).
-/
namespace Sys2Proof.Machine

/-- A flag choice of a header: 0–11 name a flag, 15 none (R73, R80). -/
def flagChoice (c : BitVec 4) : Option Nat := if c.toNat < 12 then some c.toNat else none

/-- The flag an instruction of a lane's block is assigned to (R80). -/
def Lane.flagFor (l : Lane) (fs : Bool) : Option Nat :=
  match l.pos with
  | some p => flagChoice (if fs then p.setb else p.seta)
  | none => none

/-- An operation is assigned to a flag, which is then set (R49). -/
def Group.assign (g : Group) : Option Nat → Group
  | some k => { g with flags := g.flags.modify k (· + 1) }
  | none => g

/-- An operation assigned to a flag completes; the flag clears with the last (R49). -/
def Group.release (g : Group) : Option Nat → Group
  | some k => { g with flags := g.flags.modify k (· - 1) }
  | none => g

/-- A flag is set (R49). -/
def Group.flagSet (g : Group) (k : Nat) : Bool := decide (0 < g.flags.getD k 0)

/-- Some flag that a WAIT field names is set (R75 step 3, R82). -/
def Group.waitsOn (g : Group) (wait : BitVec 12) : Bool :=
  (List.range 12).any fun k => wait.getLsbD k && g.flagSet k

/-- Release a flag of a group. -/
def State.releaseFlag (s : State) (b g : Nat) (fl : Option Nat) : State := s.onGroup b g fun k => k.release fl

def State.assignFlag (s : State) (b g : Nat) (fl : Option Nat) : State := s.onGroup b g fun k => k.assign fl

/-- A value of w bits as a signed or unsigned integer (R66). -/
def toInteger (w : Nat) (signed : Bool) (v : DWord) : Int :=
  let n := v.toNat % 2 ^ w
  if signed && decide (2 ^ (w - 1) ≤ n) then (n : Int) - 2 ^ w else n

/-- An integer modulo 2^w, as a register value (R102). -/
def ofInteger (w : Nat) (x : Int) : DWord := BitVec.ofNat 64 (x.emod (2 ^ w)).toNat

/-- The least and largest integer of a type (R102). -/
def minOf (w : Nat) (signed : Bool) : Int := if signed then -(2 ^ (w - 1)) else 0
def maxOf (w : Nat) (signed : Bool) : Int := if signed then 2 ^ (w - 1) - 1 else 2 ^ w - 1

/-- Saturation (R102, R117). -/
def clampTo (w : Nat) (signed : Bool) (x : Int) : Int :=
  if x < minOf w signed then minOf w signed else if maxOf w signed < x then maxOf w signed else x

/-- The compare conditions on integers (R88). -/
def compareInt (cc : Nat) (a b : Int) : Bool :=
  match cc with
  | 0 => decide (a = b)
  | 1 => decide (a ≠ b)
  | 2 => decide (a < b)
  | 3 => decide (a ≤ b)
  | 4 => decide (b < a)
  | 5 => decide (b ≤ a)
  | _ => false

/-- The carry out of a 32-bit add with carry in (R103). -/
def carryOut (a b ci : Nat) : Bool := decide (2 ^ 32 ≤ a + b + ci)

/-- The borrow out of a 32-bit subtract with borrow in (R103). -/
def borrowOut (a b ci : Nat) : Bool := decide (a < b + ci)

/-- A type code is signed (R87): `.i8 .i16 .i32 .i64`. -/
def tySigned (ty : Nat) : Bool := ty == 1 || ty == 2 || ty == 3 || ty == 4

/-- The width of an integer type code (R87). -/
def intWidth (ty : Nat) : Nat :=
  if ty == 1 || ty == 5 then 8 else if ty == 2 || ty == 6 then 16 else if ty == 4 || ty == 8 || ty == 10 then 64 else 32

/-- An entry of the reconvergence table is live: some member is selectable and not at its point (R30). -/
def Group.reconLive (g : Group) (e : Recon) : Bool :=
  (lanesOf e.members).any fun i => (g.lane i).selectable && (g.lane i).pc != e.target

/-- Release the lanes an entry holds (R30). -/
def Group.releaseHeld (g : Group) (e : Recon) : Group :=
  { g with
    lanes := g.lanes.mapIdx fun i ln =>
      if e.members.getLsbD i && ln.wait == .held && ln.pc == e.target then { ln with wait := .running } else ln }

/-- Retire every entry that is no longer live (R30). -/
def Group.retireRecon (g : Group) : Group :=
  let gone := g.recon.filter fun e => !g.reconLive e
  let g' := gone.foldl (fun a e => a.releaseHeld e) g
  { g' with recon := g.recon.filter fun e => g.reconLive e }

/-- Lanes leave every entry of the table (R31, R127). -/
def Group.leaveRecon (g : Group) (m : DWord) : Group :=
  { g with recon := g.recon.map fun e => { e with members := e.members &&& ~~~m } }

/-- The lanes of a block that count at its barriers: ordinary, in groups that have not stopped (R138, R347). -/
def Block.expected (b : Block) : Nat :=
  (b.groups.vals.filter fun g => !g.stopped).foldl
    (fun n g => n + (g.lanes.filter fun l => l.kind == .ordinary).length) 0

/-- The lanes of a block that have arrived at a barrier (R138). -/
def Block.arrived (b : Block) (w : Wait) : Nat :=
  (b.groups.vals.filter fun g => !g.stopped).foldl
    (fun n g => n + (g.lanes.filter fun l => l.kind == .ordinary && l.wait == w).length) 0

/-- A barrier of a block (R138). -/
def Block.bar (b : Block) (k : Nat) : Bar := b.bars.getD k Bar.init

end Sys2Proof.Machine
end

