-- ==== Sys2Proof/Machine/Ops.lean ====
section
/-!
DEFINITION. The shared operations of the meanings: fault-queue entries (R305, R342), parking (R306), stopping (R347),
taking a trap (R343–R346, R54) and returning from one (R353), retiring lanes (R127), and the frame of every
instruction: the checks of R97 in their order, the guard (R45), the interlock (R81) and the uniform rules (R33, R34).
-/
namespace Sys2Proof.Machine

/-! ### Fault-queue entries and the context's status -/

/-- The BLOCK field of an entry (R305). -/
def Block.field (b : Block) : Word :=
  match b.packed with
  | some _ => 0xFFFFFFFF#32
  | none => BitVec.ofNat 32 (b.cohort % 65536 * 65536 + b.no % 256)

/-- The GROUP field of an entry (R305): z.group, or the rung of a packed group. -/
def Block.groupField (b : Block) (g : Nat) : Nat := match b.packed with | some r => r | none => g

/-- The bytes of an entry but for SEQ (R305, R342). -/
def fqBytes (va lmask : DWord) (asid kind group core b22 b23 : Nat) (blk : Word) : List Byte :=
  toBytes 8 va.toNat ++ toBytes 8 lmask.toNat ++ toBytes 2 asid ++ toBytes 1 kind ++ toBytes 1 group ++
  toBytes 2 core ++ toBytes 1 b22 ++ toBytes 1 b23 ++ toBytes 4 blk.toNat

/-- Hand an entry to the hub, which appends it when the ring has room (R306, R341). -/
def State.post (s : State) (bytes : List Byte) : State :=
  { s with hub := { s.hub with held := s.hub.held ++ [{ id := s.nextId, bytes := bytes }] }, nextId := s.nextId + 1 }

/-- Hand a translation-fault entry to the hub, and note who waits for it (R305, R308). Its id is `s.nextId`. -/
def State.postWait (s : State) (asid : Nat) (va : DWord) (bytes : List Byte) (w : Waiter) : State :=
  let s1 := s.post bytes
  { s1 with
    hub := { s1.hub with
      outst := s1.hub.outst ++
        [{ id := s.nextId, asid := asid, va := va, seq := none, waiter := w }] } }

/-- Add to a word of a context's status block (R330). -/
def State.statusAdd (s : State) (asid off n : Nat) : State :=
  match s.ctxs.get? asid with
  | some c =>
    s.hubUpdate (memKey 0 (c.status + off)) (.add n)
  | none => s

/-- Set a bit of a context's status FLAGS (R65, R330). -/
def State.statusBadscale (s : State) (asid : Nat) : State :=
  match s.ctxs.get? asid with
  | some c =>
    s.hubUpdate (memKey 0 c.status) (.or 1#64)
  | none => s

/-! ### Stopping and parking -/

/-- Stop a group (R347): one KIND 8 record, which says whether a trapping lane was in a handler, STOPPED, and the launch's
first code. -/
def State.stopGroup (s : State) (b g code : Nat) (lanes epc : DWord) (failed : Bool) : State :=
  let blk := s.block b
  let grp := s.group b g
  if grp.stopped || grp.ended then s else
  let nested := (lanesOf lanes).any fun i => (grp.lane i).inHandler
  let noHandler := !(s.ctx blk.asid).trapvec.getLsbD 0
  let b23 := (if nested then 1 else 0) + (if noHandler then 2 else 0) + (if failed then 4 else 0)
  let s1 := s.onGroup b g fun k =>
    { k with stopped := true, active := false, choice := [], parked := [], pendTrap := none, frozen := none }
  let s2 := { s1 with
    hub := { s1.hub with outst := s1.hub.outst.filter fun o => o.waiter != Waiter.group b g } }
  let s3 := s2.post (fqBytes epc lanes blk.asid 8 (blk.groupField g) blk.core code b23 blk.field)
  (s3.statusAdd blk.asid 24 1).onLaunch blk.launch fun l =>
    { l with firstStop := match l.firstStop with | some c => some c | none => some (BitVec.ofNat 8 code) }

/-- Park a group (R306): one entry for each page, in ascending order of its lowest lane. Each entry is the address, the
mask of the lanes that missed in its page, and the KIND. -/
def State.parkGroup (s : State) (b g : Nat) (lanes pc : DWord) (entries : List (DWord × DWord × Nat)) : State :=
  let blk := s.block b
  let step := fun (a : State × List Nat) (e : DWord × DWord × Nat) =>
    (a.1.postWait blk.asid e.1
      (fqBytes e.1 e.2.1 blk.asid e.2.2 (blk.groupField g) blk.core 0 0 blk.field) (.group b g), a.2 ++ [a.1.nextId])
  let r := entries.foldl step (s, [])
  r.1.onGroup b g fun k => { k with parked := r.2, parkLanes := lanes, parkPc := pc, active := false }

/-! ### Traps -/

/-- Where a handler is entered: TRAPVEC.HANDLER (R54). -/
def handlerOf (tv : DWord) : DWord := tv &&& 0x01FFFFFFFFFFFFF8#64

/-- The header of the block that holds a word, for RHDR (R344): the word itself for a header trap. -/
def Lane.headerOf (l : Lane) (epc : DWord) : DWord × Option BlkPos :=
  match l.pos with
  | some p =>
    let d := (epc - p.hdr).toNat
    if d ≠ 0 && decide (d ≤ 8 * p.len) then (p.hdr, some p) else (epc, none)
  | none => (epc, none)

/-- The lane's state as it enters a handler (R344). -/
def Lane.enterHandler (l : Lane) (code : Nat) (tval epc handler : DWord) : Lane :=
  let h := l.headerOf epc
  { l with
    cause := BitVec.ofNat 8 code, tval := tval, epc := epc, rhdr := h.1, rpos := h.2, inHandler := true, pc := handler,
    pos := none, wait := .running }

/-- Stop a group for what lanes of it meet at an instruction (R290, R291, R298, R308), unless it has stopped or ended: z.epc names the
instruction and z.tval the address. -/
def State.stopAt (s : State) (b g code : Nat) (lanes tval epc : DWord) : State :=
  if (s.group b g).stopped || (s.group b g).ended then s else
  (s.onLanes b g lanes fun _ l => { l with tval := tval, epc := epc }).stopGroup b g code lanes epc false

/-- Every lane of a group stops at its own next instruction (R290, R347, R360). -/
def State.stopAll (s : State) (b g code : Nat) : State :=
  let m := (s.group b g).ordinary
  if (s.group b g).stopped || (s.group b g).ended then s else
  (s.onLanes b g m fun _ l => { l with epc := l.pc }).stopGroup b g code m (s.lane b g (lowest m)).pc false

/-- The traps that never enter a handler (R343). -/
def noHandlerCode (code : Nat) : Bool := code == cPageFault || code == cPoison || code == cLost

/-- Take a trap in the lanes of a mask (R343, R344, R54): enter the handler, stop the group, or park it when the
handler's header has no translation. -/
def State.takeTrap (s : State) (b g : Nat) (lanes : DWord) (code : Nat) (tval epc : DWord) : State :=
  let blk := s.block b
  let tv := (s.ctx blk.asid).trapvec
  let nested := (lanesOf lanes).any fun i => (s.lane b g i).inHandler
  if noHandlerCode code then s.stopAt b g code lanes tval epc
  else if !tv.getLsbD 0 || nested then s.stopGroup b g code lanes epc false
  else
    let h := handlerOf tv
    match s.checkTarget blk.core blk.asid h with
    | .ok => s.onLanes b g lanes fun _ l => l.enterHandler code tval epc h
    | .missing =>
      (s.parkGroup b g lanes epc [(h, lanes, 3)]).onGroup b g fun k =>
        { k with pendTrap := some { code := BitVec.ofNat 8 code, tval := tval, epc := epc, lanes := lanes } }
    | .wait as => (s.askFor as).onGroup b g fun k =>
        { k with pendTrap := some { code := BitVec.ofNat 8 code, tval := tval, epc := epc, lanes := lanes } }
    | _ => s.stopGroup b g code lanes epc true

/-- A handler entry that waited for a translation completes, or fails (R54): it reads TRAPVEC as it stands then (DESIGN CHOICE, log
entry 82). -/
def State.resumeTrap (s : State) (b g : Nat) (p : PendTrap) : State :=
  (s.onGroup b g fun k => { k with pendTrap := none }).takeTrap b g p.lanes p.code.toNat p.tval p.epc

/-- A lane returns from its handler (R353): past the trapping word, or at it for a header trap or `.retry`. -/
def Lane.returnFrom (l : Lane) (retry : Bool) (words : Nat) : Lane :=
  { l with
    inHandler := false
    pc := if l.epc == l.rhdr || retry then l.epc else l.epc + BitVec.ofNat 64 (8 * words)
    pos := if l.epc == l.rhdr then none else l.rpos }

/-! ### Lanes that leave -/

/-- Turn lanes into helpers (R26, R127): they leave every reconvergence entry; a group without an ordinary lane ends. -/
def State.retireLanes (s : State) (b g : Nat) (m : DWord) : State :=
  (s.onLanes b g m fun _ l => { l with kind := .helper, wait := .running, pos := none }).onGroup b g fun k =>
    let k1 := k.leaveRecon m
    if k1.ordinary == 0#64 then { k1 with ended := true, active := false, recon := [], choice := [] } else k1

/-! ### The instruction at issue -/

/-- The group at issue. -/
def State.cg (s : State) : Group := s.group s.cur.blk s.cur.grp

/-- The block at issue. -/
def State.cb (s : State) : Block := s.block s.cur.blk

/-- The executing lanes: those of the path on which the guard holds (R45, R71). -/
def State.execLanes (s : State) (guard : BitVec 8) : DWord :=
  s.cur.lanes &&& maskOf fun i => (s.cg.lane i).guardHolds guard

/-- How the body of an instruction ends. -/
inductive Res where
  /-- done; the lanes whose pc it has set itself -/
  | ok (s : State) (moved : DWord)
  /-- a precise trap in some lanes (R343, R344) -/
  | trap (lanes : DWord) (code : Nat) (tval : DWord)
  /-- a copy failure that CWAIT reports, after a change of the copy alone (R269) -/
  | trapWith (s : State) (lanes : DWord) (code : Nat) (tval : DWord)
  /-- entries for missing translations, and the lanes that trap if one fails (R306, R344) -/
  | park (lanes : DWord) (entries : List (DWord × DWord × Nat))
  /-- the path cannot issue (R28); the event it counts -/
  | stall (ev : Option Nat)
  /-- it cannot issue until memory answers the requests it has made -/
  | stallWith (s : State)
  /-- path B must issue after path A (R152) -/
  | behind
  | fault (f : Fault)

/-- Change the lanes at issue. -/
def State.onExec (s : State) (m : DWord) (f : Nat → Lane → Lane) : State := s.onLanes s.cur.blk s.cur.grp m f

/-- Move the lanes past the word at issue. -/
def State.advance (s : State) (m : DWord) (words : Nat) : State :=
  s.onExec m fun _ l => { l with pc := s.cur.pc + BitVec.ofNat 64 (8 * words) }

def State.result (s : State) (r : Result) : State := { s with cur := { s.cur with result := r } }

/-- Lanes of a mask that are still ordinary. -/
def State.stillOrdinary (s : State) (m : DWord) : DWord := m &&& s.cg.ordinary

/-- End an instruction: advance the lanes it has not moved, take its trap, park its group, or leave it unissued. -/
def finish (s : State) (words : Nat) : Res → Host.Outcome State Fault Refusal
  | .ok s' moved => .next ((s'.advance (s'.stillOrdinary (s.cur.lanes &&& ~~~moved)) words).result .done)
  | .trap lanes code tval => .next ((s.takeTrap s.cur.blk s.cur.grp lanes code tval s.cur.pc).result .trapped)
  | .trapWith s' lanes code tval => .next ((s'.takeTrap s.cur.blk s.cur.grp lanes code tval s.cur.pc).result .trapped)
  | .park lanes es => .next ((s.parkGroup s.cur.blk s.cur.grp lanes s.cur.pc es).result (.parked lanes es))
  | .stall ev => .next (s.result (.stalled ev))
  | .stallWith s' => .next (s'.result (.stalled none))
  | .behind => .next (s.result .behind)
  | .fault f => .fault f

/-- A direct register range inside the reservation (R43). -/
def vregFits (n : Nat) : VReg → Bool
  | .dir first k => decide (first + k ≤ n)
  | .idx _ _ _ => true

/-- Index + k, and the register an indexed operand names in a lane (R48). -/
def Lane.indexOf (l : Lane) (j : Nat) : Int := ((l.x.get j).extractLsb' 20 12).toInt
def Lane.limitOf (l : Lane) (j : Nat) : Nat := bits (l.x.get j) 10 10
def Lane.baseOf (l : Lane) (j : Nat) : Nat := bits (l.x.get j) 0 10
def Lane.indexed (l : Lane) (j : Nat) (k : Int) : Nat := (l.baseOf j + (l.indexOf j + k)).toNat

/-- The value R48 rejects in a lane, if it rejects one; n registers are reserved (R43). -/
def vregBad (n : Nat) (l : Lane) : VReg → Option Int
  | .dir _ _ => none
  | .idx j k w64 =>
    let i := l.indexOf j + k
    if i < 0 || (l.limitOf j : Int) ≤ i then some i
    else if w64 && ((l.limitOf j : Int) ≤ i + 1 || (l.baseOf j + i) % 2 ≠ 0) then some i
    else if (n : Int) ≤ l.baseOf j + i + (if w64 then 1 else 0) then some i
    else none

/-- The registers a field names in a lane. -/
def vregRegs (l : Lane) : VReg → List Nat
  | .dir first n => (List.range n).map (first + ·)
  | .idx j k w64 => if w64 then [l.indexed j k, l.indexed j k + 1] else [l.indexed j k]

/-- The registers an operation still has to deliver to a lane (R81). -/
def OpKind.delivers (k : OpKind) : Bool :=
  match k with | .load _ => true | .atom _ _ => true | _ => false

/-- The number of data registers of a width (R146). -/
def widRegs (wid : Nat) : Nat := if wid == 3 then 2 else if wid == 4 then 4 else 1

/-- A register of a lane has a write pending by an operation accepted before an identity (R81). -/
def State.pending (s : State) (lim b g lane r : Nat) : Bool :=
  (s.ops.any fun o => decide (o.1 < lim) && o.2.blk == b && o.2.grp == g && o.2.kind.delivers &&
    decide (o.2.dest ≤ r) && decide (r < o.2.dest + widRegs o.2.wid) &&
    o.2.accs.any fun a => a.lane == lane && !a.done) ||
  ((s.core (s.block b).core).mq.any fun m => decide (m.id < lim) && m.blk == b && m.grp == g &&
    (match m.kind with
      | .acrd _ dest rows => dest == r && rows.any fun x => x.1 == lane
      | _ => false))

/-- A register of a lane of the group at issue has a write pending by an earlier issue (R81, R123): what the other path of
this issue leaves outstanding does not count, since both issue in one cycle (R28). -/
def State.pendingHere (s : State) (lane r : Nat) : Bool := s.pending s.cur.firstId s.cur.blk s.cur.grp lane r

/-- Whether the instruction writes a uniform register, or is held to the same rule (R33, R34, R99, R350). -/
def uniformRule : Instr → Bool
  | .vtos _ => true
  | .redux f => f.ftz
  | .sysr _ => true
  | .sysw _ => true
  | .launch _ => true
  | .lstat _ => true
  | .movi f => f.u
  | .movw f => f.u
  | .tern f => f.u
  | i => match i.chk with
    | some c => c.uses.any fun o => (match o.kind with | .ureg => true | .urange _ => true | _ => false) &&
        (match i with
          | .ldv _ => false
          | .stv _ => false
          | .stov _ => false
          | .tcfg _ => false
          | _ => true)
    | none => false

/-- CALL and CALLX stand last in their block (R126); a two-word form does not (R77). -/
def Lane.lastWord (l : Lane) (pc : DWord) : Bool :=
  match l.pos with
  | some p => (pc - p.hdr).toNat == 8 * p.len
  | none => false

def placeOk (i : Instr) (last : Bool) : Bool :=
  match i with
  | .call _ => last
  | .callx _ => last
  | .movw _ => !last
  | _ => true

/-- The words of an instruction. -/
def wordsOf (i : Instr) : Nat := match i with | .movw _ => 2 | _ => 1

/-- Step 1 of R97 for the block at issue: the reservation (R43) and the place in the block. -/
def State.illegalHere (s : State) (i : Instr) : Bool :=
  !(i.vregs.all (vregFits s.cb.regs)) || !placeOk i ((s.cg.lane (lowest s.cur.lanes)).lastWord s.cur.pc)

/-- Some executing lane has a write pending on a register the instruction names (R81). -/
def State.hazard (s : State) (i : Instr) (m : DWord) : Bool :=
  (lanesOf m).any fun l => i.vregs.any fun v => (vregRegs (s.cg.lane l) v).any fun r => s.pendingHere l r

/-- The lowest executing lane whose index R48 rejects, and the value. -/
def State.badIndex (s : State) (i : Instr) (m : DWord) : Option Int :=
  (lanesOf m).findSome? fun l => i.vregs.findSome? fun v => vregBad s.cb.regs (s.cg.lane l) v

/-- The active lanes of the group, counted once for an issue (R33, log entry 22). -/
def State.activeLanes (s : State) : DWord := s.cur.before.ordinary

/-- A uniform write is not allowed from this path (R33, R34). -/
def State.splitUniform (s : State) (m : DWord) : Bool := m != s.cur.lanes || s.cur.lanes != s.activeLanes

/-- The frame of every instruction (R97): its checks in their order, then its own body over the executing lanes. -/
def run (i : Instr) (s : State) (body : DWord → Res) : Host.Outcome State Fault Refusal :=
  if s.illegalHere i then finish s (wordsOf i) (.trap s.cur.lanes cIllegal 0#64)
  else
    let m := s.execLanes i.guard
    if m == 0#64 then finish s (wordsOf i) (.ok s 0#64)
    else if s.hazard i m then finish s (wordsOf i) (.stall (some 0))
    else match s.badIndex i m with
      | some t => finish s (wordsOf i) (.trap m cIndexRange (ofInteger 64 t))
      | none =>
        if uniformRule i && s.splitUniform m then finish s (wordsOf i) (.trap m cUniformSplit 0#64)
        else finish s (wordsOf i) (body m)

end Sys2Proof.Machine
end

