-- ==== Sys2Proof/Machine/Operands.lean ====
section
/-!
DEFINITION. Every operand form (R44, R46, R66, R83–R89, R100): vector registers, pairs, uniform registers, indexed
operands, predicates and immediates, read and written; and the mould of the instructions that compute in registers.
-/
namespace Sys2Proof.Machine

/-- A value cut to the width of its type (R46, R66). -/
def cut (w : Nat) (x : DWord) : DWord := if w == 64 then x else (x.extractLsb' 0 32).setWidth 64

/-- Read a register operand of w bits: uniform, indexed or direct (R46, R48, R86). -/
def readOpd (g : Group) (l : Lane) (uni : Bool) (fld : Fld) (idx : Bool) (w : Nat) : DWord :=
  if uni then cut w (g.ureg fld.toNat)
  else
    let r := if idx then l.indexed (Fld.index fld).1 (Fld.index fld).2 else fld.toNat
    if w == 64 then l.vpair r else (l.vreg r).setWidth 64

/-- The first source (R84). -/
def rdA (f : FmtA) (g : Group) (l : Lane) (w : Nat) : DWord := readOpd g l f.u f.a (f.xs == 1#2) w

/-- The second source: a register, or the immediate as an integer of w bits (R84, R100). -/
def rdB (f : FmtA) (g : Group) (l : Lane) (w : Nat) : DWord :=
  if f.bi then ofInteger w f.imm else readOpd g l f.u f.b (f.xs == 2#2) w

/-- The third source (R89). -/
def rdC (f : FmtA) (g : Group) (l : Lane) (w : Nat) : DWord := readOpd g l f.u f.c false w

/-- The destination's old value, for the functions that keep part of it (R121). -/
def rdD (f : FmtA) (g : Group) (l : Lane) (w : Nat) : DWord := readOpd g l f.u f.d (f.xs == 3#2) w

/-- The register a vector destination names in a lane (R48). -/
def destReg (f : FmtA) (l : Lane) : Nat :=
  if f.xs == 3#2 then l.indexed (Fld.index f.d).1 (Fld.index f.d).2 else f.d.toNat

/-- Write a value of w bits into a vector register or pair (R44). -/
def Lane.put (l : Lane) (r w : Nat) (x : DWord) : Lane :=
  if w == 64 then l.setVpair r x else l.setV r (x.extractLsb' 0 32)

/-- Write a uniform register (R46). -/
def State.putU (s : State) (r : Nat) (w : Nat) (x : DWord) : State :=
  s.onGroup s.cur.blk s.cur.grp fun g => g.setU r (cut w x)

/-- Deliver a value to D in every executing lane, or once to a uniform D (R71, R86). The value is computed from the
group, a lane and z.lane, which a uniform form takes as 0 (R68). -/
def State.putD (s : State) (f : FmtA) (m : DWord) (w : Nat) (val : Group → Lane → Nat → DWord) : State :=
  if f.u then s.putU f.d.toNat w (val s.cg (s.cg.lane (lowest m)) 0)
  else s.onExec m fun i l => l.put (destReg f l) w (val s.cg l i)

/-- Deliver a predicate to D in every executing lane (R99, R105). -/
def State.putP (s : State) (f : FmtA) (m : DWord) (val : Group → Lane → Bool) : State :=
  s.onExec m fun _ l => l.setP f.d.toNat (val s.cg l)

/-- An instruction that delivers a value to D. -/
def alu (s : State) (f : FmtA) (m : DWord) (w : Nat) (val : Group → Lane → Nat → DWord) : Res :=
  .ok (s.putD f m w val) 0#64

/-- An instruction that delivers a predicate to D. -/
def aluPred (s : State) (f : FmtA) (m : DWord) (val : Group → Lane → Bool) : Res := .ok (s.putP f m val) 0#64

/-- A predicate that a uniform form reads differs among the executing lanes (R99). -/
def predSplit (s : State) (u : Bool) (m : DWord) (p : Nat) : Bool :=
  u && (lanesOf m).any fun i => (s.cg.lane i).pred p != (s.cg.lane (lowest m)).pred p

/-- Two integer sources of the type's width, an exact result, saturation and wrapping (R102). -/
def aluInt (s : State) (f : FmtA) (m : DWord) (op : Int → Int → Int) : Res :=
  let w := tyWidth f.ty
  let sg := tySigned f.ty
  alu s f m w fun g l _ =>
    let x := op (toInteger w sg (rdA f g l w)) (toInteger w sg (rdB f g l w))
    ofInteger w (if f.sat then clampTo w sg x else x)

/-- One source word of type width, a word of the same width (R106, R109). -/
def aluWord1 (s : State) (f : FmtA) (m : DWord) (op : Nat → DWord → DWord) : Res :=
  let w := tyWidth f.ty
  alu s f m w fun g l _ => op w (rdA f g l w)

/-- Two source words of type width, a word of the same width (R106). -/
def aluWord2 (s : State) (f : FmtA) (m : DWord) (op : DWord → DWord → DWord) : Res :=
  let w := tyWidth f.ty
  alu s f m w fun g l _ => op (rdA f g l w) (rdB f g l w)

/-- Three 32-bit sources (R89). -/
def aluThree (s : State) (f : FmtA) (m : DWord) (op : Word → Word → Word → Word) : Res :=
  alu s f m 32 fun g l _ =>
    (op ((rdA f g l 32).setWidth 32) ((rdB f g l 32).setWidth 32) ((rdC f g l 32).setWidth 32)).setWidth 64

end Sys2Proof.Machine
end

