-- ==== Sys2Proof/Machine/Arith.lean ====
section
/-!
DEFINITION. Integer arithmetic, comparison, logic, shifts, bit fields and addresses (R102–R110).
-/
namespace Sys2Proof.Machine

/-! ### Add, subtract, absolute, negate, minimum, maximum (R102) -/

def execIadd (f : FmtA) (s : State) : Host.Outcome State Fault Refusal :=
  run (.iadd f) s fun m => aluInt s f m (· + ·)

def execIsub (f : FmtA) (s : State) : Host.Outcome State Fault Refusal :=
  run (.isub f) s fun m => aluInt s f m (· - ·)

def execIadd64 (f : FmtA) (s : State) : Host.Outcome State Fault Refusal :=
  run (.iadd64 f) s fun m => aluInt s f m (· + ·)

def execIabs (f : FmtA) (s : State) : Host.Outcome State Fault Refusal :=
  run (.iabs f) s fun m => aluInt s f m fun a _ => if a < 0 then -a else a

def execIneg (f : FmtA) (s : State) : Host.Outcome State Fault Refusal :=
  run (.ineg f) s fun m => aluInt s f m fun a _ => -a

def execImin (f : FmtA) (s : State) : Host.Outcome State Fault Refusal :=
  run (.imin f) s fun m => aluInt s f m fun a b => if b < a then b else a

def execImax (f : FmtA) (s : State) : Host.Outcome State Fault Refusal :=
  run (.imax f) s fun m => aluInt s f m fun a b => if a < b then b else a

/-! ### Carry chains (R103) -/

/-- A 32-bit result and a carry through predicate pK, read before it is written (R103). -/
def aluCarry (s : State) (f : FmtA) (m : DWord) (op : Nat → Nat → Nat → Nat × Bool) : Res :=
  let k := f.c.toNat
  if predSplit s f.u m k then .trap m cUniformSplit 0#64 else
  let both := fun (l : Lane) => op (rdA f s.cg l 32).toNat (rdB f s.cg l 32).toNat (if l.pred k then 1 else 0)
  if f.u then
    let r := both (s.cg.lane (lowest m))
    .ok ((s.putU f.d.toNat 32 (BitVec.ofNat 64 r.1)).onExec m fun _ l => l.setP k r.2) 0#64
  else
    .ok (s.onExec m fun _ l => (l.put (destReg f l) 32 (BitVec.ofNat 64 (both l).1)).setP k (both l).2) 0#64

def execIaddc (f : FmtA) (s : State) : Host.Outcome State Fault Refusal :=
  run (.iaddc f) s fun m => aluCarry s f m fun a b ci => ((a + b + ci) % 2 ^ 32, carryOut a b ci)

def execIsubb (f : FmtA) (s : State) : Host.Outcome State Fault Refusal :=
  run (.isubb f) s fun m => aluCarry s f m fun a b ci => ((a + 2 ^ 33 - b - ci) % 2 ^ 32, borrowOut a b ci)

/-! ### Multiplies (R104) -/

def execImul (f : FmtA) (s : State) : Host.Outcome State Fault Refusal :=
  run (.imul f) s fun m => aluInt s f m (· * ·)

def execImulh (f : FmtA) (s : State) : Host.Outcome State Fault Refusal :=
  run (.imulh f) s fun m => aluInt s f m fun a b => (a * b) / 2 ^ tyWidth f.ty

def execImad (f : FmtA) (s : State) : Host.Outcome State Fault Refusal :=
  run (.imad f) s fun m => aluThree s f m fun a b c => a * b + c

def execImadw (signed : Bool) (f : FmtA) (s : State) : Host.Outcome State Fault Refusal :=
  run (.imadw signed f) s fun m =>
    alu s f m 64 fun g l _ =>
      ofInteger 64 (toInteger 32 signed (rdA f g l 32) * toInteger 32 signed (rdB f g l 32)) + rdC f g l 64

/-! ### Compare and select (R105) -/

def execIcmp (f : FmtA) (s : State) : Host.Outcome State Fault Refusal :=
  run (.icmp f) s fun m =>
    let w := tyWidth f.ty
    let sg := tySigned f.ty
    aluPred s f m fun g l => compareInt f.rm (toInteger w sg (rdA f g l w)) (toInteger w sg (rdB f g l w))

def execSel (w64 : Bool) (f : FmtA) (s : State) : Host.Outcome State Fault Refusal :=
  run (.sel w64 f) s fun m =>
    let w := if w64 then 64 else 32
    let k := bits f.c 0 7
    if predSplit s f.u m k then .trap m cUniformSplit 0#64
    else alu s f m w fun g l _ => if xor (l.pred k) (f.c.getLsbD 9) then rdA f g l w else rdB f g l w

/-! ### Logic (R106, R107) -/

def execAnd (f : FmtA) (s : State) : Host.Outcome State Fault Refusal :=
  run (.and f) s fun m => aluWord2 s f m (· &&& ·)

def execOr (f : FmtA) (s : State) : Host.Outcome State Fault Refusal :=
  run (.or f) s fun m => aluWord2 s f m (· ||| ·)

def execXor (f : FmtA) (s : State) : Host.Outcome State Fault Refusal :=
  run (.xor f) s fun m => aluWord2 s f m (· ^^^ ·)

def execNot (f : FmtA) (s : State) : Host.Outcome State Fault Refusal :=
  run (.not f) s fun m => aluWord1 s f m fun _ a => ~~~a

/-- Bit i of the result is LUT[(c_i << 2) | (b_i << 1) | a_i] (R107). -/
def ternary (lut : BitVec 8) (a b c : Word) : Word :=
  (List.range 8).foldl
    (fun r k =>
      if lut.getLsbD k then
        r ||| ((if k % 2 == 1 then a else ~~~a) &&& (if k / 2 % 2 == 1 then b else ~~~b) &&&
          (if k / 4 == 1 then c else ~~~c))
      else r) 0#32

/-- TERN's fields as those of Format A, which it shares but for the table (R89). -/
def FmtL.asA (f : FmtL) : FmtA :=
  { guard := f.guard, d := f.d, a := f.a, b := f.b, c := f.c, bi := false, xs := 0#2, u := f.u }

def execTern (f : FmtL) (s : State) : Host.Outcome State Fault Refusal :=
  run (.tern f) s fun m => aluThree s (FmtL.asA f) m (ternary f.lut)

/-! ### Shifts (R108) -/

/-- A shift by the 32-bit value of b, unsigned (R108). -/
def aluShift (s : State) (f : FmtA) (m : DWord) (op : Nat → DWord → Nat → DWord) : Res :=
  let w := tyWidth f.ty
  alu s f m w fun g l _ => op w (rdA f g l w) ((rdB f g l 32).toNat % 2 ^ 32)

def execShl (f : FmtA) (s : State) : Host.Outcome State Fault Refusal :=
  run (.shl f) s fun m => aluShift s f m fun w a n => if n < w then a <<< n else 0#64

def execShr (f : FmtA) (s : State) : Host.Outcome State Fault Refusal :=
  run (.shr f) s fun m => aluShift s f m fun w a n => if n < w then a >>> n else 0#64

def execSar (f : FmtA) (s : State) : Host.Outcome State Fault Refusal :=
  run (.sar f) s fun m => aluShift s f m fun w a n =>
    ofInteger w (toInteger w true a / 2 ^ (if n < w then n else w))

def execRot (f : FmtA) (s : State) : Host.Outcome State Fault Refusal :=
  run (.rot f) s fun m => aluShift s f m fun w a n =>
    let k := n % w
    if w == 64 then (a <<< k) ||| (a >>> (w - k)) else (a <<< k) ||| ((cut 32 a) >>> (w - k))

def execFshl (f : FmtA) (s : State) : Host.Outcome State Fault Refusal :=
  run (.fshl f) s fun m => aluThree s f m fun a b c =>
    ((a ++ b : BitVec 64) <<< (c.toNat % 32)).extractLsb' 32 32

def execFshr (f : FmtA) (s : State) : Host.Outcome State Fault Refusal :=
  run (.fshr f) s fun m => aluThree s f m fun a b c =>
    ((a ++ b : BitVec 64) >>> (c.toNat % 32)).extractLsb' 0 32

/-! ### Bit counts and bit fields (R109) -/

/-- A count of w bits, delivered as a 32-bit value (R109). -/
def aluCount (s : State) (f : FmtA) (m : DWord) (op : Nat → DWord → Nat) : Res :=
  let w := tyWidth f.ty
  alu s f m 32 fun g l _ => BitVec.ofNat 64 (op w (rdA f g l w))

def execPopc (f : FmtA) (s : State) : Host.Outcome State Fault Refusal :=
  run (.popc f) s fun m => aluCount s f m fun w a => ((List.range w).filter fun i => a.getLsbD i).length

def execClz (f : FmtA) (s : State) : Host.Outcome State Fault Refusal :=
  run (.clz f) s fun m => aluCount s f m fun w a => ((List.range w).takeWhile fun i => !a.getLsbD (w - 1 - i)).length

def execCtz (f : FmtA) (s : State) : Host.Outcome State Fault Refusal :=
  run (.ctz f) s fun m => aluCount s f m fun w a => ((List.range w).takeWhile fun i => !a.getLsbD i).length

def execBrev (f : FmtA) (s : State) : Host.Outcome State Fault Refusal :=
  run (.brev f) s fun m => aluWord1 s f m fun w a =>
    (List.range w).foldl (fun r i => if a.getLsbD i then r ||| (1#64 <<< (w - 1 - i)) else r) 0#64

/-- The field of BFX and BFI: its position, and its length inside the word (R109). -/
def fieldOf (b : Word) : Nat × Nat :=
  let pos := bits b 0 8
  (pos, if pos ≥ 32 then 0 else Nat.min (bits b 8 8) (32 - pos))

def execBfx (f : FmtA) (s : State) : Host.Outcome State Fault Refusal :=
  run (.bfx f) s fun m =>
    alu s f m 32 fun g l _ =>
      let p := fieldOf ((rdB f g l 32).setWidth 32)
      let v := BitVec.ofNat 64 ((rdA f g l 32).toNat / 2 ^ p.1 % 2 ^ p.2)
      if p.2 == 0 then 0#64 else if tySigned f.ty then ofInteger 32 (toInteger p.2 true v) else v

def execBfi (f : FmtA) (s : State) : Host.Outcome State Fault Refusal :=
  run (.bfi f) s fun m => aluThree s f m fun a b c =>
    let p := fieldOf b
    let mask : Word := BitVec.ofNat 32 ((2 ^ p.2 - 1) * 2 ^ p.1)
    if p.2 == 0 then c else (c &&& ~~~mask) ||| ((a <<< p.1) &&& mask)

/-- Byte k of PRMB's result (R109). -/
def permuteByte (t : DWord) (c : Word) (k : Nat) : Byte :=
  let b := t.extractLsb' (8 * bits c (4 * k) 3) 8
  if c.getLsbD (4 * k + 3) then (if b.getLsbD 7 then 0xFF#8 else 0#8) else b

def execPrmb (f : FmtA) (s : State) : Host.Outcome State Fault Refusal :=
  run (.prmb f) s fun m => aluThree s f m fun a b c =>
    let t : DWord := b ++ a
    (permuteByte t c 3 ++ permuteByte t c 2 ++ permuteByte t c 1 ++ permuteByte t c 0 : BitVec 32)

/-! ### Addresses (R110) -/

def execLea (f : FmtA) (s : State) : Host.Outcome State Fault Refusal :=
  run (.lea f) s fun m =>
    alu s f m 64 fun g l _ =>
      rdA f g l 64 + (ofInteger 64 (toInteger 32 (tySigned f.ty) (rdB f g l 32)) <<< f.rm)

end Sys2Proof.Machine
end

