-- ==== Sys2Proof/Machine/Num.lean ====
section
/-!
DEFINITION. Numbers: the float formats (R59–R63), exact values, one rounding (R67, R68, R60), exact arithmetic (R69), and
the exact functions of R114 to a precision at which rounding them once is correct (log entry 23).
-/
namespace Sys2Proof.Machine

/-- A float format (R59). Codes without their sign are magnitudes; they rise with the value. -/
structure Fmt where
  ebits : Nat
  mbits : Nat
  bias : Nat
  /-- the magnitude code of the largest finite value -/
  maxMag : Nat
  /-- the magnitude code of infinity, where there is one -/
  infMag : Option Nat
  /-- the canonical NaN; 0x0 in E2M1 (R67) -/
  nanCode : Nat
  deriving DecidableEq, Repr

def f32 : Fmt :=
  { ebits := 8, mbits := 23, bias := 127, maxMag := 0x7F7FFFFF, infMag := some 0x7F800000, nanCode := 0x7FC00000 }
def f16 : Fmt := { ebits := 5, mbits := 10, bias := 15, maxMag := 0x7BFF, infMag := some 0x7C00, nanCode := 0x7E00 }
def bf16 : Fmt := { ebits := 8, mbits := 7, bias := 127, maxMag := 0x7F7F, infMag := some 0x7F80, nanCode := 0x7FC0 }
def e5m2 : Fmt := { ebits := 5, mbits := 2, bias := 15, maxMag := 0x7B, infMag := some 0x7C, nanCode := 0x7E }
def e4m3 : Fmt := { ebits := 4, mbits := 3, bias := 7, maxMag := 0x7E, infMag := none, nanCode := 0x7F }
def e2m1 : Fmt := { ebits := 2, mbits := 1, bias := 1, maxMag := 0x7, infMag := none, nanCode := 0x0 }

/-- The format of a type code (R87). -/
def fmtOf (ty : Nat) : Fmt :=
  match ty with
  | 12 | 14 => f16
  | 13 | 15 => bf16
  | 16 => e4m3
  | 17 => e5m2
  | 18 => e2m1
  | _ => f32

/-- The sign bit of a code. -/
def Fmt.signBit (f : Fmt) : Nat := 2 ^ (f.ebits + f.mbits)

/-- An exact value: a fraction with its sign kept apart, so that zeros are signed. -/
inductive Fval where
  | nan
  | inf (neg : Bool)
  | fin (neg : Bool) (num den : Nat)
  deriving DecidableEq, Repr

/-- num / den × 2^k as a fraction. -/
def scaleFrac (num den : Nat) (k : Int) : Nat × Nat :=
  if 0 ≤ k then (num * 2 ^ k.toNat, den) else (num, den * 2 ^ (-k).toNat)

/-- The value of a finite magnitude code (R59). -/
def Fmt.magFrac (f : Fmt) (mag : Nat) : Nat × Nat :=
  let e := mag / 2 ^ f.mbits
  let m := mag % 2 ^ f.mbits
  if e = 0 then scaleFrac m 1 (1 - f.bias - f.mbits) else scaleFrac (2 ^ f.mbits + m) 1 (e - f.bias - f.mbits)

/-- The value of a code (R59–R62): an E2M1 code 0x8 outside a block reads as +0.0. -/
def Fmt.decode (f : Fmt) (code : Nat) : Fval :=
  let mag := code % f.signBit
  let neg := code / f.signBit % 2 == 1
  if f.maxMag < mag then (if f.infMag = some mag then .inf neg else .nan)
  else
    let q := f.magFrac mag
    .fin (neg && !(f == e2m1 && mag == 0)) q.1 q.2

/-- A code of a subnormal value. -/
def Fmt.isSubnormal (f : Fmt) (code : Nat) : Bool :=
  let mag := code % f.signBit
  mag ≠ 0 && decide (mag < 2 ^ f.mbits)

/-- Under `.ftz` a subnormal operand is a zero of its sign (R60). -/
def Fmt.flush (f : Fmt) (ftz : Bool) (code : Nat) : Nat :=
  if ftz && f.isSubnormal code then code / f.signBit % 2 * f.signBit else code

/-- Put the sign to a magnitude; E2M1 has no −0 (R116). -/
def Fmt.signed (f : Fmt) (neg : Bool) (mag : Nat) : Nat :=
  if neg && !(f == e2m1 && mag == 0) then f.signBit + mag else mag

/-- floor(log2(num / den)) of a positive fraction. -/
def floorLog2 (num den : Nat) : Int :=
  let e : Int := (num.log2 : Int) - den.log2
  let p := scaleFrac 1 1 e
  if p.1 * den ≤ num * p.2 then e else e - 1

/-- The dither of R68. -/
def srHash (seed idx : Word) : Word :=
  let h0 := seed ^^^ (idx * 0x9E3779B1#32)
  let h1 := (h0 ^^^ (h0 >>> 16)) * 0x7FEB352D#32
  let h2 := (h1 ^^^ (h1 >>> 15)) * 0x846CA68B#32
  h2 ^^^ (h2 >>> 16)

/-- A rounding: its mode and what SR draws its dither from (R67, R68). -/
structure Rnd where
  rm : Nat
  seed : Word
  idx : Word
  deriving DecidableEq, Repr

/-- A mode that needs no seed. -/
def rmode (rm : Nat) : Rnd := { rm := rm, seed := 0#32, idx := 0#32 }

/-- Round to the upper neighbour in magnitude: the lower one's code is `lo`, and the value lies r/d of the way up (R67,
R68). -/
def Rnd.up (p : Rnd) (neg : Bool) (lo r d : Nat) : Bool :=
  if r = 0 then false else
  match p.rm with
  | 0 => decide (d < 2 * r) || (2 * r == d && lo % 2 == 1)
  | 2 => !neg
  | 3 => neg
  | 4 => decide ((srHash p.seed p.idx).toNat < r * 2 ^ 32 / d)
  | _ => false

/-- The magnitude code at or below a positive value, as if exponents went on, and how far the value lies above it. -/
def Fmt.below (f : Fmt) (num den : Nat) : Nat × Nat × Nat :=
  let emin : Int := 1 - f.bias
  let e := max (floorLog2 num den) emin
  let p := scaleFrac num den (f.mbits - e)
  ((e - emin).toNat * 2 ^ f.mbits + p.1 / p.2, p.1 % p.2, p.2)

/-- The magnitude code at and above which a value overflows to nearest: M + ulp(M)/2 (R67). -/
def Fmt.overflows (f : Fmt) (num den : Nat) : Bool :=
  let m := f.magFrac f.maxMag
  let half := scaleFrac 1 1 ((f.maxMag / 2 ^ f.mbits : Nat) - f.bias - f.mbits - 1 : Int)
  decide ((m.1 * half.2 + half.1 * m.2) * den ≤ num * (m.2 * half.2))

/-- The code of an overflow (R67). -/
def Fmt.overflowCode (f : Fmt) (sat neg : Bool) : Nat :=
  if sat then f.signed neg f.maxMag else
  match f.infMag with
  | some i => f.signed neg i
  | none => if f == e2m1 then f.signed neg f.maxMag else f.nanCode

/-- Rounding (R67, R68), with `.ftz` on the result (R60). -/
def Fmt.round (f : Fmt) (p : Rnd) (ftz sat : Bool) : Fval → Nat
  | .nan => f.nanCode
  | .inf neg => f.overflowCode sat neg
  | .fin neg num den =>
    if num = 0 then f.signed neg 0 else
    let m := f.magFrac f.maxMag
    if m.1 * den < num * m.2 then
      let up := match p.rm with
        | 1 => false
        | 2 => !neg
        | 3 => neg
        | _ => f.overflows num den
      if up then f.overflowCode sat neg else f.signed neg f.maxMag
    else
      let b := f.below num den
      let mag := if p.up neg b.1 b.2.1 b.2.2 then b.1 + 1 else b.1
      f.signed neg (if ftz && decide (mag < 2 ^ f.mbits) then 0 else mag)

/-! ### Exact arithmetic (R69) -/

namespace Fval

def isNan : Fval → Bool
  | .nan => true
  | _ => false

def isInf : Fval → Bool
  | .inf _ => true
  | _ => false

/-- A value equal to zero. -/
def isZero : Fval → Bool
  | .fin _ n _ => n == 0
  | _ => false

def neg : Fval → Fval
  | .nan => .nan
  | .inf s => .inf (!s)
  | .fin s n d => .fin (!s) n d

def abs : Fval → Fval
  | .nan => .nan
  | .inf _ => .inf false
  | .fin _ n d => .fin false n d

/-- The signed numerator. -/
def inum (s : Bool) (n : Nat) : Int := if s then -(n : Int) else n

/-- An exact signed fraction; an exact zero takes the given sign. -/
def ofInt (zeroNeg : Bool) (x : Int) (d : Nat) : Fval :=
  if x = 0 then .fin zeroNeg 0 1 else .fin (decide (x < 0)) x.natAbs d

/-- Addition. An exact zero of operands that are not both zeros of one sign is −0 in RD alone (R69). -/
def add (rm : Nat) : Fval → Fval → Fval
  | .nan, _ => .nan
  | _, .nan => .nan
  | .inf s, .inf t => if s == t then .inf s else .nan
  | .inf s, .fin _ _ _ => .inf s
  | .fin _ _ _, .inf s => .inf s
  | .fin s n d, .fin t m e =>
    if n = 0 ∧ m = 0 then .fin (if s == t then s else rm == 3) 0 1
    else if d = e then ofInt (rm == 3) (inum s n + inum t m) d
    else
      let g := Nat.gcd d e
      ofInt (rm == 3) (inum s (n * (e / g)) + inum t (m * (d / g))) (d / g * e)

/-- Multiplication (R69, R111). -/
def mul : Fval → Fval → Fval
  | .nan, _ => .nan
  | _, .nan => .nan
  | .inf s, .inf t => .inf (xor s t)
  | .inf s, .fin t m _ => if m = 0 then .nan else .inf (xor s t)
  | .fin s n _, .inf t => if n = 0 then .nan else .inf (xor s t)
  | .fin s n d, .fin t m e => .fin (xor s t) (n * m) (d * e)

/-- Division (R111). -/
def div : Fval → Fval → Fval
  | .nan, _ => .nan
  | _, .nan => .nan
  | .inf _, .inf _ => .nan
  | .inf s, .fin t _ _ => .inf (xor s t)
  | .fin s _ _, .inf t => .fin (xor s t) 0 1
  | .fin s n d, .fin t m e =>
    if m = 0 then (if n = 0 then .nan else .inf (xor s t)) else .fin (xor s t) (n * e) (d * m)

/-- a × 2^k; an exponent beyond ±1024 gives the same rounded result as ±1024 (R111). -/
def scale (k : Int) : Fval → Fval
  | .fin s n d =>
    let k' := if k < -1024 then -1024 else if 1024 < k then 1024 else k
    let p := scaleFrac n d k'
    .fin s p.1 p.2
  | x => x

/-- a < b on numbers; zeros are equal. -/
def lt : Fval → Fval → Bool
  | .fin s n d, .fin t m e => decide (inum s n * e < inum t m * d)
  | .inf true, .fin _ _ _ => true
  | .inf true, .inf false => true
  | .fin _ _ _, .inf false => true
  | _, _ => false

/-- a = b on numbers; zeros are equal. -/
def eq : Fval → Fval → Bool
  | .fin s n d, .fin t m e => decide (inum s n * e = inum t m * d)
  | .inf s, .inf t => s == t
  | _, _ => false

/-- The sign of a number. -/
def sign : Fval → Bool
  | .nan => false
  | .inf s => s
  | .fin s _ _ => s

end Fval

/-- The compare conditions on floats (R88). -/
def compareFloat (cc : Nat) (a b : Fval) : Bool :=
  let un := a.isNan || b.isNan
  match cc with
  | 0 => !un && a.eq b
  | 1 => un || !a.eq b
  | 2 => !un && a.lt b
  | 3 => !un && (a.lt b || a.eq b)
  | 4 => !un && b.lt a
  | 5 => !un && (b.lt a || a.eq b)
  | 6 => un
  | _ => !un

/-- A value rounded to an integer in a direction, SR included (R114, R117). -/
def roundInt (p : Rnd) (neg : Bool) (num den : Nat) : Nat :=
  let lo := num / den
  if p.up neg lo (num % den) den then lo + 1 else lo

/-! ### The functions of R114 -/

/-- Fraction bits of the fixed-point values below, and of π. -/
def fxBits : Nat := 704
def piBits : Nat := 896

/-- One in fixed point. -/
def fxOne : Nat := 2 ^ fxBits

/-- floor(√n) by its bits, from bit k − 1 down. -/
def sqrtBits (n : Nat) : Nat → Nat → Nat
  | 0, r => r
  | k + 1, r => sqrtBits n k (if (r + 2 ^ k) * (r + 2 ^ k) ≤ n then r + 2 ^ k else r)

/-- √(num/den) of a positive fraction, as a fraction that lies on the same side of every code (R114): the root of
num/den × 2^(2k) is exact, or lies strictly between two integers. -/
def sqrtFrac (num den : Nat) : Nat × Nat :=
  let k := 320
  let n := num * 2 ^ (2 * k) / den
  let r := sqrtBits n (n.log2 / 2 + 1) 0
  if r * r * den = num * 2 ^ (2 * k) then (r, 2 ^ k) else (2 * r + 1, 2 ^ (k + 1))

/-- Σ t, t·r/(n+1), …: the exponential's series from its term n. -/
def expSeries (r : Nat) : Nat → Nat → Nat → Nat → Nat
  | 0, _, _, acc => acc
  | fuel + 1, n, t, acc => expSeries r fuel (n + 1) (t * r / fxOne / (n + 1)) (acc + t)

/-- e^r in fixed point, 0 ≤ r < 1. -/
def fxExp (r : Nat) : Nat := expSeries r 160 0 fxOne 0

/-- Σ z^(2n+1)/(2n+1): atanh's series; t is z^(2n+1). -/
def atanhSeries (zz : Nat) : Nat → Nat → Nat → Nat → Nat
  | 0, _, _, acc => acc
  | fuel + 1, n, t, acc => atanhSeries zz fuel (n + 1) (t * zz / fxOne) (acc + t / (2 * n + 1))

/-- ln(m) in fixed point, for 1 ≤ m ≤ 2 in fixed point: 2 atanh((m − 1)/(m + 1)). -/
def fxLn (m : Nat) : Nat :=
  let z := (m - fxOne) * fxOne / (m + fxOne)
  2 * atanhSeries (z * z / fxOne) 240 0 z 0

/-- ln 2 in fixed point. -/
def fxLn2 : Nat := fxLn (2 * fxOne)

/-- Σ ± (1/k)^(2n+1)/(2n+1) with piBits fraction bits; t is (1/k)^(2n+1). -/
def atanSeries (kk : Nat) : Nat → Nat → Nat → Int → Int
  | 0, _, _, acc => acc
  | fuel + 1, n, t, acc =>
    atanSeries kk fuel (n + 1) (t / kk) (if n % 2 = 0 then acc + (t / (2 * n + 1) : Nat) else acc - (t / (2 * n + 1) : Nat))

/-- π/2 with piBits fraction bits, by Machin's formula: 8 atan(1/5) − 2 atan(1/239). -/
def fxHalfPi : Nat :=
  (8 * atanSeries 25 200 0 (2 ^ piBits / 5) 0 - 2 * atanSeries (239 * 239) 200 0 (2 ^ piBits / 239) 0).toNat

/-- Σ ± t, t·r²/((n+1)(n+2)), …: the series of sine and cosine; n is the power of t. -/
def trigSeries (rr : Nat) : Nat → Nat → Nat → Bool → Int → Int
  | 0, _, _, _, acc => acc
  | fuel + 1, n, t, minus, acc =>
    trigSeries rr fuel (n + 2) (t * rr / fxOne / ((n + 1) * (n + 2))) (!minus) (if minus then acc - t else acc + t)

def fxSin (r : Nat) : Int := trigSeries (r * r / fxOne) 100 1 r false 0
def fxCos (r : Nat) : Int := trigSeries (r * r / fxOne) 100 0 fxOne false 0

/-- num/den = q × π/2 + r: the quadrant q mod 4 and r in fixed point. -/
def reduceTrig (num den : Nat) : Nat × Nat :=
  let x := num * 2 ^ piBits / den
  (x / fxHalfPi % 4, x % fxHalfPi / 2 ^ (piBits - fxBits))

/-- A fixed-point value. -/
def ofFx (x : Int) : Fval := Fval.ofInt false x fxOne

/-- sin of a non-zero finite value. -/
def exactSin (neg : Bool) (num den : Nat) : Fval :=
  let q := reduceTrig num den
  let v := match q.1 with
    | 0 => fxSin q.2
    | 1 => fxCos q.2
    | 2 => -fxSin q.2
    | _ => -fxCos q.2
  ofFx (if neg then -v else v)

/-- cos of a non-zero finite value. -/
def exactCos (num den : Nat) : Fval :=
  let q := reduceTrig num den
  ofFx (match q.1 with
    | 0 => fxCos q.2
    | 1 => -fxSin q.2
    | 2 => -fxCos q.2
    | _ => fxSin q.2)

/-- 2^x of a finite value: beyond ±300 a power that rounds alike; exact at integers. -/
def exactExp2 (neg : Bool) (num den : Nat) : Fval :=
  let x := Fval.inum neg num
  let k := x / (den : Int)
  let r := (x % (den : Int)).toNat
  if 300 ≤ k then .fin false (2 ^ 300) 1
  else if k < -300 then .fin false 1 (2 ^ 300)
  else
    let p := scaleFrac 1 1 k
    if r = 0 then .fin false p.1 p.2
    else .fin false (fxExp (r * fxLn2 / den) * p.1) (fxOne * p.2)

/-- log2 of a positive finite value. -/
def exactLog2 (num den : Nat) : Fval :=
  let e := floorLog2 num den
  let p := scaleFrac num den (-e)
  let m := p.1 * fxOne / p.2
  if m = fxOne then Fval.ofInt false e 1
  else Fval.ofInt false (e * fxLn2 + fxLn m) fxLn2

/-- tanh of a non-zero finite value: (E − 1)/(E + 1) with E = e^(2|x|); from 128 on a value that rounds alike. -/
def exactTanh (neg : Bool) (num den : Nat) : Fval :=
  if 128 * den ≤ num then .fin neg (2 ^ 300 - 1) (2 ^ 300)
  else
    let y := 2 * num * fxOne / den
    let e := fxExp (y % fxLn2) * 2 ^ (y / fxLn2)
    .fin neg (e - fxOne) (e + fxOne)

end Sys2Proof.Machine
end

