-- ==== Sys2Proof/Machine/Float.lean ====
section
/-!
DEFINITION. Floating-point arithmetic (R111–R115): every exact result is rounded once (R69).
-/
namespace Sys2Proof.Machine

/-- A float operand's code: the low bits of its register, flushed under `.ftz` (R60, R66). -/
def fpCode (ty : Nat) (ftz : Bool) (x : DWord) : Nat :=
  (fmtOf ty).flush ftz (x.toNat % (2 * (fmtOf ty).signBit))

/-- A float operand's value. -/
def fpVal (ty : Nat) (ftz : Bool) (x : DWord) : Fval := (fmtOf ty).decode (fpCode ty ftz x)

/-- Two float operands, one rounding (R111). -/
def aluFp2 (s : State) (f : FmtA) (m : DWord) (op : Fval → Fval → Fval) : Res :=
  alu s f m 32 fun g l _ =>
    BitVec.ofNat 64 ((fmtOf f.ty).round (rmode f.rm) f.ftz f.sat
      (op (fpVal f.ty f.ftz (rdA f g l 32)) (fpVal f.ty f.ftz (rdB f g l 32))))

def execFadd (f : FmtA) (s : State) : Host.Outcome State Fault Refusal :=
  run (.fadd f) s fun m => aluFp2 s f m (Fval.add f.rm)

def execFsub (f : FmtA) (s : State) : Host.Outcome State Fault Refusal :=
  run (.fsub f) s fun m => aluFp2 s f m fun a b => Fval.add f.rm a b.neg

def execFmul (f : FmtA) (s : State) : Host.Outcome State Fault Refusal :=
  run (.fmul f) s fun m => aluFp2 s f m Fval.mul

def execFdivf (f : FmtA) (s : State) : Host.Outcome State Fault Refusal :=
  run (.fdivf f) s fun m => aluFp2 s f m Fval.div

def execFscale (f : FmtA) (s : State) : Host.Outcome State Fault Refusal :=
  run (.fscale f) s fun m =>
    alu s f m 32 fun g l _ =>
      BitVec.ofNat 64 ((fmtOf f.ty).round (rmode f.rm) f.ftz f.sat
        ((fpVal f.ty f.ftz (rdA f g l 32)).scale (toInteger 32 true (rdB f g l 32))))

/-! ### Packed pairs (R111, R115) -/

/-- Element e of a packed pair (R66). -/
def pairElem (x : DWord) (e : Nat) : DWord := (x.extractLsb' (16 * e) 16).setWidth 64

/-- The two 16-bit results of a packed pair. -/
def packPair (op : Nat → Nat) : DWord := BitVec.ofNat 64 (op 0 % 2 ^ 16 + op 1 % 2 ^ 16 * 2 ^ 16)

/-- A packed two-operand function: each element on its own (R111). -/
def aluPk2 (s : State) (f : FmtA) (m : DWord) (op : Fval → Fval → Fval) : Res :=
  alu s f m 32 fun g l _ =>
    packPair fun e => (fmtOf f.ty).round (rmode f.rm) false f.sat
      (op (fpVal f.ty false (pairElem (rdA f g l 32) e)) (fpVal f.ty false (pairElem (rdB f g l 32) e)))

def execPkadd (f : FmtA) (s : State) : Host.Outcome State Fault Refusal :=
  run (.pkadd f) s fun m => aluPk2 s f m (Fval.add f.rm)

def execPkmul (f : FmtA) (s : State) : Host.Outcome State Fault Refusal :=
  run (.pkmul f) s fun m => aluPk2 s f m Fval.mul

/-- a × b + c with one rounding (R69, R115). -/
def fusedElem (fmt : Fmt) (rm : Nat) (ftz : Bool) (a b c : Nat) : Nat :=
  fmt.round (rmode rm) ftz false
    (Fval.add rm (Fval.mul (fmt.decode (fmt.flush ftz a)) (fmt.decode (fmt.flush ftz b))) (fmt.decode (fmt.flush ftz c)))

def execFfma (f : FmtT) (s : State) : Host.Outcome State Fault Refusal :=
  run (.ffma f) s fun m =>
    alu s f.f m 32 fun g l _ =>
      BitVec.ofNat 64 (fusedElem f32 f.rm.toNat f.ftz (rdA f.f g l 32).toNat (rdB f.f g l 32).toNat
        (rdC f.f g l 32).toNat)

def execPkfma (bh : Bool) (f : FmtT) (s : State) : Host.Outcome State Fault Refusal :=
  run (.pkfma bh f) s fun m =>
    alu s f.f m 32 fun g l _ =>
      packPair fun e => fusedElem (if bh then bf16 else f16) f.rm.toNat false (pairElem (rdA f.f g l 32) e).toNat
        (pairElem (rdB f.f g l 32) e).toNat (pairElem (rdC f.f g l 32) e).toNat

/-! ### Minimum, maximum, compare (R112, R113) -/

/-- a orders below b, −0.0 below +0.0 (R112). -/
def fpBelow (a b : Fval) : Bool := a.lt b || (a.eq b && a.sign && !b.sign)

/-- FMIN and FMAX: the code of the operand chosen (R112). -/
def minMax (fmt : Fmt) (second : Fval → Fval → Bool) (a b : Nat) : Nat :=
  let x := fmt.decode a
  let y := fmt.decode b
  if x.isNan && y.isNan then fmt.nanCode
  else if x.isNan then b
  else if y.isNan then a
  else if second x y then b else a

def execFmin (f : FmtA) (s : State) : Host.Outcome State Fault Refusal :=
  run (.fmin f) s fun m =>
    alu s f m 32 fun g l _ =>
      BitVec.ofNat 64 (minMax (fmtOf f.ty) (fun x y => fpBelow y x) (fpCode f.ty f.ftz (rdA f g l 32))
        (fpCode f.ty f.ftz (rdB f g l 32)))

def execFmax (f : FmtA) (s : State) : Host.Outcome State Fault Refusal :=
  run (.fmax f) s fun m =>
    alu s f m 32 fun g l _ =>
      BitVec.ofNat 64 (minMax (fmtOf f.ty) (fun x y => fpBelow x y) (fpCode f.ty f.ftz (rdA f g l 32))
        (fpCode f.ty f.ftz (rdB f g l 32)))

def execFcmp (f : FmtA) (s : State) : Host.Outcome State Fault Refusal :=
  run (.fcmp f) s fun m =>
    aluPred s f m fun g l =>
      compareFloat f.rm (fpVal f.ty f.ftz (rdA f g l 32)) (fpVal f.ty f.ftz (rdB f g l 32))

/-! ### One operand (R114) -/

/-- The class of a code, by bit number (R114). -/
def fpClass (fmt : Fmt) (code : Nat) : Nat :=
  match fmt.decode code with
  | .nan => if code / 2 ^ (fmt.mbits - 1) % 2 == 1 then 9 else 8
  | .inf neg => if neg then 0 else 7
  | .fin neg n _ =>
    if n = 0 then (if neg then 3 else 4)
    else if fmt.isSubnormal code then (if neg then 2 else 5)
    else if neg then 1 else 6

def execFclass (f : FmtA) (s : State) : Host.Outcome State Fault Refusal :=
  run (.fclass f) s fun m =>
    alu s f m 32 fun g l _ => BitVec.ofNat 64 (2 ^ fpClass (fmtOf f.ty) (fpCode f.ty f.ftz (rdA f g l 32)))

/-- FRND of a value, in its own format (R114). -/
def frndCode (fmt : Fmt) (rm : Nat) (code : Nat) : Nat :=
  match fmt.decode code with
  | .nan => fmt.nanCode
  | .inf _ => code
  | .fin neg n d => fmt.round (rmode 0) false false (.fin neg (roundInt (rmode rm) neg n d) 1)

def execFrnd (f : FmtA) (s : State) : Host.Outcome State Fault Refusal :=
  run (.frnd f) s fun m =>
    alu s f m 32 fun g l _ => BitVec.ofNat 64 (frndCode (fmtOf f.ty) f.rm (fpCode f.ty f.ftz (rdA f g l 32)))

/-- FGEXP of a value (R114). -/
def gexp : Fval → DWord
  | .fin _ n d => if n = 0 then 0x80000000#64 else ofInteger 32 (floorLog2 n d)
  | _ => 0x7FFFFFFF#64

def execFgexp (f : FmtA) (s : State) : Host.Outcome State Fault Refusal :=
  run (.fgexp f) s fun m => alu s f m 32 fun g l _ => gexp (fpVal f.ty f.ftz (rdA f g l 32))

/-- One FP32 operand, an exact function, one rounding (R114). -/
def aluFp1 (s : State) (f : FmtA) (m : DWord) (op : Fval → Fval) : Res :=
  alu s f m 32 fun g l _ =>
    BitVec.ofNat 64 (f32.round (rmode f.rm) f.ftz f.sat (op (fpVal 11 f.ftz (rdA f g l 32))))

def execFrcp (f : FmtA) (s : State) : Host.Outcome State Fault Refusal :=
  run (.frcp f) s fun m => aluFp1 s f m (Fval.div (.fin false 1 1))

/-- √a (R114). -/
def realSqrt : Fval → Fval
  | .nan => .nan
  | .inf s => if s then .nan else .inf false
  | .fin s n d =>
    if n = 0 then .fin s 0 1 else if s then .nan else .fin false (sqrtFrac n d).1 (sqrtFrac n d).2

/-- 1/√a (R114). -/
def realRsqrt : Fval → Fval
  | .nan => .nan
  | .inf s => if s then .nan else .fin false 0 1
  | .fin s n d =>
    if n = 0 then .inf s else if s then .nan else .fin false (sqrtFrac d n).1 (sqrtFrac d n).2

/-- 2^a (R114). -/
def realExp2 : Fval → Fval
  | .nan => .nan
  | .inf s => if s then .fin false 0 1 else .inf false
  | .fin s n d => exactExp2 s n d

/-- log2 a (R114). -/
def realLog2 : Fval → Fval
  | .nan => .nan
  | .inf s => if s then .nan else .inf false
  | .fin s n d => if n = 0 then .inf true else if s then .nan else exactLog2 n d

/-- sin a (R114). -/
def realSin : Fval → Fval
  | .fin s n d => if n = 0 then .fin s 0 1 else exactSin s n d
  | _ => .nan

/-- cos a (R114). -/
def realCos : Fval → Fval
  | .fin _ n d => if n = 0 then .fin false 1 1 else exactCos n d
  | _ => .nan

/-- tanh a (R114). -/
def realTanh : Fval → Fval
  | .nan => .nan
  | .inf s => .fin s 1 1
  | .fin s n d => if n = 0 then .fin s 0 1 else exactTanh s n d

def execFrsq (f : FmtA) (s : State) : Host.Outcome State Fault Refusal :=
  run (.frsq f) s fun m => aluFp1 s f m realRsqrt

def execFsqrt (f : FmtA) (s : State) : Host.Outcome State Fault Refusal :=
  run (.fsqrt f) s fun m => aluFp1 s f m realSqrt

def execFex2 (f : FmtA) (s : State) : Host.Outcome State Fault Refusal :=
  run (.fex2 f) s fun m => aluFp1 s f m realExp2

def execFlg2 (f : FmtA) (s : State) : Host.Outcome State Fault Refusal :=
  run (.flg2 f) s fun m => aluFp1 s f m realLog2

def execFsin (f : FmtA) (s : State) : Host.Outcome State Fault Refusal :=
  run (.fsin f) s fun m => aluFp1 s f m realSin

def execFcos (f : FmtA) (s : State) : Host.Outcome State Fault Refusal :=
  run (.fcos f) s fun m => aluFp1 s f m realCos

def execFtanh (f : FmtA) (s : State) : Host.Outcome State Fault Refusal :=
  run (.ftanh f) s fun m => aluFp1 s f m realTanh

end Sys2Proof.Machine
end

