-- ==== Sys2Proof/Machine/Convert.lean ====
section
/-!
DEFINITION. Conversions (R116, R117), block quantisation and packing (R118–R121, R64, R65).
-/
namespace Sys2Proof.Machine

/-! ### Conversions -/

/-- The rounding of a conversion in a lane: SR draws on the seed register B and on z.lane (R68, R116). -/
def cvtRnd (f : FmtC) (g : Group) (l : Lane) (i : Nat) : Rnd :=
  { rm := f.rm
    seed := if f.rm == 4 then (rdB f.f g l 32).setWidth 32 else 0#32
    idx := BitVec.ofNat 32 (i * 32) }

/-- FCVT, the exact value rounded once; `.ftz` acts on the FP32 side alone (R60, R117). -/
def execFcvt (f : FmtC) (s : State) : Host.Outcome State Fault Refusal :=
  run (.fcvt f) s fun m =>
    let src := f.src.toNat
    alu s f.f m 32 fun g l i =>
      BitVec.ofNat 64 ((fmtOf f.tyd).round (cvtRnd f g l i) (f.ftz && f.tyd == 11) f.sat
        (fpVal src (f.ftz && src == 11) (rdA f.f g l 32)))

/-- A float as a saturated integer (R117). -/
def toInt (p : Rnd) (w : Nat) (sg : Bool) : Fval → Int
  | .nan => 0
  | .inf neg => if neg then minOf w sg else maxOf w sg
  | .fin neg n d => clampTo w sg (Fval.inum neg (roundInt p neg n d))

/-- F2I; results narrower than 32 bits are extended (R66, R117). -/
def execF2i (f : FmtC) (s : State) : Host.Outcome State Fault Refusal :=
  run (.f2i f) s fun m =>
    let w := tyWidth f.tyd
    alu s f.f m w fun g l i =>
      ofInteger w (toInt (cvtRnd f g l i) (intWidth f.tyd) (tySigned f.tyd)
        (fpVal f.src.toNat f.ftz (rdA f.f g l 32)))

/-- I2F, the integer rounded once (R117). -/
def execI2f (f : FmtC) (s : State) : Host.Outcome State Fault Refusal :=
  run (.i2f f) s fun m =>
    let src := f.src.toNat
    alu s f.f m 32 fun g l i =>
      BitVec.ofNat 64 ((fmtOf f.tyd).round (cvtRnd f g l i) false f.sat
        (Fval.ofInt false (toInteger (intWidth src) (tySigned src) (rdA f.f g l (tyWidth src))) 1))

/-! ### Blocks -/

/-- The value of a UE4M3 scale byte without its sign position (R63). -/
def scaleVal (sb : Nat) : Fval := e4m3.decode (sb % 128)

/-- Element value of a block before its scale (R64): code 0x8 of `e2m1x32` is the extra value. -/
def elemVal (fmt : Nat) (x code : Nat) : Fval :=
  if fmt = 1 then (if code = 8 then e4m3.decode x else e2m1.decode code) else e4m3.decode code

/-- The decoded value of an element (R64). -/
def blockVal (fmt sb x code : Nat) : Fval :=
  if 128 ≤ sb then .nan else (elemVal fmt x code).mul (scaleVal sb)

/-- Element i of a block's data registers (R14, R66). -/
def blockCode (fmt : Nat) (regs : List Nat) (i : Nat) : Nat :=
  if fmt = 1 then regs.getD (i / 8) 0 / 2 ^ (4 * (i % 8)) % 16 else regs.getD (i / 4) 0 / 2 ^ (8 * (i % 4)) % 256

/-- Element codes packed into registers (R14, R66). -/
def packCodes (fmt : Nat) (codes : List Nat) : List Nat :=
  let per := if fmt = 1 then 8 else 4
  let w := 32 / per
  (List.range (32 / per)).map fun r =>
    (List.range per).foldl (fun a k => a + codes.getD (per * r + k) 0 * 2 ^ (w * k)) 0

/-- The larger of two magnitudes. -/
def fmax2 (a b : Fval) : Fval := if a.lt b then b else a

/-- The largest of a list of magnitudes. -/
def fmaxOf (l : List Fval) : Fval := l.foldl fmax2 (.fin false 0 1)

/-- |x − y|; equal infinities do not differ. -/
def fdist (x y : Fval) : Fval := if x.eq y then .fin false 0 1 else (Fval.add 0 x y.neg).abs

/-- The scale code of QBLK: the least one whose value is at least amax / E, else 0x7E (R119). -/
def blockScale (amax : Fval) (big : Fval) : Nat :=
  ((List.range 0x7F).find? fun c => !(scaleVal c).lt (amax.div big)).getD 0x7E

/-- A block as QBLK makes it: element codes, then the side-band register (R119). -/
structure Quant where
  codes : List Nat
  side : Nat
  deriving DecidableEq, Repr

/-- QBLK of 32 FP32 codes (R119). -/
def quantise (fmt rm : Nat) (seed : Word) (lane : Nat) (xs : List Nat) : Quant :=
  let el := if fmt = 1 then e2m1 else e4m3
  let vs := xs.map f32.decode
  if vs.any Fval.isNan then { codes := List.replicate 32 0, side := 0x7FC0 * 2 ^ 16 + 0x7F } else
  let sb := blockScale (fmaxOf (vs.map Fval.abs)) (if fmt = 1 then .fin false 6 1 else .fin false 448 1)
  let sv := scaleVal sb
  let ratios := vs.map fun v => v.div sv
  let codes0 := if sb = 0 then List.replicate 32 0 else
    ratios.mapIdx fun i r =>
      el.round { rm := rm, seed := seed, idx := BitVec.ofNat 32 (lane * 32 + i) } false true r
  let dist := (ratios.zip codes0).map fun rc => fdist rc.1 (el.decode rc.2)
  let worst := fmaxOf dist
  let j := (List.range 32).find? fun i => !(dist.getD i .nan).lt worst
  let x := if fmt = 1 ∧ sb ≠ 0 then e4m3.round (rmode 0) false true (ratios.getD (j.getD 0) .nan) else 0
  let codes := if fmt = 1 ∧ sb ≠ 0 then
      (ratios.zip (codes0.zip dist)).map fun t => if (fdist t.1 (e4m3.decode x)).lt t.2.2 then 8 else t.2.1
    else codes0
  let err := bf16.round (rmode 0) false false
    (fmaxOf ((vs.zip codes).map fun vc => fdist vc.1 (blockVal fmt sb x vc.2)))
  { codes := codes, side := err * 2 ^ 16 + x * 2 ^ 8 + sb }

/-- n source registers from a first one: uniform ones by bits 31:0 (R119). -/
def rdRange (g : Group) (l : Lane) (u : Bool) (first n : Nat) : List Nat :=
  (List.range n).map fun i => if u then (g.ureg (first + i)).toNat % 2 ^ 32 else (l.vreg (first + i)).toNat

/-- Write registers in a row, in every executing lane or once to uniform registers (R98, R99). -/
def State.putRange (s : State) (f : FmtA) (m : DWord) (val : Group → Lane → Nat → List Nat) : State :=
  let d := f.d.toNat
  if f.u then
    s.onGroup s.cur.blk s.cur.grp fun g =>
      ((val g (g.lane (lowest m)) 0).foldl
        (fun (a : Group × Nat) x => (a.1.setU a.2 (BitVec.ofNat 64 (x % 2 ^ 32)), a.2 + 1)) (g, d)).1
  else
    s.onExec m fun i l =>
      ((val s.cg l i).foldl
        (fun (a : Lane × Nat) x => (a.1.setV a.2 (BitVec.ofNat 32 x), a.2 + 1)) (l, d)).1

def execQblk (f : FmtA) (s : State) : Host.Outcome State Fault Refusal :=
  run (.qblk f) s fun m =>
    .ok (s.putRange f m fun g l i =>
      let q := quantise f.ty f.rm ((rdB f g l 32).setWidth 32) i (rdRange g l f.u f.a.toNat 32)
      packCodes f.ty q.codes ++ [q.side]) 0#64

/-- A block in registers has a bad scale (R65). -/
def badScale (fmt : Nat) (regs : List Nat) : Bool :=
  decide (128 ≤ regs.getD (if fmt = 1 then 4 else 8) 0 % 256)

/-- The 32 values of a block in registers, as FP32 codes (R120). -/
def dequantise (fmt : Nat) (regs : List Nat) : List Nat :=
  let side := regs.getD (if fmt = 1 then 4 else 8) 0
  (List.range 32).map fun i =>
    f32.round (rmode 0) false false (blockVal fmt (side % 256) (side / 256 % 256) (blockCode fmt regs i))

def execDqblk (f : FmtA) (s : State) : Host.Outcome State Fault Refusal :=
  run (.dqblk f) s fun m =>
    let src := fun (g : Group) (l : Lane) => rdRange g l f.u f.a.toNat (blkRegs f.ty)
    let bad := (lanesOf m).any fun i => badScale f.ty (src s.cg (s.cg.lane i))
    let t := s.putRange f m fun g l _ => dequantise f.ty (src g l)
    .ok (if bad then t.statusBadscale s.cb.asid else t) 0#64

/-- The element position of PACK8 and SPLIT8, in bits, and the element's width (R121). -/
def packPos (fmt : Nat) (b : DWord) : Nat × Nat := if fmt = 1 then (4 * bits b 0 3, 4) else (8 * bits b 0 2, 8)

def execPack8 (f : FmtA) (s : State) : Host.Outcome State Fault Refusal :=
  run (.pack8 f) s fun m =>
    alu s f m 32 fun g l _ =>
      let p := packPos f.ty (rdB f g l 32)
      let mask : DWord := BitVec.ofNat 64 ((2 ^ p.2 - 1) * 2 ^ p.1)
      (rdD f g l 32 &&& ~~~mask) ||| ((rdA f g l 32 <<< p.1) &&& mask)

def execSplit8 (f : FmtA) (s : State) : Host.Outcome State Fault Refusal :=
  run (.split8 f) s fun m =>
    alu s f m 32 fun g l _ =>
      let p := packPos f.ty (rdB f g l 32)
      BitVec.ofNat 64 ((rdA f g l 32).toNat / 2 ^ p.1 % 2 ^ p.2)

end Sys2Proof.Machine
end

