-- ==== Sys2Proof/Machine/Atomics.lean ====
section
/-!
DEFINITION. The combining operations of atomics and windows (R94, R158, R278) and the 128-bit fixed-point format (R277).
-/
namespace Sys2Proof.Machine

/-- An FP32 code in the fixed-point format (R277). -/
def fix (code : Nat) : BitVec 128 :=
  match f32.decode code with
  | .nan => 1#128 <<< 127
  | .inf neg => if neg then 1#128 <<< 125 else 1#128 <<< 126
  | .fin neg n d =>
    if 2 ^ 59 * d ≤ n then 1#128 <<< 124 else
    let q := n * 2 ^ 64 / d
    let loss := if n * 2 ^ 64 % d = 0 then 0#128 else 1#128 <<< 124
    loss ||| BitVec.ofNat 128 (if neg then (2 ^ 124 - q) % 2 ^ 124 else q)

/-- Adding two values of the format (R277). -/
def addFixed (a b : BitVec 128) : BitVec 128 :=
  ((a.extractLsb' 124 4 ||| b.extractLsb' 124 4) ++ (a.extractLsb' 0 124 + b.extractLsb' 0 124) : BitVec 128)

/-- A value of the format as FP32 (R277). -/
def unfix (v : BitVec 128) : Nat :=
  if v.getLsbD 127 || (v.getLsbD 126 && v.getLsbD 125) then f32.nanCode
  else if v.getLsbD 126 then f32.overflowCode false false
  else if v.getLsbD 125 then f32.overflowCode false true
  else f32.round (rmode 0) false false (Fval.ofInt false (v.extractLsb' 0 124).toInt (2 ^ 64))

/-- New contents of a location of w bits (R158): the old value, the operand, and CAS's swap value. -/
def combine (op w : Nat) (sgn : Bool) (old b swap : Nat) : Nat :=
  let o := toInteger w sgn (BitVec.ofNat 64 old)
  let x := toInteger w sgn (BitVec.ofNat 64 b)
  match op with
  | 0 => (old + b) % 2 ^ w
  | 1 => if x < o then b else old
  | 2 => if o < x then b else old
  | 3 => old &&& b
  | 4 => old ||| b
  | 5 => old ^^^ b
  | 6 => b
  | 7 => if old = b then swap else old
  | 8 => if b ≤ old then 0 else old + 1
  | 9 => if old = 0 ∨ b < old then b else old - 1
  | _ => (addFixed (BitVec.ofNat 128 old) (BitVec.ofNat 128 b)).toNat

end Sys2Proof.Machine
end

