-- ==== Sys2Proof/Machine/ICache.lean ====
section
/-!
DEFINITION. The cluster's instruction cache as programs change it: fills and pins (R40, R79, R164).
-/
namespace Sys2Proof.Machine

/-- Fill the line of an address through the die's slice, under the coherence of its page (R323); a line that cannot be
fetched is skipped (R164). False while the slice waits for the line's sectors. -/
def State.fillLine (s : State) (core asid : Nat) (va : DWord) : State × Bool :=
  if inWindow va || (s.iline core asid va).isSome then (s, true) else
  match s.translated core asid needX va 8 with
  | .ok (.mem k) leaf level =>
    (match s.throughMig leaf level k 8 with
      | .lost => (s, true)
      | .wait as => (s.askFor as, false)
      | .ok t =>
        let tr := t.asSwm (.ok (.mem k) leaf level)
        let swm := match tr with | .ok _ e _ => e.getLsbD 60 | _ => false
        let u := ((t.fillTlb core asid va tr).noteSwm tr).touchDomains asid (t.accessDomains core (.mem k))
        let r := (List.range 4).foldl (fun (a : State × Bool) i =>
          let q := a.1.sliceHas core asid (4 * (k / 256) + i) swm { cls := 0, clock := 0#32, owner := 0 }
          (q.1, a.2 && q.2)) (u, true)
        if r.2 then
          ((r.1.touchL2 (dieOf core) core asid k 0 0#32 0 false).addLine core (r.1.makeLine core asid va k (leaf.getLsbD 6) level), true)
        else r)
  | .wait as => (s.askFor as, false)
  | _ => (s, true)

/-- The pinned lines of a cluster. -/
def Cluster.pinned (c : Cluster) : Nat := (c.icache.filter fun l => l.pins ≠ []).length

/-- Change the line that serves an address. -/
def State.onLine (s : State) (core asid : Nat) (va : DWord) (f : ILine → ILine) : State :=
  let c := s.cluster (clusterOf core)
  s.setCluster (clusterOf core) { c with icache := c.icache.map fun l => if l.serves asid va then f l else l }

/-- Pin a filled line for a context; past the limit it is left filled alone, and an event counts (R79, R164). A second context's
pin of a line is recorded beside the first one's, without a test of the limit, since the line is pinned already (DESIGN CHOICE, log
entry 81). -/
def State.pinHere (s : State) (core asid : Nat) (va : DWord) : State :=
  match s.iline core asid va with
  | none => s
  | some l =>
    if l.pins.contains asid then s
    else if l.pins == [] && decide (icachePins ≤ (s.cluster (clusterOf core)).pinned) then s.count (dieOf core) 3
    else s.onLine core asid va fun k => { k with pins := k.pins ++ [asid] }

/-- Fill a line, and perhaps pin it; false while it waits. -/
def State.bringLine (s : State) (core asid : Nat) (pin : Bool) (va : DWord) : State × Bool :=
  let r := s.fillLine core asid va
  if r.2 && pin then (r.1.pinHere core asid va, true) else r

/-- Fill lines in turn, as far as they come; those that are left. -/
def State.bringLines (s : State) (core asid : Nat) (pin : Bool) : List DWord → State × List DWord
  | [] => (s, [])
  | va :: rest =>
    let r := s.bringLine core asid pin va
    if r.2 then r.1.bringLines core asid pin rest else (r.1, va :: rest)

/-- Release a context's pin on a line (R164). -/
def State.unpinLine (s : State) (core asid : Nat) (va : DWord) : State :=
  s.onLine core asid va fun k => { k with pins := k.pins.filter fun a => a != asid }

/-- Release every pin of a context on a cluster (R164). -/
def State.unpinAll (s : State) (cl asid : Nat) : State :=
  let c := s.cluster cl
  s.setCluster cl { c with icache := c.icache.map fun l => { l with pins := l.pins.filter fun a => a != asid } }

/-- The lines of a range, rounded outward (R164). -/
def linesOf (va : DWord) (n : Nat) : List DWord :=
  if n = 0 then [] else
  let first := va.toNat / 256
  (List.range ((va.toNat + n - 1) / 256 - first + 1)).map fun i => BitVec.ofNat 64 ((first + i) * 256)

/-- The lines of the block at a header that the cache holds (R79): its header's line alone, if that is no header. -/
def State.blockLines (s : State) (core asid : Nat) (hdr : DWord) : List DWord :=
  match (s.iline core asid hdr).map fun l => l.word hdr with
  | some w => linesOf hdr (if isHeaderWord w then 8 * (bits w 50 8 + 1) else 8)
  | none => []

/-- The last of n words of a block's text is an instruction's own word, not the second one of a two-word form (R77). -/
def State.lastIsFirst (s : State) (core asid : Nat) (va : DWord) : Nat → Bool
  | 0 => false
  | 1 => true
  | n + 2 =>
    match s.targetWord core asid va with
    | .word w => if isTwoWord w then s.lastIsFirst core asid (va + 16#64) n else s.lastIsFirst core asid (va + 8#64) (n + 1)
    | _ => false

/-- The target of the offset branch that is the last instruction of a block of n words (R73, R91). -/
def State.lastTarget (s : State) (core asid : Nat) (hdr : DWord) (n : Nat) : Option DWord :=
  let last := hdr + BitVec.ofNat 64 (8 * n)
  if !s.lastIsFirst core asid (hdr + 8#64) n then none else
  match s.targetWord core asid last with
  | .word w =>
    match decodeWord w 0#64 with
    | .ok (.bra f) => some (last + BitVec.ofInt 64 (8 * f.off.toInt))
    | .ok (.call f) => some (last + BitVec.ofInt 64 (8 * f.off.toInt))
    | _ => none
  | _ => none

/-- What a PF request goes on with, once the lines it needs now are there: those lines, and the rest. -/
def TextFill.step (core asid : Nat) : TextFill → List DWord × Bool × (State → List TextFill)
  | .line va pin => ([va], pin, fun _ => [])
  | .block hdr pin => ([lineOf hdr], pin, fun t => (t.blockLines core asid hdr).tail.map fun va => .line va pin)
  | .target hdr n => (linesOf hdr (8 * (n + 1)), false, fun t => match t.lastTarget core asid hdr n with
      | some v => [.block v false]
      | none => [])

/-- Serve the next of a group's PF requests, as far as it can be (R79). -/
def State.fillNext (s : State) (b g : Nat) : State :=
  match (s.group b g).fills with
  | [] => s
  | f :: rest =>
    let blk := s.block b
    if !blk.resident then s else
    let p := f.step blk.core blk.asid
    let r := s.bringLines blk.core blk.asid p.2.1 p.1
    if r.2 = [] then r.1.onGroup b g fun k => { k with fills := p.2.2 r.1 ++ rest } else r.1

/-- A header's PF request (R73, R79). -/
def pfRequest (hdr : DWord) (h : Header) : List TextFill :=
  let next := hdr + BitVec.ofNat 64 (8 * (h.len.toNat + 1))
  (if h.pf == 1#3 || h.pf == 3#3 then [.block next false] else []) ++
  (if h.pf == 2#3 || h.pf == 3#3 then [.target hdr h.len.toNat] else []) ++
  (if h.pf == 4#3 then [.block next true] else [])

end Sys2Proof.Machine
end

