-- ==== Sys2Proof/Machine/Paths.lean ====
section
/-!
DEFINITION. Which words a group issues next: path selection and forcing (R27, R30, R31), the fetch and decoding of the
chosen words (R72–R77, R96, R314), and the groups of a core (R36, R37).
-/
namespace Sys2Proof.Machine

/-- Insert by an order: before the first element that does not come before it. -/
def insertBy {α : Type} (before : α → α → Bool) (x : α) : List α → List α
  | [] => [x]
  | y :: ys => if before x y then x :: y :: ys else y :: insertBy before x ys

/-- Sort by an order; equal elements keep their places from the right. -/
def sortBy {α : Type} (before : α → α → Bool) : List α → List α
  | [] => []
  | x :: xs => insertBy before x (sortBy before xs)

/-! ### Paths -/

/-- A lane whose W is counted: selectable or held (R31). -/
def Lane.counted (l : Lane) : Bool := l.kind == .ordinary && (l.wait == .running || l.wait == .held)

/-- The lanes of a group at a PC that satisfy a test. -/
def Group.lanesAt (g : Group) (pc : DWord) (p : Lane → Bool) : DWord :=
  maskOf fun i => (g.lane i).pc == pc && p (g.lane i)

/-- The PCs of the counted lanes. -/
def Group.pcs (g : Group) : List DWord :=
  ((List.range 64).filter fun i => (g.lane i).counted).foldl
    (fun l i => if l.contains (g.lane i).pc then l else (g.lane i).pc :: l) []

/-- More lanes first, then the lower address (R27, R31). -/
def Group.morePopulous (g : Group) (p : Lane → Bool) (a b : DWord) : Bool :=
  let na := countLanes (g.lanesAt a p)
  let nb := countLanes (g.lanesAt b p)
  decide (nb < na) || (na == nb && decide (a.toNat < b.toNat))

/-- The PCs whose count has reached 64, in the order in which they are forced (R31). -/
def Group.forceOrder (g : Group) : List DWord :=
  let hit := g.pcs.filter fun pc =>
    (lanesOf (g.lanesAt pc Lane.counted)).any fun i => decide (Config.forceAt ≤ (g.lane i).w)
  let kept := g.forceq.filter hit.contains
  kept ++ sortBy (g.morePopulous Lane.counted) (hit.filter fun pc => !kept.contains pc)

/-- The PCs that hold selectable lanes, most populous first (R27). -/
def Group.ranked (g : Group) : List DWord :=
  sortBy (g.morePopulous Lane.selectable) (g.pcs.filter fun pc => g.lanesAt pc Lane.selectable != 0#64)

/-- The path of the selectable lanes at a PC. -/
def Group.pathAt (g : Group) (pc : DWord) : Path :=
  { pc := pc, lanes := g.lanesAt pc Lane.selectable, forced := false }

/-- Choose path A and path B (R27, R31). -/
def Group.choose (g : Group) : List Path :=
  match g.forceOrder with
  | [] => (g.ranked.take 2).map g.pathAt
  | f :: _ =>
    (((g.ranked.filter fun pc => pc != f).take 1).map g.pathAt) ++
      [{ pc := f, lanes := g.lanesAt f Lane.counted, forced := true }]

/-- A choice still stands: its lanes are where it found them (R28). Lanes that wake onto a chosen PC meanwhile do not join its path: the
path's lanes stay those of the choice (DESIGN CHOICE, log entry 68). -/
def Group.choiceStands (g : Group) : Bool :=
  g.choice ≠ [] && g.choice.all fun p =>
    (lanesOf p.lanes).all fun i =>
      (g.lane i).pc == p.pc && (if p.forced then (g.lane i).counted else (g.lane i).selectable)

/-! ### The word of a path -/

/-- A PC lies among the counted words of a lane's block (R72). -/
def Lane.inBlock (l : Lane) (pc : DWord) : Bool :=
  match l.pos with
  | some p =>
    let d := (pc - p.hdr).toNat
    d ≠ 0 && decide (d ≤ 8 * p.len)
  | none => false

/-- The lanes of a path that are members of a live entry for the header they reach (R30, R75 step 1). A lane that is
forced in while held is no longer one (R31). -/
def Group.membersAt (g : Group) (pc lanes : DWord) : DWord :=
  g.recon.foldl (fun m e =>
    if e.target == pc then m ||| (e.members &&& lanes &&& maskOf fun i => (g.lane i).wait != .held) else m) 0#64

/-- What a path is about to do. -/
inductive Prep where
  | instr (i : Instr)
  /-- a trap, and the address of the trapping word -/
  | trap (code : Nat) (tval epc : DWord)
  | park (va : DWord)
  /-- an instruction-cache miss (R40) -/
  | miss (va : DWord)
  | fault (f : Fault)
  deriving DecidableEq, Repr

/-- A word fetched by going on to it: a refused fetch traps with its address in `z.epc` and `z.tval` (R314). -/
def prepWord (va : DWord) (r : Fetched) (k : DWord → Prep) : Prep :=
  match r with
  | .word w => k w
  | .miss _ _ _ => .miss va
  | .trap c => .trap c va va
  | .missing => .park va
  | .noFrame key => .fault (.noSuchFrame key)
  | .wait _ => .miss va

/-- Fetch and decode the word of a path (R75, R77, R78, R96). The second word of a MOVW is fetched before the first one's
ILLEGAL_OPCODE checks (log entry 68). A header that R74 refuses traps as one of LEN 0 does, at its own issue. -/
def State.prep (s : State) (b g : Nat) (p : Path) : Prep :=
  let blk := s.block b
  let l0 := (s.group b g).lane (lowest p.lanes)
  let decoded := fun (w w2 : DWord) => match decodeWord w w2 with
    | .ok i => Prep.instr i
    | .error _ => .trap cIllegal 0#64 p.pc
  if p.pc.toNat % 8 ≠ 0 then .trap cBadTarget 0#64 p.pc else
  prepWord p.pc (s.fetch blk.core blk.asid p.pc) fun w =>
    if l0.inBlock p.pc then
      if isHeaderWord w then .trap cIllegal 0#64 p.pc
      else if isTwoWord w then
        if l0.lastWord p.pc then .trap cIllegal 0#64 p.pc
        else prepWord (p.pc + 8#64) (s.fetch blk.core blk.asid (p.pc + 8#64)) (decoded w)
      else decoded w 0#64
    else if !isHeaderWord w then .trap cBadTarget 0#64 p.pc
    else match decodeWord w 0#64 with
      | .ok i => .instr i
      | .error _ => .instr (.blockHeader { Enc.header w with len := 0#8 })

/-- A group that may compete for issue: not stopped, ended, parked or frozen (R26, R36, R40, R306, R347). -/
def Group.mayIssue (g : Group) : Bool :=
  !g.stopped && !g.ended && g.parked == [] && g.frozen == none

/-- The paths a group would issue: the choice that stands, or a new one (R28). -/
def Group.paths (g : Group) : List Path := if g.choiceStands then g.choice else g.choose

/-! ### The groups of a core -/

/-- The groups of a core, by block and number; a block that pre-emption has chosen issues no more (R339). -/
def State.groupsOf (s : State) (core : Nat) : List (Nat × Nat) :=
  (s.blocks.filter fun kb => kb.2.resident && kb.2.started && !kb.2.leaving && kb.2.core == core).flatMap fun kb =>
    kb.2.groups.keys.map fun g => (kb.1, g)

/-- The older of two groups: its block became resident earlier, then the lower z.group (R36). -/
def State.older (s : State) (a b : Nat × Nat) : Bool :=
  decide ((s.block a.1).order < (s.block b.1).order) ||
  ((s.block a.1).order == (s.block b.1).order && decide (a.2 < b.2))

/-- Whether a group has waited in the pending set longer than another; ties go to the older (R37). -/
def State.pendingBefore (s : State) (a b : Nat × Nat) : Bool :=
  decide ((s.group a.1 a.2).since < (s.group b.1 b.2).since) ||
  ((s.group a.1 a.2).since == (s.group b.1 b.2).since && s.older a b)

/-- Move a group into the active set (R37). -/
def State.activate (s : State) (k : Nat × Nat) : State :=
  s.onGroup k.1 k.2 fun g => { g with active := true, quantum := 0 }

/-- Move a group into the pending set (R37). -/
def State.deactivate (s : State) (k : Nat × Nat) : State :=
  s.onGroup k.1 k.2 fun g => { g with active := false, quantum := 0, yielded := false, since := s.now }

end Sys2Proof.Machine
end

