-- ==== Sys2Proof/Machine/Control.lean ====
section
/-!
DEFINITION. Block headers (R73–R76), branches, calls and exits (R124–R128), predicates (R129, R130), index registers
(R131), and the moves between the vector and uniform files (R132, R133).
-/
namespace Sys2Proof.Machine

/-! ### Targets and missing translations -/

/-- The entries of a park: one for each page, in ascending order of its lowest lane, with the mask of the lanes that
missed in it (R306). -/
def pageEntries (kind : Nat) (misses : List (Nat × DWord)) : List (DWord × DWord × Nat) :=
  misses.foldl
    (fun es m =>
      if es.any fun e => e.1.toNat / 4096 == m.2.toNat / 4096 then
        es.map fun e => if e.1.toNat / 4096 == m.2.toNat / 4096 then (e.1, e.2.1 ||| laneBit m.1, e.2.2) else e
      else es ++ [(m.2, laneBit m.1, kind)]) []

/-- The outcome of the target check in each lane (R78, R125): the first trap by lane, else a park, else the targets. -/
def checkTargets (s : State) (m : DWord) (target : Nat → DWord) (ok : Unit → Res) : Res :=
  let blk := s.cb
  let res := (lanesOf m).map fun i => (i, s.checkTarget blk.core blk.asid (target i))
  let waits := res.flatMap fun r => match r.2 with | .wait as => [as] | _ => []
  if waits ≠ [] then .stallWith (s.askFor waits.flatten) else
  match res.findSome? fun r => match r.2 with | .noFrame k => some k | _ => none with
  | some k => .fault (.noSuchFrame k)
  | none =>
    match res.findSome? fun r => match r.2 with | .trap c v => some (c, v) | _ => none with
    | some (c, v) =>
      .trap (maskOf fun i => res.any fun r => r.1 == i && (match r.2 with | .trap d _ => d == c | _ => false)) c v
    | none =>
      let misses := (res.filter fun r => r.2 == Target.missing).map fun r => (r.1, target r.1)
      if misses ≠ [] then .park (maskOf fun i => misses.any fun x => x.1 == i) (pageEntries 3 misses) else ok ()

/-- Move lanes to a header: they leave their block (R75). -/
def Lane.goTo (l : Lane) (t : DWord) : Lane := { l with pc := t, pos := none }

/-! ### Headers and NOP -/

/-- Make or join the reconvergence entry of a point (R29). -/
def Group.enterRecon (g : Group) (t : DWord) (m : DWord) : Group × Bool :=
  if g.recon.any fun e => e.target == t then
    ({ g with recon := g.recon.map fun e => if e.target == t then { e with members := e.members ||| m } else e }, false)
  else
    let e : Recon := { target := t, members := m }
    if g.recon.length < 16 then ({ g with recon := g.recon ++ [e] }, false)
    else match g.recon with
      | old :: rest => ({ (g.releaseHeld old) with recon := rest ++ [e] }, true)
      | [] => ({ g with recon := [e] }, false)

/-- The point a header's RECONV names (R73). -/
def reconPoint (hdr : DWord) (h : Header) : DWord := hdr + BitVec.ofInt 64 (8 * h.reconv.toInt)

/-- Lanes start a header's block: the entry, SETA and SETB, and the prefetch (steps 4–6 of R75). -/
def State.startBlock (s : State) (h : Header) (m : DWord) : State :=
  let pc := s.cur.pc
  let core := s.cb.core
  let s1 := if h.reconv == 0#16 then s else
    let r := s.cg.enterRecon (reconPoint pc h) m
    let s' := s.setGroup s.cur.blk s.cur.grp r.1
    if r.2 then s'.count (dieOf core) 2 else s'
  let s2 := s1.onExec m fun _ l => { l with pos := some { hdr := pc, len := h.len.toNat, seta := h.seta, setb := h.setb } }
  s2.onGroup s.cur.blk s.cur.grp fun g => { g with fills := g.fills ++ pfRequest pc h }

/-- A path arrives at a header (R75): its members are held, the others go on to the checks, the WAIT of the flags as they
stood before this issue (R28), the reconvergence entry and the block. -/
def execBlockHeader (h : Header) (s : State) : Host.Outcome State Fault Refusal :=
  let pc := s.cur.pc
  let held := s.cg.membersAt pc s.cur.lanes
  let stay := s.cur.lanes &&& ~~~held
  let s1 := s.onExec held fun _ l => { l with wait := .held }
  finish s 1 <|
    if stay == 0#64 then .ok s1 held
    else if !h.legal then .trapWith s1 stay cIllegal 0#64
    else if s.cur.before.waitsOn h.wait then .stall none
    else if h.reconv == 0#16 then .ok (s1.startBlock h stay) held
    else match s.checkTarget s.cb.core s.cb.asid (reconPoint pc h) with
      | .trap c v => .trapWith s1 stay c v
      | .missing => .park stay [(reconPoint pc h, stay, 3)]
      | .noFrame k => .fault (.noSuchFrame k)
      | .wait as => .stallWith (s.askFor as)
      | .ok => .ok (s1.startBlock h stay) held

def execNop (s : State) : Host.Outcome State Fault Refusal :=
  run .nop s fun _ => .ok s 0#64

/-! ### Branches, calls and exits -/

/-- The target of an offset branch (R125). -/
def offsetTarget (s : State) (f : FmtB) : DWord := s.cur.pc + BitVec.ofInt 64 (8 * f.off.toInt)

/-- The target pair of a lane. -/
def pairTarget (s : State) (f : FmtB) (i : Nat) : DWord := (s.cg.lane i).vpair f.a.toNat

/-- A branch whose target is checked once (R125). -/
def branchOnce (s : State) (f : FmtB) (m : DWord) (go : Lane → DWord → Lane) : Res :=
  let t := offsetTarget s f
  match checkTargets s (laneBit (lowest m)) (fun _ => t) (fun _ => .ok (s.onExec m fun _ l => go l t) m) with
  | .trap _ c v => .trap m c v
  | .park _ es => .park m (es.map fun e => (e.1, m, e.2.2))
  | r => r

/-- A branch to each lane's own target (R125). -/
def branchEach (s : State) (f : FmtB) (m : DWord) (go : Lane → DWord → Lane) : Res :=
  checkTargets s m (pairTarget s f) fun _ => .ok (s.onExec m fun i l => go l (pairTarget s f i)) m

def execBra (f : FmtB) (s : State) : Host.Outcome State Fault Refusal :=
  run (.bra f) s fun m => branchOnce s f m Lane.goTo

def execBrx (f : FmtB) (s : State) : Host.Outcome State Fault Refusal :=
  run (.brx f) s fun m => branchEach s f m Lane.goTo

def execRet (f : FmtB) (s : State) : Host.Outcome State Fault Refusal :=
  run (.ret f) s fun m => branchEach s f m Lane.goTo

/-- Write the link and go (R126). -/
def goLinked (s : State) (f : FmtB) (l : Lane) (t : DWord) : Lane :=
  (l.setVpair f.a.toNat (s.cur.pc + 8#64)).goTo t

def execCall (f : FmtB) (s : State) : Host.Outcome State Fault Refusal :=
  run (.call f) s fun m => branchOnce s f m (goLinked s f)

def execCallx (f : FmtB) (s : State) : Host.Outcome State Fault Refusal :=
  run (.callx f) s fun m => branchEach s f m (goLinked s f)

/-- Items that lanes leave without LDONE (R192). -/
def State.countAbandoned (s : State) (m : DWord) : State :=
  if (s.launch s.cb.launch).ladder.isSome then
    s.count (dieOf s.cb.core) 16 ((lanesOf m).filter fun i => !(s.cg.lane i).done).length
  else s

def execExitLanes (f : FmtB) (s : State) : Host.Outcome State Fault Refusal :=
  run (.exitLanes f) s fun m => .ok ((s.countAbandoned m).retireLanes s.cur.blk s.cur.grp m) m

/-- YIELD: the group is treated as though its quantum had expired (R128). -/
def execYieldGroup (f : FmtB) (s : State) : Host.Outcome State Fault Refusal :=
  run (.yieldGroup f) s fun _ =>
    .ok (s.onGroup s.cur.blk s.cur.grp fun g => { g with yielded := true }) 0#64

/-! ### Predicates -/

def execPlop (f : FmtA) (s : State) : Host.Outcome State Fault Refusal :=
  run (.plop f) s fun m =>
    aluPred s f m fun _ l =>
      f.c.getLsbD ((if l.pred f.a.toNat then 2 else 0) + if l.pred f.b.toNat then 1 else 0)

/-- Predicates p to p + n − 1 as a word (R130). -/
def Lane.predBits (l : Lane) (p n : Nat) : Word := (l.p >>> p).setWidth 32 &&& BitVec.ofNat 32 (2 ^ n - 1)

/-- Set predicates p to p + n − 1 from a word (R130). -/
def Lane.setPredBits (l : Lane) (p n : Nat) (x : Word) : Lane :=
  (List.range n).foldl (fun a i => a.setP (p + i) (x.getLsbD i)) l

def execPmov (f : FmtA) (s : State) : Host.Outcome State Fault Refusal :=
  run (.pmov f) s fun m =>
    let n := bits f.c 1 5 + 1
    .ok (s.onExec m fun _ l =>
      if f.c.getLsbD 0 then l.setPredBits f.d.toNat n (l.vreg f.a.toNat)
      else l.setV f.d.toNat (l.predBits f.a.toNat n)) 0#64

/-! ### Index registers -/

/-- An index register from its fields (R47). -/
def indexReg (base limit : Nat) (index : Int) : Word :=
  BitVec.ofInt 12 index ++ BitVec.ofNat 10 limit ++ BitVec.ofNat 10 base

/-- Write index register xJ in every executing lane, or trap with the value of the lowest lane that is refused (R131). -/
def aluIndex (s : State) (f : FmtA) (m : DWord) (val : Lane → Except Int Word) : Res :=
  match (lanesOf m).findSome? fun i => match val (s.cg.lane i) with | .error t => some t | .ok _ => none with
  | some t => .trap m cIndexRange (ofInteger 64 t)
  | none =>
    .ok (s.onExec m fun _ l => match val l with
      | .ok x => { l with x := l.x.set f.d.toNat x }
      | .error _ => l) 0#64

def execXset (f : FmtA) (s : State) : Host.Outcome State Fault Refusal :=
  run (.xset f) s fun m =>
    aluIndex s f m fun l =>
      let a := (l.vreg f.a.toNat).toNat
      let b := if f.bi then f.b.toNat else (l.vreg f.b.toNat).toNat
      if s.cb.regs < a + b || 1023 < b then .error (a + b : Nat) else .ok (indexReg a b 0)

/-- The signed operand of XIDX and XADD (R131). -/
def indexOpd (f : FmtA) (l : Lane) : Int := if f.bi then f.imm else (l.vreg f.a.toNat).toInt

/-- A new INDEX, kept inside its field (R131). -/
def newIndex (f : FmtA) (l : Lane) (i : Int) : Except Int Word :=
  if i < -2048 ∨ 2047 < i then .error i else .ok (indexReg (l.baseOf f.d.toNat) (l.limitOf f.d.toNat) i)

def execXidx (f : FmtA) (s : State) : Host.Outcome State Fault Refusal :=
  run (.xidx f) s fun m => aluIndex s f m fun l => newIndex f l (indexOpd f l)

def execXadd (f : FmtA) (s : State) : Host.Outcome State Fault Refusal :=
  run (.xadd f) s fun m => aluIndex s f m fun l => newIndex f l (l.indexOf f.d.toNat + indexOpd f l)

/-! ### Between the vector and uniform files -/

def execVtos (f : FmtA) (s : State) : Host.Outcome State Fault Refusal :=
  run (.vtos f) s fun m =>
    let w := tyWidth f.ty
    let v := rdA f s.cg (s.cg.lane (lowest m)) w
    if f.sat && (lanesOf m).any fun i => rdA f s.cg (s.cg.lane i) w != v then .trap m cUniformSplit 0#64
    else .ok (s.putU f.d.toNat w v) 0#64

def execStov (f : FmtA) (s : State) : Host.Outcome State Fault Refusal :=
  run (.stov f) s fun m =>
    let w := tyWidth f.ty
    .ok (s.onExec m fun _ l => l.put (destReg f l) w (cut w (s.cg.ureg f.a.toNat))) 0#64

end Sys2Proof.Machine
end

