-- ==== Sys2Proof/Machine/Access.lean ====
section
/-!
DEFINITION. What memory instructions share: the checks of R150 over all executing lanes, the operations they leave
outstanding (R149, R151), and the order of one lane's accesses (R152, R165, R230).
-/
namespace Sys2Proof.Machine

/-! ### Checks -/

/-- One range an instruction reaches in one lane, and where it leads. -/
structure Touch where
  lane : Nat
  va : DWord
  n : Nat
  tr : Tr
  deriving DecidableEq, Repr

/-- Look a range of one page up, for the block at issue. -/
def State.touch (s : State) (need : Need) (lane : Nat) (va : DWord) (n : Nat) : Touch :=
  let b := s.cb
  { lane := lane, va := va, n := n, tr := s.resolve b.core b.asid b.launch need va n }

/-- Look an access of a lane up that goes through the core's L1: a hit is not translated (R319). -/
def State.laneTouch (s : State) (need : Need) (lane : Nat) (va : DWord) (n : Nat) : Touch :=
  let b := s.cb
  if inWindow va then s.touch need lane va n else
  match s.l1Serves b.core b.asid need va n with
  | some tr => { lane := lane, va := va, n := n, tr := tr }
  | none => s.touch need lane va n

/-- The first lane whose touch ends in a way. -/
def findTouch (ts : List Touch) (p : Tr → Bool) : Option Touch := ts.find? fun t => p t.tr

/-- Steps 2 and 3 of R150: refusals by lane, then missing translations. -/
def judgeEarly (m : DWord) (kind : Nat) (ts : List Touch) : Option Res :=
  match ts.findSome? fun t => match t.tr with
      | .protection => some (cProtection, t.va)
      | .kernelReserved => some (cKernel, t.va)
      | _ => none with
  | some (c, v) => some (.trap m c v)
  | none =>
    let misses := (ts.filter fun t => t.tr == Tr.missing).map fun t => (t.lane, t.va)
    if misses ≠ [] then some (.park m (pageEntries kind misses)) else none

/-- Steps 4 and 5 of R150, and the fault of a frame that HBM does not hold; what has been pulled stays pulled (R327). -/
def judgeLate (s : State) (m : DWord) (ts : List Touch) : Option Res :=
  match findTouch ts (· == Tr.lost) with
  | some t => some (.trapWith s m cLost t.va)
  | none =>
    match findTouch ts (· == Tr.poison) with
    | some t => some (.trapWith s m cPoison t.va)
    | none => ts.findSome? fun t => match t.tr with | .noFrame k => some (.fault (.noSuchFrame k)) | _ => none

/-- The first touch of lines of a migrating page (R326, R327): each is pulled; poison and a lost old frame are found. -/
def State.pullTouch (s : State) (t : Touch) : State × Touch :=
  match t.tr with
  | .ok (.mem k) leaf level =>
    if level == 1 && leaf.getLsbD 61 then
      match s.firstTouch k t.n with
      | .lost => (s, { t with tr := .lost })
      | .wait as => (s, { t with tr := .wait as })
      | .ok s1 => (s1, if s1.rangePoisoned k t.n then { t with tr := .poison } else t)
    else (s, t)
  | _ => (s, t)

/-- The first touches of the lines of an instruction, in order. -/
def pullTouches (s : State) (ts : List Touch) : State × List Touch :=
  ts.foldl (fun (a : State × List Touch) t => let q := a.1.pullTouch t; (q.1, a.2 ++ [q.2])) (s, [])

/-- Note what the touches of an instruction leave behind: TLB entries (R319), and the domain of the die whose slice serves it (R288);
that of a local store is touched when it serves. -/
def State.noteTouch (s : State) (t : Touch) : State :=
  let b := s.cb
  match t.tr with
  | .ok (.mem k) _ _ => ((s.fillTlb b.core b.asid t.va t.tr).noteSwm t.tr).touchDomains b.asid (s.accessDomains b.core (.mem k))
  | _ => s

/-- Note what the touches of an instruction leave behind, and see each touch as its frame is used (R259). -/
def State.noteTouches (s : State) (ts : List Touch) : State × List Touch :=
  let t := ts.foldl State.noteTouch s
  (t, ts.map fun u => { u with tr := t.asSwm u.tr })

/-- A touch that waits for what its walk, or the pull of its line, needs (R303, R326, R356). -/
def Touch.waits (t : Touch) : Bool := match t.tr with | .wait _ => true | _ => false

/-- What touches wait for. -/
def asksOf (ts : List Touch) : List Ask := ts.flatMap fun t => match t.tr with | .wait as => as | _ => []

/-- Ask for what touches wait for. -/
def State.askTouches (s : State) (ts : List Touch) : State := s.askFor (asksOf ts)

/-- Go on once no touch waits: until then the path cannot issue. -/
def unlessWaits (s : State) (ts : List Touch) (go : Res) : Res := if ts.any Touch.waits then .stallWith (s.askTouches ts) else go

/-- Check every touch of an instruction (R150), then go on with the state and touches as they stand. -/
def serveTouches (s : State) (m : DWord) (kind : Nat) (ts : List Touch) (go : State → List Touch → Res) : Res :=
  unlessWaits s ts <|
  match judgeEarly m kind ts with
  | some r => r
  | none =>
    let p := pullTouches s ts
    unlessWaits p.1 p.2 <|
    match judgeLate p.1 m p.2 with
    | some r => r
    | none => let q := p.1.noteTouches p.2; go q.1 q.2

/-- The pages of a range, each with the bytes of the range in it. -/
def pageChunksFuel (va n : Nat) : Nat → List (DWord × Nat)
  | 0 => []
  | fuel + 1 =>
    if n = 0 then [] else
    let k := Nat.min n (4096 - va % 4096)
    (BitVec.ofNat 64 va, k) :: pageChunksFuel (va + k) (n - k) fuel

def pageChunks (va : DWord) (n : Nat) : List (DWord × Nat) := pageChunksFuel va.toNat n (n / 4096 + 2)

/-- A range cut at the multiples of u. -/
def unitChunks (u va n : Nat) : Nat → List (DWord × Nat)
  | 0 => []
  | fuel + 1 =>
    if n = 0 then [] else
    let k := Nat.min n (u - va % u)
    (BitVec.ofNat 64 va, k) :: unitChunks u (va + k) (n - k) fuel

/-- The pages of a range that is moved u bytes at a time; in a core window, where the stores of several blocks may lie side by side,
what is moved at a time (R214). -/
def rangeChunks (u : Nat) (va : DWord) (n : Nat) : List (DWord × Nat) :=
  (pageChunks va n).flatMap fun c => if coreWindow c.1 then unitChunks u c.1.toNat c.2 (c.2 / u + 2) else [c]

/-! ### Outstanding operations -/

/-- An access of an operation, from its touch. -/
def Touch.acc (t : Touch) (val : BitVec 128) (val2 : DWord) : Acc :=
  match t.tr with
  | .ok loc leaf level =>
    { lane := t.lane, va := t.va, loc := loc, leaf := State.leafBits leaf level, fresh := State.isFresh level, val := val
      val2 := val2, done := false, counted := [] }
  | _ =>
    { lane := t.lane, va := t.va, loc := .mem 0, leaf := 0#7, fresh := false, val := val, val2 := val2, done := false
      counted := [] }

/-- Raise the reuse clock of the block at issue (R149). -/
def State.raiseReuse (s : State) : State := s.onBlock s.cur.blk fun b => { b with reuse := b.reuse + 1#32 }

/-- Where the operations of path A of the same issue begin and end, for path B (R152). -/
def State.partner (s : State) : Option (Nat × Nat) := if s.cur.pathB then some (s.cur.firstId, s.cur.lastId) else none

/-- A window access waits while the block that holds the bytes is not resident (R214). Where that block has ended meanwhile the
access waits no more: it is performed on nothing and completes (DESIGN CHOICE, log entry 47). -/
def State.windowReady (s : State) (b : Nat) : Bool :=
  match s.blocks.get? b with
  | some k => k.resident && k.started
  | none => decide (2 ^ 64 ≤ b) || decide (2 ^ 16 ≤ b % 2 ^ 20 / 8) || decide (b % 2 ^ 20 / 8 < (s.launch (b / 2 ^ 20)).nextCohort)

/-- What holds an access at its place, as the event it counts: a window whose block is not there (R214), a package without
a live route (R298), a home that is not in service yet (R356). -/
def State.holdAt (s : State) : Loc → Option Nat
  | .ls b _ => if s.windowReady b then none else some 8
  | .mem k =>
    if keyTier k == 3 && s.route (peerFid k) == 0#8 then some 23
    else if keyTier k == 0 && !s.levelServes (16 + s.homeMd (k / 256)) then some 25 else none

/-- The agent that counts a hold (R364): the hub, or the home memory die; for a window's hold the rule names none, and it is the
die of the core that issued the access (DESIGN CHOICE, log entry 80). -/
def State.holdDie (s : State) (core : Nat) : Loc → Nat
  | .ls _ _ => dieOf core
  | .mem k => if keyTier k == 0 then 16 + s.homeMd (k / 256) else hubDie

/-- Count a hold of an access once: the state, and the holds counted for it. -/
def State.countHold (s : State) (core : Nat) (loc : Loc) (seen : List Nat) : State × List Nat :=
  match s.holdAt loc with
  | some ev => if seen.contains ev then (s, seen) else (s.count (s.holdDie core loc) ev, ev :: seen)
  | none => (s, seen)

/-- Count the window holds that accesses meet as they issue (R214). -/
def State.countHolds (s : State) (core : Nat) (accs : List Acc) : State × List Acc :=
  accs.foldl (fun (r : State × List Acc) a =>
    match a.loc with
    | .ls _ _ =>
      let q := r.1.countHold core a.loc a.counted
      (q.1, r.2 ++ [{ a with counted := q.2 }])
    | .mem _ => (r.1, r.2 ++ [a])) (s, [])

/-- The kinds that are performed where the bytes are; the others act on caches, and no window is cached (R162–R164, R214). -/
def OpKind.atBytes : OpKind → Bool
  | .load _ => true
  | .store => true
  | .atom _ _ => true
  | .red _ _ => true
  | .ldone => true
  | _ => false

/-- Leave an operation outstanding, and assign it to a flag (R49, R80). -/
def State.openAt (s : State) (o : Op) : State :=
  let r := if o.kind.atBytes then s.countHolds o.core o.accs else (s, o.accs)
  ({ r.1 with ops := r.1.ops.set r.1.nextId { o with accs := r.2 }, nextId := r.1.nextId + 1 } : State).assignFlag
    o.blk o.grp o.flag

/-- The drop of a last-use load (R156): a write to every sector it touches, after the accesses of its load there. -/
def dropOp (o : Op) (id : Nat) : Op :=
  { o with
    kind := .drop, flag := none, acq := false, rel := false, last := false, dest := 0
    after := some ((o.after.getD (id, id)).1, id + 1)
    accs := o.accs.filterMap fun a => match a.loc with
      | .mem k => some { a with loc := .mem (k / 64 * 64), val := 64#128 }
      | .ls _ _ => none }

/-- Leave a memory instruction outstanding (R49, R80, R149); a last-use load leaves its drop outstanding too (R156). -/
def State.openOp (s : State) (m : DWord) (f : FmtM) (kind : OpKind) (dest : Nat) (far clock : Bool) (acq rel last : Bool)
    (accs : List Acc) : State :=
  let s1 := if clock then s.raiseReuse else s
  let o : Op :=
    { kind := kind, blk := s.cur.blk, grp := s.cur.grp, core := s.cb.core, asid := s.cb.asid
      flag := (s1.cg.lane (lowest m)).flagFor f.fs, wid := f.wid.toNat, acq := acq, rel := rel, scope := f.scope.toNat
      far := far, last := last, nud := f.nud.toNat, clock := s1.cb.reuse, dest := dest, pc := s.cur.pc
      after := s.partner, accs := accs }
  let s2 := s1.openAt o
  if last && (dropOp o s1.nextId).accs ≠ [] then s2.openAt (dropOp o s1.nextId) else s2

end Sys2Proof.Machine
end

