-- ==== Sys2Proof/Machine/Order.lean ====
section
/-!
DEFINITION. The memory model (R227–R243): what a lane has outstanding and in which order it may be performed, and the candidate
execution of R229 as far as it is kept, with the conditions of R236, R240 and R241 on it.
-/
namespace Sys2Proof.Machine

/-! ### The order of one lane's accesses -/

/-- The kinds that read, and those that write (R229, R230). -/
def OpKind.reads : OpKind → Bool
  | .load _ => true
  | .atom _ _ => true
  | _ => false

def OpKind.writes : OpKind → Bool
  | .store => true
  | .atom _ _ => true
  | .red _ _ => true
  | .cwb => true
  | .cinv => true
  | .cdisc => true
  | .drop => true
  | .ldone => true
  | _ => false

/-- Bytes an access touches; range operations and LDONE carry their length (R145, R163). -/
def Op.bytes (o : Op) (a : Acc) : Nat :=
  match o.kind with
  | .cwb => a.val.toNat
  | .cinv => a.val.toNat
  | .cdisc => a.val.toNat
  | .drop => a.val.toNat
  | .ldone => 4
  | _ => 2 ^ o.wid

/-- The access is an atomic one, and takes place at the home of its location (R160). -/
def OpKind.isAtomic : OpKind → Bool
  | .atom _ _ => true
  | .red _ _ => true
  | _ => false

def atHome (o : Op) (a : Acc) : Bool := o.kind.isAtomic && (o.far || a.swm)

/-- Two accesses touch a common location (R227). -/
def accMeets (o : Op) (a : Acc) (p : Op) (b : Acc) : Bool := a.loc.meets (o.bytes a) b.loc (p.bytes b)

/-- What a fence orders (R165): an earlier access by whether it reads, a later one by whether it writes. -/
def fenceOrders (kind : BitVec 2) (reads laterWrites : Bool) : Bool :=
  match kind.toNat with
  | 0 => true
  | 1 => reads
  | 2 => laterWrites
  | _ => reads || laterWrites

/-- An access as R230 sees it. -/
structure Ordered where
  id : Nat
  reads : Bool
  writes : Bool
  acq : Bool
  rel : Bool
  op : Op
  acc : Acc
  /-- an ATOM or a RED -/
  atomic : Bool := false
  /-- of a copy of the lane (R264), and the barrier that the copy is bound to -/
  copy : Bool := false
  bar : Option Nat := none
  /-- the core whose matrix queue holds it -/
  queue : Option Nat := none
  deriving DecidableEq, Repr

/-- The operations of the matrix queue that read and that write memory: the drop of a last use writes (R156, R175, R229). -/
def MKind.reads : MKind → Bool
  | .omld _ _ _ => true
  | .acld _ _ => true
  | _ => false

def MKind.writes : MKind → Bool
  | .omst _ _ => true
  | .acst _ => true
  | .msave => true
  | .omld _ _ last => last
  | .acld _ last => last
  | _ => false

/-- The operations that store bytes. -/
def MKind.stores : MKind → Bool
  | .omst _ _ => true
  | .acst _ => true
  | .msave => true
  | _ => false

/-- The pieces of a range from an offset on. -/
def spansFrom : List (Loc × Nat × LeafBits) → Nat → List (Loc × Nat × LeafBits)
  | [], _ => []
  | (l, n, w) :: rest, off =>
    if n ≤ off then spansFrom rest (off - n)
    else (match l with | .mem k => Loc.mem (k + off) | .ls b o => .ls b (o + off), n - off, w) :: rest

/-- An access of n bytes by a lane that is not one of a memory instruction: of a matrix operation, an engine or a WAITC. -/
def plainOrdered (id blk grp lane core asid : Nat) (loc : Loc) (n : Nat) (reads writes : Bool) : Ordered :=
  { id := id, reads := reads, writes := writes, acq := false, rel := false
    op :=
      { kind := .cwb, blk := blk, grp := grp, core := core, asid := asid, flag := none, wid := 6, acq := false, rel := false
        scope := 3, far := false, last := false, nud := 0, clock := 0#32, dest := 0, pc := 0#64, after := none, accs := [] }
    acc :=
      { lane := lane, va := 0#64, loc := loc, leaf := 0#7, fresh := false, val := BitVec.ofNat 128 n, val2 := 0#64
        done := false, counted := [] } }

/-- An access of a matrix operation in its lane's program order (R175): an operation of its own length. -/
def MOp.ordered (o : MOp) (c asid : Nat) (piece : Loc × Nat × LeafBits) : Ordered :=
  let x := plainOrdered o.id o.blk o.grp o.lane c asid piece.1 piece.2.1 o.kind.reads o.kind.writes
  { x with
    queue := some c
    op := { x.op with nud := o.nud, clock := o.clock, after := o.after }
    acc := { x.acc with va := o.addr, leaf := piece.2.2, fresh := true, counted := o.counted, stale := o.stale } }

/-- What a matrix operation has not moved yet. -/
def MOp.orderedLeft (o : MOp) (c asid : Nat) : List Ordered :=
  if o.kind.reads || o.kind.writes then (spansFrom o.spans o.prog).map (o.ordered c asid) else []

/-- The bytes of a window's element of a type (R278). -/
def elemSize (ty : Nat) : Nat := if ty == 11 then 16 else if ty == 4 || ty == 8 then 8 else 4

/-- The physical address of a window's element. -/
def State.elemPa (w : Window) (e : Nat) : Nat := w.base + e * elemSize w.ty

/-- The element that a contribution reaches, and its bytes: none where its window is not there or has no such element. -/
def State.contribPlace (s : State) (c : Contrib) : Loc × Nat :=
  match s.hub.windows.get? c.win with
  | some w => if c.elem < w.count then (.mem (memKey 0 (State.elemPa w c.elem)), elemSize w.ty) else (.mem 0, 0)
  | none => (.mem 0, 0)

/-- A contribution at this hub that is not applied yet, as the RED of its lane at `.sys` (R284): it touches its element's bytes. -/
def State.contribOrdered (s : State) (c : Contrib) (k : Nat × Nat × Nat) : Ordered :=
  let y := plainOrdered c.id k.1 k.2.1 k.2.2 0 0 (s.contribPlace c).1 (s.contribPlace c).2 false true
  { y with atomic := true, op := { y.op with scope := 4 } }

/-- A lane's WAITC whose first read is not performed (R142, R152). -/
def State.waitOrdered (s : State) (blk grp lane : Nat) : Option Ordered :=
  match (s.lane blk grp lane).wait with
  | .waitc w =>
    if w.readAt.isNone then
      let y := plainOrdered w.id blk grp lane (s.block blk).core (s.block blk).asid w.loc w.width true false
      some { y with op := { y.op with after := w.after } }
    else none
  | _ => none

/-- The accesses of a group that are not performed, of operations of a range of identities, by lane. -/
def State.outstanding (s : State) (blk grp first before : Nat) (lane : Nat → Bool) : List Ordered :=
  ((s.ops.filter fun o => decide (first ≤ o.1) && decide (o.1 < before) && o.2.blk == blk && o.2.grp == grp).flatMap fun o =>
    ((o.2.accs.filter fun a => lane a.lane && !a.done).map fun a =>
      { id := o.1, reads := o.2.kind.reads, writes := o.2.kind.writes, acq := o.2.acq, rel := o.2.rel, op := o.2, acc := a
        atomic := o.2.kind.isAtomic })) ++
  (((s.core (s.block blk).core).mq.filter fun o =>
      decide (first ≤ o.id) && decide (o.id < before) && o.blk == blk && o.grp == grp && lane o.lane).flatMap fun o =>
    o.orderedLeft (s.block blk).core (s.block blk).asid) ++
  (s.hub.contribs.filterMap fun c => match c.lane with
    | some k =>
      if k.1 == blk && k.2.1 == grp && lane k.2.2 && decide (first ≤ c.id) && decide (c.id < before) then
        some (s.contribOrdered c k)
      else none
    | none => none) ++
  (((List.range 64).filter lane).filterMap (s.waitOrdered blk grp)).filter fun x => decide (first ≤ x.id) && decide (x.id < before)

/-- An access of a lane that escalated: an acquire at `.dev` for the lane that received its frame (R204). -/
def Ordered.handedOn (x : Ordered) : Ordered := { x with acq := true, op := { x.op with scope := 3 } }

/-- A lane's accesses that are not performed, of operations before an identity, and before them those of the lanes that its
frame comes from (R204). -/
def State.earlier (s : State) (blk grp lane before : Nat) : List Ordered :=
  ((s.lane blk grp lane).froms.flatMap fun f =>
    (s.outstanding f.blk f.grp 0 f.id (· == f.lane)).map Ordered.handedOn) ++
  s.outstanding blk grp 0 before (· == lane)

/-- Two accesses of one lane in program order toward every agent (cases 1 and 2 of R230; case 3 comes with the lane's
registers). -/
def mustFollow (x y : Ordered) : Bool := (x.reads && y.writes) || accMeets x.op x.acc y.op y.acc

/-- Cases 4 to 6 of R230 order two accesses of one lane: an acquire, a release, a fence between them. -/
def pairOrdered (es : List Ordered) (x y : Ordered) : Bool :=
  x.acq || y.rel || es.any fun f => match f.op.kind with
    | .fence k => decide (x.id < f.id) && decide (f.id < y.id) && fenceOrders k x.reads y.writes
    | _ => false

/-- An earlier access that is not performed comes before a later one (R230). -/
def holdsBack (es : List Ordered) (y : Ordered) : Bool :=
  es.any fun x => (x.reads || x.writes) && (mustFollow x y || pairOrdered es x y)

/-- A fence waits for the accesses it orders before later ones (R151, R165). -/
def fenceWaits (es : List Ordered) (k : BitVec 2) : Bool :=
  es.any fun x => (x.reads || x.writes) && (if k == 1#2 then x.reads else true)

/-- What comes before an access by the order of its issue is performed where they meet: path A's accesses (R152), and the
load of a drop (R156). -/
def State.afterDone (s : State) (blk grp : Nat) (after : Option (Nat × Nat)) (loc : Loc) (n : Nat) : Bool :=
  match after with
  | none => true
  | some (first, last) => !(s.outstanding blk grp first last fun _ => true).any fun x =>
      (x.reads || x.writes) && x.acc.loc.meets (x.op.bytes x.acc) loc n

/-- An access of an operation, in its lane's program order. -/
def Op.ordered (o : Op) (id : Nat) (a : Acc) : Ordered :=
  { id := id, reads := o.kind.reads, writes := o.kind.writes, acq := o.acq, rel := o.rel, op := o, acc := a
    atomic := o.kind.isAtomic }

/-- A lane has no access outstanding that reads or writes. -/
def State.laneQuiet (s : State) (blk grp lane : Nat) : Bool :=
  (s.earlier blk grp lane s.nextId).all fun x => !(x.reads || x.writes)

/-! ### Scopes (R233) -/

/-- The agents of a scope, seen from a lane of a group (R233). A packed group is a block of its own. -/
def State.inScope (s : State) (blk grp scope : Nat) : Agent → Bool
  | .lane b g _ =>
    let x := s.block blk
    let y := s.block b
    match scope with
    | 0 => b == blk && g == grp
    | 1 => b == blk
    | 2 => b == blk || (x.packed.isNone && y.packed.isNone && y.launch == x.launch && y.cohort == x.cohort)
    | _ => true
  | .unit => decide (3 ≤ scope)
  | .outside => decide (4 ≤ scope)

/-- An agent lies inside a scope of another one: what reaches memory from outside is in `.sys` alone. -/
def State.within (s : State) (scope : Nat) (a b : Agent) : Bool :=
  match a with
  | .lane blk grp _ => s.inScope blk grp scope b
  | .unit => decide (3 ≤ scope) && (b != .outside || decide (4 ≤ scope))
  | .outside => decide (4 ≤ scope)

/-! ### The relations of a candidate execution (R229, R230) -/

/-- The event of an access or a fence that is not performed yet. -/
def Ordered.ev (y : Ordered) (after : Option (Nat × Nat)) : Ev :=
  let k := match y.op.kind with | .fence k => some k | _ => none
  { who := .lane y.op.blk y.op.grp y.acc.lane, id := y.id, reads := y.reads, writes := y.writes, acq := y.acq && k.isNone
    rel := y.rel && k.isNone, scope := y.op.scope, fence := k, atomic := y.atomic, loc := if k.isSome then .mem 0 else y.acc.loc
    n := if k.isSome then 0 else y.op.bytes y.acc, after := after, copy := y.copy, bar := y.bar, swm := y.acc.swm && !atHome y.op y.acc
    queue := y.queue, saw := 0, old := [] }

namespace Ev

/-- It reads or writes a location. -/
def touches (x : Ev) : Bool := x.reads || x.writes

/-- Two accesses touch a common location (R227). -/
def meets (x y : Ev) : Bool := x.loc.meets x.n y.loc y.n

/-- They are ordered by rf, co or fr: they touch a common location, and one of them writes. What the cached bytes of a
software-managed page give is R259's. -/
def conflicts (x y : Ev) : Bool := (x.writes || y.writes) && !x.swm && !y.swm && x.meets y

/-- Program order (R228); nothing of a lane follows its copies (R264). -/
def po (x y : Ev) : Bool :=
  x.who == y.who && (match x.who with | .lane _ _ _ => true | _ => false) && !x.copy && decide (x.id < y.id)

/-- Accesses of different agents: the units and what comes from outside are not told apart. -/
def external (x y : Ev) : Bool := x.who != y.who || x.who == .unit || x.who == .outside

/-- Path A's access of the issue of an access of path B, where they touch the same bytes (R152). -/
def pathFirst (x y : Ev) : Bool :=
  match y.after, x.who, y.who with
  | some (first, last), .lane b g _, .lane c h _ =>
    b == c && g == h && x.touches && decide (first ≤ x.id) && decide (x.id < last) && x.meets y
  | _, _, _ => false

/-- What the dispatcher stages into a block's local store comes before the block's lanes start (R225). -/
def stages (x y : Ev) : Bool :=
  x.who == .unit && x.writes && (match x.loc, y.who with | .ls b _, .lane c _ _ => b == c | _, _ => false)

/-- The completion word of a copy comes after its payload (R264). -/
def posts (x y : Ev) : Bool := x.copy && y.copy && y.rel && !x.rel && x.who == y.who && x.id == y.id

end Ev

/-- The lanes of a list. -/
def lanesHave (l : List (Nat × Nat × DWord)) : Agent → Bool
  | .lane b g i => l.any fun r => r.1 == b && r.2.1 == g && r.2.2.getLsbD i
  | _ => false

/-- Two lists of lanes have one in common. -/
def lanesMeet (l k : List (Nat × Nat × DWord)) : Bool :=
  l.any fun r => k.any fun q => r.1 == q.1 && r.2.1 == q.2.1 && r.2.2 &&& q.2.2 != 0#64

/-- A lane of a launch's blocks. -/
def ofLaunch (launch : Nat) : Agent → Bool
  | .lane b _ _ => decide (b < 2 ^ 64) && b / 2 ^ 20 == launch
  | _ => false

/-- What an agent does from an identity on comes after a mark. -/
def Mark.reaches (m : Mark) (who : Agent) (id : Nat) : Bool :=
  (lanesHave m.tos who && decide (m.id ≤ id)) || m.launch.any fun l => ofLaunch l who

/-- A candidate execution: the accesses performed, in the order of their performance, and those that are left. -/
structure Cand where
  s : State
  t : Trace
  left : List Ev

/-- An event and its place: those that are left stand after those that are performed. -/
abbrev Node := Nat × Ev

namespace Cand

def nodes (c : Cand) : List Node := (c.t.evs ++ c.left).mapIdx fun i e => (i, e)

def done (c : Cand) (x : Node) : Bool := decide (x.1 < c.t.evs.length)

/-- Y's address is computed from what X read (case 3 of R230). -/
def depends (c : Cand) (x y : Ev) : Bool :=
  x.reads && c.t.deps.any fun d =>
    d.1 == y.who && decide (d.2.1 ≤ y.id) && decide (y.id < d.2.2.1) && d.2.2.2.contains x.id

/-- The pairs that are ordered toward every agent: cases 1 to 3 of R230, the paths of one issue (R152); and what a fence waits for
(R151). -/
def fixed (c : Cand) (x y : Ev) : Bool :=
  (x.po y && (match y.fence with
    | some k => if k == 1#2 then x.reads else x.touches
    | none => (x.reads && y.writes) || x.meets y || c.depends x y)) || x.pathFirst y || x.stages y

/-- An access comes before a mark. -/
def before (m : Mark) (x : Node) : Bool :=
  decide (x.1 < m.all) || (x.2.who == .outside && decide (x.1 < m.host)) ||
  (lanesHave m.froms x.2.who && (if x.2.copy then
      x.2.writes && !x.2.rel && ((m.copies.any fun r => decide (r.1 ≤ x.2.id) && decide (x.2.id < r.2)) ||
        m.bar.any fun k => x.2.bar == some k.1 && decide (x.1 < k.2))
    else decide (x.2.id < m.upto)))

/-- The lanes that a lane's frame comes from (R204). -/
def handed (c : Cand) : Agent → List Before
  | .lane b g i => (c.s.lane b g i).froms
  | _ => []

/-- An access of a lane that a later lane's frame comes from (R204). -/
def climbs (c : Cand) (x y : Node) : Bool :=
  !x.2.copy && (c.handed y.2.who).any fun f => x.2.who == .lane f.blk f.grp f.lane && decide (x.2.id < f.id)

/-- What marks and escalations order, toward a scope. -/
def marked (c : Cand) (scope : Nat) (x y : Node) : Bool :=
  (decide (scope ≤ 3) && c.climbs x y) ||
  c.t.marks.any fun m => decide (scope ≤ m.scope) && before m x && m.reaches y.2.who y.2.id

/-- What comes after a mark, through the lanes of the marks that follow it. -/
def leads (c : Cand) (y : Node) : List Mark → Mark → Bool
  | [], m => m.reaches y.2.who y.2.id || (c.handed y.2.who).any fun f => m.reaches (.lane f.blk f.grp f.lane) f.id
  | k :: ks, m => c.leads y ks m || (lanesMeet m.tos k.froms && decide (m.id ≤ k.upto) && c.leads y ks k)

/-- What marks order by happens-before: an order goes on through a lane that makes no access between two of them. -/
def carried (c : Cand) (x y : Node) : List Mark → Bool
  | [] => false
  | m :: ms => (before m x && c.leads y ms m) || c.carried x y ms

/-- What precedes a unit's completion word: the applications and the OUT writes of a window, the accesses of a launch, the leaf of a
migration (R191, R284, R326, R335). -/
def completes (c : Cand) (x y : Node) : Bool :=
  y.2.who == .unit && y.2.rel && c.done y && decide (x.1 < y.1) &&
  (if y.2.id % 2 = 1 then
    match c.s.hub.windows.get? (y.2.id / 2) with
    | some w => x.2.writes && (x.2.loc.meets x.2.n (.mem (memKey 0 w.base)) (w.count * elemSize w.ty) ||
        (w.out != 0 && x.2.loc.meets x.2.n (.mem (memKey 0 w.out)) (4 * w.count)))
    | none => true
  else (match x.2.who with
    | .lane b _ _ => y.2.id != 0 && y.2.id != 2 && (match c.s.blocks.get? b with
        | some k => k.launch == y.2.id / 2 - 1
        | none => decide (2 ^ 64 ≤ b) || ofLaunch (y.2.id / 2 - 1) x.2.who)
    | .unit => y.2.id == 0 || (x.2.rel && y.2.id == x.2.id)
    | .outside => false))

/-- The pairs that cases 4 to 6 of R230, marks and completion words order toward a scope. -/
def toward (c : Cand) (scope : Nat) (x y : Node) : Bool :=
  (x.2.po y.2 && x.2.touches && y.2.touches &&
    ((x.2.acq && decide (scope ≤ x.2.scope)) || (y.2.rel && !y.2.copy && decide (scope ≤ y.2.scope)) ||
      c.nodes.any fun f => match f.2.fence with
        | some k => decide (scope ≤ f.2.scope) && x.2.po f.2 && f.2.po y.2 && fenceOrders k x.2.reads y.2.writes
        | none => false)) ||
  (x.2.posts y.2 && decide (scope ≤ y.2.scope)) || c.marked scope x y || c.completes x y

/-- Reads-from, coherence order and from-read, as they stand or must come: X before Y. -/
def comes (c : Cand) (x y : Node) : Bool :=
  let key := fun (z : Node) => if z.2.writes then 2 * z.1 + 1 else 2 * z.2.saw
  x.2.conflicts y.2 && c.done x && (if c.done y then decide (key x < key y) else y.2.writes)

/-- Two fences of kind `.sc` in their total order, each inside the other's scope (R241). -/
def fencePair (c : Cand) (f g : Node) : Bool :=
  f.2.fence == some 0#2 && g.2.fence == some 0#2 && c.done f && c.done g && decide (f.1 < g.1) && f.2.who != g.2.who &&
  c.s.within f.2.scope f.2.who g.2.who && c.s.within g.2.scope g.2.who f.2.who

/-- The edges of R241. -/
def fenced (c : Cand) (x y : Node) : Bool :=
  c.nodes.any fun f => x.2.po f.2 && c.nodes.any fun g => g.2.po y.2 && c.fencePair f g

/-- The relation of part 3 of R240, for the cycles whose agents all lie inside a scope of each other: scopes are nested, so an
ordered pair counts on such a cycle where its own scope is as wide. -/
def edge (c : Cand) (scope : Nat) (x y : Node) : Bool :=
  x.1 != y.1 && (c.fixed x.2 y.2 || c.toward scope x y || c.fenced x y || (x.2.external y.2 && c.comes x y))

/-- What is left once everything that nothing comes before is taken away, and again. -/
def peel (e : Node → Node → Bool) : Nat → List Node → List Node
  | 0, l => l
  | n + 1, l => peel e n (l.filter fun y => l.any fun x => e x y)

/-- Order (R240 part 3): no cycle. -/
def ordered (c : Cand) : Bool :=
  c.nodes.all fun a => [0, 1, 2, 3, 4].all fun scope =>
    let l := c.nodes.filter fun x => c.s.within scope a.2.who x.2.who
    peel (c.edge scope) l.length l == []

/-! ### Happens-before (R234–R236) -/

/-- The scopes of the release that a write is (R234). -/
def releases (c : Cand) (w : Node) : List Nat :=
  (if w.2.rel then [w.2.scope] else []) ++
  c.nodes.filterMap fun f => match f.2.fence with
    | some k =>
      if k != 1#2 && f.2.po w.2 && !c.nodes.any fun v => v.2.writes && f.2.po v.2 && v.2.po w.2 then some f.2.scope else none
    | none => none

/-- A read returns a write, or a write of its release sequence (R235). -/
def readsFrom (c : Cand) (q w : Node) : Bool :=
  let sees := if q.2.writes then q.1 else q.2.saw
  c.done q && c.done w && q.2.reads && w.2.writes && q.2.conflicts w.2 && decide (w.1 < sees) &&
  c.nodes.all fun v => !(v.2.writes && decide (w.1 < v.1) && decide (v.1 < sees) && v.2.meets w.2 && v.2.meets q.2) || v.2.atomic

/-- A release synchronises with an acquire (R235): with the read itself, or, where a fence makes it an acquire, with what follows the
fence. -/
def syncs (c : Cand) (w y : Node) : Bool :=
  w.2.writes && c.nodes.any fun q =>
    q.2.who != w.2.who && c.readsFrom q w &&
    let both := fun (b : Nat) => (c.releases w).any fun a => c.s.within a w.2.who q.2.who && c.s.within b q.2.who w.2.who
    (y.1 == q.1 && q.2.acq && both q.2.scope) ||
    (q.2.po y.2 && c.nodes.any fun f => match f.2.fence with
      | some k => k != 2#2 && q.2.po f.2 && f.2.po y.2 && both f.2.scope
      | none => false)

/-- The steps of happens-before. -/
def hbStep (c : Cand) (x y : Node) : Bool :=
  x.1 != y.1 && (x.2.po y.2 || x.2.posts y.2 || x.2.stages y.2 || c.climbs x y || c.carried x y c.t.marks || c.completes x y ||
    c.syncs x y)

/-- What can be reached by steps. -/
def grow (e : Node → Node → Bool) (ns : List Node) : Nat → List Node → List Node
  | 0, l => l
  | n + 1, l => grow e ns n (ns.filter fun y => l.contains y || l.any fun x => e x y)

/-- Y, which happens after X, stands before it at a common location, or among the fences of kind `.sc` (R236, R241). -/
def clashes (c : Cand) (x y : Node) : Bool :=
  c.comes y x || (!c.done x && c.done y && x.2.conflicts y.2) ||
  (c.done x && c.done y && x.2.reads && y.2.reads && x.2.meets y.2 && !x.2.swm && !y.2.swm &&
    c.nodes.any fun w => c.done w && c.comes y w && c.comes w x && w.2.meets x.2) ||
  c.fencePair y x

/-- Coherence (R231, R236; R240 part 1), and that the order of the fences agrees with happens-before (R241). -/
def coherent (c : Cand) : Bool :=
  c.nodes.all fun x => (grow c.hbStep c.nodes c.nodes.length [x]).all fun y => y.1 == x.1 || !c.clashes x y

/-- The conditions of R240 and R241. Atomicity is kept by performing an atomic operation as one event. -/
def allowed (c : Cand) : Bool := c.ordered && c.coherent

/-! ### Going on -/

/-- The accesses of an operation that are performed with one of them (R152). -/
def clump (left : List Ev) (x : Ev) : List Ev :=
  if x.writes then left.filter fun y => y == x || (y.id == x.id && y.writes && y.meets x) else [x]

/-- Perform accesses that read what memory holds. -/
def perform (t : Trace) (zs : List Ev) : Trace :=
  zs.foldl (fun u z => { u with evs := u.evs ++ [{ z with saw := u.evs.length }] }) t

/-- An access that nothing left comes before toward every agent, nor in its matrix queue. -/
def isNext (c : Cand) (rest : List Ev) (z : Ev) : Bool :=
  !rest.any fun o => c.fixed o z || (o.queue.isSome && o.queue == z.queue && decide (o.id < z.id))

/-- What is left can be performed one after another: no access waits for ever (R239). -/
def finishes (s : State) : Nat → Trace → List Ev → Bool
  | 0, _, left => left.isEmpty
  | n + 1, t, left =>
    left.isEmpty ||
    match left.find? fun x =>
        let zs := clump left x
        let rest := left.filter fun y => !zs.contains y
        zs.all (Cand.isNext ⟨s, t, left⟩ rest) && (Cand.allowed ⟨s, perform t zs, rest⟩) with
      | some x =>
        let zs := clump left x
        finishes s n (perform t zs) (left.filter fun y => !zs.contains y)
      | none => false

end Cand

namespace State

/-- The accesses and fences of the device that are not performed, without some. -/
def left (s : State) (zs : List Ev) : List Ev :=
  let all := s.blocks.flatMap fun kb => kb.2.groups.keys.flatMap fun g => s.outstanding kb.1 g 0 s.nextId fun _ => true
  (all.map fun y => y.ev y.op.after).filterMap fun e =>
    match zs.find? fun z => z.who == e.who && z.id == e.id && z.loc == e.loc with
    | some z => if z.n < e.n then some { e with loc := e.loc.at_ z.n, n := e.n - z.n } else none
    | none => if e.touches || e.fence.isSome then some e else none

/-- Accesses may be performed now: the candidate execution stays allowed, and can go on. -/
def admits (s : State) (zs : List Ev) : Bool :=
  match s.trace with
  | none => true
  | some t =>
    let left := s.left zs
    let t1 := { t with evs := t.evs ++ zs }
    Cand.allowed ⟨s, t1, left⟩ && Cand.finishes s left.length t1 left

/-- An access that is not performed is no obstacle to one that only scopes order after it: an agent lies outside every one of them, and
nothing at its location holds it. -/
def mayPass (s : State) (c : Cand) (x y : Ev) : Bool :=
  let n := c.t.evs.length
  x.fence.isSome || !c.toward 0 (n, x) (n + 1, y) || (!c.toward 4 (n, x) (n + 1, y) && (s.holdAt x.loc).isNone)

/-- Nothing that must come first keeps an access from being performed (R151, R152, R230). Without the candidate execution everything that
comes before it in its lane's order must be performed. -/
def mayGo (s : State) (y : Ordered) (after : Option (Nat × Nat)) : Bool :=
  match s.trace with
  | none =>
    let es := s.earlier y.op.blk y.op.grp y.acc.lane y.id
    (match y.op.kind with
      | .fence k => !fenceWaits es k
      | _ => !(y.reads || y.writes) || !holdsBack es y) &&
    s.afterDone y.op.blk y.op.grp after y.acc.loc (y.op.bytes y.acc)
  | some t =>
    let z := y.ev after
    let c : Cand := ⟨s, t, s.left [z]⟩
    (!z.touches && z.fence.isNone) ||
    c.left.all fun x => !c.fixed x z && s.mayPass c x z &&
      !(x.fence == some 0#2 && x.po z && !c.left.any fun o => c.fixed o x)

end State

/-- When an access may be performed: not yet, or now, at one of these places: how many of the accesses performed a read comes after. -/
inductive Turn where
  | wait
  | now (places : List Nat)
  deriving DecidableEq, Repr

namespace State

/-- A read may find an older value: a read of a lane of memory that the device keeps coherent. -/
def mayRecall (z : Ev) : Bool :=
  z.reads && !z.writes && !z.copy && !z.swm && (match z.loc with | .mem k => keyTier k != 3 | .ls _ _ => true)

/-- Where an access may stand among those performed. -/
def places (s : State) (z : Ev) : List Nat :=
  let n := s.traceLen
  (if mayRecall z then List.range (n + 1) else [n]).filter fun p => s.admits [{ z with saw := p }]

/-- When an access of a lane may be performed (R152, R230, R240); `after` is what comes first by the order of its issue. -/
def turn (s : State) (y : Ordered) (after : Option (Nat × Nat)) : Turn :=
  if !s.mayGo y after then .wait else
  match s.places (y.ev after) with
  | [] => .wait
  | p :: ps => .now (p :: ps)

/-- The place that an access takes, of those it may take: no rule chooses among them. -/
def pick (s : State) (t : Turn) : Nat :=
  match t with | .now ps => ps.getD (Config.choose s.fresh % ps.length) 0 | .wait => 0

/-- Bytes as they stood before the writes of a list, the latest first. -/
def undo (l : Loc) (bs : List Byte) : List Ev → List Byte
  | [] => bs
  | e :: es =>
    undo l (bs.mapIdx fun i b =>
      if !e.writes then b else
      match l.at_ i, e.loc with
      | .mem k, .mem j => if j ≤ k then e.old.getD (k - j) b else b
      | .ls p k, .ls q j => if p == q && decide (j ≤ k) then e.old.getD (k - j) b else b
      | _, _ => b) es

/-- n bytes of a location as a read at a place finds them. -/
def bytesAt (s : State) (p : Nat) (l : Loc) (n : Nat) : List Byte :=
  match s.trace with
  | none => s.locBytes l n
  | some t => undo l (s.locBytes l n) (t.evs.drop p).reverse

/-- An access has been performed: the writes noted since are its, and a read or a fence is noted at its place. A software-managed
acquire comes after everything performed so far. -/
def took (s : State) (since : Nat) (z : Ev) (p : Nat) : State :=
  { s with trace := s.trace.map fun t =>
      let mine := fun (i : Nat) (e : Ev) => if since ≤ i && e.who == .unit && z.meets e then
          { z with loc := e.loc, n := e.n, old := e.old, writes := true } else e
      let add := if (z.reads && !z.writes) || z.fence.isSome then [{ z with saw := p }] else []
      let marks := match z.who with
        | .lane b g i => if z.swm && z.acq then
            [{ noMark with all := t.evs.length, tos := [(b, g, laneBit i)], id := z.id + 1 }] else []
        | _ => []
      { t with evs := t.evs.mapIdx mine ++ add, marks := t.marks ++ marks } }

/-- A lane of the mask, with the lanes its frame comes from (R204). -/
def withFroms (s : State) (l : List (Nat × Nat × DWord)) : List (Nat × Nat × DWord) :=
  l ++ l.flatMap fun r => (lanesOf r.2.2).flatMap fun i => (s.lane r.1 r.2.1 i).froms.map fun f => (f.blk, f.grp, laneBit f.lane)

/-- An access that is left comes before one that is performed, or a barrier has let lanes go on before an access that came first:
the candidate execution must be kept. -/
def mustKeep (s : State) : Bool :=
  match s.trace with
  | none => false
  | some t =>
    let c : Cand := ⟨s, t, s.left []⟩
    c.nodes.any fun x => !c.done x &&
      (c.nodes.any (fun y => c.done y && (c.fixed x.2 y.2 || c.toward 0 x y)) ||
        t.marks.any fun m => lanesHave m.froms x.2.who && decide (x.2.id < m.upto))

/-- A candidate execution that begins: nothing performed, and the batches as they are sealed now. -/
def newTrace (s : State) : Trace :=
  { evs := [], marks := [], taint := [], deps := []
    seals := (s.copies.filter fun c => c.2.batch != 0#32).map fun c =>
      (Agent.lane c.2.blk c.2.grp c.2.lane, (c.2.wraps, c.2.batch.toNat), c.1, c.1 + 1) }

/-- The candidate execution begins to be kept, is kept on, or is forgotten where nothing needs it: no rule chooses. -/
def keepTrace (s : State) : State :=
  { s with
    fresh := s.fresh + 1
    trace :=
      if s.mustKeep then s.trace
      else if Config.mayChoose s.fresh then some (s.trace.getD s.newTrace)
      else none }

end State

end Sys2Proof.Machine
end

