-- ==== Sys2Proof/Machine/MemEvents.lean ====
section
/-!
DEFINITION. MEMORY_OP_COMPLETE: the accesses of an outstanding memory operation are performed, its data is delivered and
its flag is released (R142, R151, R153–R165, R201, R218, R244, R253, R258, R259).
-/
namespace Sys2Proof.Machine

namespace State

/-! ### Bytes of software-managed pages -/

/-- The cache that serves a core's software-managed accesses: its L1, or the slice when it has no L1 bank (R215). -/
def swmCache (s : State) (core : Nat) : Nat := if s.l1Banks core = 0 then 2048 + dieOf core else core

/-- Bytes a core reads of a software-managed page, once filled. -/
def swmBytes (s : State) (core key n : Nat) : List Byte :=
  match s.copyOf (s.swmCache core) (sectorOf key) with
  | some c => (c.bytes.drop (key % 64)).take n
  | none => s.memBytes key n

/-- Bytes a core writes of a software-managed page, once filled (R218, R258); what watches the sector at the slice is triggered where
the slice's copy changes (R143). -/
def swmWrite (s : State) (core key : Nat) (bs : List Byte) : State :=
  match s.copyOf (s.swmCache core) (sectorOf key) with
  | some c =>
    let put := fun (l : List Byte) (i : Nat) (b : Byte) => l.set (key % 64 + i) b
    let t := s.putCopy { c with
      bytes := (bs.mapIdx fun i b => (i, b)).foldl (fun l ib => put l ib.1 ib.2) c.bytes
      dirty := (List.range bs.length).foldl (fun d i => d ||| (1#64 <<< (key % 64 + i))) c.dirty }
    if s.l1Banks core = 0 then t.reach (2 * sectorOf key) else t
  | none => s.setMemBytes key bs

/-! ### One access -/

/-- The store accesses of an operation cover a sector (R248). -/
def coversSector (o : Op) (sector : Nat) : Bool :=
  (List.range 64).all fun i => o.accs.any fun a => !a.done && match a.loc with
    | .mem k => decide (k ≤ 64 * sector + i) && decide (64 * sector + i < k + 2 ^ o.wid)
    | _ => false

/-- What an access's request carries for replacement (R149, R221). -/
def wantOf (s : State) (o : Op) : Want := { cls := o.nud, clock := o.clock, owner := (s.block o.blk).owner }

/-- What an access of memory needs of the slice of its die, and of its home (R160, R244, R258); false while it waits. An operation at
the home has reached it, and sets its domain's bit, unless no route leads there (R288). -/
def prepareMem (s : State) (o : Op) (a : Acc) (key : Nat) : State × Bool :=
  let sector := sectorOf key
  let die := dieOf o.core
  if atHome o a then
    let t := if s.holdAt a.loc == some 23 then s else s.touchDomains o.asid (s.homeDomains key)
    if (s.holdAt a.loc).isSome then (t, false)
    else if s.someHolds sector (· != 0) || s.needsOutward sector then (t.askHome sector o.core o.asid, false)
    else if !s.spanReady key true then (t, false)
    else (t.spanFor key true, true)
  else if a.swm then s.fillSwm o.core o.asid a.va.toNat sector (s.wantOf o)
  else if o.kind.writes then
    (match s.sectState die sector with
      | 2 => (s.setSect die sector 4, true)
      | 4 => (s.leaveRetention die (sector / 4), true)
      | _ => (s.askOwn die sector o.core o.asid
          (coversSector o sector && (match o.kind with | .store => true | .ldone => true | _ => false)) (s.wantOf o), false))
  else if s.sectState die sector == 0 then (s.askRead die sector o.core o.asid (s.wantOf o), false)
  else (if s.sectState die sector < 3 then s else s.leaveRetention die (sector / 4), true)

/-- What an access needs before it is performed; false while it waits. -/
def prepare (s : State) (o : Op) (a : Acc) : State × Bool :=
  match a.loc with
  | .ls b _ => if s.windowReady b then (s.touchDomains o.asid (s.accessDomains o.core a.loc), true) else (s, false)
  | .mem key => s.prepareMem o a key

/-- The bytes of an access as memory, or the cache that serves it, holds them. -/
def accBytesNow (s : State) (o : Op) (a : Acc) : List Byte :=
  match a.loc with
  | .mem key => if a.swm && !atHome o a then s.swmBytes o.core key (2 ^ o.wid) else s.memBytes key (2 ^ o.wid)
  | l => s.locBytes l (2 ^ o.wid)

/-- The bytes of a read at its place among the accesses performed (R229). -/
def accBytes (s : State) (p : Nat) (o : Op) (a : Acc) : List Byte :=
  if a.swm && !atHome o a then s.accBytesNow o a else s.bytesAt p a.loc (2 ^ o.wid)

/-- Write the bytes of an access; a coherent one stays in the slice, and the home keeps what it holds (R244). -/
def accWrite (s : State) (o : Op) (a : Acc) (bs : List Byte) : State :=
  match a.loc with
  | .mem key =>
    if atHome o a then s.setMemBytes key bs
    else if a.swm then s.swmWrite o.core key bs
    else (s.keepHome key bs.length).setMemBytes key bs
  | l => s.setLoc l bs

/-- The requests an access makes of the caches (R216, R218, R221): a load is served by the L1 that holds the sector, else it
brings the sector into the slice and the L1; a software-managed store stays in the L1; a coherent store and an atomic go
through to the slice; an operation at the home reaches the home's MSC alone. An access whose translation has been removed leaves
nothing in the L1 (R321). -/
def touchCaches (s : State) (o : Op) (a : Acc) : State :=
  match a.loc with
  | .ls _ _ => s
  | .mem key =>
    let die := dieOf o.core
    let owner := (s.block o.blk).owner
    if atHome o a then
      (if keyTier key = 0 then
        (s.homeReads (key / 256) o.asid { s.wantOf o with cls := 0 }).homeWritten (sectorOf key) else s)
    else
      let fills := !a.stale && (!o.kind.writes || (a.swm && (match o.kind with | .store => true | .ldone => true | _ => false)))
      let hit := (s.l1Line o.core o.asid a.va.toNat).isSome
      let s1 := if fills && hit then s else s.touchL2 die o.core o.asid key o.nud o.clock owner fills
      let s2 := s1.touchL1 o.core o.asid a.va.toNat key o.nud o.clock owner fills (a.fresh && !a.stale) a.leaf
      if a.stale && a.swm then s2.evictL1Copy o.core (sectorOf key) else s2

/-- A loaded value as its registers hold it (R146). -/
def deliver (s : State) (o : Op) (a : Acc) (bs : List Byte) (sx : Bool) : State :=
  let v := ofBytes bs
  let word : Word := if sx then (BitVec.ofNat (8 * bs.length) v).signExtend 32 else BitVec.ofNat 32 v
  s.onLanes o.blk o.grp (laneBit a.lane) fun _ l =>
    if l.kind != .ordinary then l
    else if o.wid ≤ 2 then l.setV o.dest word
    else (List.range (widRegs o.wid)).foldl (fun k i => k.setV (o.dest + i) (BitVec.ofNat 32 (v / 2 ^ (32 * i)))) l

/-- Every cache drops a sector, and its bytes are unspecified until written again (R156, R163). -/
def discard (s : State) (sector : Nat) : State :=
  let t := (s.dropEverywhere sector).discardCopies sector
  ((List.range 16).foldl (fun (u : State) d => (u.dropL1Sector d sector).freeL2Way d (sector / 4))
    { t with mesh := { t.mesh with stale := t.mesh.stale.erase sector } }).killSector sector

/-- CWB of one sector of a software-managed page: dirty bytes go home and the sector stays, clean (R163, R218). -/
def cwbSector (s : State) (core sector : Nat) : State :=
  let clean := fun (t : State) (k : Nat) => match t.copyOf k sector with
    | some c => t.putCopy { c with dirty := 0#64 }
    | none => t
  let s1 := match s.copyOf core sector with
    | some c => clean (s.toSlice (dieOf core) c) core
    | none => s
  match s1.copyOf (2048 + dieOf core) sector with
  | some c => clean (s1.writeHome c) (2048 + dieOf core)
  | none => s1

/-- A cache's clean copy of a sector. -/
def cleanAt (s : State) (cache sector : Nat) : Bool := (s.copyOf cache sector).any fun c => c.dirty == 0#64

/-- CINV of one sector of a software-managed page: clean copies of the core's L1 and the die's L2 go (R163). -/
def cinvSector (s : State) (core sector : Nat) : State :=
  let l2 := 2048 + dieOf core
  let s1 := if s.cleanAt core sector then (s.dropCopy core sector).dropL1At core sector else s
  if s1.cleanAt l2 sector then ((s1.dropCopy l2 sector).freeL2Way (dieOf core) (sector / 4)).reach (2 * sector) else s1

/-- The sectors of a range operation's access, but for those that a test leaves out. -/
def rangeSectors (a : Acc) (skip : Nat → Bool) : List Nat :=
  match a.loc with
  | .mem key => ((List.range ((key % 64 + a.val.toNat + 63) / 64)).map fun i => key / 64 + i).filter fun k => !skip k
  | _ => []

/-- The sectors that CWB and CINV act on: those of software-managed pages that are not poisoned (R150, R163). -/
def managedSectors (s : State) (a : Acc) : List Nat :=
  if a.swm then rangeSectors a fun k => s.isPoisoned (64 * k) else []

/-- A location's bytes under an atomic operation: the old value is delivered, the new one written (R158–R160). -/
def performAtom (s : State) (o : Op) (a : Acc) (op : Nat) (sgn back : Bool) : State :=
  let n := 2 ^ o.wid
  let old := s.accBytesNow o a
  let new := combine op (8 * n) sgn (ofBytes old) (a.val.toNat % 2 ^ (8 * n)) (a.val2.toNat % 2 ^ (8 * n))
  let s1 := (s.accWrite o a (toBytes n new)).touchCaches o a
  if back then s1.deliver o a old false else s1

/-- Perform an access that is ready, at a place among those performed. -/
def performReady (s : State) (p : Nat) (o : Op) (a : Acc) : State :=
  match o.kind with
  | .load sx => (s.touchCaches o a).deliver o a (s.accBytes p o a) sx
  | .store => (s.accWrite o a (toBytes (2 ^ o.wid) a.val.toNat)).touchCaches o a
  | .ldone => (s.accWrite o a (toBytes 4 a.val.toNat)).touchCaches o a
  | .atom op sgn => s.performAtom o a op sgn true
  | .red op sgn => s.performAtom o a op sgn false
  | _ => s

/-- A prefetch of one sector (R162). -/
def prefetch (s : State) (o : Op) (a : Acc) (l2 : Bool) : State × Bool :=
  match a.loc with
  | .ls _ _ => (s, true)
  | .mem key =>
    if l2 then
      let r := s.sliceHas o.core o.asid (sectorOf key) a.swm (s.wantOf o)
      if r.2 then (r.1.touchL2 (dieOf o.core) o.core o.asid key o.nud o.clock (s.block o.blk).owner false, true) else r
    else
      let r := s.prepareMem o a key
      if r.2 then (r.1.touchCaches o a, true) else r

/-- A hold of an access that could not be performed counts once (R214, R298, R356); a coherent request to a memory die is
counted where it is held. -/
def countDirect (s : State) (o : Op) (a : Acc) : State × List Nat :=
  match a.loc with
  | .mem k => if keyTier k != 0 || a.swm || atHome o a then s.countHold o.core a.loc a.counted else (s, a.counted)
  | .ls _ _ => s.countHold o.core a.loc a.counted

def noteHold (s : State) (id : Nat) (o : Op) (a : Acc) : State :=
  let r := s.countDirect o a
  { r.1 with ops := r.1.ops.modify id fun p =>
      { p with accs := p.accs.map fun b => if b == a then { b with counted := r.2 } else b } }

/-- Whether an access meets poison as it is performed (R150, R291). -/
def meetsPoison (s : State) (o : Op) (a : Acc) : Bool :=
  match a.loc with
  | .mem k => (o.kind.reads || o.kind.writes) && s.rangePoisoned k (o.bytes a)
  | .ls _ _ => false

/-- The lowest access of an operation that meets poison. Poison is judged over every lane as the first access is performed: from then on
the operation has passed its checks, and poison that comes later finds it done (R150, log entry 53). -/
def firstPoisoned (s : State) (id : Nat) (o : Op) : Option Acc :=
  match s.ops.get? id with
  | some q => if q.accs.any Acc.done then none else q.accs.find? (s.meetsPoison o)
  | none => none

/-- An operation that fails after its issue stops its group: the rest of it is not performed, nor its drop (R150, R290, R291; log
entry 53). -/
def failOp (s : State) (id : Nat) (o : Op) (code : Nat) (a : Acc) : State :=
  let t := s.stopAt o.blk o.grp code (maskOf fun i => o.accs.any fun b => b.lane == i) a.va o.pc
  ({ t with ops := t.ops.filter fun k => k.1 != id && !(o.last && k.1 == id + 1 && k.2.kind == .drop) } : State).releaseFlag
    o.blk o.grp o.flag

/-- Bring the instruction lines of an access, as far as they come: what is left of its range is what waits, so that a line that is not
pinned for want of room counts once (R164). -/
def bringAcc (s : State) (id : Nat) (o : Op) (a : Acc) (pin : Bool) : State × Bool :=
  let r := s.bringLines o.core o.asid pin (linesOf a.va a.val.toNat)
  match r.2 with
  | [] => (r.1, true)
  | va :: _ =>
    let left := { a with va := va, val := BitVec.ofNat 128 ((a.va.toNat + a.val.toNat) - va.toNat) }
    (if va.toNat ≤ a.va.toNat then r.1 else
      { r.1 with ops := r.1.ops.modify id fun p => { p with accs := p.accs.map fun b => if b == a then left else b } }, false)

/-- Perform an access of an operation if it can be (R151), at a place among those performed; whether it was. -/
def performAcc (s : State) (p : Nat) (id : Nat) (o : Op) (a : Acc) : State × Bool :=
  match o.kind with
  | .fence _ => (s, true)
  | .cwb => ((s.managedSectors a).foldl (fun t i => t.cwbSector o.core i) s, true)
  | .cinv => ((s.managedSectors a).foldl (fun t i => t.cinvSector o.core i) s, true)
  | .cdisc => ((rangeSectors a fun _ => false).foldl (fun t i => t.discard i) s, true)
  | .drop => ((rangeSectors a fun _ => false).foldl (fun t i => t.discard i) s, true)
  | .ifill pin => s.bringAcc id o a pin
  | .unpin => ((linesOf a.va a.val.toNat).foldl (fun t va => t.unpinLine o.core o.asid va) s, true)
  | .pref l2 => s.prefetch o a l2
  | _ =>
    let r := s.prepare o a
    if !r.2 then (r.1.noteHold id o a, false)
    else match r.1.firstPoisoned id o with
      | some b => (r.1.failOp id o cPoison b, false)
      | none => (r.1.performReady p o a, true)

/-- Perform an access in its turn, and note it (R240). -/
def performTurn (s : State) (id : Nat) (o : Op) (a : Acc) : State × Bool :=
  let turn := if o.kind.reads && !o.kind.writes then s.turn (o.ordered id a) o.after else .now [s.traceLen]
  if turn == .wait then (s, false) else
  let r := s.performAcc (s.pick turn) id o a
  if r.2 then (r.1.took s.traceLen ((o.ordered id a).ev o.after) (s.pick turn), true) else r

/-! ### The operation -/

/-- The accesses an event performs: those of its lanes, and for a writing operation those that meet them (R152). -/
def chosenAccs (o : Op) (lanes : DWord) : List Acc :=
  let sel := o.accs.filter fun a => !a.done && lanes.getLsbD a.lane
  if o.kind.writes then o.accs.filter fun a => !a.done && (sel.any fun b => b == a || accMeets o a o b) else sel

/-- An access may be performed, with every access of its operation that meets it (R152, R230). -/
def accAllowed (s : State) (id : Nat) (o : Op) (a : Acc) : Bool :=
  if o.kind.reads && !o.kind.writes then s.turn (o.ordered id a) o.after != .wait
  else o.accs.all fun b => b.done || !(b == a || (o.kind.writes && accMeets o a o b)) || s.mayGo (o.ordered id b) o.after

/-- The accesses of some that may be performed now, of reads one at a time, of others together (R152, R240). -/
def accsDue (s : State) (id : Nat) (o : Op) (as : List Acc) : List Acc :=
  let go := as.filter (s.accAllowed id o)
  if (o.kind.reads && !o.kind.writes) || s.admits (go.map fun a => (o.ordered id a).ev o.after) then go else []

/-- Mark an access performed. -/
def markDone (s : State) (id : Nat) (a : Acc) : State :=
  { s with ops := s.ops.modify id fun o => { o with accs := o.accs.map fun b => if b == a then { b with done := true } else b } }

/-- Perform accesses in ascending lane order, as long as the operation stands. -/
def performList (s : State) (id : Nat) (o : Op) : List Acc → State
  | [] => s
  | a :: rest =>
    if (s.ops.get? id).isNone then s else
    let r := s.performTurn id o a
    (if r.2 then r.1.markDone id a else r.1).performList id o rest

/-- Ownership obtained outward serves every access of an operation that is performed at the home together, then it is used
(R152, R303). -/
def spendOutward (s : State) (id : Nat) (o : Op) (as : List Acc) : State :=
  s.useOutward ((as.filter fun a => atHome o a && !((s.ops.get? id).any fun p => p.accs.contains a)).filterMap fun a =>
    match a.loc with | .mem k => some (sectorOf k) | .ls _ _ => none)

/-! ### Poison from outside (R150, R304) -/

/-- An access of host or pool memory, whose data may come poisoned, that has not been answered yet. -/
def unseen (o : Op) (a : Acc) : Bool :=
  !a.done && !a.clean && o.kind.atBytes &&
  match a.loc with | .mem k => keyTier k == 1 || keyTier k == 2 | .ls _ _ => false

/-- Mark an access answered without poison. -/
def markClean (s : State) (id : Nat) (a : Acc) : State :=
  { s with ops := s.ops.modify id fun o => { o with accs := o.accs.map fun b => if b == a then { b with clean := true } else b } }

/-- Nothing of an operation is performed before the host and the pool have answered for all of it: one that comes poisoned leaves
every lane without effect, and the trap is that of the lowest such lane, once every lower one has been answered (R150). -/
def seeOutward (s : State) (id : Nat) (o : Op) : List Acc → State
  | [] => s
  | a :: rest =>
    if (s.ops.get? id).isNone then s
    else if !unseen o a then s.seeOutward id o rest
    else
      let r := s.prepare o a
      let lower := (r.1.ops.get? id).any fun p => p.accs.any fun b => decide (b.lane < a.lane) && unseen o b
      if !r.2 then r.1.seeOutward id o rest
      else if r.1.meetsPoison o a then if lower then r.1.seeOutward id o rest else r.1.failOp id o cPoison a
      else (r.1.markClean id a).seeOutward id o rest

/-- Items whose LDONE stores are all performed now (R192, R201). -/
def countDone (s : State) (before : Op) (id : Nat) : State :=
  match before.kind, s.ops.get? id with
  | .ldone, some o =>
    let left := fun (p : Op) (i : Nat) => p.accs.any fun a => a.lane == i && !a.done
    let n := ((List.range 64).filter fun i => left before i && !left o i).length
    s.onLaunch (s.block o.blk).launch fun l => { l with doneCount := l.doneCount + n }
  | _, _ => s

/-- An operation whose every access is performed completes and releases its flag (R49, R151). -/
def closeOp (s : State) (id : Nat) : State :=
  match s.ops.get? id with
  | some o =>
    if o.accs.all Acc.done then ({ s with ops := s.ops.erase id } : State).releaseFlag o.blk o.grp o.flag else s
  | none => s

/-- Accesses of an operation in some lanes are performed (R151), those that may be. -/
def completeOp (s : State) (op : Nat) (lanes : DWord) : State :=
  let s1 := match s.ops.get? op with | some o => s.seeOutward op o o.accs | none => s
  match s1.ops.get? op with
  | none => s1
  | some o =>
    if o.accs.any (unseen o) then s1 else
    let go := s1.bumpFresh.accsDue op o (chosenAccs o lanes)
    (((s1.bumpFresh.performList op o go).spendOutward op o go).countDone o op).closeOp op

/-! ### Reads at issue (R152, R230, R240) -/

/-- A read of a lane of the group at issue, made as it issues. -/
def issueRead (s : State) (lane : Nat) (loc : Loc) (n : Nat) (leaf : LeafBits) : Ordered :=
  let y := plainOrdered s.cur.firstId s.cur.blk s.cur.grp lane s.cb.core s.cb.asid loc n true false
  { y with acc := { y.acc with leaf := leaf } }

/-- When that read may be performed. -/
def issueTurn (s : State) (lane : Nat) (loc : Loc) (n : Nat) (leaf : LeafBits) : Turn :=
  s.turn (s.issueRead lane loc n leaf) s.partner

/-- It meets what path A of the same issue has not performed yet: path B's instruction has its effect once that is done (R152). -/
def issueBehind (s : State) (loc : Loc) (n : Nat) : Bool :=
  s.cur.pathB &&
  (s.outstanding s.cur.blk s.cur.grp s.cur.firstId s.cur.lastId fun _ => true).any fun x =>
    (x.reads || x.writes) && x.acc.loc.meets (x.op.bytes x.acc) loc n

/-- It is performed in its turn. -/
def issueTook (s : State) (lane : Nat) (loc : Loc) (n : Nat) (leaf : LeafBits) : State :=
  s.took s.traceLen ((s.issueRead lane loc n leaf).ev s.partner) (s.pick (s.issueTurn lane loc n leaf))

end State

def execMemoryOpComplete (op : Nat) (lanes : DWord) (s : State) : Host.Outcome State Fault Refusal := .next (s.completeOp op lanes)

end Sys2Proof.Machine
end

