-- ==== Sys2Proof/Machine/Waiting.lean ====
section
/-!
DEFINITION. Waiting: WAITC and its rechecks (R141–R143), barrier phases (R138, R139), and the end of a sleep (R144).
-/
namespace Sys2Proof.Machine

/-! ### WAITC -/

/-- A WAITC's condition on a value it read (R142). -/
def Watch.met (w : Watch) (v : DWord) : Bool :=
  compareInt w.cc (toInteger (8 * w.width) w.signed v) (toInteger (8 * w.width) w.signed w.cmp)

/-- The lane's WAITC completes with a value (R142). -/
def Lane.completeWait (l : Lane) (w : Watch) (v : DWord) : Lane :=
  { (l.put w.dest (if w.width = 8 then 64 else 32) v) with wait := .running, pc := l.pc + 8#64 }

namespace State

/-- The place whose monitors watch a location: the core that holds local store, or a slice of a die (R143). -/
def monitorPlace (s : State) (core : Nat) : Loc → Nat
  | .ls b _ => (s.block b).core
  | .mem key => l2Key (dieOf core) (sliceOf (key / 256))

/-- The lanes of the device that a test picks, with where they are. -/
def lanesWhere (s : State) (p : Block → Group → Lane → Bool) : List (Nat × Nat × Nat) :=
  s.blocks.flatMap fun kb => kb.2.groups.flatMap fun kg =>
    ((List.range 64).filter fun i => p kb.2 kg.2 (kg.2.lane i)).map fun i => (kb.1, kg.1, i)

/-- A watcher that still watches (R143): a lane that waits in a resident block, a queue of a live context, or a launch whose
dependence is not met. -/
def watches (s : State) : Watcher → Bool
  | .lane b g i =>
    (s.block b).resident && !(s.group b g).stopped && (s.group b g).parked == [] &&
    (match (s.lane b g i).wait with | .waitc _ => true | _ => false)
  | .queue asid n => (s.ctxs.get? asid).any fun c => c.tearing.isNone && decide (n < c.queues.length)
  | .dep launch va => (s.launch launch).st == .waiting && (s.launch launch).deps.any fun d => d.1 == va

/-- The monitor of a watcher. -/
def monitorOf (s : State) (w : Watcher) : Option Monitor := s.monitors.find? fun m => m.owner == w

/-- A watcher gives its monitor up. -/
def dropMonitor (s : State) (w : Watcher) : State := { s with monitors := s.monitors.filter fun m => m.owner != w }

/-- The monitors a place has (R143). -/
def monitorsAt (loc : Loc) : Nat := match loc with | .ls _ _ => 64 | .mem _ => 32

/-- A watcher gets a monitor on a location's sector, if its place has one free; one it holds there counts from now on (R143). -/
def grantMonitor (s : State) (core : Nat) (loc : Loc) (w : Watcher) : State :=
  let place := s.monitorPlace core loc
  let others := (s.monitors.filter fun m => s.watches m.owner).filter fun m => m.owner != w
  if (others.filter fun m => m.place == place).length < monitorsAt loc then
    { s with monitors := { place := place, sector := loc.sector, owner := w, trig := false } :: others }
  else { s with monitors := others }

/-- A software-managed sector is read afresh at the slice: bytes that are clean there come from the home again (R143). -/
def refreshL2 (s : State) (die sector : Nat) : State :=
  match s.copyOf (2048 + die) sector with
  | none => s
  | some c =>
    if c.dirty == 0#64 then s.dropCopy (2048 + die) sector
    else s.putCopy { c with bytes := overlay c.dirty c.bytes (s.homeBytes sector) }

/-- Read a word at the local store or the L2 slice, never at an L1 (R142); none until the bytes are there. -/
def readAtSlice (s : State) (core asid : Nat) (loc : Loc) (swm afresh : Bool) (n : Nat) : State × Option DWord :=
  match loc with
  | .ls b _ =>
    if s.windowReady b then
      (s.touchDomains asid (s.accessDomains core loc), some (BitVec.ofNat 64 (ofBytes (s.locBytes loc n))))
    else (s, none)
  | .mem key =>
    let sector := sectorOf key
    let s0 := if swm && afresh then s.refreshL2 (dieOf core) sector else s
    let r := s0.sliceHas core asid sector swm { cls := 0, clock := 0#32, owner := 0 }
    if !r.2 then (r.1, none) else
    (r.1, some (BitVec.ofNat 64 (ofBytes
      (match r.1.copyOf (2048 + dieOf core) sector with
        | some c => if swm then (c.bytes.drop (key % 64)).take n else r.1.memBytes key n
        | none => r.1.memBytes key n))))

/-- The slice's copy of a software-managed sector is older than its home: what has reached the home since is still to be read (R143). -/
def behindHome (s : State) (die : Nat) (loc : Loc) (swm : Bool) : Bool :=
  swm && match loc with
  | .mem key => (s.copyOf (2048 + die) (sectorOf key)).any fun c => overlay c.dirty c.bytes (s.homeBytes (sectorOf key)) != c.bytes
  | .ls _ _ => false

/-- A WAITC's read in its lane's program order, an acquire with ACQ (R142), and when it may be performed (R152, R230). -/
def waitRead (s : State) (b g i : Nat) (w : Watch) (loc : Loc) (swm : Bool) : Ordered :=
  let y := plainOrdered w.id b g i (s.block b).core (s.block b).asid loc w.width true false
  { y with
    acq := w.acq
    op := { y.op with scope := if w.sys then 4 else 3, after := w.after }
    acc := { y.acc with leaf := if swm then 4#7 else 0#7 } }

def waitTurn (s : State) (b g i : Nat) (w : Watch) (loc : Loc) (swm : Bool) : Turn := s.turn (s.waitRead b g i w loc swm) w.after

/-- A lane waits on. -/
def waitOn (s : State) (b g i : Nat) (w : Watch) : State := s.onLanes b g (laneBit i) fun _ l => { l with wait := .waitc w }

/-- What a WAITC's read finds at a place among the accesses performed; v is what the slice holds. -/
def waitValue (s : State) (w : Watch) (loc : Loc) (swm : Bool) (v : DWord) (p : Nat) : DWord :=
  if swm then v else BitVec.ofNat 64 (ofBytes (s.bytesAt p loc w.width))

/-- The place that a WAITC's read takes: one that the free choice names, or, where its value does not satisfy the condition, the latest,
so that a lane completes once the word satisfies it for good (R143). -/
def waitPlace (s : State) (w : Watch) (loc : Loc) (swm : Bool) (v : DWord) (ps : List Nat) : Nat :=
  let p := s.pick (.now ps)
  if w.met (s.waitValue w loc swm v p) then p else ps.getLastD p

/-- A lane's read of its word, at issue or at a recheck (R142, R143): it completes, or goes on waiting, under a monitor if one
is free. A failed recheck counts. -/
def tryWait (s : State) (b g i : Nat) (w0 : Watch) (loc : Loc) (swm : Bool) : State :=
  let blk := s.block b
  let own := Watcher.lane b g i
  let w := { w0 with loc := loc }
  match s.waitTurn b g i w loc swm with
  | .wait => s.waitOn b g i w
  | .now ps =>
    let r := s.readAtSlice blk.core blk.asid loc swm (w.readAt.isSome && !w.asked) w.width
    match r.2 with
    | some v =>
      let p := r.1.waitPlace w loc swm v ps
      if w.met (r.1.waitValue w loc swm v p) then
        ((r.1.took s.traceLen ((s.waitRead b g i w loc swm).ev w.after) p).dropMonitor own).onLanes b g (laneBit i) fun _ l =>
          l.completeWait w (r.1.waitValue w loc swm v p)
      else
        let s1 := (r.1.grantMonitor blk.core loc own).waitOn b g i
          { w with readAt := some (r.1.clock blk.core), asked := false, again := r.1.behindHome (dieOf blk.core) loc swm }
        if w.readAt.isSome then s1.count (dieOf blk.core) 10 else s1
    | none =>
      let h := r.1.countHold blk.core loc w.counted
      h.1.waitOn b g i { w with asked := true, counted := h.2 }

end State

/-- The watch of a WAITC in a lane (R141). -/
def watchOf (f : FmtA) (g : Group) (l : Lane) (va : DWord) (id : Nat) (after : Option (Nat × Nat)) : Watch :=
  let w := tyWidth f.ty
  { va := va, loc := .mem 0, width := w / 8, signed := tySigned f.ty, cc := f.rm, cmp := rdB f g l w, acq := f.ftz, sys := f.sat
    dest := f.d.toNat, readAt := none, asked := false, again := false, id := id, after := after, counted := [] }

/-- Where a touch leads. -/
def Touch.place (t : Touch) : Loc × Bool :=
  match t.tr with
  | .ok loc leaf _ => (loc, leaf.getLsbD 60)
  | _ => (.mem 0, false)

def execWaitc (f : FmtA) (s : State) : Host.Outcome State Fault Refusal :=
  run (.waitc f) s fun m =>
    let n := tyWidth f.ty / 8
    let lanes := lanesOf m
    let addr := fun i => (s.cg.lane i).vpair f.a.toNat
    match lanes.find? fun i => (addr i).toNat % n ≠ 0 with
    | some i => .trap m cMisaligned (addr i)
    | none =>
      serveTouches s m 0 (lanes.map fun i => s.touch needR i (addr i) n) fun t ts =>
        .ok (ts.foldl (fun (a : State) u =>
          (a.dropMonitor (.lane s.cur.blk s.cur.grp u.lane)).tryWait s.cur.blk s.cur.grp u.lane
            (watchOf f s.cg (s.cg.lane u.lane) u.va t.nextId s.partner) u.place.1 u.place.2) t.bumpId) m

/-- A waiting lane reads its word again (R142, R143): it obeys translation and protection as a load does. A read that is on its way is
held where its route is lost (R298). A core in DEBUG_HOLD does nothing (R293). -/
def State.recheck (s : State) (b g i : Nat) : State :=
  let blk := s.block b
  let grp := s.group b g
  let l := grp.lane i
  match l.wait with
  | .waitc w =>
    if !blk.resident || grp.stopped || grp.ended || grp.parked != [] || grp.pendTrap.isSome || s.held (dieOf blk.core) then s
    else
    let q := s.pullTouch { lane := i, va := w.va, n := w.width, tr := s.resolve blk.core blk.asid blk.launch needR w.va w.width }
    match q.1.asSwm q.2.tr with
    | .ok loc leaf _ =>
      let t := match loc with
        | .mem _ => ((q.1.spendWalk blk.asid w.va).noteSwm q.2.tr).touchDomains blk.asid (q.1.accessDomains blk.core loc)
        | .ls _ _ => q.1
      t.tryWait b g i w loc (leaf.getLsbD 60)
    | .protection => s.takeTrap b g (laneBit i) cProtection w.va l.pc
    | .kernelReserved => s.takeTrap b g (laneBit i) cKernel w.va l.pc
    | .lost =>
      if w.asked && s.holdAt w.loc == some 23 then
        let h := s.countHold blk.core w.loc w.counted
        h.1.waitOn b g i { w with counted := h.2 }
      else s.takeTrap b g (laneBit i) cLost w.va l.pc
    | .poison => q.1.takeTrap b g (laneBit i) cPoison w.va l.pc
    | .missing =>
      (s.onLanes b g (laneBit i) fun _ k => { k with wait := .running }).parkGroup b g (laneBit i) l.pc
        [(w.va, laneBit i, 0)]
    | .noFrame _ => s
    | .wait as => s.askFor as
  | _ => s

/-- Something has reached a watched sector: the lanes that watch it read their words again (R143). -/
def execWaitcTrigger (sector : Nat) (s : State) : Host.Outcome State Fault Refusal :=
  let due := s.monitors.filter fun m => m.sector == sector && m.trig && s.watches m.owner
  .next (due.foldl (fun (t : State) m => match m.owner with
    | .lane b g i => if s.held (dieOf (s.block b).core) then t else t.recheck b g i
    | _ => t) s)

/-- A lane reads its word again without a trigger: its first read has not been possible yet, it has been restored, or it has no monitor
and 256 cycles of its core have passed (R143). -/
def execWaitcPoll (blk grp lane : Nat) (s : State) : Host.Outcome State Fault Refusal :=
  match (s.lane blk grp lane).wait with
  | .waitc w =>
    let due := match w.readAt with
      | none => true
      | some c => w.asked || w.again || ((s.monitorOf (.lane blk grp lane)).isNone &&
          decide (256 ≤ (s.clock (s.block blk).core - c).toNat))
    if due then .next (s.recheck blk grp lane) else .next s
  | _ => .next s

/-! ### Barriers -/

/-- The lanes of a block that wait at a barrier, with their groups. -/
def Block.waiters (b : Block) (w : Wait) : List (Nat × Nat) :=
  (b.groups.filter fun kg => !kg.2.stopped).flatMap fun kg =>
    ((List.range 64).filter fun i => (kg.2.lane i).kind == .ordinary && (kg.2.lane i).wait == w).map fun i => (kg.1, i)

/-- Every lane of a block that waits at a barrier goes on (R138). -/
def Block.release (b : Block) (w : Wait) : Block :=
  { b with
    groups := b.groups.map fun kg =>
      (kg.1, { kg.2 with lanes := kg.2.lanes.map fun l => if l.wait == w then { l with wait := .running } else l }) }

/-- The accesses of the lanes that arrived are performed (R139). -/
def State.arrivedQuiet (s : State) (blk : Nat) (w : Wait) : Bool :=
  ((s.block blk).waiters w).all fun k => s.laneQuiet blk k.1 k.2

/-- The number of a cohort. -/
def cohortKey (launch cohort : Nat) : Nat := launch * 65536 + cohort

/-- The blocks of a block's cohort. -/
def State.cohortBlocks (s : State) (blk : Nat) : List (Nat × Block) :=
  s.blocks.filter fun kb =>
    kb.2.packed.isNone && kb.2.launch == (s.block blk).launch && kb.2.cohort == (s.block blk).cohort

/-- A phase may complete: the accesses before it are performed, or the candidate execution keeps their order, which is toward the
barrier's scope alone (R139). -/
def State.arrivedDone (s : State) (blk : Nat) (w : Wait) : Bool := s.trace.isSome || s.arrivedQuiet blk w

/-- What the completion of a phase orders (R139), toward a scope; with a block's barrier, the payload of the copies bound to it
(R284). -/
def State.markPhase (s : State) (bs : List (Nat × Block)) (w : Wait) (scope : Nat) : State :=
  let lanes := fun (p : Lane → Bool) => bs.flatMap fun kb => kb.2.groups.map fun kg => (kb.1, kg.1, maskOf fun i => p (kg.2.lane i))
  let tos := lanes fun l => l.kind == .ordinary && l.wait == w
  let t := s.mark fun _ =>
    { State.noMark with froms := s.withFroms tos, upto := s.nextId, tos := tos, id := s.nextId, scope := scope }
  match w with
  | .bar k =>
    t.mark fun n => { State.noMark with froms := lanes fun _ => true, bar := some (k, n), tos := tos, id := s.nextId, scope := scope }
  | _ => t

/-- A phase of a block's barrier is due (R138). -/
def State.barDue (s : State) (blk k : Nat) : Bool :=
  let b := s.block blk
  let n := b.arrived (.bar k)
  decide (0 < n) && n == b.expected && (b.bar k).pending == 0 && s.arrivedDone blk (.bar k)

/-- A phase of a cohort's barrier is due (R138). -/
def State.cbarDue (s : State) (blk k : Nat) : Bool :=
  let bs := s.cohortBlocks blk
  let n : Nat := (bs.map fun kb => kb.2.arrived (.cbar k)).sum
  decide (0 < n) && n == (bs.map fun kb => kb.2.expected).sum && bs.all fun kb => s.arrivedDone kb.1 (.cbar k)

/-- A barrier phase completes: its lanes go on together, and the phase advances (R138). -/
def execBarrierPhaseComplete (cohort : Bool) (blk bar : Nat) (s : State) : Host.Outcome State Fault Refusal :=
  if cohort then
    if s.cbarDue blk bar then
      let s1 := (s.cohortBlocks blk).foldl (fun t kb => t.onBlock kb.1 fun b => b.release (.cbar bar))
        (s.markPhase (s.cohortBlocks blk) (.cbar bar) 2)
      let key := 4 * cohortKey (s.block blk).launch (s.block blk).cohort + bar
      .next { s1 with cbars := s1.cbars.set key (s1.cbars.getD key 0 + 1) }
    else .next s
  else if s.barDue blk bar then
    .next ((s.markPhase [(blk, s.block blk)] (.bar bar) 1).onBlock blk fun b =>
      let c := b.release (.bar bar)
      { c with bars := c.bars.set bar { (c.bar bar) with phase := (c.bar bar).phase + 1 } })
  else .next s

/-! ### Sleep -/

/-- A sleeping lane whose cycles have passed goes on (R144). -/
def execSleepExpire (blk grp lane : Nat) (s : State) : Host.Outcome State Fault Refusal :=
  match (s.lane blk grp lane).wait with
  | .sleep till =>
    if (s.block blk).resident && decide (0 ≤ (s.clock (s.block blk).core - till).toInt) then
      .next (s.onLanes blk grp (laneBit lane) fun _ l => { l with wait := .running })
    else .next s
  | _ => .next s

end Sys2Proof.Machine
end

