-- ==== Sys2Proof/Machine/Tiles.lean ====
section
/-!
DEFINITION. What the matrix unit computes with: the TCB (R15), parameter blocks (R17), operand images in slots (R14, R170,
R171), one row of a K-step (R18, R70, R181), and the resources of its operations (R174).
-/
namespace Sys2Proof.Machine

/-! ### The TCB and the parameter block -/

/-- FMT, and M and N, of a TCB (R15). -/
def tcbFmt (t : DWord) : Nat := bits t 0 3
def tcbM (t : DWord) : Nat := 16 * 2 ^ bits t 3 2
def tcbN (t : DWord) : Nat := 16 * 2 ^ bits t 5 2

/-- K of a format (R15). -/
def fmtK (fmt : Nat) : Nat := if fmt = 0 then 64 else if fmt = 4 then 256 else 128

/-- A TCB value that R15 accepts. -/
def tcbOk (t : DWord) : Bool :=
  bits t 10 54 == 0 && decide (tcbFmt t ≤ 4) && bits t 3 2 != 3 && bits t 5 2 != 3 &&
  (decide (tcbFmt t ≤ 2) || bits t 7 2 == 0)

/-- A byte of a parameter block as a number (R17). -/
def pbByte (pb : List Byte) (i : Nat) : Nat := (pb.getD i 0#8).toNat

/-- The fields of a parameter block (R17). -/
def pbASlot (pb : List Byte) : Nat := pbByte pb 0
def pbBSlot (pb : List Byte) : Nat := pbByte pb 1
def pbAcc (pb : List Byte) : Nat := pbByte pb 2
def pbFlag (pb : List Byte) (i : Nat) : Bool := (pb.getD 3 0#8).getLsbD i
def pbSteps (pb : List Byte) : Nat := pbByte pb 4 + 256 * pbByte pb 5
def pbExp (pb : List Byte) : Int := (pb.getD 8 0#8).toInt + (pb.getD 9 0#8).toInt

/-- The slots of a range of a parameter block, when they are claimed. -/
def slotsClaimed (claimed : BitVec 64) (first n : Nat) : Bool :=
  decide (first + n ≤ 64) && (List.range n).all fun j => claimed.getLsbD (first + j)

/-- The checks of R17 and R180 on a parameter block. -/
def pbOk (claimed : BitVec 64) (fmt : Nat) (pb : List Byte) : Bool :=
  let k := pbSteps pb
  let blocks := decide (3 ≤ fmt)
  decide (pbAcc pb ≤ 7) && bits (pb.getD 3 0#8) 3 5 == 0 && !(blocks && (pbFlag pb 1 || pbFlag pb 2)) &&
  decide (1 ≤ k) && decide (k ≤ 64) && pbByte pb 6 == (if blocks then 1 else 0) && pbByte pb 7 == 0 &&
  ((List.range 22).all fun i => pbByte pb (10 + i) == 0) &&
  slotsClaimed claimed (pbASlot pb) k && slotsClaimed claimed (pbBSlot pb) k

/-- An MMA that asks for power leave (R182). -/
def pbHeavy (pb : List Byte) : Bool := decide (16 < pbSteps pb)

/-! ### Slots -/

/-- Bytes of a slot (R170). -/
def slotBytes : Nat := 12288

/-- A byte of a block's slot. -/
def Block.slotByte (b : Block) (slot off : Nat) : Nat := (b.slots.get (slotBytes * slot + off)).toNat

/-- Bytes of side-band of a row or column (R171). -/
def sideOf (fmt : Nat) : Nat := if fmt = 3 then 8 else if fmt = 4 then 16 else 0

/-- The rows of an operand image: M for `.a`, N for `.b` (R171). -/
def imageRows (t : DWord) (isB : Bool) : Nat := if isB then tcbN t else tcbM t

/-- The size of an operand image (R171). -/
def imageBytes (t : DWord) (isB : Bool) : Nat := (128 + sideOf (tcbFmt t)) * imageRows t isB

/-- Where byte i of an operand image lies in a slot (R14, R171). -/
def imageOff (t : DWord) (isB : Bool) (i : Nat) : Nat :=
  let d := 128 * imageRows t isB
  if i < d then i else 0x2000 + (i - d)

/-- Byte i of an operand image, which is a byte of a slot or of memory: byte 1 of a side-band pair of `e4m3x32` reads as zero (R14). -/
def imageByte (t : DWord) (isB : Bool) (i : Nat) (b : Byte) : Byte :=
  if tcbFmt t = 3 && decide (128 * imageRows t isB ≤ i) && i % 2 == 1 then 0#8 else b

/-- The code of element k of row or column i of an operand (R14, R171). -/
def Block.elemCode (b : Block) (t : DWord) (isB tr : Bool) (slot i k : Nat) : Nat :=
  let fmt := tcbFmt t
  match fmt with
  | 4 => b.slotByte slot (128 * i + k / 2) / 16 ^ (k % 2) % 16
  | 3 => b.slotByte slot (128 * i + k)
  | _ =>
    let across := xor (t.getLsbD (if isB then 8 else 7)) tr
    let e := if across then k * imageRows t isB + i else i * fmtK fmt + k
    if fmt = 0 then b.slotByte slot (2 * e) + 256 * b.slotByte slot (2 * e + 1) else b.slotByte slot e

/-- The scale byte and the extra value of a K-block of a row or column (R14). -/
def Block.sideByte (b : Block) (t : DWord) (slot i kb j : Nat) : Nat :=
  b.slotByte slot (0x2000 + 2 * (i * (fmtK (tcbFmt t) / 32) + kb) + j)

/-- An element's value before its scale (R64, R70). -/
def Block.elemOf (b : Block) (t : DWord) (isB tr : Bool) (slot i k : Nat) : Fval :=
  let c := b.elemCode t isB tr slot i k
  match tcbFmt t with
  | 0 => bf16.decode c
  | 1 => e4m3.decode c
  | 2 => e5m2.decode c
  | 3 => elemVal 0 0 c
  | _ => elemVal 1 (b.sideByte t slot i (k / 32) 1) c

/-- The scale of a K-block: NaN where the byte is a bad scale (R64). -/
def Block.scaleOf (b : Block) (t : DWord) (slot i kb : Nat) : Fval :=
  let c := b.sideByte t slot i kb 0
  if 128 ≤ c then .nan else scaleVal c

/-! ### One element, one row (R18, R70, R181) -/

/-- `round_sat`: SAT replaces the overflow of a rounding alone (R70). -/
def roundSat (sat : Bool) : Fval → Nat
  | .inf neg => f32.signed neg 0x7F800000
  | v => f32.round (rmode 0) false sat v

/-- The scaled partial of a K-block, rounded once (R18, R70). -/
def blockPartial (d sa sb : Fval) (smode : Bool) (e : Int) (sat : Bool) : Nat :=
  if d.isNan || sa.isNan || sb.isNan then f32.nanCode
  else if smode && (sa.isZero || sb.isZero) then (if d.isInf then f32.nanCode else 0)
  else if d.isZero then 0
  else roundSat sat ((if smode then (d.mul sa).mul sb else d).scale e)

/-- The exact sum of the 32 products of a K-block (R70). -/
def Block.blockDot (b : Block) (t : DWord) (pb : List Byte) (j m n kb : Nat) : Fval :=
  (List.range 32).foldl
    (fun d i => Fval.add 0 d
      ((b.elemOf t false (pbFlag pb 1) (pbASlot pb + j) m (32 * kb + i)).mul
        (b.elemOf t true (pbFlag pb 2) (pbBSlot pb + j) n (32 * kb + i)))) (.fin false 0 1)

/-- One accumulator element over one K-step (R18, R70). -/
def Block.kstep (b : Block) (t : DWord) (pb : List Byte) (j m n acc : Nat) : Nat :=
  let smode := pbByte pb 6 == 1
  let sat := t.getLsbD 9
  (List.range (fmtK (tcbFmt t) / 32)).foldl
    (fun a kb =>
      let one := Fval.fin false 1 1
      let p := blockPartial (b.blockDot t pb j m n kb)
        (if smode then b.scaleOf t (pbASlot pb + j) m kb else one)
        (if smode then b.scaleOf t (pbBSlot pb + j) n kb else one) smode (pbExp pb) sat
      roundSat sat (Fval.add 0 (f32.decode a) (f32.decode p))) acc

/-- The key of a tile's element. -/
def tileKey (t m n : Nat) : Nat := 4096 * t + 64 * m + n

/-- One row of a K-step (R181). -/
def Block.rowStep (b : Block) (t : DWord) (pb : List Byte) (j m : Nat) (tiles : Cells 32) : Cells 32 :=
  (List.range (tcbN t)).foldl
    (fun ts n =>
      let k := tileKey (pbAcc pb) m n
      let old := if j = 0 && pbFlag pb 0 then 0 else (tiles.get k).toNat
      ts.set k (BitVec.ofNat 32 (b.kstep t pb j m n old))) tiles

/-- A row of a K-step decodes an element of a block with a bad scale (R65). -/
def Block.rowBad (b : Block) (t : DWord) (pb : List Byte) (j m : Nat) : Bool :=
  decide (3 ≤ tcbFmt t) && (List.range (fmtK (tcbFmt t) / 32)).any fun kb =>
    decide (128 ≤ b.sideByte t (pbASlot pb + j) m kb 0) ||
    (List.range (tcbN t)).any fun n => decide (128 ≤ b.sideByte t (pbBSlot pb + j) n kb 0)

/-! ### Resources (R174) -/

/-- The tiles an operation touches. -/
def MKind.tiles : MKind → BitVec 8
  | .tcfg => BitVec.allOnes 8
  | .msave => BitVec.allOnes 8
  | .mres _ => BitVec.allOnes 8
  | .mma pb => 1#8 <<< pbAcc pb
  | .acz t => 1#8 <<< t
  | .acld t _ => 1#8 <<< t
  | .acst t => 1#8 <<< t
  | .acrd t _ _ => 1#8 <<< t
  | .omclaim _ _ => 0#8
  | .omrel _ _ => 0#8
  | .omld _ _ _ => 0#8
  | .omst _ _ => 0#8

/-- A mask of n slots from a first one. -/
def slotMask (first n : Nat) : BitVec 64 := maskOf fun i => decide (first ≤ i) && decide (i < first + n)

/-- The slots an operation touches. -/
def MKind.slotSet : MKind → BitVec 64
  | .tcfg => BitVec.allOnes 64
  | .msave => BitVec.allOnes 64
  | .mres _ => BitVec.allOnes 64
  | .omclaim first n => slotMask first n
  | .omrel first n => slotMask first n
  | .omld _ slot _ => slotMask slot 1
  | .omst _ slot => slotMask slot 1
  | .mma pb => slotMask (pbASlot pb) (pbSteps pb) ||| slotMask (pbBSlot pb) (pbSteps pb)
  | .acz _ => 0#64
  | .acld _ _ => 0#64
  | .acst _ => 0#64
  | .acrd _ _ _ => 0#64

/-- Two operations touch a common resource (R174). -/
def MKind.clashes (a b : MKind) : Bool := a.tiles &&& b.tiles != 0#8 || a.slotSet &&& b.slotSet != 0#64

/-- MSAVE waits for every earlier operation but the MMAs that it saves (R184). -/
def MKind.isMma : MKind → Bool
  | .mma _ => true
  | _ => false

def waitsFor (later earlier : MKind) : Bool :=
  match later with
  | .msave => !earlier.isMma
  | k => k.clashes earlier

/-- The matrix unit serves one MMA of a block at a time, in the order of acceptance: the record of R184 carries the progress of
one, the first (R56, R184, R185; log entry 70). -/
def mmaAfter (later earlier : MOp) : Bool := later.kind.isMma && earlier.kind.isMma && later.blk == earlier.blk

/-- An operation may begin: no earlier one of its queue touches its resources (R174). -/
def mayBegin : List MOp → Nat → Bool
  | [], _ => false
  | o :: rest, id =>
    if o.id == id then true
    else match rest.find? fun p => p.id == id with
      | some p => !waitsFor p.kind o.kind && !mmaAfter p o && mayBegin rest id
      | none => false

end Sys2Proof.Machine
end

