-- ==== Sys2Proof/Machine/Matrix.lean ====
section
/-!
DEFINITION. The matrix instructions as they issue (R166–R185): their checks, and their acceptance into the core's queue.
-/
namespace Sys2Proof.Machine

/-! ### Acceptance -/

/-- The class and the last-use bit in C (R175). -/
def matNud (f : FmtA) : Nat := bits f.c 6 4
def matLast (f : FmtA) : Bool := f.c.getLsbD 5

/-- A matrix block, and where it is asked for a configured one (R166, R167). -/
def matReady (s : State) (configured : Bool) : Bool := s.cb.oslots ≠ 0 && (!configured || s.cb.mconf)

/-- A queue that holds some operations has room, and the block has fewer than four MMAs for one more (R173). -/
def roomIn (s : State) (q : List MOp) (kind : MKind) : Bool :=
  decide (q.length < 8) &&
  (!kind.isMma || decide ((q.filter fun o => o.blk == s.cur.blk && o.kind.isMma).length < 4))

def queueRoom (s : State) (kind : MKind) : Bool := roomIn s (s.core s.cb.core).mq kind

/-- What the queue holds of path A of the same issue. -/
def pathMops (s : State) : List MOp := (s.core s.cb.core).mq.filter fun o => decide (s.cur.firstId ≤ o.id)

/-- The path finds no room in a unit. Where path A of the same issue has left none of what is there when nothing else holds any, it
issues with path A and takes its place in the unit later (R6, R28; log entry 68). -/
def noRoom (s : State) (byA : Bool) (ev : Option Nat) : Res := if s.cur.follows && byA then .behind else .stall ev

/-- Put an operation into the queue of the core at issue and assign it to its flag (R173, R49). -/
def State.enqueue (s : State) (m : DWord) (fl : Option Nat) (nud : Nat) (kind : MKind) (addr : DWord)
    (spans : List (Loc × Nat × LeafBits)) (prog : Nat) : State :=
  let c := s.core s.cb.core
  let o : MOp :=
    { id := s.nextId, kind := kind, blk := s.cur.blk, grp := s.cur.grp, lane := lowest m, flag := fl, tcb := c.tcb, pc := s.cur.pc
      addr := addr, spans := spans, nud := nud, clock := s.cb.reuse, prog := prog, begun := false, leave := false
      asked := false, after := s.partner, counted := [] }
  ({ s.setCore s.cb.core { c with mq := c.mq ++ [o] } with nextId := s.nextId + 1 } : State).assignFlag s.cur.blk s.cur.grp fl

/-- Accept an operation, or leave the path unissued (R173). -/
def acceptOp (s t : State) (m : DWord) (f : FmtA) (kind : MKind) (addr : DWord) (spans : List (Loc × Nat × LeafBits)) : Res :=
  if !queueRoom s kind then noRoom s (!roomIn s (pathMops s) kind) none
  else .ok (t.enqueue m ((s.cg.lane (lowest m)).flagFor f.u) (matNud f) kind addr spans 0) 0#64

/-- The pieces of a checked range. -/
def spansOf (ts : List Touch) : List (Loc × Nat × LeafBits) :=
  ts.filterMap fun t => match t.tr with
    | .ok loc leaf level => some (loc, t.n, State.leafBits leaf level)
    | _ => none

/-- The elected lane's address (R172). -/
def matAddr (s : State) (m : DWord) (f : FmtA) : DWord := (s.cg.lane (lowest m)).vpair f.a.toNat

/-- Check a range of n bytes at an address of the elected lane (R176), then go on with its pieces. A refusal names the first
byte of the range in the refused page (log entry 71). -/
def matRange (s : State) (m : DWord) (align : Nat) (need : Need) (fk : Nat) (addr : DWord) (n : Nat)
    (go : State → List (Loc × Nat × LeafBits) → Res) : Res :=
  if addr.toNat % align ≠ 0 then .trap m cMisaligned addr
  else serveTouches s m fk ((rangeChunks 64 addr n).map fun c => s.touch need (lowest m) c.1 c.2) fun t ts => go t (spansOf ts)

/-- An operation over a range of memory (R176). -/
def matMemory (s : State) (m : DWord) (f : FmtA) (need : Need) (fk n : Nat) (kind : MKind) : Res :=
  let addr := matAddr s m f
  matRange s m 256 need fk addr n fun t spans => acceptOp s t m f kind addr spans

/-- TILE_STATE unless the block is a matrix block, configured where that is asked for (R166, R167). -/
def inMatrixBlock (s : State) (m : DWord) (configured : Bool) (go : Unit → Res) : Res :=
  if matReady s configured then go () else .trap m cTileState 0#64

/-- The TCB of the core at issue. -/
def tcbNow (s : State) : DWord := (s.core s.cb.core).tcb

/-! ### TCFG, OMCLAIM, OMREL -/

/-- TCFG of a value, at the service level in force (R15, R354, R356). -/
def tcfgOk (s : State) (v : DWord) : Bool := tcbOk v && !(s.boot.level == 1#2 && tcbFmt v != 0)

def execTcfg (f : FmtA) (s : State) : Host.Outcome State Fault Refusal :=
  run (.tcfg f) s fun m => inMatrixBlock s m false fun _ =>
    let v := s.cg.ureg f.a.toNat
    if !tcfgOk s v then .trap m cTileState 0#64
    else
      let c := s.core s.cb.core
      let t := (s.setCore s.cb.core { c with tcb := v }).onBlock s.cur.blk fun b => { b with mconf := true }
      acceptOp s t m f .tcfg 0#64 []

def execOmclaim (f : FmtA) (s : State) : Host.Outcome State Fault Refusal :=
  run (.omclaim f) s fun m => inMatrixBlock s m false fun _ =>
    let r := slotMask f.d.toNat f.b.toNat
    if s.cb.oslots < f.d.toNat + f.b.toNat || s.cb.claimed &&& r != 0#64 then .trap m cTileState 0#64
    else acceptOp s (s.onBlock s.cur.blk fun b => { b with claimed := b.claimed ||| r }) m f
      (.omclaim f.d.toNat f.b.toNat) 0#64 []

def execOmrel (f : FmtA) (s : State) : Host.Outcome State Fault Refusal :=
  run (.omrel f) s fun m => inMatrixBlock s m false fun _ =>
    let r := slotMask f.d.toNat f.b.toNat
    if s.cb.oslots < f.d.toNat + f.b.toNat || s.cb.claimed &&& r != r then .trap m cTileState 0#64
    else acceptOp s (s.onBlock s.cur.blk fun b => { b with claimed := b.claimed &&& ~~~r }) m f
      (.omrel f.d.toNat f.b.toNat) 0#64 []

/-! ### OMLD and OMST (R179) -/

/-- The slot D names is claimed. -/
def slotHeld (s : State) (f : FmtA) : Bool := s.cb.claimed.getLsbD f.d.toNat

def execOmld (isB : Bool) (f : FmtA) (s : State) : Host.Outcome State Fault Refusal :=
  run (.omld isB f) s fun m => inMatrixBlock s m true fun _ =>
    if !slotHeld s f then .trap m cTileState 0#64
    else matMemory s m f needR 0 (imageBytes (tcbNow s) isB) (.omld isB f.d.toNat (matLast f))

def execOmst (isB : Bool) (f : FmtA) (s : State) : Host.Outcome State Fault Refusal :=
  run (.omst isB f) s fun m => inMatrixBlock s m true fun _ =>
    if !slotHeld s f then .trap m cTileState 0#64
    else matMemory s m f needW 1 (imageBytes (tcbNow s) isB) (.omst isB f.d.toNat)

/-! ### MMA (R180) -/

/-- The format words of the participating lanes agree (R16). -/
def formatAgrees (s : State) (m : DWord) (f : FmtA) : Bool :=
  (lanesOf m).all fun i => (s.cg.lane i).vreg f.b.toNat == (s.cg.lane (lowest m)).vreg f.b.toNat

def execMma (f : FmtA) (s : State) : Host.Outcome State Fault Refusal :=
  run (.mma f) s fun m => inMatrixBlock s m true fun _ =>
    let el := s.cg.lane (lowest m)
    let fw := el.vreg f.b.toNat
    let off := (el.vreg f.a.toNat).toNat
    if !formatAgrees s m f then .trap m cFormat 0#64
    else if bits fw 10 22 != 0 || bits fw 0 10 != bits (tcbNow s) 0 10 then .trap m cTileState 0#64
    else if off % 32 ≠ 0 then .trap m cMisaligned (BitVec.ofNat 64 off)
    else if s.cb.lstore < off + 32 then .trap m cProtection (BitVec.ofNat 64 off)
    else
      let loc := Loc.ls s.cur.blk off
      let turn := s.issueTurn (lowest m) loc 32 0#7
      if s.issueBehind loc 32 then .behind
      else if turn == .wait then .stall none
      else
        let pb := s.bytesAt (s.pick turn) loc 32
        let v := s.issueTook (lowest m) loc 32 0#7
        if !pbOk s.cb.claimed (tcbFmt (tcbNow s)) pb then .trapWith v m cTileState 0#64
        else acceptOp v v m f (.mma pb) 0#64 []

/-! ### Accumulator tiles (R183) -/

def execAcz (f : FmtA) (s : State) : Host.Outcome State Fault Refusal :=
  run (.acz f) s fun m => inMatrixBlock s m true fun _ => acceptOp s s m f (.acz f.d.toNat) 0#64 []

/-- Bytes of a tile in memory (R20, R183). -/
def tileBytes (t : DWord) : Nat := tcbM t * (4 * tcbN t)

def execAcld (f : FmtA) (s : State) : Host.Outcome State Fault Refusal :=
  run (.acld f) s fun m => inMatrixBlock s m true fun _ =>
    matMemory s m f needR 0 (tileBytes (tcbNow s)) (.acld f.d.toNat (matLast f))

def execAcst (f : FmtA) (s : State) : Host.Outcome State Fault Refusal :=
  run (.acst f) s fun m => inMatrixBlock s m true fun _ =>
    matMemory s m f needW 1 (tileBytes (tcbNow s)) (.acst f.d.toNat)

def execAcrd (f : FmtA) (s : State) : Host.Outcome State Fault Refusal :=
  run (.acrd f) s fun m => inMatrixBlock s m true fun _ =>
    let row := fun i => if f.bi then bits f.b 0 6 else bits ((s.cg.lane i).vreg f.b.toNat) 0 6
    acceptOp s s m f (.acrd f.a.toNat f.d.toNat ((lanesOf m).map fun i => (i, row i))) 0#64 []

/-! ### MSAVE and MRES (R184, R185) -/

/-- The matrix save record's size. -/
def recordBytes : Nat := 131328

def execMsave (f : FmtA) (s : State) : Host.Outcome State Fault Refusal :=
  run (.msave f) s fun m => inMatrixBlock s m true fun _ => matMemory s m f needW 1 recordBytes .msave

/-- The pieces of a range, 64 bytes at a time, each with its address. -/
def spanPieces (addr : DWord) (spans : List (Loc × Nat × LeafBits)) : List (DWord × Loc × Nat × LeafBits) :=
  let total := (spans.map fun p => p.2.1).sum
  (List.range ((total + 63) / 64)).filterMap fun i => (spansFrom spans (64 * i)).head?.map fun p =>
    (addr + BitVec.ofNat 64 (64 * i), p.1, Nat.min 64 p.2.1, p.2.2)

/-- The load of a piece by a lane at issue (R175, R271): a relaxed load with a class and the block's clock. -/
def State.issueLoad (s : State) (lane nud : Nat) (p : DWord × Loc × Nat × LeafBits) : Op × Acc :=
  let y := plainOrdered s.cur.firstId s.cur.blk s.cur.grp lane s.cb.core s.cb.asid p.2.1 p.2.2.1 true false
  let a : Acc := { y.acc with va := p.1, leaf := p.2.2.2, fresh := true }
  ({ y.op with kind := .load false, nud := nud, clock := s.cb.reuse, accs := [a] }, a)

/-- Memory has what a read at issue needs; the state with the requests made for it. -/
def State.issueReady (s : State) (lane nud : Nat) (ps : List (DWord × Loc × Nat × LeafBits)) : State × Bool :=
  ps.foldl (fun (r : State × Bool) p =>
    let x := s.issueLoad lane nud p
    let q := r.1.prepare x.1 x.2
    (q.1, r.2 && q.2)) (s, true)

/-- Ranges that lanes read as they issue: the lane, the address, and the pieces it leads to. -/
abbrev Reads := List (Nat × DWord × List (Loc × Nat × LeafBits))

/-- The pieces of reads at issue, with their lanes. -/
def readPieces (reads : Reads) : List (Nat × DWord × Loc × Nat × LeafBits) :=
  reads.flatMap fun r => (spanPieces r.2.1 r.2.2).map fun p => (r.1, p)

/-- Path B reads what path A of the same issue has not performed yet (R152). -/
def State.readBehind (s : State) (reads : Reads) : Bool :=
  (readPieces reads).any fun p => s.issueBehind p.2.2.1 p.2.2.2.1

/-- Reads at issue wait for what comes before them in their lanes' order (R152, R230, R240). -/
def State.readHeld (s : State) (reads : Reads) : Bool :=
  (readPieces reads).any fun p => s.issueTurn p.1 p.2.2.1 p.2.2.2.1 p.2.2.2.2 == .wait

/-- A hold of a read at issue counts once for each wait of its path (R214, R298, R356); a coherent request to a memory die is
counted where it is held. -/
def State.readNote (s : State) (reads : Reads) : State :=
  (readPieces reads).foldl (fun (t : State) p =>
    let x := t.issueLoad p.1 0 p.2
    let seen := (t.cg.stalls.filter fun w => w.1 == s.cur.pc).map Prod.snd
    let h := t.countDirect x.1 { x.2 with counted := seen }
    let new := h.2.filter fun ev => !seen.contains ev
    if new = [] then h.1
    else h.1.onGroup s.cur.blk s.cur.grp fun g => { g with stalls := g.stalls ++ new.map fun ev => (s.cur.pc, ev) }) s

/-- Memory has what reads at issue need; the state with the requests made for it. -/
def State.readReady (s : State) (nud : Nat) (reads : Reads) : State × Bool :=
  reads.foldl (fun (a : State × Bool) r =>
    let q := a.1.issueReady r.1 nud (spanPieces r.2.1 r.2.2)
    (q.1, a.2 && q.2)) (s, true)

/-- A piece of a read at issue is performed in its turn, with the requests it makes of the caches; none where it has no turn. -/
def State.readPiece (nud lane : Nat) (r : Option (State × List Byte)) (p : DWord × Loc × Nat × LeafBits) :
    Option (State × List Byte) :=
  r.bind fun q =>
    let t := q.1
    let turn := t.issueTurn lane p.2.1 p.2.2.1 p.2.2.2
    if turn == .wait then none else
    let x := t.issueLoad lane nud p
    some ((t.issueTook lane p.2.1 p.2.2.1 p.2.2.2).touchCaches x.1 x.2, q.2 ++ (t.accBytes (t.pick turn) x.1 x.2).take p.2.2.1)

/-- The bytes of reads at issue. -/
def State.readBytes (s : State) (nud : Nat) (reads : Reads) : Option (State × List (List Byte)) :=
  reads.foldl (fun a r => a.bind fun q =>
    ((spanPieces r.2.1 r.2.2).foldl (State.readPiece nud r.1) (some (q.1, []))).map fun x => (x.1, q.2 ++ [x.2])) (some (s, []))

/-- Read ranges of lanes at issue (R185, R271, R275): what comes before them, and memory, are waited for. -/
def readAtIssue (s : State) (nud : Nat) (reads : Reads) (go : State → List (List Byte) → Res) : Res :=
  if s.readBehind reads then .behind
  else if s.readHeld reads then .stallWith s
  else
    let r := s.readReady nud reads
    if !r.2 then .stallWith (r.1.readNote reads)
    else match r.1.readBytes nud reads with
      | none => .stallWith r.1
      | some q => go q.1 q.2

/-- A matrix save record's parts (R184). -/
structure MRecord where
  tcb : DWord
  epmm : DWord
  count : Nat
  pbs : List (List Byte)
  /-- every reserved field is zero -/
  clean : Bool
  tiles : Cells 32
  deriving DecidableEq, Repr

/-- A word of bytes, little-endian. -/
def wordAt (bs : List Byte) (off n : Nat) : Nat := ofBytes ((bs.drop off).take n)

def allZero (bs : List Byte) : Bool := bs.all (· == 0#8)

/-- Read a record from its bytes (R184). -/
def MRecord.ofBytes (bs : List Byte) : MRecord :=
  let epmm : DWord := BitVec.ofNat 64 (wordAt bs 8 8)
  let n := wordAt bs 16 8
  { tcb := BitVec.ofNat 64 (wordAt bs 0 8), epmm := epmm, count := n
    pbs := (List.range (Nat.min n 4)).map fun i => (bs.drop (32 + 32 * i)).take 32
    clean := allZero ((bs.drop 24).take 8) && allZero ((bs.drop 160).take 96) && bits epmm 16 47 == 0
    tiles := (List.range 32768).foldl (fun t i => t.set i (BitVec.ofNat 32 (wordAt bs (256 + 4 * i) 4))) [] }

/-- The checks of R185; what stands in unused parameter blocks is no reserved field, and a record with ACT = 1 and COUNT = 0, which
has no PB0 for check 5 to compare with, is refused (DESIGN CHOICE, log entry 71). -/
def MRecord.ok (r : MRecord) (claimed : BitVec 64) : Bool :=
  tcbOk r.tcb && r.clean && decide (r.count ≤ 4) && r.pbs.all (pbOk claimed (tcbFmt r.tcb)) &&
  (!r.epmm.getLsbD 63 ||
    (decide (0 < r.count) && decide (bits r.epmm 0 8 < pbSteps (r.pbs.headD [])) &&
      decide (bits r.epmm 8 8 < tcbM r.tcb)))

/-- Row steps done of the first saved MMA (R185). -/
def MRecord.prog (r : MRecord) : Nat :=
  if r.epmm.getLsbD 63 then bits r.epmm 0 8 * tcbM r.tcb + bits r.epmm 8 8 else 0

/-- Accept the restoration of a record, and the saved MMAs in order, for the flag of MRES (R185); the tiles are restored as
MRES is performed (R174). -/
def State.restoreRecord (s : State) (m : DWord) (fl : Option Nat) (nud : Nat) (addr : DWord) (r : MRecord) : State :=
  let c := s.core s.cb.core
  let t := (s.setCore s.cb.core { c with tcb := r.tcb }).onBlock s.cur.blk fun b => { b with mconf := true }
  let u := t.enqueue m fl nud (.mres r.tiles) addr [] 0
  (r.pbs.foldl (fun (a : State × Nat) pb => (a.1.enqueue m fl nud (.mma pb) addr [] a.2, 0)) (u, r.prog)).1

/-- An operation of the block at issue, accepted before this issue, is in the queue (R185; path A's of the same issue: log
entry 68). -/
def matrixBusy (s : State) : Bool :=
  (s.core s.cb.core).mq.any fun o => o.blk == s.cur.blk && decide (o.id < s.cur.firstId)

/-- The queue has room for a restoration and the MMAs of its record (R173). -/
def restoreRoom (q : List MOp) (r : MRecord) : Bool := decide (q.length + r.pbs.length < 8)

def execMres (f : FmtA) (s : State) : Host.Outcome State Fault Refusal :=
  run (.mres f) s fun m => inMatrixBlock s m false fun _ =>
    let addr := matAddr s m f
    matRange s m 256 needR 0 addr recordBytes fun t spans =>
      if matrixBusy s then .stall none else
      readAtIssue t (matNud f) [(lowest m, addr, spans)] fun u bs =>
        let r := MRecord.ofBytes (bs.headD [])
        if !r.ok s.cb.claimed then .trapWith u m cTileState 0#64
        else if !restoreRoom (s.core s.cb.core).mq r then noRoom s (!restoreRoom (pathMops s) r) none
        else .ok (u.restoreRecord m ((s.cg.lane (lowest m)).flagFor f.u) (matNud f) addr r) 0#64

end Sys2Proof.Machine
end

