-- ==== Sys2Proof/Machine/MatrixEvents.lean ====
section
/-!
DEFINITION. The matrix unit at work: operations begin (R174, R184), perform their rows and bytes (R175–R185), and ask for
power leave (R182, R359).
-/
namespace Sys2Proof.Machine

/-- An MMA in progress: it has begun, and has the leave that it needs (R56, R181, R182). -/
def mmaActive (o : MOp) : Bool := o.begun && (match o.kind with | .mma pb => !pbHeavy pb || o.leave | _ => false)

/-- EPMM of an MMA, with ACT = 1 (R56). -/
def mmaEpmm (o : MOp) : DWord := (1#64 <<< 63) ||| BitVec.ofNat 64 (o.prog % tcbM o.tcb * 256 + o.prog / tcbM o.tcb)

namespace State

/-! ### Power leave (R359) -/

/-- LEAVE tokens of a compute die (R357). -/
def leaveTokens (s : State) : Nat := match s.boot.record with | some r => (r.getD 19 0#8).toNat | none => 0

/-- The first request comes before the second: by cycle, by core, the matrix unit before the copy engine (R359). -/
def leaveBefore (a b : LeaveReq) : Bool :=
  decide (a.at_ < b.at_) || (a.at_ == b.at_ &&
    (decide (a.core < b.core) || (a.core == b.core && (!a.engine && b.engine || (a.engine == b.engine && decide (a.id < b.id))))))

/-- Put a request at its place. -/
def insertLeave (r : LeaveReq) : List LeaveReq → List LeaveReq
  | [] => [r]
  | q :: qs => if leaveBefore r q then r :: q :: qs else q :: insertLeave r qs

/-- Ask for leave; a request that finds no free token counts one event. -/
def askLeave (s : State) (core : Nat) (engine : Bool) (id : Nat) : State :=
  let d := s.die (dieOf core)
  let s1 := s.setDie (dieOf core)
    { d with queue := insertLeave { core := core, engine := engine, id := id, at_ := s.hub.cycle } d.queue }
  if s.leaveTokens ≤ d.taken + d.queue.length then s1.count (dieOf core) 4 else s1

/-- Give a token back, or withdraw a request. -/
def endLeave (s : State) (core : Nat) (engine : Bool) (id : Nat) (held : Bool) : State :=
  let d := s.die (dieOf core)
  s.setDie (dieOf core)
    { d with
      taken := if held then d.taken - 1 else d.taken
      queue := d.queue.filter fun q => !(q.core == core && q.engine == engine && q.id == id) }

/-! ### The queue -/

/-- Change an operation of a core's queue. -/
def onMop (s : State) (core id : Nat) (f : MOp → MOp) : State :=
  let c := s.core core
  s.setCore core { c with mq := c.mq.map fun o => if o.id == id then f o else o }

/-- An operation of a core's queue. -/
def mop (s : State) (core id : Nat) : Option MOp := (s.core core).mq.find? fun o => o.id == id

/-- An operation leaves the queue and releases its flag; its leave goes back (R49, R182). -/
def closeMop (s : State) (core : Nat) (o : MOp) : State :=
  let c := s.core core
  let s1 := (s.setCore core { c with mq := c.mq.filter fun p => p.id != o.id }).releaseFlag o.blk o.grp o.flag
  if o.asked then s1.endLeave core false o.id o.leave else s1

/-- EPMM of a block (R56): of its one MMA in progress. -/
def epmmOf (s : State) (blk : Nat) : DWord :=
  match (s.core (s.block blk).core).mq.find? fun o => o.blk == blk && mmaActive o with
  | some o => mmaEpmm o
  | none => 0#64

/-- EPMM of a save record, from the MMAs saved: ACT = 1 where the first of them is in progress, or has performed rows before an
earlier save and waits to begin again (R184, R185; log entry 70). -/
def recordEpmm (ms : List MOp) : DWord :=
  match ms.head? with
  | some o => if mmaActive o || decide (0 < o.prog) then mmaEpmm o else 0#64
  | none => 0#64

/-- MSAVE stops the block's MMAs and notes them (R184). One that MRES re-entered at saved counters, and that still waits to begin
again or for its power leave, is noted with those counters and ACT = 1, though EPMM reads ACT = 0 while it waits (R187): no add is
repeated (R185; DEDUCED, log entry 70). -/
def stopMmas (s : State) (core blk before : Nat) : State :=
  let ms := (s.core core).mq.filter fun o => o.blk == blk && decide (o.id < before) && o.kind.isMma
  let s1 := s.onBlock blk fun b =>
    { b with
      savedMma := ms.filterMap fun o => match o.kind with | .mma pb => some pb | _ => none
      savedEpmm := recordEpmm ms }
  ms.foldl (fun t o => t.closeMop core o) s1

/-! ### Bytes of operations -/

/-- The 64 bytes of the save record at an offset (R184). -/
def recordChunk (s : State) (core blk : Nat) (tcb : DWord) (off : Nat) : List Byte :=
  let b := s.block blk
  if off < 256 then
    let pbs := b.savedMma.flatten
    ((toBytes 8 tcb.toNat ++ toBytes 8 b.savedEpmm.toNat ++ toBytes 8 b.savedMma.length ++ toBytes 8 0 ++ pbs ++
      List.replicate (224 - pbs.length) 0#8).drop off).take 64
  else (List.range 16).flatMap fun i => toBytes 4 ((s.core core).tiles.get ((off - 256) / 4 + i)).toNat

/-- The key of word w of a tile's image (R20, R183). -/
def tileWord (tcb : DWord) (t w : Nat) : Nat := tileKey t (w / tcbN tcb) (w % tcbN tcb)

/-- The 64 bytes an operation stores at an offset of its range. -/
def storeChunk (s : State) (core : Nat) (o : MOp) (off : Nat) : List Byte :=
  match o.kind with
  | .omst isB slot =>
    (List.range 64).map fun i =>
      imageByte o.tcb isB (off + i) ((s.block o.blk).slots.get (slotBytes * slot + imageOff o.tcb isB (off + i)))
  | .acst t => (List.range 16).flatMap fun i => toBytes 4 ((s.core core).tiles.get (tileWord o.tcb t (off / 4 + i))).toNat
  | .msave => s.recordChunk core o.blk o.tcb off
  | _ => []

/-- Take in 64 bytes that an operation has loaded. -/
def takeChunk (s : State) (core : Nat) (o : MOp) (off : Nat) (bs : List Byte) : State :=
  match o.kind with
  | .omld isB slot _ =>
    s.onBlock o.blk fun b =>
      { b with
        slots := (List.range 64).foldl
          (fun m i => m.set (slotBytes * slot + imageOff o.tcb isB (off + i)) (imageByte o.tcb isB (off + i) (bs.getD i 0#8)))
          b.slots }
  | .acld t _ =>
    let c := s.core core
    s.setCore core { c with
      tiles := (List.range 16).foldl
        (fun m i => m.set (tileWord o.tcb t (off / 4 + i)) (BitVec.ofNat 32 (wordAt bs (4 * i) 4))) c.tiles }
  | _ => s

/-- A read touches a sector for the last time (R156, R175). -/
def lastUse (k : MKind) : Bool :=
  match k with
  | .omld _ _ l => l
  | .acld _ l => l
  | _ => false

/-- The bytes of an operation's range. -/
def sizeOf (o : MOp) : Nat := (o.spans.map fun p => p.2.1).sum

/-- When the next piece of an operation may be moved, in its lane's order (R152, R175, R230, R240). -/
def pieceTurn (s : State) (core : Nat) (o : MOp) (p : Loc × Nat × LeafBits) : Turn :=
  s.turn (o.ordered core (s.block o.blk).asid p) o.after

/-- Move the next 64 bytes of an operation, if they can be (R175, R244); whether they were. Once accepted it never faults
(R176). -/
def moveChunk (s : State) (core : Nat) (o : MOp) : State × Bool :=
  match spansFrom o.spans o.prog with
  | [] => (s, false)
  | (loc, _, leaf) :: _ =>
    let turn := s.pieceTurn core o (loc, 64, leaf)
    if turn == .wait then (s, false) else
    let y := o.ordered core (s.block o.blk).asid (loc, 64, leaf)
    let a : Acc := { y.acc with va := o.addr + BitVec.ofNat 64 o.prog }
    let p : Op := { y.op with kind := if o.kind.stores then .store else .load false, accs := [a] }
    let r := s.prepare p a
    if !r.2 then
      let h := r.1.countDirect p a
      (h.1.onMop core o.id fun q => { q with counted := h.2 }, false)
    else
      let t := r.1
      let u := (if o.kind.stores then t.accWrite p a (t.storeChunk core o o.prog)
        else t.takeChunk core o o.prog (t.accBytes (s.pick turn) p a)).touchCaches p a
      let v := match loc with
        | .mem k => if lastUse o.kind then u.discard (sectorOf k) else u
        | _ => u
      ((v.took s.traceLen (y.ev o.after) (s.pick turn)).onMop core o.id fun q => { q with prog := q.prog + 64, counted := [] }, true)

/-- Move up to n chunks of an operation. -/
def moveChunks (s : State) (core id : Nat) : Nat → State
  | 0 => s
  | n + 1 =>
    match s.mop core id with
    | none => s
    | some o =>
      let r := s.moveChunk core o
      if r.2 then r.1.moveChunks core id n else r.1

/-- Perform up to n row steps of an MMA (R181). -/
def rowSteps (s : State) (core : Nat) (o : MOp) (pb : List Byte) : Nat → State
  | 0 => s
  | n + 1 =>
    match s.mop core o.id with
    | none => s
    | some q =>
      if pbSteps pb * tcbM o.tcb ≤ q.prog then s else
      let b := s.block o.blk
      let j := q.prog / tcbM o.tcb
      let m := q.prog % tcbM o.tcb
      let c := s.core core
      let s1 := s.setCore core { c with tiles := b.rowStep o.tcb pb j m c.tiles }
      let s2 := if b.rowBad o.tcb pb j m then s1.statusBadscale b.asid else s1
      (s2.onMop core o.id fun p => { p with prog := p.prog + 1 }).rowSteps core o pb n

/-- Every byte of slots is zero again: OMCLAIM's zeroing, OMREL's discarding (R178). -/
def wipeSlots (s : State) (blk first n : Nat) : State :=
  s.onBlock blk fun b => { b with slots := b.slots.clearRange (slotBytes * first) (slotBytes * n) }

/-- ACRD delivers its values to its lanes (R183, R71). -/
def deliverRows (s : State) (core : Nat) (o : MOp) (t dest : Nat) (rows : List (Nat × Nat)) : State :=
  let tiles := (s.core core).tiles
  rows.foldl (fun u r => u.onLanes o.blk o.grp (laneBit r.1) fun i l =>
    if l.kind == .ordinary then l.setV dest (tiles.get (tileKey t r.2 i)) else l) s

/-- Clear tiles. -/
def clearTiles (s : State) (core first n : Nat) : State :=
  let c := s.core core
  s.setCore core { c with tiles := c.tiles.clearRange (4096 * first) (4096 * n) }

/-- An operation over memory is done when its every byte has moved. -/
def closeIfMoved (s : State) (core id : Nat) : State :=
  match s.mop core id with
  | some o => if sizeOf o ≤ o.prog then s.closeMop core o else s
  | none => s

end State

/-- A queued operation begins once what it touches is free (R174); an MMA of more than 16 K-steps asks for leave (R182). -/
def execMatrixOpBegin (core op : Nat) (s : State) : Host.Outcome State Fault Refusal :=
  match s.mop core op with
  | none => .next s
  | some o =>
    if o.begun || !mayBegin (s.core core).mq op then .next s
    else
      let s1 := s.onMop core op fun q => { q with begun := true }
      .next (match o.kind with
        | .mma pb =>
          if pbHeavy pb then (s1.onMop core op fun q => { q with asked := true }).askLeave core false op else s1
        | .msave => s1.stopMmas core o.blk op
        | _ => s1)

/-- An operation that has begun performs rows or 64-byte pieces, as many as it can of the given number, and completes with
its last one (R177–R185). -/
def execMatrixOpComplete (core op rows : Nat) (s : State) : Host.Outcome State Fault Refusal :=
  match s.mop core op with
  | none => .next s
  | some o =>
    if !o.begun then .next s else
    .next (match o.kind with
      | .tcfg => (s.clearTiles core 0 8).closeMop core o
      | .omclaim first n => (s.wipeSlots o.blk first n).closeMop core o
      | .omrel first n => (s.wipeSlots o.blk first n).closeMop core o
      | .acz t => (s.clearTiles core t 1).closeMop core o
      | .acrd t dest rs => (s.deliverRows core o t dest rs).closeMop core o
      | .mres tiles => (s.setCore core { s.core core with tiles := tiles }).closeMop core o
      | .mma pb =>
        if pbHeavy pb && !o.leave then s else
        let t := s.rowSteps core o pb rows
        (match t.mop core op with
          | some q => if pbSteps pb * tcbM o.tcb ≤ q.prog then t.closeMop core q else t
          | none => t)
      | .omld _ _ _ => ((s.bumpFresh).moveChunks core op rows).closeIfMoved core op
      | .omst _ _ => ((s.bumpFresh).moveChunks core op rows).closeIfMoved core op
      | .acld _ _ => ((s.bumpFresh).moveChunks core op rows).closeIfMoved core op
      | .acst _ => ((s.bumpFresh).moveChunks core op rows).closeIfMoved core op
      | .msave => ((s.bumpFresh).moveChunks core op rows).closeIfMoved core op)

/-- The first waiting operation of a die takes a free token, once the cycle in which it asked is over (R359). -/
def execLeaveGrant (die : Nat) (s : State) : Host.Outcome State Fault Refusal :=
  let d := s.die die
  match d.queue with
  | [] => .next s
  | q :: rest =>
    if s.leaveTokens ≤ d.taken || decide (s.hub.cycle ≤ q.at_) then .next s
    else
      let s1 := s.setDie die { d with taken := d.taken + 1, queue := rest }
      .next (if q.engine then { s1 with copies := s1.copies.modify q.id fun c => { c with leave := true } }
        else s1.onMop q.core q.id fun o => { o with leave := true })

end Sys2Proof.Machine
end

