-- ==== Sys2Proof/Machine/Copies.lean ====
section
/-!
DEFINITION. The copy engines: copies and their pieces (R261–R263, R271–R273), batches (R267–R269), and how a copy moves,
waits and fails (R264, R265, R270).
-/
namespace Sys2Proof.Machine

/-! ### A copy -/

/-- The fields of the control word (R262). -/
def ctlNud (c : Word) : Nat := bits c 0 4
def ctlArv (c : Word) : Bool := c.getLsbD 4
def ctlBar (c : Word) : Nat := bits c 5 4
def ctlOk (c : Word) : Bool := bits c 9 23 == 0

/-- Fields of a tensor descriptor (R271). -/
def Copy.dword (c : Copy) (off : Nat) : DWord := BitVec.ofNat 64 (wordAt c.desc off 8)
def Copy.ncol (c : Copy) : Nat := wordAt c.desc 16 2
def Copy.nrow (c : Copy) : Nat := wordAt c.desc 18 2
def Copy.ndep (c : Copy) : Nat := wordAt c.desc 20 2
def Copy.npln (c : Copy) : Nat := wordAt c.desc 22 2
def Copy.esz (c : Copy) : Nat := 2 ^ (wordAt c.desc 24 1)

/-- A descriptor that R271 allows. -/
def descOk (d : List Byte) : Bool :=
  let e := wordAt d 24 1
  decide (e ≤ 4) && ([16, 18, 20, 22].all fun o => wordAt d o 2 != 0) && allZero ((d.drop 25).take 7) &&
  allZero ((d.drop 80).take 48) && ([0, 8, 32, 40, 48, 56, 64, 72].all fun o => wordAt d o 8 % 2 ^ e == 0)

/-- Bytes, or elements, of a whole copy. -/
def Copy.total (c : Copy) : Nat := if c.tensor then c.ncol * c.nrow * c.ndep * c.npln else c.len

/-- A copy that asks for power leave (R272). -/
def Copy.heavy (c : Copy) : Bool := c.tensor && decide (2 ^ 20 < c.esz * c.total)

/-- The counters of element e in the loop order of R272: plane, depth, row, column. -/
def Copy.counters (c : Copy) (e : Nat) : Nat × Nat × Nat × Nat :=
  (e / (c.ncol * c.nrow * c.ndep), e / (c.ncol * c.nrow) % c.ndep, e / c.ncol % c.nrow, e % c.ncol)

/-- The addresses of an element of a tensor copy, modulo 2^64 (R272). -/
def Copy.elemAddr (c : Copy) (e base rs ds ps : Nat) : DWord :=
  let k := c.counters e
  c.dword base + BitVec.ofNat 64 k.1 * c.dword ps + BitVec.ofNat 64 k.2.1 * c.dword ds +
    BitVec.ofNat 64 k.2.2.1 * c.dword rs + BitVec.ofNat 64 (k.2.2.2 * c.esz)

/-- The next piece of a copy: source, destination and bytes. A CPY goes byte by byte, a CPYT by elements. -/
def Copy.piece (c : Copy) : DWord × DWord × Nat :=
  if c.tensor then (c.elemAddr c.prog 0 32 40 48, c.elemAddr c.prog 8 56 64 72, c.esz)
  else (c.src + BitVec.ofNat 64 c.prog, c.dst + BitVec.ofNat 64 c.prog, 1)

/-- The progress point of a CPYT (R56, R273). -/
def Copy.tuple (c : Copy) : DWord :=
  if c.desc = [] then c.tup else
  let k := c.counters c.prog
  BitVec.ofNat 64 (k.1 * 2 ^ 48 + k.2.1 * 2 ^ 32 + k.2.2.1 * 2 ^ 16 + k.2.2.2)

/-- The element of a progress tuple. -/
def Copy.ofTuple (c : Copy) (t : DWord) : Nat :=
  ((bits t 48 16 * c.ndep + bits t 32 16) * c.nrow + bits t 16 16) * c.ncol + bits t 0 16

/-- The ranges in which a byte of the other side has an unspecified value: the source of a CPY, for a destination byte (R263), and the
destination rows of a CPYT, for a source byte (R272). -/
def Copy.otherSide (c : Copy) : List (DWord × Nat) :=
  if c.tensor then
    (List.range (c.nrow * c.ndep * c.npln)).map fun r => (c.elemAddr (r * c.ncol) 8 56 64 72, c.ncol * c.esz)
  else [(c.src, c.len)]

/-- A source byte is also a destination byte of the same copy, or a destination byte a source byte, by their addresses (R263,
R272). -/
def Copy.overlaps (c : Copy) (src dst : DWord) : Bool :=
  c.otherSide.any fun r => decide (((if c.tensor then src else dst) - r.1).toNat < r.2)

/-- A copy counts as outstanding (R266, R270). -/
def Copy.outstanding (c : Copy) : Bool := match c.st with | .failed _ _ => false | _ => true

/-- A copy that has failed. -/
def Copy.hasFailed (c : Copy) : Bool := !c.outstanding

namespace State

/-- The copies of a lane. -/
def laneCopies (s : State) (b g l : Nat) : List (Nat × Copy) :=
  s.copies.filter fun c => c.2.blk == b && c.2.grp == g && c.2.lane == l

/-- The copies in a core's engine (R266), of those accepted from an identity on. -/
def engineCount (s : State) (core first : Nat) : Nat :=
  (s.copies.filter fun c => decide (first ≤ c.1) && c.2.core == core && c.2.outstanding && !c.2.saved && (s.block c.2.blk).resident).length

/-- The sealed batches of a lane that are not DONE (R266, R267): wraps and number. -/
def openBatches (s : State) (b g l : Nat) : List (Nat × Nat) :=
  (((s.laneCopies b g l).filter fun c => c.2.batch != 0#32 && !c.2.reported).map fun c =>
    (c.2.wraps, c.2.batch.toNat)).eraseDups

/-- A bound copy raises or lowers its barrier's pending count (R138). -/
def pendBar (s : State) (c : Copy) (up : Bool) : State :=
  if ctlArv c.ctl then
    s.onBlock c.blk fun b =>
      let k := b.bar (ctlBar c.ctl)
      { b with bars := b.bars.set (ctlBar c.ctl) { k with pending := if up then k.pending + 1 else k.pending - 1 } }
  else s

/-- Accept a copy (R263, R266, R272): it is assigned to its flag and bound to its barrier, and a large tensor copy asks for
leave. -/
def acceptCopy (s : State) (c : Copy) : State :=
  let id := s.nextId
  let s1 := ({ s with copies := s.copies.set id { c with asked := c.heavy }, nextId := id + 1 } : State).assignFlag
    c.blk c.grp c.flag
  if c.heavy then s1.askLeave c.core true id else s1

/-- A copy leaves the engine; its leave goes back. -/
def returnLeave (s : State) (id : Nat) (c : Copy) : State :=
  if c.asked then
    ({ s with copies := s.copies.modify id fun k => { k with asked := false, leave := false } } : State).endLeave
      c.core true id c.leave
  else s

/-- A copy fails for good: its flag is released, its barrier's count stays (R270); one held in a save record stays there
(R276). -/
def failCopy (s : State) (id : Nat) (c : Copy) (code : Nat) (addr : DWord) : State :=
  let s1 := (s.returnLeave id c).releaseFlag c.blk c.grp c.flag
  if c.reported then { s1 with copies := s1.copies.erase id }
  else { s1 with
    copies := s1.copies.modify id fun k => { k with st := .failed (BitVec.ofNat 8 code) addr, flag := none } }

/-- A copy is DONE (R263, R270). -/
def doneCopy (s : State) (id : Nat) (c : Copy) : State :=
  let s1 := ((s.returnLeave id c).releaseFlag c.blk c.grp c.flag).pendBar c false
  { s1 with copies := s1.copies.erase id }

/-! ### Moving bytes -/

/-- An access of a copy, in its lane's order (R264): its completion word is a release. -/
def copyOrdered (c : Copy) (id : Nat) (writes : Bool) (x : Op × Acc) (n : Nat) : Ordered :=
  let y := plainOrdered id c.blk c.grp c.lane c.core c.asid x.2.loc n (!writes) writes
  { y with copy := true, bar := if ctlArv c.ctl then some (ctlBar c.ctl) else none, acc := { y.acc with leaf := x.2.leaf } }

/-- A location of memory outside the device: of the host, the pool or another package (R284). -/
def outwardLoc : Loc → Bool
  | .mem k => keyTier k != 0
  | .ls _ _ => false

/-- The completion word's access: a release at `.dev`, or at `.sys` where it or the copy's destination lies outside (R264, R284). -/
def postOrdered (c : Copy) (id : Nat) (x : Op × Acc) (out : Bool) : Ordered :=
  let y := copyOrdered c id true x 8
  { y with rel := true, op := { y.op with scope := if out || outwardLoc x.2.loc then 4 else 3 } }

/-- Accesses of a copy may be performed, together: a copy reads what memory holds (R152, R240, R264). -/
def copyMay (s : State) (c : Copy) (ys : List Ordered) : Bool :=
  (ys.all fun y => s.mayGo y c.after) && s.admits (ys.map fun y => y.ev c.after)

/-- Where an access of an engine leads; the lines of a migrating page are pulled first (R259, R313, R326). -/
def engineLook (s : State) (core asid launch : Nat) (need : Need) (va : DWord) (n : Nat) : State × Touch :=
  let q := s.pullTouch { lane := 0, va := va, n := n, tr := s.resolve core asid launch need va n }
  (q.1, { q.2 with tr := q.1.asSwm q.2.tr })

/-- Note what an engine's access leaves behind (R259, R288, R319). -/
def engineNote (s : State) (core asid : Nat) (t : Touch) : State :=
  match t.tr with
  | .ok loc _ _ => ((s.fillTlb core asid t.va t.tr).noteSwm t.tr).touchDomains asid (s.accessDomains core loc)
  | _ => s

/-- An access of an engine for a block (R221): a load or a store of its core, with a class and a clock. -/
def engineAcc (core blk asid nud : Nat) (clock : Word) (writes : Bool) (t : Touch) : Op × Acc :=
  let a : Acc := { t.acc 0#128 0#64 with fresh := true }
  ({ kind := if writes then .store else .load false, blk := blk, grp := 0, core := core, asid := asid, flag := none
     wid := t.n.log2, acq := false, rel := false, scope := 3, far := false, last := false, nud := nud, clock := clock, dest := 0
     pc := 0#64, after := none, accs := [] }, a)

/-- An access of a copy. -/
def copyAcc (c : Copy) (writes : Bool) (t : Touch) : Op × Acc :=
  let x := engineAcc c.core c.blk c.asid (ctlNud c.ctl) c.clock writes t
  (x.1, { x.2 with counted := c.counted })

/-- n bytes as a core's engine reads them, once prepared (R258). -/
def engineRead (s : State) (x : Op × Acc) (n : Nat) : List Byte :=
  match x.2.loc with
  | .mem k => if x.2.swm then s.swmBytes x.1.core k n else s.memBytes k n
  | l => s.locBytes l n

/-- Bytes as a core's engine writes them, once prepared. -/
def engineWrite (s : State) (x : Op × Acc) (bs : List Byte) : State := s.accWrite x.1 x.2 bs

/-- What the accesses of a copy need before they are performed; false while one waits, and its hold counts once (R214,
R298). -/
def copyPrepare (s : State) (id : Nat) (xs : List (Op × Acc)) : State × Bool :=
  let r := xs.foldl (fun (r : State × Bool) x =>
    let q := r.1.prepare x.1 x.2
    if q.2 then (q.1, r.2) else
    let h := q.1.countDirect x.1 x.2
    ({ h.1 with copies := h.1.copies.modify id fun k => { k with counted := h.2 } }, false)) (s, true)
  r

/-- The same by their locations, where two addresses lead to one (R227, R263, R272). -/
def copyAliases (s : State) (c : Copy) (loc : Loc) : Bool :=
  c.otherSide.any fun r => (pageChunks r.1 r.2).any fun p =>
    match (s.engineLook c.core c.asid (s.block c.blk).launch (if c.tensor then needW else needR) p.1 p.2).2.tr with
    | .ok l _ _ => l.meets p.2 loc 1
    | _ => false

/-- Copy the next piece, if it can be; whether it was. -/
def copyPiece (s : State) (id : Nat) (c : Copy) : State × Bool :=
  let p := c.piece
  let launch := (s.block c.blk).launch
  let a := s.engineLook c.core c.asid launch needR p.1 p.2.2
  let b := a.1.engineLook c.core c.asid launch needW p.2.1 p.2.2
  match a.2.tr, b.2.tr with
  | .ok ls _ _, .ok ld _ _ =>
    let x := copyAcc c false a.2
    let y := copyAcc c true b.2
    let read := copyOrdered c id false x p.2.2
    let write := copyOrdered c id true y p.2.2
    if !s.copyMay c [read, write] then (s, false) else
    let w := b.1.copyPrepare id [x, y]
    if !w.2 then w else
    let t := ((w.1.took s.traceLen (read.ev c.after) s.traceLen).engineNote c.core c.asid a.2).engineNote c.core c.asid b.2
    let bs := (t.engineRead x p.2.2).mapIdx fun i v =>
      if c.overlaps (p.1 + BitVec.ofNat 64 i) (p.2.1 + BitVec.ofNat 64 i) || s.copyAliases c ((if c.tensor then ls else ld).at_ i)
      then Config.freeByte t.fresh (c.prog + i) else v
    let u := (((t.touchCaches x.1 x.2).engineWrite y bs).took t.traceLen (write.ev c.after) t.traceLen).touchCaches y.1 y.2
    ({ u with copies := u.copies.modify id fun k => { k with prog := k.prog + 1, counted := [] }, fresh := u.fresh + 1 }, true)
  | _, _ => (s.askTouches [a.2, b.2], false)

/-- Copy up to n pieces. -/
def copyPieces (s : State) (id : Nat) : Nat → State
  | 0 => s
  | n + 1 =>
    match s.copies.get? id with
    | none => s
    | some c =>
      if c.total ≤ c.prog then s else
      let r := s.copyPiece id c
      if r.2 then r.1.copyPieces id n else r.1

/-- The pieces of a CPYT's descriptor, in their pages (R271). -/
def descPieces (c : Copy) : List (DWord × Nat) :=
  (pageChunks c.src 64) ++ pageChunks (c.src + 64#64) 64

/-- A restored CPYT reads its descriptor again (R275), as a load of its lane. R275 does not say what becomes of one whose descriptor no
longer obeys R271: the copy fails with PROTECTION at the descriptor's address (DESIGN CHOICE, log entry 60). -/
def readDesc (s : State) (id : Nat) (c : Copy) : State × Bool :=
  let q := (descPieces c).foldl (fun (r : State × List Touch) p =>
    let a := r.1.engineLook c.core c.asid (s.block c.blk).launch needR p.1 p.2
    (a.1, r.2 ++ [a.2])) (s, [])
  let ok := q.2.all fun t => match t.tr with | .ok _ _ _ => true | _ => false
  if !ok then (s.askTouches q.2, false) else
  let xs := q.2.map (copyAcc c false)
  let reads := xs.map fun x => copyOrdered c id false x 64
  if !s.copyMay c reads then (s, false) else
  let r := q.1.copyPrepare id xs
  if !r.2 then r else
  let r1 := reads.foldl (fun (u : State) y => u.took u.traceLen (y.ev c.after) u.traceLen) r.1
  let t := (xs.foldl (fun (u : State) x => u.touchCaches x.1 x.2) (q.2.foldl (fun u k => u.engineNote c.core c.asid k) r1))
  let d := xs.flatMap fun x => r.1.engineRead x 64
  if !descOk d then (t.failCopy id c cProtection c.src, true) else
  let k := { c with desc := d, counted := [] }
  let k1 := { k with prog := k.ofTuple c.tup, asked := k.heavy }
  let u := { t with copies := t.copies.set id k1 }
  (if k1.heavy then u.askLeave c.core true id else u, true)

/-- The destination of a copy lies outside the device (R284). -/
def copyOut (s : State) (c : Copy) : Bool :=
  match (s.engineLook c.core c.asid (s.block c.blk).launch needW (if c.tensor then c.dword 8 else c.dst) 1).2.tr with
  | .ok loc _ _ => outwardLoc loc
  | _ => false

/-- The completion word of a `.post` copy, once every payload byte is written (R263): a write of the lane in its order
(R264). -/
def postWord (s : State) (id : Nat) (c : Copy) : State × Bool :=
  let a := s.engineLook c.core c.asid (s.block c.blk).launch needW c.caddr 8
  match a.2.tr with
  | .ok _ _ _ =>
    let x := copyAcc c true a.2
    let y := postOrdered c id x (s.copyOut c)
    if !s.copyMay c [y] then (s, false) else
    let r := a.1.copyPrepare id [x]
    if !r.2 then r else
    let t := r.1.engineNote c.core c.asid a.2
    (((t.engineWrite x (toBytes 8 c.cval.toNat)).took t.traceLen (y.ev c.after) t.traceLen).touchCaches x.1 x.2, true)
  | _ => (s.askTouches [a.2], false)

/-- Write the completion word if the copy asks for it, and end a copy whose every byte is written. -/
def finishCopy (s : State) (id : Nat) : State :=
  match s.copies.get? id with
  | none => s
  | some c =>
    if c.prog < c.total || (c.tensor && c.desc == []) then s
    else if !c.post then s.doneCopy id c
    else
      let r := s.postWord id c
      if r.2 then r.1.doneCopy id c else r.1

/-- Where a copy's next access lies, and whether it writes: a descriptor, a piece, or the completion word. -/
def nextAccesses (c : Copy) : List (DWord × Nat × Bool) :=
  if c.tensor && c.desc == [] then (descPieces c).map fun p => (p.1, p.2, false)
  else if c.prog < c.total then [(c.piece.1, c.piece.2.2, false), (c.piece.2.1, c.piece.2.2, true)]
  else if c.post then [(c.caddr, 8, true)] else []

/-- The look of a copy at one of its next accesses. -/
def copyLook (s : State) (c : Copy) (a : DWord × Nat × Bool) : State × Touch :=
  s.engineLook c.core c.asid (s.block c.blk).launch (if a.2.2 then needW else needR) a.1 a.2.1

/-- How a copy's next accesses are refused, if one is: the address, whether it writes, and how. -/
def copyBlocked (s : State) (c : Copy) : Option (DWord × Bool × Tr) :=
  (nextAccesses c).findSome? fun a =>
    match (s.copyLook c a).2.tr with
    | .ok _ _ _ => none
    | .wait _ => none
    | t => some (a.1, a.2.2, t)

/-- What the look at that access has pulled stays pulled (R327). -/
def copyPulled (s : State) (c : Copy) : State :=
  ((nextAccesses c).findSome? fun a =>
    match (s.copyLook c a).2.tr with
    | .ok _ _ _ => none
    | .wait _ => none
    | _ => some (s.copyLook c a).1).getD s

/-- A copy that its engine may serve now (R270, R272, R276, R293). -/
def copyRuns (s : State) (c : Copy) : Bool :=
  c.st == .pending && (s.block c.blk).resident && !c.saved && (!c.heavy || c.leave) && !(s.die (dieOf c.core)).hold

/-! ### Work that is abandoned (R168, R206, R265) -/

/-- The operations of the matrix queues that a test picks are abandoned (R168). -/
def dropMops (s : State) (p : Nat → MOp → Bool) : State :=
  s.cores.keys.foldl (fun t core => ((t.core core).mq.filter (p core)).foldl (fun (u : State) o => u.closeMop core o) t) s

/-- The copies, the matrix work and the rings of a context are abandoned; copies give their leave back (R168, R206, R265). -/
def abandon (s : State) (asid : Nat) : State :=
  let s1 := (s.copies.filter fun c => c.2.asid == asid).foldl (fun (t : State) c => t.returnLeave c.1 c.2) s
  let s2 := s1.dropMops fun _ o => (s1.blocks.get? o.blk).any fun b => b.asid == asid
  { s2 with
    copies := s2.copies.filter fun c => c.2.asid != asid
    rings := s2.rings.filter fun kr => (s.launch (kr.1 / 4 / Config.numCores)).asid != asid }

/-- The outstanding copies of a context. -/
def copiesOf (s : State) (asid : Nat) : Nat := (s.copies.filter fun c => c.2.asid == asid && c.2.outstanding).length

/-- The counts of a context's teardown grow. -/
def addTear (s : State) (asid : Nat) (more : List Nat) : State :=
  s.onCtx asid fun c => { c with tearing := c.tearing.map fun t => (t.1, t.2.mapIdx fun i n => n + more.getD i 0) }

/-- A group of a torn-down context has come to its instruction's end, where it stops: what its last instruction has queued is abandoned
with the rest (R338). -/
def atBoundary (s : State) (b g : Nat) : State :=
  let asid := (s.block b).asid
  if (s.ctx asid).tearing.isNone then s else
  ((s.onGroup b g fun k => { k with stopped := true }).addTear asid [0, 0, 0, s.copiesOf asid]).abandon asid

end State

end Sys2Proof.Machine
end

