-- ==== Sys2Proof/Machine/Engines.lean ====
section
/-!
DEFINITION. The engine instructions as they issue: CPY and CPYT (R261–R263, R272), CSEAL and CWAIT (R268, R269), XRED and
SPRED (R279, R280), ESAVE and ERES (R274, R275).
-/
namespace Sys2Proof.Machine

/-! ### CPY and CPYT -/

/-- The first executing lane whose control word has a reserved bit set (R262). -/
def badCtl (s : State) (m : DWord) (ctl : Lane → Word) : Option Word :=
  (lanesOf m).findSome? fun i => if ctlOk (ctl (s.cg.lane i)) then none else some (ctl (s.cg.lane i))

/-- The first executing lane whose completion word is misaligned (R263). -/
def badPost (s : State) (m : DWord) (f : FmtA) : Option DWord :=
  if !f.bi then none else
  (lanesOf m).findSome? fun i =>
    let a := (s.cg.lane i).vpair f.c.toNat
    if a.toNat % 8 ≠ 0 then some a else none

/-- The first window byte of a range that R214 refuses; its address. -/
def badWindow (s : State) (ranges : List (DWord × Nat)) : Option DWord :=
  let refused := fun (va : DWord) (n : Nat) => match s.windowed s.cb.launch s.cb.asid va n with | .ok _ _ _ => false | _ => true
  ranges.findSome? fun r => (pageChunks r.1 r.2).findSome? fun c =>
    if inWindow c.1 && refused c.1 c.2 then
      ((List.range c.2).find? fun i => refused (c.1 + BitVec.ofNat 64 i) 1).map fun i => c.1 + BitVec.ofNat 64 i
    else none

/-- The engine has room for the executing lanes (R266). -/
def engineRoom (s : State) (m : DWord) : Bool := decide (s.engineCount s.cb.core 0 + countLanes m ≤ 256)

/-- The path waits for room in the engine (R266): path A of the same issue may have left none for it. -/
def noEngine (s : State) (m : DWord) : Res :=
  noRoom s (decide (256 < s.engineCount s.cb.core s.cur.firstId + countLanes m)) (some 15)

/-- A copy of a lane at its start (R263, R267). -/
def newCopy (s : State) (m : DWord) (f : FmtA) (i : Nat) (tensor : Bool) (desc : List Byte) (src dst : DWord) (len : Nat)
    (ctl : Word) : Copy :=
  let l := s.cg.lane i
  { tensor := tensor, desc := desc, src := src, dst := dst, len := len, ctl := ctl, post := f.bi
    caddr := if f.bi then l.vpair f.c.toNat else 0#64
    cval := if f.bi then l.vpair (f.c.toNat + 2) else 0#64
    prog := 0, tup := 0#64, st := .pending, blk := s.cur.blk, grp := s.cur.grp, lane := i, core := s.cb.core
    asid := s.cb.asid, batch := 0#32, wraps := 0, clock := s.cb.reuse, flag := (s.cg.lane (lowest m)).flagFor f.u, leave := false, asked := false
    saved := false, reported := false, after := s.partner, counted := [] }

/-- Accept a copy: into the engine, and into its barrier's count (R138, R263). -/
def State.startCopy (s : State) (c : Copy) : State := (s.acceptCopy c).pendBar c true

/-- Registers of a CPY in a lane (R261). -/
def cpyLen (f : FmtA) (l : Lane) : Nat := (l.vreg f.b.toNat).toNat
def cpyCtl (f : FmtA) (l : Lane) : Word := l.vreg (f.b.toNat + 1)

def execCpy (f : FmtA) (s : State) : Host.Outcome State Fault Refusal :=
  run (.cpy f) s fun m =>
    match badCtl s m (cpyCtl f) with
    | some w => .trap m cIllegal (w.setWidth 64)
    | none =>
      match badPost s m f with
      | some a => .trap m cMisaligned a
      | none =>
        let ranges := (lanesOf m).flatMap fun i =>
          let l := s.cg.lane i
          [(l.vpair f.a.toNat, cpyLen f l), (l.vpair f.d.toNat, cpyLen f l)] ++
            (if f.bi then [(l.vpair f.c.toNat, 8)] else [])
        match badWindow s ranges with
        | some a => .trap m cProtection a
        | none =>
          if !engineRoom s m then noEngine s m
          else .ok ((lanesOf m).foldl (fun t i =>
            let l := s.cg.lane i
            t.startCopy (newCopy s m f i false [] (l.vpair f.a.toNat) (l.vpair f.d.toNat) (cpyLen f l) (cpyCtl f l))) s) 0#64

def execCpyt (f : FmtA) (s : State) : Host.Outcome State Fault Refusal :=
  run (.cpyt f) s fun m =>
    let lanes := lanesOf m
    let addr := fun i => (s.cg.lane i).vpair f.a.toNat
    let ctl := fun (l : Lane) => l.vreg f.b.toNat
    match badCtl s m ctl with
    | some w => .trap m cIllegal (w.setWidth 64)
    | none =>
      match lanes.find? fun i => (addr i).toNat % 64 ≠ 0 with
      | some i => .trap m cMisaligned (addr i)
      | none =>
        let ts := lanes.flatMap fun i => (rangeChunks 64 (addr i) 128).map fun c => s.touch needR i c.1 c.2
        serveTouches s m 0 ts fun t us =>
          readAtIssue t 0 (lanes.map fun i => (i, addr i, spansOf (us.filter fun u => u.lane == i))) fun r ds =>
            match (lanes.zip ds).find? fun d => !descOk d.2 with
            | some d => .trapWith r m cProtection (addr d.1)
            | none =>
              match badPost s m f with
              | some a => .trapWith r m cMisaligned a
              | none =>
                if !engineRoom s m then noEngine s m
                else .ok ((lanes.zip ds).foldl (fun u d =>
                  u.startCopy (newCopy s m f d.1 true d.2 (addr d.1) 0#64 0 (ctl (s.cg.lane d.1)))) r) 0#64

/-! ### Batches -/

/-- The number after a batch number, and the count of wraps (R268). -/
def Lane.nextBatch (l : Lane) : Word × Nat := if l.batch == 0xFFFFFFFF#32 then (1#32, l.wraps + 1) else (l.batch + 1#32, l.wraps)

/-- Sealing the lane's open set would pass its limit of batches that are not DONE (R266). -/
def sealPasses (s : State) (i : Nat) : Bool :=
  let b := s.cur.blk
  let g := s.cur.grp
  (s.laneCopies b g i).any (fun c => c.2.batch == 0#32 && !c.2.reported) && decide (16 ≤ (s.openBatches b g i).length)

/-- Seal a lane's open set (R268): of its copies, those accepted since it last sealed one. -/
def State.sealLane (s : State) (b g i : Nat) : State :=
  let n := (s.lane b g i).nextBatch
  let own := Agent.lane b g i
  { s.onLanes b g (laneBit i) fun _ l => { l with batch := n.1, wraps := n.2 } with
    trace := s.trace.map fun t =>
      { t with seals := (own, (n.2, n.1.toNat), ((t.seals.filter fun k => k.1 == own).map fun k => k.2.2.2).foldl Nat.max 0, s.nextId) ::
        t.seals }
    copies := s.copies.map fun kc =>
      if kc.2.blk == b && kc.2.grp == g && kc.2.lane == i && kc.2.batch == 0#32 && !kc.2.reported then
        (kc.1, { kc.2 with batch := n.1, wraps := n.2 })
      else kc }

def execCseal (f : FmtA) (s : State) : Host.Outcome State Fault Refusal :=
  run (.cseal f) s fun m =>
    if (lanesOf m).any (sealPasses s) then .stall (some 15)
    else .ok ((lanesOf m).foldl (fun t i => t.sealLane s.cur.blk s.cur.grp i) s) 0#64

/-- A batch that CWAIT n covers in a lane (R269). -/
def covered (l : Lane) (n : Word) (b : Nat × Nat) : Bool :=
  decide (b.1 < l.wraps) || (b.1 == l.wraps && decide (b.2 ≤ n.toNat))

/-- The copies of a batch. -/
def batchCopies (s : State) (i : Nat) (b : Nat × Nat) : List (Nat × Copy) :=
  (s.laneCopies s.cur.blk s.cur.grp i).filter fun c =>
    !c.2.reported && c.2.batch != 0#32 && c.2.wraps == b.1 && c.2.batch.toNat == b.2

/-- A batch is FAILED (R267); one whose copy failed in a save record is SAVED until it is restored (R276). -/
def batchFailed (s : State) (i : Nat) (b : Nat × Nat) : Bool := (batchCopies s i b).any fun c => c.2.hasFailed && !c.2.saved

/-- The covered batches of a lane that are not DONE, lowest number first (R269). -/
def coveredBatches (s : State) (i : Nat) (n : Word) : List (Nat × Nat) :=
  sortBy (fun a b => decide (a.2 < b.2) || (a.2 == b.2 && decide (a.1 ≤ b.1)))
    ((s.openBatches s.cur.blk s.cur.grp i).filter (covered (s.cg.lane i) n))

/-- A batch's failure is reported: it becomes DONE (R269). -/
def State.reportBatch (s : State) (i : Nat) (b : Nat × Nat) : State :=
  let ids := (batchCopies s i b).map Prod.fst
  { s with
    copies := (s.copies.filter fun c => !(ids.contains c.1 && c.2.hasFailed)).map fun c =>
      if ids.contains c.1 then (c.1, { c.2 with reported := true }) else c }

/-- The payload of the batches that a lane's CWAIT covers comes before what the lane does afterwards, toward every agent (R284). -/
def State.markBatches (s : State) (i : Nat) (n : Word) : State :=
  let own := Agent.lane s.cur.blk s.cur.grp i
  let self := [(s.cur.blk, s.cur.grp, laneBit i)]
  let done := match s.trace with
    | some t => (t.seals.filter fun k => k.1 == own && covered (s.cg.lane i) n k.2.1).map fun k => k.2.2
    | none => []
  s.mark fun _ => { State.noMark with froms := self, copies := done, tos := self, id := s.nextId }

/-- The failure of a batch: its code and the address at which its copy stopped. -/
def batchError (s : State) (i : Nat) (b : Nat × Nat) : Nat × DWord :=
  match (batchCopies s i b).findSome? fun c => match c.2.st with | .failed code a => some (code.toNat, a) | _ => none with
  | some r => r
  | none => (cPageFault, 0#64)

/-- A vector register in B, or the sign-extended immediate, where bit 6 is the flag choice (R80, R269, R279). -/
def rdBv (f : FmtA) (l : Lane) : Word := if f.bi then f.b.signExtend 32 else l.vreg f.b.toNat

def execCwait (f : FmtA) (s : State) : Host.Outcome State Fault Refusal :=
  run (.cwait f) s fun m =>
    let n := fun i => rdBv f (s.cg.lane i)
    let lanes := lanesOf m
    if lanes.any fun i => (coveredBatches s i (n i)).any fun b => !batchFailed s i b then .stall none
    else
      match lanes.findSome? fun i => ((coveredBatches s i (n i)).find? (batchFailed s i)).map fun b => (i, b) with
      | some r =>
        let e := batchError s r.1 r.2
        .trapWith (s.reportBatch r.1 r.2) (laneBit r.1) e.1 e.2
      | none => .ok (lanes.foldl (fun t i => t.markBatches i (n i)) s) 0#64

/-! ### Contributions -/

/-- OP of a reduction word (R279). -/
def redOp (f : FmtA) : Nat := bits f.c 2 4

/-- The package of a handle, and its window (R279). -/
def handleFid (h : Word) : Nat := bits h 20 12
def handleWin (h : Word) : Nat := bits h 0 8

/-- A handle that leads to a window's package (R280, R298). -/
def handleOk (s : State) (h : Word) : Bool :=
  bits h 8 12 == 0 && (handleFid h == s.hub.fid || s.route (handleFid h) != 0#8)

/-- The value a lane contributes (R280). -/
def contribValue (f : FmtA) (l : Lane) : BitVec 128 :=
  if f.ty == 11 then fix (l.vreg f.d.toNat).toNat
  else if tyWidth f.ty == 64 then (l.vpair f.d.toNat).setWidth 128 else (l.vreg f.d.toNat).setWidth 128

/-- A contribution that leaves for another package is a relaxed RED of its lane at its issue (R284): held back by the lane's earlier
accesses as a write is. One for a window of this package is ordered as it is applied. -/
def contribWaits (s : State) (h : Word) (i : Nat) : Bool :=
  handleFid h != s.hub.fid &&
  let es := s.earlier s.cur.blk s.cur.grp i s.nextId
  es.any fun x =>
    (x.reads || x.writes) && (x.reads || x.acq || es.any fun f => match f.op.kind with
      | .fence k => decide (x.id < f.id) && fenceOrders k x.reads true
      | _ => false)

/-- Contributions of the executing lanes (R280): those for a window of this package enter its hub's queue, the others
leave over a live link. -/
def contribute (s : State) (m : DWord) (f : FmtA) (elem : Lane → Nat → Word) : Res :=
  let lanes := lanesOf m
  let h := fun i => (s.cg.lane i).vreg f.a.toNat
  match lanes.find? fun i => !handleOk s (h i) with
  | some i => .trap m cProtection ((h i).setWidth 64)
  | none =>
    if lanes.any fun i => contribWaits s (h i) i then .stall none else
    .ok (lanes.foldl (fun (t : State) i =>
      if handleFid (h i) == s.hub.fid then
        let c : Contrib :=
          { id := t.nextId, fid := s.hub.fid, win := handleWin (h i), elem := (elem (s.cg.lane i) i).toNat, op := redOp f
            ty := f.ty, value := contribValue f (s.cg.lane i), count := 1, lane := some (s.cur.blk, s.cur.grp, i)
            launch := some s.cb.launch, msg := none, held := false }
        { t with hub := { t.hub with contribs := t.hub.contribs ++ [c] }, nextId := t.nextId + 1 }
      else t) s) 0#64

def execXred (f : FmtA) (s : State) : Host.Outcome State Fault Refusal :=
  run (.xred f) s fun m => contribute s m f fun l i => rdBv f l + BitVec.ofNat 32 i

def execSpred (f : FmtA) (s : State) : Host.Outcome State Fault Refusal :=
  run (.spred f) s fun m => contribute s m f fun l _ => l.vreg f.b.toNat

/-! ### ESAVE and ERES -/

/-- BLOCKID of a save record (R274). -/
def State.blockId (s : State) (b : Block) : DWord :=
  let place := match b.packed with
    | some _ => 0xFFFFFFFF
    | none => b.cohort % 65536 * 65536 + b.no % 65536
  BitVec.ofNat 64 ((s.launch b.launch).tag.toNat * 2 ^ 32 + place)

/-- The entry of a copy (R274). -/
def copyEntry (c : Copy) : List Byte :=
  toBytes 1 (if c.tensor then 2 else 1) ++
  toBytes 1 (match c.st with | .faulted _ => 2 | _ => 1) ++
  toBytes 1 c.grp ++ toBytes 1 c.lane ++ toBytes 4 c.batch.toNat ++ toBytes 4 c.ctl.toNat ++
  toBytes 1 (if c.post then 1 else 0) ++ toBytes 3 0 ++ toBytes 8 c.src.toNat ++
  toBytes 8 (if c.tensor then c.tuple.toNat else c.dst.toNat) ++
  toBytes 4 (if c.tensor then 0 else c.len) ++ toBytes 4 (if c.tensor then 0 else c.prog) ++
  toBytes 8 c.caddr.toNat ++ toBytes 8 c.cval.toNat ++ toBytes 8 0

/-- The copies of a block that ESAVE stops, in the order of acceptance (R275). -/
def State.liveCopies (s : State) (b : Nat) : List (Nat × Copy) :=
  s.copies.filter fun c => c.2.blk == b && c.2.outstanding && !c.2.saved

/-- The engine save record of a block (R274). -/
def State.engineRecord (s : State) (b : Nat) : List Byte :=
  let cs := s.liveCopies b
  toBytes 8 cs.length ++ toBytes 8 (s.blockId (s.block b)).toNat ++ List.replicate 48 0#8 ++ cs.flatMap fun c => copyEntry c.2

/-- The copies of a block leave the engine for its record; leave is returned (R275). -/
def State.saveCopies (s : State) (b : Nat) : State :=
  (s.liveCopies b).foldl (fun t c =>
    let u := t.returnLeave c.1 c.2
    { u with copies := u.copies.modify c.1 fun k => { k with saved := true, asked := false, leave := false } }) s

/-- Stores of 16 bytes over the pieces of a range, as accesses of a lane. -/
def pieceAccs (lane : Nat) (addr : DWord) : List (Loc × Nat × LeafBits) → List Byte → List Acc
  | [], _ => []
  | (loc, n, leaf) :: rest, bs =>
    ((List.range (n / 16)).map fun i =>
      { lane := lane, va := addr + BitVec.ofNat 64 (16 * i)
        loc := match loc with | .mem k => .mem (k + 16 * i) | .ls b o => .ls b (o + 16 * i)
        leaf := leaf, fresh := true, val := BitVec.ofNat 128 (wordAt bs (16 * i) 16), val2 := 0#64, done := false
        counted := [] }) ++
    pieceAccs lane (addr + BitVec.ofNat 64 n) rest (bs.drop n)

/-- Leave relaxed `.dev` stores of the elected lane outstanding (R275). -/
def State.openStores (s : State) (m : DWord) (f : FmtA) (accs : List Acc) : State :=
  let fl := (s.cg.lane (lowest m)).flagFor f.u
  let o : Op :=
    { kind := .store, blk := s.cur.blk, grp := s.cur.grp, core := s.cb.core, asid := s.cb.asid, flag := fl, wid := 4
      acq := false, rel := false, scope := 3, far := false, last := false, nud := 0, clock := s.cb.reuse, dest := 0
      pc := s.cur.pc, after := s.partner, accs := accs }
  s.openAt o

def execEsave (f : FmtA) (s : State) : Host.Outcome State Fault Refusal :=
  run (.esave f) s fun m =>
    let addr := matAddr s m f
    let bs := s.engineRecord s.cur.blk
    matRange s m 64 needW 1 addr bs.length fun t spans =>
      .ok ((t.saveCopies s.cur.blk).openStores m f (pieceAccs (lowest m) addr spans bs)) 0#64

/-- An entry read from a record, as the copy it queues again (R275). -/
def copyOfEntry (s : State) (e : List Byte) : Copy :=
  let tensor := wordAt e 0 1 == 2
  let d : DWord := BitVec.ofNat 64 (wordAt e 24 8)
  { tensor := tensor, desc := [], src := BitVec.ofNat 64 (wordAt e 16 8), dst := if tensor then 0#64 else d
    len := wordAt e 32 4, ctl := BitVec.ofNat 32 (wordAt e 8 4), post := wordAt e 12 1 == 1
    caddr := BitVec.ofNat 64 (wordAt e 40 8), cval := BitVec.ofNat 64 (wordAt e 48 8)
    prog := wordAt e 36 4, tup := if tensor then d else 0#64, st := .pending, blk := s.cur.blk, grp := wordAt e 2 1
    lane := wordAt e 3 1, core := s.cb.core, asid := s.cb.asid, batch := BitVec.ofNat 32 (wordAt e 4 4), wraps := 0
    clock := s.cb.reuse, flag := none, leave := false, asked := false, saved := false, reported := false
    after := none
    counted := [] }

/-- The checks of an entry (R275). -/
def entryOk (s : State) (e : List Byte) : Bool :=
  let k := wordAt e 0 1
  (k == 1 || k == 2) && (wordAt e 1 1 == 1 || wordAt e 1 1 == 2) && decide (wordAt e 12 1 ≤ 1) &&
  ctlOk (BitVec.ofNat 32 (wordAt e 8 4)) && allZero ((e.drop 13).take 3) && allZero ((e.drop 56).take 8) &&
  (k == 1 || allZero ((e.drop 32).take 8)) &&
  decide (wordAt e 3 1 < 64) && ((s.cb.groups.get? (wordAt e 2 1)).any fun g => (g.lane (wordAt e 3 1)).kind != .empty)

/-- The saved copy that an entry brings back: the first of its lane and batch. A CSEAL between ESAVE and ERES seals the saved copies of the
open set too, so that the entries of BATCH 0 match none of them: they queue further copies of the open set, and the sealed batch stays
SAVED. The manual does not say (DESIGN CHOICE, log entry 60). -/
def savedMatch (s : State) (c : Copy) : Option (Nat × Copy) :=
  s.copies.find? fun k =>
    k.2.saved && k.2.blk == c.blk && k.2.grp == c.grp && k.2.lane == c.lane && k.2.batch == c.batch

/-- Queue a copy again (R275): it takes the place of the saved copy it came from, with that copy's flag and its batch; a
failure that a resolve record brought meanwhile stands (R276). -/
def State.requeue (s : State) (c : Copy) : State :=
  match savedMatch s c with
  | some (id, old) =>
    let s1 := { s with copies := s.copies.erase id }
    let c1 : Copy := { c with
      flag := old.flag, wraps := old.wraps, clock := old.clock, reported := old.reported
      st := match old.st with | .failed code a => .failed code a | _ => .pending }
    { s1 with
      copies := s1.copies.set s1.nextId c1
      nextId := s1.nextId + 1
      trace := if c1.batch == 0#32 then s1.trace else s1.trace.map fun t =>
        { t with seals := (Agent.lane c1.blk c1.grp c1.lane, (c1.wraps, c1.batch.toNat), s1.nextId, s1.nextId + 1) :: t.seals } }
  | none =>
    let c1 := { c with wraps := (s.lane c.blk c.grp c.lane).wraps }
    ({ s with copies := s.copies.set s.nextId c1, nextId := s.nextId + 1 } : State).pendBar c1 true

def execEres (f : FmtA) (s : State) : Host.Outcome State Fault Refusal :=
  run (.eres f) s fun m =>
    let addr := matAddr s m f
    matRange s m 64 needR 0 addr 64 fun t hs =>
      readAtIssue t 0 [(lowest m, addr, hs)] fun h hb =>
        let hd := hb.headD []
        let n := wordAt hd 0 8
        if wordAt hd 8 8 != (s.blockId s.cb).toNat || 256 < n || !allZero ((hd.drop 16).take 48) ||
            256 < s.engineCount s.cb.core 0 + n then .trapWith h m cProtection addr
        else if n = 0 then .ok h 0#64
        else
          matRange h m 64 needR 0 (addr + 64#64) (64 * n) fun u es =>
            readAtIssue u 0 [(lowest m, addr + 64#64, es)] fun v eb =>
              let ents := (List.range n).map fun i => (((eb.headD []).drop (64 * i)).take 64)
              match (List.range n).find? fun i => !entryOk s (ents.getD i []) with
              | some i => .trapWith v m cProtection (addr + BitVec.ofNat 64 (64 + 64 * i))
              | none => .ok (ents.foldl (fun v e => v.requeue (copyOfEntry s e)) v) 0#64

end Sys2Proof.Machine
end

