-- ==== Sys2Proof/Machine/Hub.lean ====
section
/-!
DEFINITION. The hub's accesses to memory: virtual ones in a context's address space (R332, R335, R191), physical ones of its
units, and the records it appends (R342). Physical addresses that commands give name HBM (log entry 25).
-/
namespace Sys2Proof.Machine

/-- A core number that no core has: the hub's walks meet no cluster TLB. -/
def hubCore : Nat := 2 ^ 20

/-- A touch leads to bytes. -/
def Touch.served (t : Touch) : Bool := match t.tr with | .ok _ _ _ => true | _ => false

namespace State

/-! ### Physical accesses -/

/-- Bytes that a unit of the hub reads. -/
def hubRead (s : State) (key n : Nat) : List Byte := s.memBytes key n

/-- A physical range of HBM that holds frames. -/
def hbmRange (s : State) (pa n : Nat) : Bool :=
  decide (n = 0) || (decide (pa < 2 ^ 52) && s.frameExists (memKey 0 pa) && s.frameExists (memKey 0 (pa + n - 1)))

/-! ### Virtual accesses -/

/-- What an access of a core, or of the hub at a home, leaves behind (R259, R288, R319). -/
def virtNote (s : State) (core asid : Nat) (t : Touch) : State :=
  if core != hubCore then s.engineNote core asid t else
  match t.tr with
  | .ok (.mem k) _ _ => (s.noteSwm t.tr).touchDomains asid (s.homeDomains k)
  | _ => s

/-- The page-sized touches of a range of a context's address space, for a core or for the hub (R332). -/
def virtTouches (s : State) (core asid : Nat) (need : Need) (va : DWord) (n : Nat) : List Touch :=
  (pageChunks va n).map fun c =>
    { lane := 0, va := c.1, n := c.2
      tr := if inWindow c.1 then .protection else s.translated core asid need c.1 c.2 }

/-- What a look at a range waits for, if it does: tables, the lines of migrating pages, and, for a read of the hub, the bytes at
their homes (R303, R326, R356). -/
def virtWaits (s : State) (core asid : Nat) (need : Need) (va : DWord) (n : Nat) : Option (List Ask) :=
  let ts := s.virtTouches core asid need va n
  let q := pullTouches s ts
  let bytes := if core == hubCore && need.r then q.2.flatMap fun t => match t.tr with
    | .ok (.mem k) _ _ => q.1.homeAsks k t.n
    | _ => [] else []
  if ts.any Touch.waits then some (asksOf ts)
  else if !ts.all Touch.served then none
  else if q.2.any Touch.waits then some (asksOf q.2)
  else if q.2.all Touch.served && bytes ≠ [] then some bytes
  else none

/-- Where a range of a context's address space leads (R332, R335): the lines of migrating pages are pulled first (R326), and all
pages of the range may be used or none. -/
def virtLook (s : State) (core asid : Nat) (need : Need) (va : DWord) (n : Nat) : State × Option (List Touch) :=
  let ts := s.virtTouches core asid need va n
  if !ts.all Touch.served then (s, none) else
  let q := pullTouches s ts
  if !q.2.all Touch.served then (q.1, none) else
  (q.2.foldl (fun t u => t.virtNote core asid u) q.1, some (q.2.map fun u => { u with tr := q.1.asSwm u.tr }))

/-- What came from outside for a look of the hub has been used (R303). -/
def spendLook (s : State) (asid : Nat) (va : DWord) (n : Nat) : State :=
  if s.hub.fetched = [] then s else
  s.spend ((s.virtTouches hubCore asid needR va n).flatMap fun t =>
    s.walkSectors t.va [5, 4, 3, 2, 1] (memKey 0 (s.ctx asid).root) ++ match t.tr with | .ok (.mem k) _ _ => rangeOf k t.n | _ => [])

/-- Read a range of a context's address space at its homes (R332). -/
def virtRead (s : State) (asid : Nat) (va : DWord) (n : Nat) : Option (List Byte) :=
  let q := s.virtLook hubCore asid needR va n
  q.2.map fun ts => ts.flatMap fun t => match t.tr with
    | .ok (.mem k) _ _ => (List.range t.n).map fun i => q.1.l2Byte hubDie (k + i)
    | _ => []

/-- The held accesses from a place in their order are a context's completion words (R338). -/
def heldFor (s : State) (asid n : Nat) : State :=
  { s with hub := { s.hub with waiting := s.hub.waiting.mapIdx fun i h => if n ≤ i then { h with ctx := some asid } else h } }

/-- The held accesses from a place in their order are those of the command that runs. -/
def ownFrom (s : State) (n : Nat) : State :=
  { s with hub := { s.hub with waiting := s.hub.waiting.mapIdx fun i h => if n ≤ i then { h with own := true } else h } }

/-- Write a completion word in a context's address space as the hub (R335, R191), that of a launch, or of a record that was refused
(launch 0); whether it could be written. -/
def virtWrite (s : State) (asid : Nat) (va v : DWord) (launch : Nat) : State × Bool :=
  let q := s.virtLook hubCore asid needW va 8
  match q.2 with
  | some [t] =>
    (match t.tr with
      | .ok (.mem k) _ _ =>
        (((q.1.spendWalk asid va).hubUpdate k (.word v (2 * launch + 2))).heldFor asid q.1.hub.waiting.length, true)
      | _ => (q.1, false))
  | _ => (q.1, false)

/-! ### Records -/

/-- A KIND 11 record of a launch (R342). -/
def post11 (s : State) (asid : Nat) (device : Option (Nat × Nat × Word)) (desc word : DWord) (flags : Nat) : State :=
  let d := device.getD (0, 0, 0#32)
  s.post (fqBytes desc word asid 11 d.1 d.2.1 0 (flags + if device.isSome then 4 else 0) d.2.2)

/-- What the write of a launch's completion word waits for, if it does. -/
def wordWaits (s : State) (asid : Nat) (caddr : DWord) : Option (List Ask) :=
  if caddr == 0#64 || caddr.toNat % 8 ≠ 0 then none else s.virtWaits hubCore asid needW caddr 8

/-- Write a launch's completion word, if it has one (R335): whether it could be written. -/
def putWord (s : State) (asid launch : Nat) (caddr word : DWord) : State × Bool :=
  if caddr == 0#64 then (s, true) else if caddr.toNat % 8 ≠ 0 then (s, false) else
  s.virtWrite asid caddr word launch

/-- A launch fails or is refused (launch 0): its word with ERR, its record, FAILED (R330, R335); neither word nor record after its
context's teardown (R310, R338). -/
def failWord (s : State) (asid launch : Nat) (device : Option (Nat × Nat × Word)) (desc caddr : DWord) (cls code : Nat) : State :=
  if (s.ctx asid).tearing.isSome then s else
  let word : DWord := (1#64 <<< 63) ||| BitVec.ofNat 64 (cls * 256 + code)
  let r := s.putWord asid launch caddr word
  (r.1.post11 asid device desc word (if r.2 then 0 else 1)).statusAdd asid 16 1

end State

end Sys2Proof.Machine
end

