-- ==== Sys2Proof/Machine/Launches.lean ====
section
/-!
DEFINITION. Launch descriptors, ladder descriptors and staging tables, and the checks of a launch in their order (R188, R195,
R225, R333, R334).
-/
namespace Sys2Proof.Machine

/-- Groups of a block of n lanes (R23). -/
def groupsFor (lanes : Nat) : Nat := (lanes + 63) / 64

/-- n / d, rounded up. -/
def ceilDiv (n d : Nat) : Nat := (n + d - 1) / d

/-! ### Ladder descriptors (R188) -/

/-- A rung's bytes. -/
def rungBytes (d : List Byte) (r : Nat) : List Byte := (d.drop (64 + 32 * r)).take 32

def rungOf (d : List Byte) (r : Nat) : Rung :=
  let b := rungBytes d r
  { entry := BitVec.ofNat 64 (wordAt b 0 8), frame := wordAt b 8 1, regs := wordAt b 10 2, hold := wordAt b 12 4
    ring := wordAt b 16 2 }

/-- REGS of a launch or a rung (R188, R333). -/
def regsOk (n : Nat) : Bool := n % 8 == 0 && decide (8 ≤ n) && decide (n ≤ 1024)

/-- A ladder descriptor of a launch, if R188 allows it. -/
def readLadder (d : List Byte) (items : Nat) (entry : DWord) (regs : Nat) : Option Ladder :=
  let nr := wordAt d 4 1
  let rstride := wordAt d 16 4
  let ok :=
    wordAt d 0 4 == items && decide (2 ≤ nr) && decide (nr ≤ 4) && allZero ((d.drop 5).take 3) && wordAt d 8 8 % 4 == 0 &&
    decide (4 ≤ rstride) && decide (rstride ≤ 128) && rstride % 4 == 0 && allZero ((d.drop 20).take 4) &&
    wordAt d 24 8 % 8 == 0 && allZero ((d.drop 40).take 24) &&
    (List.range 4).all fun r =>
      if nr ≤ r then allZero (rungBytes d r)
      else
        let k := rungOf d r
        allZero ((rungBytes d r).drop 18) && wordAt (rungBytes d r) 9 1 == 0 && regsOk k.regs && decide (k.frame ≤ k.regs) &&
        if r = 0 then k.entry == entry && k.frame == 0 && k.regs == regs && k.hold == 0 && k.ring == 0
        else decide (1 ≤ k.frame) && decide (k.frame ≤ 16) && decide (1 ≤ k.hold) && decide (1 ≤ k.ring) &&
          decide (k.ring ≤ 1024)
  if ok then some
    { items := items, rbase := BitVec.ofNat 64 (wordAt d 8 8), rstride := rstride
      doneAddr := BitVec.ofNat 64 (wordAt d 24 8), doneVal := BitVec.ofNat 64 (wordAt d 32 8)
      rungs := (List.range nr).map (rungOf d) }
  else none

/-- Rungs above 0. -/
def Ladder.upper (l : Ladder) : List Rung := l.rungs.tail

/-- Local store that a ladder's rings take on a core (R188). -/
def ringBytes : Option Ladder → Nat
  | some l => (l.upper.map fun r => r.ring * r.frame * 4).sum
  | none => 0

/-- Registers, and groups or blocks, that a ladder reserves on a core (R195). -/
def rungRegs : Option Ladder → Nat
  | some l => (l.upper.map Rung.regs).sum
  | none => 0

def rungCount : Option Ladder → Nat
  | some l => l.upper.length
  | none => 0

/-! ### Staging tables (R225) -/

def stageOf (t : List Byte) (i : Nat) : Stage :=
  let b := (t.drop (24 * i)).take 24
  { src := BitVec.ofNat 64 (wordAt b 0 8), stride := BitVec.ofNat 64 (wordAt b 8 8), dst := wordAt b 16 3, len := wordAt b 19 3 }

/-- A staging entry that R225 allows. -/
def stageOk (t : List Byte) (lstore i : Nat) : Bool :=
  let e := stageOf t i
  allZero ((t.drop (24 * i + 22)).take 2) &&
  (e.len == 0 || (e.src.toNat % 16 == 0 && e.dst % 16 == 0 && e.len % 16 == 0 && decide (e.dst + e.len ≤ lstore)))

/-! ### The checks of R334 -/

/-- What a launch is checked for besides its descriptor: the completion word, the dependence words, NDEP, and whether the
record's reserved fields are zero. -/
structure LCheck where
  desc : DWord
  /-- the descriptor's bytes, if its address is aligned and may be read -/
  body : Option (List Byte)
  caddr : DWord
  deps : List DWord
  ndep : Nat
  clean : Bool
  /-- the device queue is full (LAUNCH) -/
  full : Bool
  deriving DecidableEq, Repr

/-- What may be read at a virtual address, at its alignment. -/
def readable (s : State) (asid align : Nat) (va : DWord) (n : Nat) : Option (List Byte) :=
  if va.toNat % align ≠ 0 then none else s.virtRead asid va n

/-- What the command processor reads for a launch besides its descriptor: addresses and bytes (R334). -/
def launchReads (c : LCheck) (d : List Byte) : List (DWord × Nat) :=
  let ladder : DWord := BitVec.ofNat 64 (wordAt d 16 8)
  let nstage := Nat.min (wordAt d 46 1) 8
  (if ladder == 0#64 then [] else [(ladder, 192)]) ++
  (if nstage = 0 then [] else [(BitVec.ofNat 64 (wordAt d 24 8), 24 * nstage)]) ++ c.deps.map fun a => (a, 8)

/-- The state once it has read them: migrating lines pulled, domains touched, what came from outside used (R288, R303, R326). -/
def State.launchLook (s : State) (asid : Nat) (c : LCheck) : State :=
  match c.body with
  | some d => (launchReads c d).foldl (fun t r => (t.virtLook hubCore asid needR r.1 r.2).1.spendLook asid r.1 r.2) s
  | none => s

/-- What the check of a launch waits for, if it does: bytes that it reads, or the translation of its completion word. -/
def State.launchWaits (s : State) (asid : Nat) (c : LCheck) : Option (List Ask) :=
  let rs : List (DWord × Nat) := match c.body with | some d => launchReads c d | none => []
  (rs.findSome? fun r => s.virtWaits hubCore asid needR r.1 r.2).or (s.wordWaits asid c.caddr)

/-- The launch a descriptor describes, or the status code of its refusal (R333, R334). -/
def checkLaunch (s : State) (asid : Nat) (c : LCheck) : Except Nat Launch :=
  match c.body with
  | none => .error 1
  | some d =>
    let ladderVa : DWord := BitVec.ofNat 64 (wordAt d 16 8)
    let stageVa : DWord := BitVec.ofNat 64 (wordAt d 24 8)
    let nstage := wordAt d 46 1
    let cohorts := wordAt d 32 4
    let lanes := wordAt d 36 2
    let regs := wordAt d 38 2
    let lstore := wordAt d 40 4
    let blocks := wordAt d 44 1
    let oslots := wordAt d 45 1
    let entry : DWord := BitVec.ofNat 64 (wordAt d 0 8)
    let lbytes := if ladderVa == 0#64 then some [] else readable s asid 64 ladderVa 192
    let sbytes := if nstage = 0 then some [] else s.virtRead asid stageVa (24 * Nat.min nstage 8)
    match lbytes, sbytes with
    | some lb, some sb =>
      if c.deps.any (fun a => (readable s asid 8 a 8).isNone) then .error 1
      else if c.caddr != 0#64 && (c.caddr.toNat % 8 ≠ 0 || (s.virtLook hubCore asid needW c.caddr 8).2.isNone) then .error 1
      else if !c.clean || bits (d.getD 47 0#8) 1 7 != 0 || !allZero ((d.drop 52).take 12) then .error 2
      else if cohorts < 1 || 65536 < cohorts || blocks < 1 || 8 < blocks || 64 < oslots || 4 < c.ndep || 8 < nstage ||
          (nstage = 0 && stageVa != 0#64) then .error 3
      else if lanes < 1 || 1024 < lanes then .error 4
      else if !regsOk regs || 4096 < groupsFor lanes * regs then .error 5
      else
        let lad := if ladderVa == 0#64 then none else readLadder lb (cohorts * blocks * lanes) entry regs
        if 32 < ceilDiv (lstore + ringBytes lad) Config.bankBytes + ceilDiv oslots 4 || 1572864 < lstore then .error 6
        else if (ladderVa != 0#64 && lad.isNone) || 48 < groupsFor lanes + rungCount lad || 16 < 1 + rungCount lad ||
            4096 < groupsFor lanes * regs + rungRegs lad then .error 7
        else if !(List.range nstage).all (stageOk sb lstore) then .error 8
        else if c.full then .error 9
        else if entry.toNat % 8 ≠ 0 then .error 10
        else .ok { Launch.init with
          asid := asid, desc := c.desc, entry := entry, arg := BitVec.ofNat 64 (wordAt d 8 8), cohorts := cohorts
          lanes := lanes, regs := regs, lstore := lstore, blocks := blocks, oslots := oslots
          spread := (d.getD 47 0#8).getLsbD 0, tag := BitVec.ofNat 32 (wordAt d 48 4), ladder := lad
          stages := (List.range nstage).map (stageOf sb), caddr := c.caddr }
    | _, _ => .error 1

/-- Launches of a context, by state. -/
def State.launchesOf (s : State) (asid : Nat) (p : Launch → Bool) : Nat :=
  (s.launches.filter fun l => l.2.asid == asid && p l.2).length

/-- The launches in a context's device queue: those that no cohort has been placed of (R336). -/
def State.deviceQueued (s : State) (asid : Nat) : Nat :=
  s.launchesOf asid fun l => l.device.isSome && (l.st == .waiting || l.st == .ready)

/-- What comes before every access of a launch that is accepted now: the accesses of the lanes that launch it (R351), or what the host has
written (R331). -/
def State.markLaunch (s : State) (device : Bool) : State :=
  s.mark fun n =>
    if device then
      { State.noMark with
        froms := s.withFroms [(s.cur.blk, s.cur.grp, s.cur.lanes)], upto := s.nextId, launch := some s.nextId, scope := 3 }
    else { State.noMark with host := n, launch := some s.nextId }

/-- An accepted launch joins the hub's launches (R336). -/
def State.addLaunch (s : State) (l : Launch) : State :=
  { s.markLaunch l.device.isSome with
    launches := s.launches.set s.nextId
      { l with ageFrom := s.hub.cycle, roomFrom := none, readyOrder := s.nextId, turn := s.nextId }
    nextId := s.nextId + 1 }

end Sys2Proof.Machine
end

