-- ==== Sys2Proof/Machine/Rungs.lean ====
section
/-!
DEFINITION. The ladder instructions (R189, R199–R203), and the triggers of a ring (R190, R196, R198).
-/
namespace Sys2Proof.Machine

/-! ### Rings -/

/-- The ladder of the launch at issue. -/
def ladderNow (s : State) : Option Ladder := (s.launch s.cb.launch).ladder

/-- The ring of a rung on the core at issue. -/
def ringNow (s : State) (k : Nat) : Ring := s.ring (ringKey s.cb.core s.cb.launch k)

/-- The lanes that are live on a core for a rung's draining: ordinary lanes of lower rungs of the launch (R190, R198). -/
def State.liveBelow (s : State) (core launch rung : Nat) : Bool :=
  s.blocks.any fun kb =>
    kb.2.resident && kb.2.core == core && kb.2.launch == launch &&
    kb.2.groups.any fun kg => decide (kg.2.rung < rung) && kg.2.lanes.any fun l => l.kind == .ordinary

/-- A rung drains on a core (R190). -/
def State.drains (s : State) (core launch rung : Nat) : Bool :=
  !s.liveBelow core launch rung &&
  (List.range rung).all fun r => (s.ring (ringKey core launch r)).frames == []

/-- The trigger that a ring fires by, as the event it counts: full, hold, drain, forced (R190, R197). A drain is judged afresh
at each decision: a lower-rung block placed meanwhile ends it (DESIGN CHOICE, log entry 73). -/
def State.trigger (s : State) (core launch rung : Nat) : Option Nat :=
  let r := s.ring (ringKey core launch rung)
  match r.frames with
  | [] => none
  | f :: _ =>
    let hold := (((s.launch launch).ladder.map fun l => (l.rungs.getD rung
      { entry := 0#64, frame := 0, regs := 0, hold := 0, ring := 0 }).hold)).getD 0
    if 64 ≤ r.frames.length then some 17
    else if r.firing == some 18 || hold ≤ (s.clock core - f.stamp).toNat then some 18
    else if s.drains core launch rung then some 19
    else if r.forced then some 20
    else none

/-! ### Instructions -/

/-- The rung that B names. -/
def rungArg (f : FmtA) : Nat := f.b.toNat

/-- The rung of a ladder that ESC may escalate to (R200). -/
def escRung (s : State) (f : FmtA) : Option Rung :=
  match ladderNow s with
  | none => none
  | some l => if rungArg f ≤ s.cg.rung then none else l.rungs[rungArg f]?

/-- Some executing lane has its DONE bit set. -/
def anyDone (s : State) (m : DWord) : Bool := (lanesOf m).any fun i => (s.cg.lane i).done

/-- A register of a run that some executing lane still waits for (R81). -/
def runPending (s : State) (m : DWord) (first n : Nat) : Bool :=
  (lanesOf m).any fun i => (List.range n).any fun k => s.pendingHere i (first + k)

/-- A lane's frame (R190, R196), and the lanes whose accesses come before those of the lane that receives it (R204). -/
def frameOf (s : State) (first n i : Nat) : Frame :=
  { item := (s.cg.lane i).item, words := (List.range n).map fun k => (s.cg.lane i).vreg (first + k)
    stamp := s.clock s.cb.core
    froms := (s.cg.lane i).froms ++ [{ blk := s.cur.blk, grp := s.cur.grp, lane := i, id := s.nextId }] }

/-- ESC (R200): lanes enter as far as the ring has room. Path B, where path A of the same issue has filled the ring, issues with no
lane entering: its lanes stay at the ESC. -/
def execEsc (f : FmtA) (s : State) : Host.Outcome State Fault Refusal :=
  run (.esc f) s fun m =>
    match escRung s f with
    | none => .trap m cLadder 0#64
    | some r =>
      let a := f.a.toNat
      if s.cb.regs < a + r.frame || anyDone s m then .trap m cLadder 0#64
      else if runPending s m a r.frame then .stall (some 0)
      else
        let ring := ringNow s (rungArg f)
        let go := (lanesOf m).take (r.ring - ring.frames.length)
        if go = [] && !s.cur.follows then .stall none
        else
          let gm := maskOf fun i => go.contains i
          let s1 := s.setRing (ringKey s.cb.core s.cb.launch (rungArg f))
            { ring with frames := ring.frames ++ go.map (frameOf s a r.frame) }
          .ok (s1.retireLanes s.cur.blk s.cur.grp gm) m

/-- The address of a lane's record (R201). -/
def recordAddr (l : Ladder) (x : Lane) : DWord := l.rbase + BitVec.ofNat 64 (x.item.toNat * l.rstride)

/-- The words of a lane's record in one piece of it, as stores (R201). -/
def recordAccs (s : State) (l : Ladder) (first : Nat) (t : Touch) : List Acc :=
  let base := recordAddr l (s.cg.lane t.lane)
  (List.range (t.n / 4)).map fun i =>
    let va := t.va + BitVec.ofNat 64 (4 * i)
    let w := (va - base).toNat / 4
    let a := t.acc ((s.cg.lane t.lane).vreg (first + w) |>.setWidth 128) 0#64
    { a with va := va, loc := match a.loc with | .mem k => .mem (k + 4 * i) | .ls b o => .ls b (o + 4 * i) }

def execLdone (f : FmtA) (s : State) : Host.Outcome State Fault Refusal :=
  run (.ldone f) s fun m =>
    match ladderNow s with
    | none => .trap m cLadder 0#64
    | some l =>
      let a := f.a.toNat
      if s.cb.regs < a + l.rstride / 4 || anyDone s m then .trap m cLadder 0#64
      else if runPending s m a (l.rstride / 4) then .stall (some 0)
      else
        let ts := (lanesOf m).flatMap fun i =>
          (rangeChunks 4 (recordAddr l (s.cg.lane i)) l.rstride).map fun c => s.touch needW i c.1 c.2
        serveTouches s m 1 ts fun t us =>
          let o : Op :=
            { kind := .ldone, blk := s.cur.blk, grp := s.cur.grp, core := s.cb.core, asid := s.cb.asid, flag := none
              wid := 2, acq := false, rel := false, scope := 3, far := false, last := false, nud := 0
              clock := s.cb.reuse, dest := 0, pc := s.cur.pc, after := s.partner
              accs := us.flatMap (recordAccs s l a) }
          let t1 := t.onExec m fun _ x => { x with done := true }
          .ok { t1 with ops := t1.ops.set t1.nextId o, nextId := t1.nextId + 1 } 0#64

/-- The state word of a ring (R202). -/
def ringWord (s : State) (l : Ladder) (k : Nat) : DWord :=
  if k = 0 then 0#64 else
  let cap := ((l.rungs[k]?).map Rung.ring).getD 0
  BitVec.ofNat 64 ((if s.drains s.cb.core s.cb.launch k then 2 ^ 31 else 0) + cap % 2048 * 2048 +
    (ringNow s k).frames.length % 2048)

def execLqry (f : FmtA) (s : State) : Host.Outcome State Fault Refusal :=
  run (.lqry f) s fun m =>
    match ladderNow s with
    | none => .trap m cLadder 0#64
    | some l =>
      if l.rungs.length ≤ rungArg f then .trap m cLadder 0#64
      else .ok (s.onExec m fun _ x => x.put f.d.toNat 32 (ringWord s l (rungArg f))) 0#64

/-- LDRAIN (R203). With an ESC to the same ring on path B of one issue, path A's effect comes first (R199; log entry 73). -/
def execLdrain (f : FmtA) (s : State) : Host.Outcome State Fault Refusal :=
  run (.ldrain f) s fun m =>
    match ladderNow s with
    | none => .trap m cLadder 0#64
    | some l =>
      let k := rungArg f
      if k = 0 || l.rungs.length ≤ k then .trap m cLadder 0#64
      else
        let r := ringNow s k
        .ok (s.setRing (ringKey s.cb.core s.cb.launch k) { r with forced := true }) 0#64

end Sys2Proof.Machine
end

