-- ==== Sys2Proof/Machine/System.lean ====
section
/-!
DEFINITION. The instructions of major 0x37 (R348–R353): TRAP and BKPT, the system registers (R52–R58), LAUNCH and LSTAT, RTE.
-/
namespace Sys2Proof.Machine

/-! ### Traps -/

def execTrap (f : FmtI) (s : State) : Host.Outcome State Fault Refusal :=
  run (.trap f) s fun m => .trap m cTrap (f.imm.setWidth 64)

def execBkpt (f : FmtI) (s : State) : Host.Outcome State Fault Refusal :=
  run (.bkpt f) s fun m => .trap m cBreak 0#64

/-! ### System registers -/

/-- EPTC of a block: the progress point of its oldest outstanding CPYT (R56, R273). -/
def State.eptcOf (s : State) (blk : Nat) : DWord :=
  match s.copies.find? fun c => c.2.blk == blk && c.2.tensor && c.2.outstanding && !c.2.saved with
  | some c => c.2.tuple
  | none => 0#64

/-- The value of a system register (R52–R58). -/
def sysReg (s : State) (n : Nat) : DWord :=
  match n with
  | 0x000 => (s.core s.cb.core).bankrole
  | 0x001 => (s.ctx s.cb.asid).trapvec
  | 0x002 => (s.ctx s.cb.asid).nearq
  | 0x003 => (s.core s.cb.core).tcb
  | 0x010 => s.epmmOf s.cur.blk
  | 0x011 => s.eptcOf s.cur.blk
  | 0x020 => (s.ctx s.cb.asid).tdmask
  | 0x021 => s.boot.level.setWidth 64
  | _ => 0#64

def execSysr (f : FmtI) (s : State) : Host.Outcome State Fault Refusal :=
  run (.sysr f) s fun _ => .ok (s.putU f.d.toNat 64 (sysReg s f.imm.toNat)) 0#64

/-- A TRAPVEC value with a reserved bit set (R54). -/
def trapvecReserved (v : DWord) : Bool := bits v 57 7 != 0 || bits v 1 2 != 0

def execSysw (f : FmtI) (s : State) : Host.Outcome State Fault Refusal :=
  run (.sysw f) s fun m =>
    let v := s.cg.ureg f.d.toNat
    if f.imm.toNat ≠ 1 then .trap m cProtection 0#64
    else if trapvecReserved v then .trap m cIllegal 0#64
    else .ok (s.onCtx s.cb.asid fun c => { c with trapvec := v }) 0#64

/-! ### LAUNCH and LSTAT -/

/-- What KIND 11 records report of a device-side launch's issuer: z.group, core, block field (R342). -/
def issuer (s : State) : Option (Nat × Nat × Word) := some (s.cur.grp, s.cb.core, s.cb.field)

/-- What LAUNCH checks of a launch (R351). -/
def State.deviceCheck (s : State) (desc caddr : DWord) (body : Option (List Byte)) : LCheck :=
  { desc := desc, body := body, caddr := caddr, deps := [], ndep := 0, clean := true
    full := decide (256 ≤ s.deviceQueued s.cb.asid) }

/-- LAUNCH's check, its record and word when it refuses, its place in the device queue when it accepts (R351). It is on its way
to the dispatcher until the cycle ends (R338; log entry 77). -/
def State.deviceLaunch (s : State) (desc caddr cval : DWord) (body : Option (List Byte)) : State × Nat :=
  let a := s.cb.asid
  let p := (s.launch s.cb.launch).prio
  let c := s.deviceCheck desc caddr body
  let t := s.launchLook a c
  match checkLaunch s a c with
  | .error code => (t.failWord a 0 (issuer s) desc caddr 1 code, code)
  | .ok l => (t.addLaunch { l with cval := cval, device := issuer s, prio := p, eff := p, st := .waiting }, 0)

/-- Read a launch descriptor as a load of the elected lane; where it may not be read there is nothing to read (R334, R351). -/
def readDescriptor (s : State) (m : DWord) (desc : DWord) (go : State → Option (List Byte) → Res) : Res :=
  if desc.toNat % 64 ≠ 0 then go s none else
  match s.virtWaits s.cb.core s.cb.asid needR desc 64 with
  | some as => .stallWith (s.askFor as)
  | none =>
  let q := s.virtLook s.cb.core s.cb.asid needR desc 64
  match q.2 with
  | none => go q.1 none
  | some ts => readAtIssue q.1 0 [(lowest m, desc, spansOf ts)] fun t bs => go t bs.head?

def execLaunch (f : FmtA) (s : State) : Host.Outcome State Fault Refusal :=
  run (.launch f) s fun m =>
    if (lanesOf m).any fun i => !s.laneQuiet s.cur.blk s.cur.grp i then .stall none
    else
      let u := fun k => s.cg.ureg (f.a.toNat + k)
      readDescriptor s m (u 0) fun t body =>
        match t.launchWaits s.cb.asid (t.deviceCheck (u 0) (u 1) body) with
        | some as => .stallWith (s.askFor as)
        | none =>
        let r := t.deviceLaunch (u 0) (u 1) (u 2) body
        let v := r.1.putU f.d.toNat 64 (BitVec.ofNat 64 r.2)
        .ok (v.onExec m fun _ l => l.setP f.b.toNat (r.2 == 0)) 0#64

/-- The counts of LSTAT (R352). -/
def launchStat (s : State) (k : Nat) : DWord :=
  let a := s.cb.asid
  match k with
  | 0 => BitVec.ofNat 64 (s.launchesOf a fun l => l.st != .done && l.st != .discarded)
  | 1 => BitVec.ofNat 64 (256 - s.deviceQueued a)
  | _ => s.memDWord (memKey 0 ((s.ctx a).status + 8))

def execLstat (f : FmtA) (s : State) : Host.Outcome State Fault Refusal :=
  run (.lstat f) s fun _ => .ok (s.putU f.d.toNat 64 (launchStat s f.b.toNat)) 0#64

/-! ### RTE -/

/-- What the fetch of the instruction at an address waits for, if it does. -/
def wordWaitsAt (s : State) (pc : DWord) : Option (List Ask) :=
  match s.targetWord s.cb.core s.cb.asid pc with
  | .wait as => some as
  | _ => none

/-- The words of the instruction at an address (R353). -/
def wordsAt (s : State) (pc : DWord) : Nat :=
  match s.targetWord s.cb.core s.cb.asid pc with
  | .word w => if isTwoWord w then 2 else 1
  | _ => 1

def execRte (f : FmtA) (s : State) : Host.Outcome State Fault Refusal :=
  run (.rte f) s fun m =>
    let out := m &&& maskOf fun i => !(s.cg.lane i).inHandler
    if out != 0#64 then .trap out cIllegal 0#64
    else match (lanesOf m).findSome? fun i => wordWaitsAt s (s.cg.lane i).epc with
    | some as => .stallWith (s.askFor as)
    | none => .ok (s.onExec m fun _ l => l.returnFrom (f.b.getLsbD 0) (wordsAt s l.epc)) m

end Sys2Proof.Machine
end

