-- ==== Sys2Proof/Machine/Lanes.lean ====
section
/-!
DEFINITION. Exchanges, votes and reductions across lanes (R134–R136), and arrival at barriers and sleep (R137, R144).
-/
namespace Sys2Proof.Machine

/-! ### Exchanges -/

/-- A lane as it stood before this issue (R123). -/
def State.laneBefore (s : State) (i : Nat) : Lane := s.cur.before.lane i

/-- Registers of a direct source operand of w bits. -/
def srcRegs (fld : Fld) (w : Nat) : List Nat := if w == 64 then [fld.toNat, fld.toNat + 1] else [fld.toNat]

/-- An exchange: every participating lane reads a source lane's register, once nothing is pending on it there (R123,
R134). -/
def exchange (s : State) (f : FmtA) (m : DWord) (src : Lane → Nat → Nat) : Res :=
  let w := tyWidth f.ty
  if (lanesOf m).any fun i =>
      (srcRegs f.a w).any fun r => s.pendingHere (src (s.cg.lane i) i) r
  then .stall (some 0)
  else .ok (s.onExec m fun i l => l.put f.d.toNat w (readOpd s.cg (s.laneBefore (src l i)) false f.a false w)) 0#64

def execQswap (f : FmtA) (s : State) : Host.Outcome State Fault Refusal :=
  run (.qswap f) s fun m => exchange s f m fun _ i => 4 * (i / 4) + ((i % 4) ^^^ bits f.b 0 2)

def execQbcast (f : FmtA) (s : State) : Host.Outcome State Fault Refusal :=
  run (.qbcast f) s fun m => exchange s f m fun _ i => 4 * (i / 4) + bits f.b 0 2

def execGshfl (f : FmtA) (s : State) : Host.Outcome State Fault Refusal :=
  run (.gshfl f) s fun m =>
    exchange s f m fun l _ => if f.bi then bits f.b 0 6 else bits (l.vreg f.b.toNat) 0 6

/-! ### Votes (R135) -/

/-- The participating lanes on which a predicate holds. -/
def State.votes (s : State) (m : DWord) (p : Nat) : DWord := m &&& maskOf fun i => (s.cg.lane i).pred p

def execVote (f : FmtA) (s : State) : Host.Outcome State Fault Refusal :=
  run (.vote f) s fun m =>
    let y := s.votes m f.a.toNat
    let r := match f.rm with
      | 0 => y == m
      | 1 => y != 0#64
      | _ => y == m || y == 0#64
    aluPred s f m fun _ _ => r

def execBallot (f : FmtA) (s : State) : Host.Outcome State Fault Refusal :=
  run (.ballot f) s fun m => alu s f m 64 fun _ _ _ => s.votes m f.a.toNat

def execMatchLanes (f : FmtA) (s : State) : Host.Outcome State Fault Refusal :=
  run (.matchLanes f) s fun m =>
    let w := tyWidth f.ty
    alu s f m 64 fun g l _ => m &&& maskOf fun j => rdA f g (g.lane j) w == rdA f g l w

def execElect (f : FmtA) (s : State) : Host.Outcome State Fault Refusal :=
  run (.elect f) s fun m =>
    .ok (s.onExec m fun i l => l.setP f.d.toNat (i == lowest m)) 0#64

/-! ### Reductions (R136) -/

/-- The reduction of a list of operands. -/
def reduce (op ty : Nat) (xs : List DWord) : DWord :=
  let w := tyWidth ty
  let sg := tySigned ty
  let ints := xs.map (toInteger w sg)
  let code := fun (x : DWord) => x.toNat % 2 ^ 32
  match op with
  | 0 =>
    if ty == 11 then
      match xs with
      | [] => 0#64
      | x :: rest => BitVec.ofNat 64 (f32.round (rmode 0) false false
          (rest.foldl (fun a y => Fval.add 0 a (f32.decode (code y))) (f32.decode (code x))))
    else ofInteger w (ints.foldl (· + ·) 0)
  | 1 =>
    if ty == 11 then
      BitVec.ofNat 64 (xs.foldl (fun a y => minMax f32 (fun p q => fpBelow q p) a (code y)) f32.nanCode)
    else ofInteger w (ints.foldl (fun a b => if b < a then b else a) (ints.headD 0))
  | 2 =>
    if ty == 11 then BitVec.ofNat 64 (xs.foldl (fun a y => minMax f32 fpBelow a (code y)) f32.nanCode)
    else ofInteger w (ints.foldl (fun a b => if a < b then b else a) (ints.headD 0))
  | 3 => xs.foldl (· &&& ·) (BitVec.allOnes 64)
  | 4 => xs.foldl (· ||| ·) 0#64
  | _ => xs.foldl (· ^^^ ·) 0#64

def execRedux (f : FmtA) (s : State) : Host.Outcome State Fault Refusal :=
  run (.redux f) s fun m =>
    let w := tyWidth f.ty
    let r := reduce f.rm f.ty ((lanesOf m).map fun i => rdA f s.cg (s.cg.lane i) w)
    if f.ftz then .ok (s.putU f.d.toNat w r) 0#64 else alu s f m w fun _ _ _ => r

/-! ### Barriers and sleep -/

/-- Executing lanes wait at the word after this one (R137, R138). -/
def State.waitAt (s : State) (m : DWord) (w : Wait) : State := s.onExec m fun _ l => { l with wait := w }

def execBar (f : FmtA) (s : State) : Host.Outcome State Fault Refusal :=
  run (.bar f) s fun m => .ok (s.waitAt m (.bar f.b.toNat)) 0#64

/-- A packed group belongs to no cohort (R194). -/
def execCbar (f : FmtA) (s : State) : Host.Outcome State Fault Refusal :=
  run (.cbar f) s fun m =>
    if s.cb.packed.isSome then .trap m cLadder 0#64 else .ok (s.waitAt m (.cbar f.b.toNat)) 0#64

/-- SLEEP (R144): the lane wakes no earlier than b cycles on; SLEEP 0 does not wait. -/
def execSleep (f : FmtA) (s : State) : Host.Outcome State Fault Refusal :=
  run (.sleep f) s fun m =>
    let now := s.clock s.cb.core
    .ok (s.onExec m fun _ l =>
      let n := rdB f s.cg l 32
      if n == 0#64 then l else { l with wait := .sleep (now + n) }) 0#64

end Sys2Proof.Machine
end

