-- ==== Sys2Proof/Machine/Memory.lean ====
section
/-!
DEFINITION. Loads, stores, atomics, cache ranges, instruction-cache ranges and fences, as they issue (R145–R165). Their
accesses are performed by MEMORY_OP_COMPLETE.
-/
namespace Sys2Proof.Machine

/-! ### Addresses and data -/

/-- The width of an access in bytes (R146). -/
def accBytes (f : FmtM) : Nat := 2 ^ f.wid.toNat

/-- a.w + sext(B) × n (R145). -/
def addrOffset (f : FmtM) (l : Lane) : DWord := l.vpair f.a.toNat + BitVec.ofInt 64 (f.b.toInt * accBytes f)

/-- s + (sext(B) + z.lane) × n (R145). -/
def addrRun (g : Group) (f : FmtM) (i : Nat) : DWord := g.ureg f.a.toNat + BitVec.ofInt 64 ((f.b.toInt + i) * accBytes f)

/-- The local-store offset of SLD and SST (R145). -/
def addrLocal (f : FmtM) (l : Lane) : Word := l.vreg f.a.toNat + BitVec.ofInt 32 (f.b.toInt * accBytes f)

/-- The data registers of a width, the lowest register lowest (R146). -/
def Lane.data (l : Lane) (r wid : Nat) : BitVec 128 :=
  BitVec.ofNat 128 (((List.range (widRegs wid)).map fun k => (l.vreg (r + k)).toNat * 2 ^ (32 * k)).sum)

/-- Orders: acquire for reads, release for writes (R92, R234). -/
def ordAcq (f : FmtM) : Bool := f.ord.getLsbD 0
def ordRel (f : FmtM) : Bool := f.ord.getLsbD 1

/-! ### Loads and stores -/

/-- An access of every executing lane at a generic address (R147, R150, R153). -/
def memGeneric (s : State) (m : DWord) (f : FmtM) (need : Need) (fk : Nat) (addr : Nat → DWord) (kind : OpKind)
    (dest : Nat) (acq rel last : Bool) (data : Lane → BitVec 128 × DWord) (far : Bool := false) : Res :=
  let lanes := lanesOf m
  match lanes.find? fun i => (addr i).toNat % accBytes f ≠ 0 with
  | some i => .trap m cMisaligned (addr i)
  | none =>
    serveTouches s m fk (lanes.map fun i => s.laneTouch need i (addr i) (accBytes f)) fun t ts =>
      .ok (t.openOp m f kind dest far true acq rel last
        (ts.map fun u => let d := data (s.cg.lane u.lane); u.acc d.1 d.2)) 0#64

/-- No data. -/
def noData (_ : Lane) : BitVec 128 × DWord := (0#128, 0#64)

/-- The data of D (R146). -/
def dataD (f : FmtM) (l : Lane) : BitVec 128 × DWord := (l.data f.d.toNat f.wid.toNat, 0#64)

def execLd (sx : Bool) (f : FmtM) (s : State) : Host.Outcome State Fault Refusal :=
  run (.ld sx f) s fun m =>
    memGeneric s m f needR 0 (fun i => addrOffset f (s.cg.lane i)) (.load sx) f.d.toNat (ordAcq f) false f.l noData

def execSt (f : FmtM) (s : State) : Host.Outcome State Fault Refusal :=
  run (.st f) s fun m =>
    memGeneric s m f needW 1 (fun i => addrOffset f (s.cg.lane i)) .store 0 false (ordRel f) false (dataD f)

def execLdv (f : FmtM) (s : State) : Host.Outcome State Fault Refusal :=
  run (.ldv f) s fun m =>
    memGeneric s m f needR 0 (addrRun s.cg f) (.load false) f.d.toNat (ordAcq f) false f.l noData

def execStv (f : FmtM) (s : State) : Host.Outcome State Fault Refusal :=
  run (.stv f) s fun m =>
    memGeneric s m f needW 1 (addrRun s.cg f) .store 0 false (ordRel f) false (dataD f)

/-- An access of every executing lane to the block's own local store (R147, R155). -/
def memLocal (s : State) (m : DWord) (f : FmtM) (kind : OpKind) (dest : Nat) (acq rel : Bool)
    (data : Lane → BitVec 128 × DWord) : Res :=
  let lanes := lanesOf m
  let off := fun i => (addrLocal f (s.cg.lane i)).toNat
  match lanes.find? fun i => off i % accBytes f ≠ 0 with
  | some i => .trap m cMisaligned (BitVec.ofNat 64 (off i))
  | none =>
    match lanes.find? fun i => decide (s.cb.lstore < off i + accBytes f) with
    | some i => .trap m cProtection (BitVec.ofNat 64 (off i))
    | none =>
      .ok (s.openOp m f kind dest false true acq rel false
        (lanes.map fun i => let d := data (s.cg.lane i)
          { lane := i, va := BitVec.ofNat 64 (off i), loc := .ls s.cur.blk (off i), leaf := 0#7, fresh := false, val := d.1
            val2 := d.2, done := false, counted := [] })) 0#64

def execSld (sx : Bool) (f : FmtM) (s : State) : Host.Outcome State Fault Refusal :=
  run (.sld sx f) s fun m => memLocal s m f (.load sx) f.d.toNat (ordAcq f) false noData

def execSst (f : FmtM) (s : State) : Host.Outcome State Fault Refusal :=
  run (.sst f) s fun m => memLocal s m f .store 0 false (ordRel f) (dataD f)

/-! ### Atomics -/

/-- The operands of an atomic operation whose first operand register is r (R157, R159). -/
def atomData (op wid r : Nat) (l : Lane) : BitVec 128 × DWord :=
  if op == 10 then (fix (l.vreg r).toNat, 0#64)
  else if op == 7 then
    (l.data r wid, if wid == 3 then l.vpair (r + 2) else (l.vreg (r + 1)).setWidth 64)
  else (l.data r wid, 0#64)

def execAtom (far : Bool) (op : BitVec 5) (f : FmtM) (s : State) : Host.Outcome State Fault Refusal :=
  run (.atom far op f) s fun m =>
    memGeneric s m f needRW 2 (fun i => (s.cg.lane i).vpair f.a.toNat) (.atom op.toNat f.l) f.d.toNat (ordAcq f) (ordRel f) false
      (atomData op.toNat f.wid.toNat f.b.toNat) far

def execRed (far : Bool) (op : BitVec 5) (f : FmtM) (s : State) : Host.Outcome State Fault Refusal :=
  run (.red far op f) s fun m =>
    memGeneric s m f needRW 2 (fun i => addrOffset f (s.cg.lane i)) (.red op.toNat f.l) 0 false (ordRel f) false
      (atomData op.toNat f.wid.toNat f.d.toNat) far

/-! ### Prefetch and cache ranges -/

/-- Touches that lead somewhere; the others are skipped (R150). -/
def usable (ts : List Touch) : List Touch := ts.filter fun t => match t.tr with | .ok _ _ _ => true | _ => false

/-- The sectors of a lane's range, rounded outward (R163). -/
def sectorRange (va : DWord) (n : Nat) : DWord × Nat :=
  let lo := va.toNat / 64 * 64
  (BitVec.ofNat 64 lo, if n = 0 then 0 else (va.toNat + n + 63) / 64 * 64 - lo)

/-- The page-sized pieces of every executing lane's range. -/
def rangeTouches (s : State) (m : DWord) (need : Need) (range : Lane → DWord × Nat) : List Touch :=
  (lanesOf m).flatMap fun i =>
    let r := range (s.cg.lane i)
    (rangeChunks 64 r.1 r.2).map fun c => s.touch need i c.1 c.2

/-- Accesses that carry their length. -/
def lengthAcc (t : Touch) : Acc := t.acc (BitVec.ofNat 128 t.n) 0#64

def execPref (f : FmtM) (s : State) : Host.Outcome State Fault Refusal :=
  run (.pref f) s fun m =>
    let ts := (lanesOf m).map fun i => s.touch needR i (sectorRange ((s.cg.lane i).vpair f.a.toNat) 1).1 64
    unlessWaits s ts <|
    let p := pullTouches s ts
    unlessWaits p.1 p.2 <|
    let q := p.1.noteTouches (usable p.2)
    .ok (q.1.openOp m f (.pref (f.d.getLsbD 0)) 0 false true false false false (q.2.map lengthAcc)) 0#64

/-- The range [a.w, a.w + b) of a lane. -/
def laneRange (f : FmtM) (l : Lane) : DWord × Nat := (l.vpair f.a.toNat, (l.vreg f.b.toNat).toNat)

/-- CWB and CINV: outward to sectors; pages that fail are skipped, poisoned sectors by themselves (R150, R163); the lines of migrating
pages are pulled first (R326). -/
def memRange (s : State) (m : DWord) (f : FmtM) (kind : OpKind) : Res :=
  let ts := rangeTouches s m needRange fun l => sectorRange (laneRange f l).1 (laneRange f l).2
  unlessWaits s ts <|
  let p := pullTouches s ts
  unlessWaits p.1 p.2 <|
  let q := p.1.noteTouches (usable p.2)
  .ok (q.1.openOp m f kind 0 false true false false false (q.2.map lengthAcc)) 0#64

def execCwb (f : FmtM) (s : State) : Host.Outcome State Fault Refusal :=
  run (.cwb f) s fun m => memRange s m f .cwb

def execCinv (f : FmtM) (s : State) : Host.Outcome State Fault Refusal :=
  run (.cinv f) s fun m => memRange s m f .cinv

/-- CDISC: whole sectors, every page checked as a store before any is dropped (R163). A refusal on a later page of the range names the
first byte of the range in that page as z.tval (DESIGN CHOICE, log entry 71). -/
def execCdisc (f : FmtM) (s : State) : Host.Outcome State Fault Refusal :=
  run (.cdisc f) s fun m =>
    match (lanesOf m).find? fun i =>
        (laneRange f (s.cg.lane i)).1.toNat % 64 ≠ 0 || (laneRange f (s.cg.lane i)).2 % 64 ≠ 0 with
    | some i => .trap m cMisaligned (laneRange f (s.cg.lane i)).1
    | none =>
      serveTouches s m 1 (rangeTouches s m needW (laneRange f)) fun t ts =>
        .ok (t.openOp m f .cdisc 0 false true false false false (ts.map lengthAcc)) 0#64

/-! ### The instruction cache and fences -/

/-- Accesses of the forms that reach no memory of their own: a lane, its address and a length. -/
def plainAcc (i : Nat) (va : DWord) (n : Nat) : Acc :=
  { lane := i, va := va, loc := .mem 0, leaf := 0#7, fresh := false, val := BitVec.ofNat 128 n, val2 := 0#64, done := false
    counted := [] }

/-- IPF, IPIN and IUNPIN (R164). -/
def memText (s : State) (m : DWord) (f : FmtM) (kind : OpKind) : Res :=
  .ok (s.openOp m f kind 0 false false false false false
    ((lanesOf m).map fun i => plainAcc i (laneRange f (s.cg.lane i)).1 (laneRange f (s.cg.lane i)).2)) 0#64

def execIpf (f : FmtM) (s : State) : Host.Outcome State Fault Refusal :=
  run (.ipf f) s fun m => memText s m f (.ifill false)

def execIpin (f : FmtM) (s : State) : Host.Outcome State Fault Refusal :=
  run (.ipin f) s fun m => memText s m f (.ifill true)

def execIunpin (f : FmtM) (s : State) : Host.Outcome State Fault Refusal :=
  run (.iunpin f) s fun m => memText s m f .unpin

def execFence (f : FmtM) (s : State) : Host.Outcome State Fault Refusal :=
  run (.fence f) s fun m =>
    .ok (s.openOp m f (.fence f.ord) 0 false false false false false ((lanesOf m).map fun i => plainAcc i 0#64 0)) 0#64

end Sys2Proof.Machine
end

