-- ==== Sys2Proof/Machine/Taint.lean ====
section
/-!
DEFINITION. Case 3 of R230: while the candidate execution is kept, which reads the registers of a lane are computed from, and which
reads the addresses of its accesses are.
-/
namespace Sys2Proof.Machine

/-- The registers of a lane as the record numbers them: vector registers, predicates, index registers. -/
def predKey (p : Nat) : Nat := 2000 + p
def indexKey (x : Nat) : Nat := 3000 + x

/-- The registers one field names in a lane; an indexed operand is computed through its index register too (R85). -/
def useKeys (l : Lane) (index : Bool) (o : Use) : List Nat :=
  (o.vregs.flatMap fun v => vregRegs l v ++ (match v with | .idx j _ _ => [indexKey j] | .dir _ _ => [])) ++
  match o.kind with
  | .pred n => (List.range n).map fun i => predKey (o.fld.toNat + i)
  | .below _ => if index then [indexKey o.fld.toNat] else []
  | _ => []

/-- The first field is a source: stores, reductions, copies and contributions write no register. -/
def firstIsSource : Instr → Bool
  | .st _ => true
  | .stv _ => true
  | .sst _ => true
  | .red _ _ _ => true
  | .cpy _ => true
  | .xred _ => true
  | .spred _ => true
  | _ => false

/-- The fields that name an index register itself: the destination of XSET, XIDX and XADD, the source of MOV from an index register. -/
def namesIndex : Instr → Bool
  | .xset _ => true
  | .xidx _ => true
  | .xadd _ => true
  | .movIndex _ => true
  | _ => false

/-- What an instruction delivers comes from memory (R146, R142). -/
def loadsValue : Instr → Bool
  | .ld _ _ => true
  | .ldv _ => true
  | .sld _ _ => true
  | .atom _ _ _ => true
  | .waitc _ => true
  | _ => false

/-- The fields of an instruction. -/
def fieldsOf (i : Instr) : List Use := match i.chk with | some c => c.uses | none => []

/-- The registers of a lane that an instruction writes. -/
def destKeys (i : Instr) (l : Lane) : List Nat :=
  let ds := if firstIsSource i then [] else ((fieldsOf i).take 1).flatMap (useKeys l (namesIndex i && (match i with | .movIndex _ => false | _ => true)))
  match i with
  | .iaddc f => predKey f.c.toNat :: ds
  | .isubb f => predKey f.c.toNat :: ds
  | _ => ds

/-- The registers of a lane that a result is computed from. -/
def sourceKeys (i : Instr) (l : Lane) : List Nat :=
  let ss := (if firstIsSource i then fieldsOf i else (fieldsOf i).drop 1).flatMap (useKeys l (namesIndex i))
  match i with
  | .sel _ f => predKey (f.c.extractLsb' 0 7).toNat :: ss
  | .xadd f => indexKey f.d.toNat :: ss
  | _ => ss

/-- The registers of a lane that the address of an access is computed from: those of field A. -/
def addressKeys (i : Instr) (l : Lane) : List Nat := (((fieldsOf i).drop 1).take 1).flatMap (useKeys l false)

namespace Trace

/-- The reads that registers of a lane are computed from. -/
def from_ (t : Trace) (b g l : Nat) (ks : List Nat) : List Nat :=
  ((t.taint.filter fun e => e.1.1 == b && e.1.2.1 == g && e.1.2.2.1 == l && ks.contains e.1.2.2.2).flatMap Prod.snd).eraseDups

/-- Registers of a lane are computed from reads. -/
def setFrom (t : Trace) (b g l : Nat) (ks ids : List Nat) : Trace :=
  let rest := t.taint.filter fun e => !(e.1.1 == b && e.1.2.1 == g && e.1.2.2.1 == l && ks.contains e.1.2.2.2)
  { t with taint := (if ids = [] then [] else ks.map fun k => ((b, g, l, k), ids)) ++ rest }

end Trace

namespace State

/-- The addresses of what a lane of the path is about to do are computed from reads; `hi` is where its identities end. -/
def noteAddresses (s : State) (i : Instr) (hi : Nat) : State :=
  { s with trace := s.trace.map fun t =>
      { t with deps := t.deps ++ (lanesOf (s.execLanes i.guard)).filterMap fun l =>
          let ids := t.from_ s.cur.blk s.cur.grp l (addressKeys i (s.cg.lane l))
          if ids = [] || decide (hi ≤ s.cur.firstId) then none else some (.lane s.cur.blk s.cur.grp l, s.cur.firstId, hi, ids) } }

/-- What an instruction has written is computed from its sources, or from what it reads; `a` is the state before it. -/
def noteResults (s a : State) (i : Instr) : State :=
  { s with trace := s.trace.map fun t =>
      (lanesOf (a.execLanes i.guard)).foldl (fun (u : Trace) l =>
        let reg := a.cg.lane l
        u.setFrom a.cur.blk a.cur.grp l (destKeys i reg)
          (if loadsValue i then (List.range (s.nextId - a.nextId)).map (a.nextId + ·)
           else t.from_ a.cur.blk a.cur.grp l (sourceKeys i reg))) t }

/-- The addresses noted are those of a state, and of an instruction whose identities end where they do now. -/
def keepAddresses (s a : State) : State :=
  { s with trace := s.trace.map fun t => { t with deps := (a.trace.map Trace.deps).getD [] } }

/-- Perform an instruction, and note where its results and addresses come from while the candidate execution is kept. -/
def tracked (ex : Instr → State → Host.Outcome State Fault Refusal) (i : Instr) (s : State) : Host.Outcome State Fault Refusal :=
  if s.trace.isNone then ex i s else
  match ex i (s.noteAddresses i (s.nextId + 2 ^ 16)) with
  | .next t =>
    if t.cur.result == .done then .next ((t.keepAddresses (s.noteAddresses i t.nextId)).noteResults s i)
    else .next (t.keepAddresses s)
  | o => o

end State

end Sys2Proof.Machine
end

