-- ==== Sys2Proof/Machine/Ready.lean ====
section
/-!
DEFINITION. Issuing the chosen paths of a group together, or not at all (R28), for a given way of performing an
instruction; and the readiness of R37, which asks the same question without issuing.
-/
namespace Sys2Proof.Machine

/-- How a group's attempt at its chosen paths ends. -/
inductive Attempt where
  /-- no lane is selectable -/
  | idle
  /-- lines missing from the instruction cache -/
  | miss (lines : List DWord)
  /-- paths that cannot issue yet, with the event that the reason counts; the state with the requests that the first of them
  has made -/
  | stall (s : State) (why : List (DWord × Option Nat))
  | issue (o : Host.Outcome State Fault Refusal)

namespace State

/-- Set the path at issue; for path B, where the identities of path A end. A lane forced in while held leaves its entry and goes on alone
(R31). -/
def startPath (s : State) (b g : Nat) (p : Path) (before : Group) (firstId lastId : Nat) (isB follows : Bool) : State :=
  let s1 := if p.forced then
      s.onGroup b g fun k =>
        { k with
          recon := k.recon.map fun e =>
            if e.target == p.pc then
              { e with members := e.members &&& ~~~(p.lanes &&& maskOf fun i => (k.lane i).wait == .held) }
            else e
          lanes := k.lanes.mapIdx fun i ln =>
            if p.lanes.getLsbD i && ln.wait == .held then { ln with wait := .running } else ln }
    else s
  { s1 with cur := { blk := b, grp := g, lanes := p.lanes, pc := p.pc, forced := p.forced, before := before,
                     result := .none, pathB := isB, firstId := firstId, lastId := lastId, follows := follows } }

/-- Perform what a path is about to do. -/
def perform (ex : Instr → State → Host.Outcome State Fault Refusal) (s : State) :
    Prep → Host.Outcome State Fault Refusal
  | .instr i => s.tracked ex i
  | .trap code tval epc => finish { s with cur := { s.cur with pc := epc } } 1 (.trap s.cur.lanes code tval)
  | .park va => finish s 1 (.park s.cur.lanes [(va, s.cur.lanes, 3)])
  | .miss _ => .next (s.result (.stalled none))
  | .fault f => .fault f

end State

/-- The wait counts after an issue (R31). -/
def Group.afterIssue (g : Group) (issued : DWord) : Group :=
  { g with
    lanes := g.lanes.mapIdx fun i ln =>
      if ln.kind != .ordinary then ln
      else if issued.getLsbD i then { ln with w := 0 }
      else if ln.wait == .running || ln.wait == .held then { ln with w := Nat.min Config.forceAt (ln.w + 1) }
      else ln }

namespace State

/-- The group has issued: its wait counts, its quantum, its place among those waiting (R31, R36, R37); after its context's teardown it
stops (R338). -/
def issued (s : State) (b g : Nat) (m : DWord) : State :=
  let core := (s.block b).core
  let s1 := s.onGroup b g fun k =>
    let k1 := k.afterIssue m
    ({ k1 with choice := [], stalls := [], full := false, quantum := k1.quantum + 1, lastIssue := s.clock core } : Group).retireRecon
  let c := s1.core core
  (s1.setCore core { c with issued := (b, g) :: c.issued }).atBoundary b g

/-- A parked group has had no effect (R152, R306): no lane forced in while held has left its entry. -/
def unstarted (s : State) (b g : Nat) (before : Group) : State :=
  s.onGroup b g fun k => { k with lanes := before.lanes, recon := before.recon }

/-- A group parks for what a path misses, without an effect (R306). -/
def parkFor (s : State) (b g : Nat) (before : Group) (p : Path) (lanes : DWord) (es : List (DWord × DWord × Nat)) : State :=
  ((s.parkGroup b g lanes p.pc es).result (.parked lanes es)).unstarted b g before

/-- Path B has issued, and its instruction has its effect later: its lanes wait (R28, R152). -/
def postpone (s : State) (b g : Nat) (l : Late) : State :=
  (s.onLanes b g l.path.lanes fun _ k => { k with wait := .late }).onGroup b g fun k => { k with lates := k.lates ++ [l] }

/-- An instruction that waited for path A has had its effect, or is tried: its lanes go on. -/
def resumeLate (s : State) (b g : Nat) (l : Late) : State :=
  (s.onLanes b g l.path.lanes fun _ k => if k.wait == .late then { k with wait := .running } else k).onGroup b g fun k =>
    { k with lates := k.lates.filter fun q => q != l }

end State

/-- The path cannot issue, by the state its instruction left. -/
def stallOf (p : Path) : Host.Outcome State Fault Refusal → List (DWord × Option Nat)
  | .next t => match t.cur.result with | .stalled ev => [(p.pc, ev)] | _ => []
  | _ => []

/-- The state that a path left which cannot issue yet: the requests it made of memory stay. -/
def stalledState (s : State) (p : Path) : Host.Outcome State Fault Refusal → State
  | .next t => if stallOf p (.next t) = [] then s else { t with cur := s.cur }
  | _ => s

/-- Path B at issue after path A, or when its instruction has its effect later. -/
def State.afterA (s : State) (b g : Nat) (p : Path) (before : Group) (firstId lastId : Nat) : State :=
  s.startPath b g p before firstId lastId true true

/-- Attempt the chosen paths of a group (R28). Neither path issues while one cannot, judged as things stood before the issue; path B
then follows path A, and where path A took the last place that path B needs beside what the unit held before, neither issues; where path
B must read what path A's operations reach, or path A alone leaves it no room in a unit, both issue, and path B's instruction has its
effect after path A's operations (log entry 68). Where path A traps or parks, path B has no effect (R149, R306), and its lanes are not
among those that issue (log entry 68); where only path B misses a translation, the group parks for it and path A has no effect either. -/
def State.attempt (ex : Instr → State → Host.Outcome State Fault Refusal) (s : State) (b g : Nat) : List Path → Attempt
  | [] => .idle
  | pa :: rest =>
    let grp := s.group b g
    let preps := (pa :: rest.take 1).map (s.prep b g)
    let misses := preps.filterMap fun p => match p with | .miss va => some (lineOf va) | _ => none
    if misses ≠ [] then .miss misses else
    let first := fun (p : Path) (isB : Bool) => (s.startPath b g p grp s.nextId s.nextId isB false).perform ex (s.prep b g p)
    let ra := first pa false
    match rest with
    | [] =>
      if stallOf pa ra ≠ [] then .stall (stalledState s pa ra) (stallOf pa ra) else
      .issue (match ra with
        | .next t => .next (match t.cur.result with | .parked _ _ => t.unstarted b g grp | _ => t.issued b g pa.lanes)
        | o => o)
    | pb :: _ =>
      let rb := first pb true
      let why := stallOf pa ra ++ stallOf pb rb
      if why ≠ [] then .stall (stalledState (stalledState s pb rb) pa ra) why else
      match ra, rb with
      | .next t, .next u =>
        (match t.cur.result, u.cur.result with
          | .parked _ _, _ => .issue (.next (t.unstarted b g grp))
          | .done, .parked _ _ => .issue (.next (u.unstarted b g grp))
          | .done, _ =>
            (match (t.afterA b g pb grp s.nextId t.nextId).perform ex (s.prep b g pb) with
              | .next v =>
                (match v.cur.result with
                  | .stalled ev => .stall { s with mesh := v.mesh, nextId := v.nextId } [(pb.pc, ev)]
                  | .parked lanes es =>
                    .issue (.next ((s.startPath b g pb grp s.nextId s.nextId true false).parkFor b g grp pb lanes es))
                  | .behind =>
                    (match s.prep b g pb with
                      | .instr i => .issue (.next ((((t.afterA b g pb grp s.nextId t.nextId).postpone b g
                          { path := pb, instr := i, firstId := s.nextId, lastId := t.nextId, counted := [] })).issued b g
                            (pa.lanes ||| pb.lanes)))
                      | _ => .stall s [(pb.pc, none)])
                  | _ => .issue (.next (v.issued b g (pa.lanes ||| pb.lanes))))
              | o => .issue o)
          | _, _ => .issue (.next (t.issued b g pa.lanes)))
      | .next _, o => .issue o
      | o, _ => .issue o

/-- An instruction of a path B that has issued has its effect, once what comes first, and memory, let it (R28, R152); where it cannot
yet, the requests that it has made stay. Where it misses a translation that has gone since, its group parks and its lanes issue it again
(log entry 68). -/
def State.tryLate (ex : Instr → State → Host.Outcome State Fault Refusal) (s : State) (b g : Nat) (l : Late) :
    Host.Outcome State Fault Refusal :=
  let t := (s.resumeLate b g l).onGroup b g fun k =>
    { k with stalls := (k.stalls.filter fun (w : DWord × Nat) => w.1 != l.path.pc) ++ l.counted.map fun ev => (l.path.pc, ev) }
  let later := fun (v : State) => { v with cur := s.cur }.setGroup b g { s.group b g with
    lates := (s.group b g).lates.map fun (q : Late) =>
      if q == l then { l with counted := ((v.group b g).stalls.filter fun (w : DWord × Nat) => w.1 == l.path.pc).map Prod.snd } else q }
  match (t.afterA b g l.path (t.group b g) l.firstId l.lastId).tracked ex l.instr with
  | .next v =>
    (match v.cur.result with
      | .stalled _ => .next (later v)
      | .behind => .next s
      | _ => .next (v.onGroup b g fun k => { k with stalls := (s.group b g).stalls }))
  | o => o

/-! ### Readiness (R37) -/

/-- What an instruction does about issuing: those that can wait for more than their registers as they are, the others by
the checks all share (R81, R97). -/
def tryInstr (i : Instr) (s : State) : Host.Outcome State Fault Refusal :=
  match i with
  | .blockHeader h => execBlockHeader h s
  | .qswap f => execQswap f s
  | .qbcast f => execQbcast f s
  | .gshfl f => execGshfl f s
  | .esc f => execEsc f s
  | .ldone f => execLdone f s
  | .launch f => execLaunch f s
  | .tcfg f => execTcfg f s
  | .omclaim f => execOmclaim f s
  | .omrel f => execOmrel f s
  | .omld isB f => execOmld isB f s
  | .omst isB f => execOmst isB f s
  | .mma f => execMma f s
  | .acz f => execAcz f s
  | .acld f => execAcld f s
  | .acst f => execAcst f s
  | .acrd f => execAcrd f s
  | .msave f => execMsave f s
  | .mres f => execMres f s
  | .cpy f => execCpy f s
  | .cpyt f => execCpyt f s
  | .cseal f => execCseal f s
  | .cwait f => execCwait f s
  | .xred f => execXred f s
  | .spred f => execSpred f s
  | .eres f => execEres f s
  | .bra f => execBra f s
  | .brx f => execBrx f s
  | .call f => execCall f s
  | .callx f => execCallx f s
  | .ret f => execRet f s
  | .rte f => execRte f s
  | .waitc f => execWaitc f s
  | .ld sx f => execLd sx f s
  | .st f => execSt f s
  | .ldv f => execLdv f s
  | .stv f => execStv f s
  | .atom far op f => execAtom far op f s
  | .red far op f => execRed far op f s
  | .pref f => execPref f s
  | .cwb f => execCwb f s
  | .cinv f => execCinv f s
  | .cdisc f => execCdisc f s
  | .esave f => execEsave f s
  | i => run i s fun _ => .ok s 0#64

namespace State

/-- A group is ready when its chosen paths could issue (R37). -/
def ready (s : State) (b g : Nat) : Bool :=
  let grp := (s.group b g).retireRecon
  grp.mayIssue && (grp.pendTrap.isSome ||
    (match (s.setGroup b g grp).attempt tryInstr b g grp.paths with | .issue _ => true | _ => false))

/-- The ready pending groups of a core, in the order in which they enter the active set (R37). -/
def readyPending (s : State) (core : Nat) : List (Nat × Nat) :=
  sortBy s.pendingBefore ((s.groupsOf core).filter fun k => !(s.group k.1 k.2).active && s.ready k.1 k.2)

end State

end Sys2Proof.Machine
end

