-- ==== Sys2Proof/Machine/Room.lean ====
section
/-!
DEFINITION. The room of a core (R35, R53, R166, R195), and groups as they start (R23, R42, R190, R194).
-/
namespace Sys2Proof.Machine

/-! ### Groups as they start -/

/-- A lane as its group starts (R42). -/
def startLane (kind : LaneKind) (entry : DWord) (item : Word) (words : List Word) : Lane :=
  { Lane.init with kind := kind, pc := entry, item := item, v := Cells.setMany [] 0 words }

/-- The kind of lane i of n when the lanes after the last complete its quad (R23, R190). -/
def laneKindOf (n i : Nat) : LaneKind := if i < n then .ordinary else if i < (n + 3) / 4 * 4 then .helper else .empty

/-- Group g of a block of a launch, at its start (R23, R24, R42). The wait of a group that has never issued counts from clock 0
(R36; DESIGN CHOICE, log entry 73). -/
def startGroup (l : Launch) (gb g : Nat) (since : Nat) : Group :=
  { Group.init with
    lanes := (List.range 64).map fun i =>
      let k := 64 * g + i
      match laneKindOf l.lanes k with
      | .ordinary => startLane .ordinary l.entry (BitVec.ofNat 32 (gb * l.lanes + k)) []
      | kd => startLane kd 0#64 0#32 []
    s := Cells.set [] 0 l.arg, since := since }

/-- A packed group of a rung, at its start: frame j in lane j (R190, R194). -/
def startPacked (l : Launch) (rung : Nat) (r : Rung) (fs : List Frame) (since : Nat) : Group :=
  { Group.init with
    rung := rung
    lanes := (List.range 64).map fun i =>
      match fs[i]? with
      | some f => { startLane .ordinary r.entry f.item f.words with froms := f.froms }
      | none => startLane (laneKindOf fs.length i) 0#64 0#32 []
    s := Cells.set [] 0 l.arg, since := since }

/-! ### What a core holds -/

/-- What counts toward the limits of R35: registers per lane of the groups, groups, blocks. -/
structure Use where
  regs : Nat
  groups : Nat
  blocks : Nat
  deriving DecidableEq, Repr

def Use.add (a b : Use) : Use := { regs := a.regs + b.regs, groups := a.groups + b.groups, blocks := a.blocks + b.blocks }

/-- The limits of R35. -/
def Use.fits (a : Use) : Bool :=
  decide (a.regs ≤ Config.maxRegs) && decide (a.groups ≤ Config.maxGroups) && decide (a.blocks ≤ Config.maxBlocks)

/-- What a resident block counts: an ended group has given its registers back (R26). -/
def Block.use (b : Block) : Use :=
  let n := (b.groups.filter fun kg => !kg.2.ended).length
  { regs := n * b.regs, groups := n, blocks := 1 }

namespace State

/-- The resident blocks of a core. -/
def residents (s : State) (core : Nat) : List (Nat × Block) := s.blocks.filter fun kb => kb.2.resident && kb.2.core == core

/-- Some ring of a launch on a core holds a frame. -/
def hasFrames (s : State) (core launch : Nat) : Bool :=
  (List.range 4).any fun k => (s.ring (ringKey core launch k)).frames != []

/-- A core holds a block, a packed group or a frame of a launch (R195). -/
def holdsLaunch (s : State) (core launch : Nat) : Bool :=
  (s.residents core).any (fun kb => kb.2.launch == launch) || s.hasFrames core launch

/-- What a ladder launch takes for its rungs on a core: for each rung the room reserved for one packed group, or its packed
groups there where they take more (R195); one that has ended has given its registers back (R26). -/
def rungUse (s : State) (core launch : Nat) (l : Ladder) : Use :=
  (l.rungs.mapIdx fun k r =>
    let bs := (s.residents core).filter fun kb => kb.2.launch == launch && kb.2.packed == some k
    let live := (bs.filter fun kb => kb.2.groups.any fun kg => !kg.2.ended).length
    if k = 0 then ({ regs := 0, groups := 0, blocks := 0 } : Use)
    else { regs := Nat.max 1 live * r.regs, groups := Nat.max 1 live, blocks := Nat.max 1 bs.length }).foldl Use.add
      { regs := 0, groups := 0, blocks := 0 }

/-- What a core's blocks and ladders take (R35, R195). -/
def coreUse (s : State) (core : Nat) : Use :=
  let own := ((s.residents core).filter fun kb => kb.2.packed.isNone).foldl (fun u kb => u.add kb.2.use)
    ({ regs := 0, groups := 0, blocks := 0 } : Use)
  s.launches.foldl (fun u kl => match kl.2.ladder with
    | some l => if s.holdsLaunch core kl.1 then u.add (s.rungUse core kl.1 l) else u
    | none => u) own

/-- Put a block on its core: as an owner of cache lines it is a new one (R221); one that is restored started when it first did (R339). -/
def arrive (s : State) (key : Nat) (b : Block) : State :=
  { s with blocks := s.blocks.set key
             { b with resident := true, order := s.nextId, startOrder := if b.frame.isSome then b.startOrder else s.nextId, owner := s.nextId, cluster := clusterOf b.core }
           nextId := s.nextId + 1 }

end State

end Sys2Proof.Machine
end

