-- ==== Sys2Proof/Machine/Sched.lean ====
section
/-!
DEFINITION. The steps of a core besides its issues: exchanges of groups (R37, R128), instruction fills (R40), rings that
fire and packed groups that start (R190, R194–R198), the ladder completion word (R191), owners that age (R221).
-/
namespace Sys2Proof.Machine

namespace State

/-! ### The active set -/

/-- An active group makes way for the ready pending group that has waited longest, if there is one (R37). -/
def swapOut (s : State) (b g : Nat) : State :=
  match s.readyPending (s.block b).core with
  | [] => s
  | k :: _ => (s.deactivate (b, g)).activate k

/-- The group is one of a core that may exchange groups. -/
def inActiveSet (s : State) (b g : Nat) : Bool :=
  (s.block b).resident && (s.block b).started && (s.group b g).active

end State

/-- The quantum of an active group is over, or it yielded (R37, R128). -/
def execQuantumExpire (blk grp : Nat) (s : State) : Host.Outcome State Fault Refusal :=
  let g := s.group blk grp
  if s.inActiveSet blk grp && (decide (Config.quantum ≤ g.quantum) || g.yielded) then .next (s.swapOut blk grp) else .next s

/-- An active group that cannot issue makes way (R37). -/
def execGroupSwap (blk grp : Nat) (s : State) : Host.Outcome State Fault Refusal :=
  if s.inActiveSet blk grp && !s.ready blk grp then .next (s.swapOut blk grp)
  else .next s

/-- The line that a pending group would miss as it came to issue (R37, R40). -/
def State.pendingMiss (s : State) (b g : Nat) : Option DWord :=
  let grp := (s.group b g).retireRecon
  if !(s.block b).resident || !(s.block b).started || grp.active || !grp.mayIssue || grp.pendTrap.isSome then none else
  grp.paths.findSome? fun p =>
    match s.prep b g p with | .miss va => some (lineOf va) | _ => none

/-- Instruction lines arrive: the one that a sequencer waits for, which goes on then; the one that a group of the pending set
missed, which counts one schedule slip too; or what a header's PF request named (R37, R40, R79). -/
def execIcacheFill (blk grp : Nat) (s : State) : Host.Outcome State Fault Refusal :=
  match (s.group blk grp).frozen with
  | some va =>
    if (s.block blk).resident then
      let r := s.fillLine (s.block blk).core (s.block blk).asid va
      .next (if r.2 then r.1.onGroup blk grp fun g => { g with frozen := none } else r.1)
    else .next s
  | none =>
    match s.pendingMiss blk grp with
    | some va =>
      let r := s.fillLine (s.block blk).core (s.block blk).asid va
      .next (if r.2 then r.1.count (dieOf (s.block blk).core) 1 else r.1)
    | none => .next (s.fillNext blk grp)

/-! ### Rings -/

/-- The oldest frame of a ring has waited HOLD cycles (R190). -/
def execRingHoldExpire (core launch rung : Nat) (s : State) : Host.Outcome State Fault Refusal :=
  let k := ringKey core launch rung
  match s.rings.get? k, ((s.launch launch).ladder.map Ladder.rungs) with
  | some r, some rs =>
    (match r.frames, rs[rung]? with
      | f :: _, some d =>
        if d.hold ≤ (s.clock core - f.stamp).toNat && !(s.die (dieOf core)).hold then
          .next (s.setRing k { r with firing := some 18 })
        else .next s
      | _, _ => .next s)
  | _, _ => .next s

/-- The rings of a core that fire: launch and rung (R196). -/
def State.firingRings (s : State) (core : Nat) : List (Nat × Nat) :=
  (s.rings.filter fun kr => kr.1 / 4 % Config.numCores == core).filterMap fun kr =>
    let l := kr.1 / 4 / Config.numCores
    let k := kr.1 % 4
    if (s.trigger core l k).isSome then some (l, k) else none

/-- The ring that starts first: the highest rung, then the launch that became resident first (R197). -/
def State.startsBefore (s : State) (a b : Nat × Nat) : Bool :=
  decide (b.2 < a.2) || (a.2 == b.2 && decide ((s.launch a.1).residentOrder < (s.launch b.1).residentOrder))

/-- The state with a packed group of a ring's oldest frames (R190, R194, R196). -/
def State.packed (s : State) (core launch rung : Nat) (r : Rung) : State :=
  let l := s.launch launch
  let ring := s.ring (ringKey core launch rung)
  let b : Block :=
    { Block.init with
      asid := l.asid, launch := launch, packed := some rung, core := core, started := true, regs := r.regs, lanes := 64
      groups := [(0, startPacked l rung r (ring.frames.take 64) s.now)] }
  ((s.setRing (ringKey core launch rung) { frames := ring.frames.drop 64, forced := false, firing := none }).arrive
    (packedKey s.nextId) b).touchDomains l.asid [dieOf core]

/-- A packed group starts between cycles, where there is room for it and no other ring that fires goes first (R195–R197). -/
def execPackedGroupStart (core launch rung : Nat) (s : State) : Host.Outcome State Fault Refusal :=
  match s.trigger core launch rung, (s.launch launch).ladder with
  | some ev, some lad =>
    (match lad.rungs[rung]? with
      | some r =>
        let t := s.packed core launch rung r
        let first := (s.firingRings core).all fun x =>
          x == (launch, rung) || !s.startsBefore x (launch, rung) ||
          (match (s.launch x.1).ladder with
            | some lx => (match lx.rungs[x.2]? with
              | some rx => !((s.packed core x.1 x.2 rx).coreUse core).fits
              | none => true)
            | none => true)
        if rung ≠ 0 && core < Config.numCores && (s.core core).issued == [] && (t.coreUse core).fits && first &&
            !(s.die (dieOf core)).hold then
          .next (t.count (dieOf core) ev)
        else .next s
      | none => .next s)
  | _, _ => .next s

/-- Every item of a ladder is done: its completion word is written, or a record says that it could not be (R191). -/
def execLadderDoneWrite (launch : Nat) (s : State) : Host.Outcome State Fault Refusal :=
  let l := s.launch launch
  match l.ladder with
  | some lad =>
    if l.ladderDone || l.st == .done || l.st == .discarded || l.doneCount < lad.items || (s.ctx l.asid).tearing.isSome then
      .next s
    else match s.virtWaits hubCore l.asid needW lad.doneAddr 8 with
    | some as => .next (s.askFor as)
    | none =>
      let r := s.virtWrite l.asid lad.doneAddr lad.doneVal launch
      let t := if r.2 then r.1 else r.1.post11 l.asid l.device l.desc lad.doneVal 2
      .next (t.onLaunch launch fun k => { k with ladderDone := true })
  | none => .next s

/-- An owner's idle count has reached its limit: its lines become orphans (R221). -/
def execOwnerIdleExpire (cache owner : Nat) (s : State) : Host.Outcome State Fault Refusal :=
  let c := s.cache cache
  if owner ≠ 0 && (c.ownerEnt owner).any fun e => decide (65536 ≤ e.idle) then .next (s.setCache cache (c.dropOwner owner))
  else .next s

end Sys2Proof.Machine
end

