-- ==== Sys2Proof/Machine/Placing.lean ====
section
/-!
DEFINITION. The command processor and the dispatcher up to the start of a block: launch records (R331, R332, R334),
dependences (R336), placement (R22, R53, R195, R215, R260, R337), staging (R226) and ageing (R337).
-/
namespace Sys2Proof.Machine

/-! ### Launch records -/

/-- The addresses and values of a record's dependence words (R332). -/
def recordDeps (r : List Byte) : List (DWord × DWord) :=
  (List.range (Nat.min (wordAt r 25 1) 4)).map fun j =>
    (BitVec.ofNat 64 (wordAt r (32 + 16 * j) 8), BitVec.ofNat 64 (wordAt r (40 + 16 * j) 8))

/-- The reserved fields of a record are zero (R332). -/
def recordClean (r : List Byte) : Bool :=
  bits (r.getD 24 0#8) 3 5 == 0 && allZero ((r.drop 26).take 6) && allZero ((r.drop 96).take 32) &&
  allZero ((r.drop (32 + 16 * Nat.min (wordAt r 25 1) 4)).take (64 - 16 * Nat.min (wordAt r 25 1) 4))

namespace State

/-- A context that is live and not being torn down. -/
def liveCtx (s : State) (asid : Nat) : Bool := (s.ctxs.get? asid).any fun c => c.tearing.isNone

/-- A launch of a queue waits for its dependences and holds back the queue's later records (R336). -/
def queueHeld (s : State) (asid queue : Nat) : Bool :=
  s.launches.any fun l => l.2.asid == asid && l.2.device.isNone && l.2.queue == queue && l.2.st == .waiting

/-- What a record is checked for (R332, R334). -/
def recordCheck (s : State) (asid : Nat) (r : List Byte) : LCheck :=
  { desc := BitVec.ofNat 64 (wordAt r 0 8), body := readable s asid 64 (BitVec.ofNat 64 (wordAt r 0 8)) 64
    caddr := BitVec.ofNat 64 (wordAt r 8 8), deps := (recordDeps r).map Prod.fst, ndep := wordAt r 25 1
    clean := recordClean r, full := false }

/-- What its check waits for, if it does: its descriptor, or what that names. -/
def recordWaits (s : State) (asid : Nat) (r : List Byte) : Option (List Ask) :=
  let desc : DWord := BitVec.ofNat 64 (wordAt r 0 8)
  (if desc.toNat % 64 ≠ 0 then none else s.virtWaits hubCore asid needR desc 64).or (s.launchWaits asid (s.recordCheck asid r))

/-- Check a record and accept its launch, or refuse it (R332–R336). -/
def submit (s : State) (asid queue : Nat) (r : List Byte) : State :=
  let prio := bits (r.getD 24 0#8) 0 3
  let deps := recordDeps r
  let c := s.recordCheck asid r
  let t := ((s.virtLook hubCore asid needR c.desc 64).1.launchLook asid c).spendLook asid c.desc 64
  match checkLaunch s asid c with
  | .error code => t.failWord asid 0 none c.desc c.caddr 1 code
  | .ok l => t.addLaunch { l with
      cval := BitVec.ofNat 64 (wordAt r 16 8), queue := queue, prio := prio, eff := prio, deps := deps
      st := if deps = [] then .ready else .waiting }

end State

/-- The core whose slices serve the command processor's watches: the first of the lowest compute die in service (DESIGN
CHOICE, log entry 72). -/
def State.watchCore (s : State) : Nat := Config.coresPerDie * (((List.range 16).find? s.inService).getD 0)

/-- The command processor watches a queue's TAIL that shows nothing new (R143, R331). -/
def State.watchQueue (s : State) (asid queue base : Nat) : State :=
  s.grantMonitor s.watchCore (.mem (memKey 0 base)) (.queue asid queue)

/-- A dependence word has reached its value (R336). -/
def State.depMet (s : State) (asid : Nat) (d : DWord × DWord) : Bool :=
  match s.virtRead asid d.1 8 with
  | some bs => decide (d.2.toNat ≤ ofBytes bs)
  | none => false

/-- The command processor watches a dependence word that is not met, or asks for what its read waits for (R143, R336). -/
def State.watchDep (s : State) (launch asid : Nat) (d : DWord × DWord) : State :=
  match s.virtWaits hubCore asid needR d.1 8 with
  | some as => s.askFor as
  | none =>
  match s.virtLook hubCore asid needR d.1 8 with
  | (t, some (u :: _)) =>
    (match u.tr with | .ok loc _ _ => (t.spendLook asid d.1 8).grantMonitor t.watchCore loc (.dep launch d.1) | _ => t)
  | (t, _) => t

/-! ### Bank roles (R53, R215) -/

/-- The banks of a core that may be used: not those that boot firmware has reported (R53). -/
def State.usableBanks (s : State) (core : Nat) : List Nat :=
  let bad := (s.die (dieOf core)).unusable.get (core % Config.coresPerDie)
  (List.range 32).filter fun b => !bad.getLsbD b

/-- Whether n blocks of a launch may be at once on a core with so many usable banks (R53). -/
def Launch.holdsAtOnce (l : Launch) (usable n : Nat) : Bool :=
  let g := groupsFor l.lanes
  let k := rungCount l.ladder
  decide (n + k ≤ 16) && decide (n * g + k ≤ 48) && decide (n * g * l.regs + rungRegs l.ladder ≤ 4096) &&
  decide (n ≤ l.cohorts) && (l.oslots == 0 || n == 1) &&
  decide (ceilDiv (n * l.lstore + ringBytes l.ladder) Config.bankBytes + ceilDiv l.oslots 4 ≤ usable)

/-- The bank roles for a launch: local store, operand memory, then L1, over the usable banks from the lowest up; the others
stay off (R53). -/
def Launch.bankrole (l : Launch) (banks : List Nat) : Option DWord :=
  ((List.range 16).reverse.map (· + 1)).find? (l.holdsAtOnce banks.length) |>.map fun n =>
    let ls := ceilDiv (n * l.lstore + ringBytes l.ladder) Config.bankBytes
    let op := ceilDiv l.oslots 4
    let role := fun (b : Nat) =>
      let i := banks.idxOf b
      if !banks.contains b then 3 else if i < ls then 1 else if i < ls + op then 2 else 0
    (List.range 32).foldl (fun (v : DWord) b => v ||| (BitVec.ofNat 64 (role b) <<< (2 * b))) 0#64

/-- Banks with a role. -/
def banksOf (role : DWord) (k : Nat) : Nat := ((List.range 32).filter fun b => bits role (2 * b) 2 == k).length

namespace State

/-- A core holds no block and no frame. -/
def coreEmpty (s : State) (core : Nat) : Bool :=
  s.residents core == [] && s.launches.all fun kl => !s.hasFrames core kl.1

/-- The roles under which a launch would be placed on a core. -/
def roleFor (s : State) (core : Nat) (l : Launch) : Option DWord :=
  if s.coreEmpty core then l.bankrole (s.usableBanks core) else some (s.core core).bankrole

/-- A core gives up its L1 (R215). -/
def flushL1 (s : State) (core : Nat) : State :=
  let s1 := (s.swm.filter fun c => c.cache == core).foldl (fun t c => t.evictL1Copy core c.sector) s
  s1.setCache core { (s1.cache core) with lines := [] }

/-- Write BANKROLE (R53, R215). -/
def setRole (s : State) (core : Nat) (role : DWord) : State :=
  if (s.core core).bankrole == role then s else
  let t := s.flushL1 core
  t.setCore core { (t.core core) with bankrole := role }

/-! ### Fit -/

/-- Ring bytes set aside on a core (R188). -/
def ringsOn (s : State) (core : Nat) : Nat :=
  (s.launches.map fun kl => if s.holdsLaunch core kl.1 then ringBytes kl.2.ladder else 0).sum

/-- Where a block's local store may lie in the part of a core's banks that the rings leave, the blocks already there being inside that
part (R188): the lowest place that is free, at a multiple of 64 if there is one, so that no aligned access through a core window
(R214) meets two blocks (DESIGN CHOICE, log entry 28). -/
def lsPlace (s : State) (core room need : Nat) : Option Nat :=
  let rs := ((s.residents core).map Prod.snd).filter fun b => b.lstore != 0
  let free := fun (a : Nat) => rs.all fun b => decide (a + need ≤ b.lsBase) || decide (b.lsBase + b.lstore ≤ a)
  if !rs.all fun b => decide (b.lsBase + b.lstore ≤ room) then none
  else if need = 0 then some 0
  else
    let ends := sortBy (fun a b => decide (a ≤ b)) (rs.map fun b => b.lsBase + b.lstore)
    (0 :: ends.map (fun a => 64 * ((a + 63) / 64)) ++ ends).find? fun a => decide (a + need ≤ room) && free a

/-- A block of a launch put on a core, with its roles and its place, if it fits (R35, R53, R166, R195). -/
def putOn (s : State) (core key : Nat) (b : Block) : Option State :=
  let l := s.launch b.launch
  match s.roleFor core l with
  | none => none
  | some role =>
    let rings := s.ringsOn core + if s.holdsLaunch core b.launch then 0 else ringBytes l.ladder
    let banks := banksOf role 1 * Config.bankBytes
    let fitsOp := b.oslots == 0 || (decide (ceilDiv b.oslots 4 ≤ banksOf role 2) &&
      (s.residents core).all fun kb => kb.2.oslots == 0)
    if banks < rings then none else
    match s.lsPlace core (banks - rings) b.lstore with
    | none => none
    | some at_ =>
      let t := (if s.coreEmpty core then s.setRole core role else s).arrive key { b with core := core, lsBase := at_ }
      if fitsOp && (t.coreUse core).fits then some t else none

/-- A block of a launch that has not started (R42). -/
def newBlock (s : State) (launch cohort no : Nat) : Block :=
  let l := s.launch launch
  { Block.init with
    asid := l.asid, launch := launch, cohort := cohort, no := no, regs := l.regs, lanes := l.lanes, lstore := l.lstore
    oslots := l.oslots, staging := some { entry := 0, byte := 0, waits := none }
    groups := (List.range (groupsFor l.lanes)).map fun g => (g, startGroup l (cohort * l.blocks + no) g s.now) }

/-- Put the blocks of a launch's next cohort on cores, if all fit. -/
def putCohort (s : State) (launch : Nat) (cores : List Nat) : Option State :=
  let l := s.launch launch
  (cores.mapIdx fun i c => (i, c)).foldl (fun a ic => match a with
    | none => none
    | some t => t.putOn ic.2 (blockKey launch (l.nextCohort * 8 + ic.1)) (t.newBlock launch l.nextCohort ic.1)) (some s)

/-- The cohorts of a launch that are resident on a die. -/
def cohortsOn (s : State) (launch die : Nat) : List Nat :=
  ((s.blocks.filter fun kb => kb.2.launch == launch && kb.2.resident && kb.2.packed.isNone && dieOf kb.2.core == die).map
    fun kb => kb.2.cohort).eraseDups

/-- The dies that take blocks (R292, R354). -/
def openDies (s : State) : List Nat := (List.range 16).filter s.inService

/-- SPREAD allows a die for the next cohort of a launch (R260). -/
def spreadOk (s : State) (launch die : Nat) : Bool :=
  if !(s.launch launch).spread then true else
  let ds := s.openDies
  let total := (ds.map fun d => (s.cohortsOn launch d).length).sum
  if total < ds.length then s.cohortsOn launch die == []
  else
    let fewest := (ds.map fun d => (s.cohortsOn launch d).length).foldl Nat.min ((s.cohortsOn launch die).length)
    ds.find? (fun d => (s.cohortsOn launch d).length == fewest) == some die

/-- A launch has a saved block, which is restored before its next cohort (R339). -/
def hasSaved (s : State) (launch : Nat) : Bool := s.blocks.any fun kb => kb.2.launch == launch && !kb.2.resident

/-- A launch whose next cohort waits for its place (R336, R337). -/
def awaitsPlace (s : State) (launch : Nat) : Bool :=
  let l := s.launch launch
  (l.st == .ready || l.st == .dispatching) && decide (l.nextCohort < l.cohorts) && s.liveCtx l.asid

/-- A launch with a cohort to place now: its saved blocks come first (R336, R339). -/
def toPlace (s : State) (launch : Nat) : Bool := s.awaitsPlace launch && !s.hasSaved launch

/-- The next cohort of a launch fits a cluster now: enough of its cores take a block (R22, R337). -/
def fitsCluster (s : State) (launch cl : Nat) : Bool :=
  let l := s.launch launch
  s.inService (cl / 16) && s.spreadOk launch (cl / 16) &&
  decide (l.blocks ≤ (((List.range 8).map (8 * cl + ·)).filter fun c =>
    (s.putOn c (blockKey launch (l.nextCohort * 8)) (s.newBlock launch l.nextCohort 0)).isSome).length)

/-- It fits some cluster. -/
def fitsSomewhere (s : State) (launch : Nat) : Bool := (List.range 256).any (s.fitsCluster launch)

/-- The device without the blocks of a cluster whose launches have a lower effective priority. -/
def withoutLower (s : State) (cl eff : Nat) : State :=
  let low := fun (b : Block) => b.resident && clusterOf b.core == cl && decide ((s.launch b.launch).eff < eff)
  { s with
    blocks := s.blocks.filter fun kb => !low kb.2
    rings := s.rings.filter fun kr =>
      !(kr.1 / 4 % Config.numCores / 8 == cl && decide ((s.launch (kr.1 / 4 / Config.numCores)).eff < eff)) }

/-- A cluster that a launch could use (R337). -/
def couldUse (s : State) (launch cl : Nat) : Bool := (s.withoutLower cl (s.launch launch).eff).fitsCluster launch cl

/-- No other launch comes before a launch in a cluster (R337). One whose saved blocks are not back yet places nothing, but
keeps the clusters that it could use. -/
def hasTurn (s : State) (launch cl : Nat) : Bool :=
  let l := s.launch launch
  s.launches.keys.all fun h =>
    h == launch || !s.awaitsPlace h ||
    (let k := s.launch h
     if l.eff < k.eff then !(s.toPlace h && s.fitsSomewhere h) && !s.couldUse h cl
     else !(k.eff == l.eff && decide (k.turn < l.turn) && s.toPlace h && s.fitsSomewhere h))

/-- Since when a READY launch has found no room (R339): it finds some as it fits a cluster. -/
def noteRoom (s : State) : State :=
  { s with
    launches := s.launches.map fun kl =>
      if kl.2.st == .ready then
        (kl.1, { kl.2 with
          roomFrom := if s.toPlace kl.1 && s.fitsSomewhere kl.1 then none else kl.2.roomFrom.or (some s.hub.cycle) })
      else kl }

end State

/-- The command processor takes the next record of a launch queue: it reads it, raises HEAD, and checks it; while there is none
it watches TAIL (R331, R334). What must come from outside first, or from a home that is not in service, is awaited before HEAD rises
(R303, R356). -/
def execLaunchRecord (asid queue : Nat) (s : State) : Host.Outcome State Fault Refusal :=
  match s.ctxs.get? asid with
  | none => .next s
  | some c =>
    match c.queues[queue]? with
    | none => .next s
    | some (base, logn, head) =>
      let tail := s.memDWord (memKey 0 base)
      let slot := memKey 0 (base + 128 + 128 * (head.toNat % 2 ^ logn))
      if c.tearing.isSome || s.queueHeld asid queue then .next s
      else if s.homeAsks (memKey 0 base) 8 ≠ [] then .next (s.askFor (s.homeAsks (memKey 0 base) 8))
      else if tail == head then .next (s.watchQueue asid queue base)
      else if s.homeAsks slot 128 ≠ [] then .next (s.askFor (s.homeAsks slot 128)) else
      let r := s.hubRead slot 128
      match s.recordWaits asid r with
      | some as => .next (s.askFor as)
      | none =>
      let s1 := s.hubWrite (memKey 0 (base + 8)) (toBytes 8 (head + 1#64).toNat)
      let s2 := s1.onCtx asid fun k => { k with queues := k.queues.set queue (base, logn, head + 1#64) }
      .next (s2.submit asid queue r).noteRoom

/-- A launch is READY from this moment (R336, R337). -/
def State.makeReady (s : State) (launch : Nat) : State :=
  let t := s.onLaunch launch fun k =>
    { k with deps := [], st := .ready, ageFrom := s.hub.cycle, roomFrom := none, readyOrder := s.nextId, turn := s.nextId }
  { t with nextId := t.nextId + 1 }

/-- A device-side launch reaches the dispatcher: it is READY; where its context is being torn down it is discarded, and counts as raced
(R336, R338). -/
def State.arrives (s : State) (h : Nat) : State :=
  let asid := (s.launch h).asid
  if (s.ctx asid).tearing.isNone then s.makeReady h else
  ((s.onLaunch h fun k => { k with st := .discarded }).statusAdd asid 8 1).addTear asid [1, 1]

/-- The device-side launches of the cycle reach the dispatcher (R338; log entry 77). -/
def State.arriveLaunches (s : State) : State :=
  let ks := s.launches.filter fun kl => kl.2.device.isSome && kl.2.st == .waiting
  if ks = [] then s else (ks.foldl (fun (t : State) kl => t.arrives kl.1) s).noteRoom

/-- A waiting launch reads its dependence words: those that are met are checked no more, the others are watched, and with the
last one it is READY (R336). -/
def execDependenceMet (launch : Nat) (s : State) : Host.Outcome State Fault Refusal :=
  let l := s.launch launch
  if l.st != .waiting || l.device.isSome then .next s else
  let left := l.deps.filter fun d => !s.depMet l.asid d
  let met := l.deps.filter fun d => s.depMet l.asid d
  let t := left.foldl (fun (u : State) d => u.watchDep launch l.asid d) (met.foldl (fun (u : State) d => u.spendLook l.asid d.1 8) s)
  .next (if left = [] then (t.makeReady launch).noteRoom else t.onLaunch launch fun k => { k with deps := left })

/-- The dispatcher places a launch's next cohort on the given cores of one cluster (R22, R337). -/
def execCohortPlace (launch : Nat) (cores : List Nat) (s : State) : Host.Outcome State Fault Refusal :=
  let l := s.launch launch
  let cl := clusterOf (cores.headD 0)
  if s.hub.placeHalt || !s.toPlace launch || cores.length ≠ l.blocks || !decide cores.Nodup ||
      !cores.all (fun c => decide (c < Config.numCores) && clusterOf c == cl) ||
      !s.inService (cl / 16) || !s.spreadOk launch (cl / 16) || !s.hasTurn launch cl then .next s
  else
    match s.putCohort launch cores with
    | none => .next s
    | some t =>
      .next ({ t.onLaunch launch fun k =>
        { k with
          nextCohort := k.nextCohort + 1
          st := if k.cohorts ≤ k.nextCohort + 1 then .running else .dispatching
          eff := k.prio, ageFrom := s.hub.cycle, roomFrom := none
          turn := t.nextId
          residentOrder := if k.nextCohort = 0 then t.nextId else k.residentOrder } with nextId := t.nextId + 1 } : State).noteRoom

/-- A launch has waited 2^20 hub cycles for a place (R337). -/
def execPriorityAge (launch : Nat) (s : State) : Host.Outcome State Fault Refusal :=
  let l := s.launch launch
  if (l.st == .ready || l.st == .dispatching) && decide (l.nextCohort < l.cohorts) && decide (l.eff < 7) &&
      decide (2 ^ 20 ≤ s.hub.cycle - l.ageFrom) then
    .next (s.onLaunch launch fun k => { k with eff := k.eff + 1, ageFrom := k.ageFrom + 2 ^ 20 })
  else .next s

/-! ### Staging (R226) -/

/-- How a step of staging ends. -/
inductive Staged where
  /-- it went on -/
  | more (s : State)
  /-- it waits -/
  | wait (s : State)
  /-- nothing is left -/
  | over (s : State)

namespace State

/-- The block's groups stop before they start: no handler is entered, and no cause is written (R50, R226). -/
def stopStaging (s : State) (blk code : Nat) (src : DWord) : State :=
  let entry := (s.launch (s.block blk).launch).entry
  (s.block blk).groups.keys.foldl (fun t g =>
    let m := (t.group blk g).ordinary
    (t.onLanes blk g m fun _ l => { l with tval := src, epc := entry }).stopGroup blk g code m
      entry false) s

/-- The next piece of a block's staging, inside one sector: source, offset and bytes. -/
def stagePiece (s : State) (b : Block) (st : Staging) : Option (DWord × Nat × Nat) :=
  let l := s.launch b.launch
  (l.stages[st.entry]?).map fun e =>
    let src := e.src + BitVec.ofNat 64 (b.cohort * l.blocks + b.no) * e.stride + BitVec.ofNat 64 st.byte
    (src, e.dst + st.byte, Nat.min (e.len - st.byte) (64 - src.toNat % 64))

/-- One step of a block's staging. -/
def stageStep (s : State) (blk : Nat) : Staged :=
  let b := s.block blk
  match b.staging with
  | none => .over s
  | some st =>
    if st.waits.isSome then .wait s else
    match s.stagePiece b st with
    | none => .over (s.onBlock blk fun k => { k with staging := none })
    | some (src, off, n) =>
      if n = 0 then .more (s.onBlock blk fun k => { k with staging := some { st with entry := st.entry + 1, byte := 0, counted := [] } })
      else
        let a := s.engineLook b.core b.asid b.launch needR src n
        match a.2.tr with
        | .ok _ _ _ =>
          let x := engineAcc b.core blk b.asid 15 0#32 false a.2
          let r := a.1.prepare x.1 x.2
          if !r.2 then
            let h := r.1.countDirect x.1 { x.2 with counted := st.counted }
            .wait (h.1.onBlock blk fun k => { k with staging := some { st with counted := h.2 } }) else
          let t := r.1.engineNote b.core b.asid a.2
          let bs := t.engineRead x n
          .more (((t.touchCaches x.1 x.2).setLoc (.ls blk off) bs).onBlock blk fun k =>
            { k with staging := some { st with byte := st.byte + n, counted := [] } })
        | .missing =>
          let id := s.nextId
          .wait ((s.postWait b.asid src (fqBytes src 0#64 b.asid 6 0xFF b.core 0 0 b.field) (.staging blk)).onBlock blk fun k =>
            { k with staging := some { st with waits := some id } })
        | .protection => .wait (s.stopStaging blk cProtection src)
        | .kernelReserved => .wait (s.stopStaging blk cKernel src)
        | .lost => .wait (s.stopStaging blk cLost src)
        | .poison => .wait (a.1.stopStaging blk cPoison src)
        | .noFrame _ => .wait s
        | .wait as => .wait (s.askFor as)

/-- Staging goes on as far as it can; whether it is over. -/
def stageRun (s : State) (blk : Nat) : Nat → State × Bool
  | 0 => (s, false)
  | n + 1 => match s.stageStep blk with
    | .more t => t.stageRun blk n
    | .wait t => (t, false)
    | .over t => (t, true)

end State

/-- A placed block's staging goes on; when it is over the block begins to issue, on a die that is in service (R226, R288,
R292). -/
def execBlockStart (blk : Nat) (s : State) : Host.Outcome State Fault Refusal :=
  let b := s.block blk
  if !b.resident || b.started || b.leaving || b.groups.all (fun kg => kg.2.stopped) || !s.inService (dieOf b.core) then .next s
  else
  let l := s.launch b.launch
  let r := (s.bumpFresh).stageRun blk ((l.stages.map fun e => e.len + 1).sum + 1)
  .next (if r.2 then
      (r.1.bumpId.onBlock blk fun k => { k with started := true, startOrder := r.1.nextId }).touchDomains b.asid [dieOf b.core]
    else r.1)

end Sys2Proof.Machine
end

