-- ==== Sys2Proof/Machine/Saving.lean ====
section
/-!
DEFINITION. Pre-emption and restoration (R186, R206, R276, R339, R340).
-/
namespace Sys2Proof.Machine

/-! ### The context-save frame (R340) -/

/-- The sections of a frame follow each other, each at the next multiple of 256. -/
def layOut (sections : List (List Byte)) : List (Nat × List Byte) :=
  (sections.foldl (fun (a : Nat × List (Nat × List Byte)) bs =>
    (((a.1 + bs.length + 255) / 256) * 256, a.2 ++ [(a.1, bs)])) (0, [])).2

/-- The private section: free values (log entry 27). -/
def privateSection (seed g : Nat) : List Byte := (List.range (2048 * g)).map fun i => Config.privateByte seed i

/-- Other bytes of a frame that the manual does not lay out. -/
def openBytes (seed from_ n : Nat) : List Byte := (List.range n).map fun i => Config.privateByte seed (2 ^ 20 + from_ + i)

/-- The matrix section: the record of R184 for a configured block, then its CLAIMED slots (R186). R186 saves no record of a block that is
not configured, and R340 does not say where that block's slots lie then: here they open the section (DESIGN CHOICE, log entry 27). -/
def matrixSection (b : Block) : List Byte :=
  if b.oslots = 0 then [] else
  let pbs := b.savedMma.flatten
  let head :=
    toBytes 8 b.savedTcb.toNat ++ toBytes 8 b.savedEpmm.toNat ++ toBytes 8 b.savedMma.length ++ toBytes 8 0 ++ pbs ++
    List.replicate (224 - pbs.length) 0#8
  let tiles := (List.range 32768).flatMap fun i => toBytes 4 (b.savedTiles.get i).toNat
  (if b.mconf then head ++ tiles else []) ++
  ((List.range b.oslots).filter fun i => b.claimed.getLsbD i).flatMap fun i =>
    (List.range 9216).map fun k => b.slots.get (slotBytes * i + k)

/-- Bytes of the saved rings of a block (R206). -/
def ringSection (l : Launch) (b : Block) (seed : Nat) : List Byte :=
  match l.ladder with
  | none => []
  | some lad => ((lad.rungs.mapIdx fun k r => (k, r)).tail).flatMap fun kr =>
      let bs := (b.rings.getD kr.1 Ring.init).frames.flatMap fun f => f.words.flatMap fun w => toBytes 4 w.toNat
      bs ++ openBytes seed (65536 * (kr.1 + 1)) (kr.2.ring * kr.2.frame * 4 - bs.length)

/-- The sections of a block's frame. -/
def frameSections (s : State) (key seed : Nat) : List (List Byte) :=
  let b := s.block key
  let gs := b.groups.vals
  let l := s.launch b.launch
  [ toBytes 8 (s.blockId b).toNat ++ toBytes 8 l.desc.toNat ++ toBytes 8 (clusterOf b.core) ++ toBytes 8 gs.length ++
      List.replicate 224 0#8,
    privateSection seed gs.length,
    gs.flatMap fun g => (List.range 128).flatMap fun r => toBytes 8 (g.ureg r).toNat,
    gs.flatMap fun g => (List.range b.regs).flatMap fun r => (List.range 64).flatMap fun i => toBytes 4 ((g.lane i).vreg r).toNat,
    gs.flatMap fun g => (List.range 64).flatMap fun i => toBytes 12 (g.lane i).p.toNat,
    gs.flatMap fun g => (List.range 64).flatMap fun i => (List.range 8).flatMap fun j => toBytes 4 ((g.lane i).x.get j).toNat,
    openBytes seed 0 256 ++ toBytes 4 b.reuse.toNat ++ openBytes seed 256 252,
    (List.range b.lstore).map fun i => s.lsByte key i,
    matrixSection b,
    s.engineRecord key,
    ringSection l b seed ]

namespace State

/-- The physical address of a save frame. -/
def frameKey (s : State) (asid slot : Nat) : Nat := memKey 0 ((s.ctx asid).saveBase + 2 ^ 22 * slot)

/-- Write a block's frame. -/
def writeFrame (s : State) (key slot seed : Nat) : State :=
  (layOut (frameSections s key seed)).foldl (fun t p => t.hubWrite (s.frameKey (s.block key).asid slot + p.1) p.2) s

/-! ### Pre-emption (R339) -/

/-- What is pre-empted with a block: itself, or its launch's share of the core (R206). -/
def shareOf (s : State) (blk : Nat) : List Nat :=
  let b := s.block blk
  if (s.launch b.launch).ladder.isSome then
    ((s.residents b.core).filter fun kb => kb.2.launch == b.launch).map Prod.fst
  else [blk]

/-- Free save frames of a context, lowest first. -/
def freeFrames (s : State) (asid : Nat) : List Nat :=
  (List.range (s.ctx asid).saveSlots).filter fun k => !(s.ctx asid).frames.contains k

/-- A launch that has waited long enough for room (R339). -/
def wantsRoom (s : State) (h : Nat) : Bool :=
  let l := s.launch h
  l.st == .ready && s.toPlace h && !s.hub.placeHalt && !s.fitsSomewhere h &&
  l.roomFrom.any fun r => decide (2 ^ 16 ≤ s.hub.cycle - r)

/-- A resident block that may be chosen: its context has frames for its share. -/
def canSave (s : State) (blk : Nat) : Bool :=
  let b := s.block blk
  b.resident && !b.leaving &&
  decide ((s.shareOf blk).length ≤ (s.freeFrames b.asid).length)

/-- The first block is chosen before the second: lower priority, then started later (R339). -/
def chosenBefore (s : State) (a b : Nat) : Bool :=
  let ea := (s.launch (s.block a).launch).eff
  let eb := (s.launch (s.block b).launch).eff
  decide (ea < eb) || (ea == eb && decide ((s.block b).startOrder < (s.block a).startOrder))

/-- Pre-emption of a block is due; one block at a time (R339). -/
def preemptDue (s : State) (blk : Nat) : Bool :=
  s.canSave blk && !(s.blocks.any fun kb => kb.2.resident && kb.2.leaving) &&
  s.launches.keys.any (fun h => s.wantsRoom h && decide ((s.launch (s.block blk).launch).eff < (s.launch h).eff)) &&
  s.blocks.keys.all fun k => k == blk || !s.canSave k || !s.chosenBefore k blk

/-- The block has no memory instruction outstanding, and only MMAs in the matrix queue (R152, R339). -/
def saveQuiet (s : State) (blk : Nat) : Bool :=
  (s.ops.all fun o => o.2.blk != blk) &&
  ((s.core (s.block blk).core).mq.all fun o => o.blk != blk || o.kind.isMma)

/-- The copies of a block leave their engine at their progress points (R275, R276). -/
def parkCopies (s : State) (blk : Nat) : State :=
  (s.liveCopies blk).foldl (fun t c =>
    let u := t.returnLeave c.1 c.2
    { u with copies := u.copies.modify c.1 fun k =>
        if k.tensor then { k with tup := k.tuple, desc := [], asked := false, leave := false }
        else { k with asked := false, leave := false } }) s

/-- The block's MMAs leave the matrix queue with their flags (R186). -/
def parkMmas (s : State) (blk : Nat) : State :=
  let core := (s.block blk).core
  let c := s.core core
  let ms := c.mq.filter fun o => o.blk == blk
  let s1 := s.onBlock blk fun b =>
    { b with
      savedOps := ms.map fun o => { o with begun := false, leave := false, asked := false }
      savedMma := ms.filterMap fun o => match o.kind with | .mma pb => some pb | _ => none
      savedEpmm := recordEpmm ms, savedTcb := c.tcb, savedTiles := if b.mconf then c.tiles else [] }
  let s2 := ms.foldl (fun t o => if o.asked then t.endLeave core false o.id o.leave else t) s1
  s2.setCore core { (s2.core core) with mq := c.mq.filter fun o => o.blk != blk }

/-- The launch's rings on a core go into a block, their stamps as ages (R206). -/
def parkRings (s : State) (blk : Nat) : State :=
  let b := s.block blk
  let keys := (List.range 4).map fun k => (k, ringKey b.core b.launch k)
  let aged := fun (r : Ring) => { r with frames := r.frames.map fun f => { f with stamp := s.clock b.core - f.stamp } }
  let s1 := s.onBlock blk fun x =>
    { x with rings := keys.filterMap fun kk => (s.rings.get? kk.2).map fun r => (kk.1, aged r) }
  { s1 with rings := s1.rings.filter fun kr => !keys.any fun kk => kk.2 == kr.1 }

/-- A block's entries in the owner tables are freed (R221). -/
def dropOwner (s : State) (core owner : Nat) : State :=
  { s with caches := s.caches.map fun kc =>
      if kc.1 == core || (decide (l2Key (dieOf core) 0 ≤ kc.1) && decide (kc.1 < l2Key (dieOf core) 384)) then
        (kc.1, kc.2.dropOwner owner)
      else kc }

/-- The pins of a context that has no block left on a cluster are released (R164). -/
def releasePins (s : State) (cl asid : Nat) : State :=
  if s.blocks.any fun kb => kb.2.resident && kb.2.asid == asid && clusterOf kb.2.core == cl then s else s.unpinAll cl asid

/-- The lanes of a block watch no more (R143). -/
def dropMonitors (s : State) (blk : Nat) : State :=
  { s with monitors := s.monitors.filter fun m => match m.owner with | .lane b _ _ => b != blk | _ => true }

/-- Save one block into a frame, and free what it held of its core. A path B whose instruction has not had its effect yet issues it again
after the restoration (DESIGN CHOICE, log entry 68). -/
def saveBlock (s : State) (blk slot share : Nat) : State :=
  let b := s.block blk
  let s1 := s.bumpFresh.parkMmas blk
  let s2 := (s1.writeFrame blk slot s1.fresh).parkCopies blk
  let s3 := s2.onBlock blk fun k =>
    { k with
      resident := false, leaving := false, frame := some (slot, s1.fresh), share := share
      groups := k.groups.map fun kg => (kg.1, { kg.2 with
        active := false, lates := []
        lanes := kg.2.lanes.map fun l => if l.wait == .late then { l with wait := .running } else l }) }
  (((s3.dropOwner b.core b.owner).dropMonitors blk).releasePins (clusterOf b.core) b.asid).onCtx b.asid fun c =>
    { c with frames := c.frames ++ [slot] }

/-- Save a share: the rings go with its first block. -/
def saveShare (s : State) (blk : Nat) : State :=
  let ks := s.shareOf blk
  let share := s.nextId
  let s1 := (match ks with | k :: _ => s.parkRings k | [] => s).bumpId
  (ks.zip (s.freeFrames (s.block blk).asid)).foldl (fun t p => t.saveBlock p.1 p.2 share) s1

end State

/-- The dispatcher chooses a block, whose groups then issue no more; and when every memory instruction of it is performed it
is saved and its core's resources are free (R339). -/
def execBlockPreempt (blk : Nat) (s : State) : Host.Outcome State Fault Refusal :=
  if (s.block blk).leaving then
    if (s.shareOf blk).all (fun k => s.saveQuiet k) && decide ((s.shareOf blk).length ≤ (s.freeFrames (s.block blk).asid).length)
    then .next (s.saveShare blk).noteRoom else .next s
  else if s.preemptDue blk then
    .next ((s.shareOf blk).foldl (fun t k => t.onBlock k fun b => { b with leaving := true }) s)
  else .next s.noteRoom

/-! ### Restoration -/

namespace State

/-- The saved blocks of a share. -/
def savedShare (s : State) (blk : Nat) : List Nat :=
  (s.blocks.filter fun kb => !kb.2.resident && kb.2.launch == (s.block blk).launch && kb.2.share == (s.block blk).share).map
    Prod.fst

/-- The private section of a frame is as it was written (R340). -/
def frameIntact (s : State) (blk : Nat) : Bool :=
  let b := s.block blk
  match b.frame with
  | some (slot, seed) =>
    s.hubRead (s.frameKey b.asid slot + 256) (2048 * b.groups.length) == privateSection seed b.groups.length
  | none => true

/-- What reading it back waits for (R356). -/
def frameAsks (s : State) (blk : Nat) : List Ask :=
  let b := s.block blk
  match b.frame with
  | some (slot, _) => s.homeAsks (s.frameKey b.asid slot + 256) (2048 * b.groups.length)
  | none => []

/-- A waiting lane of a restored block watches and reads its word again; a sleep ends (R340). -/
def rewake (s : State) (blk g i : Nat) : State :=
  match (s.lane blk g i).wait with
  | .sleep _ => s.onLanes blk g (laneBit i) fun _ k => { k with wait := .running }
  | .waitc w => (s.waitOn blk g i { w with again := w.readAt.isSome, asked := false }).recheck blk g i
  | _ => s

/-- A block that is on its core again goes on: its matrix state, its copies, of which those that were parked are translated
afresh, its rings, its lanes (R186, R206, R276, R340). R36 does not say how long a restored group has waited since its last issue: the
wait counts from its restoration (DESIGN CHOICE, log entry 73). -/
def resumeBlock (s : State) (blk : Nat) (intact : Bool) : State :=
  let b := s.block blk
  let c := s.core b.core
  let s1 : State := s.setCore b.core
    { c with
      tcb := if b.mconf then b.savedTcb else c.tcb
      tiles := if b.mconf then b.savedTiles else c.tiles
      mq := c.mq ++ b.savedOps }
  let s2 : State := { s1 with
    copies := s1.copies.map fun (kc : Nat × Copy) =>
      if kc.2.blk == blk then
        (kc.1, { kc.2 with
          core := b.core
          st := match kc.2.st with | .faulted eid => if kc.2.saved then .faulted eid else .pending | st => st })
      else kc }
  let s3 := b.rings.foldl (fun t kr => t.setRing (ringKey b.core b.launch kr.1)
    { kr.2 with frames := kr.2.frames.map fun f => { f with stamp := s.clock b.core - f.stamp } }) s2
  let s4 := s3.onCtx b.asid fun k => { k with frames := k.frames.filter fun f => some f != b.frame.map Prod.fst }
  let s5 := (s4.onBlock blk fun k =>
    { k with
      savedOps := [], savedMma := [], savedEpmm := 0#64, savedTcb := 0#64, savedTiles := [], frame := none, rings := []
      share := 0
      groups := k.groups.map fun (kg : Nat × Group) => (kg.1, { kg.2 with since := s.now, lastIssue := s.clock b.core }) }).touchDomains
    b.asid [dieOf b.core]
  if intact then
    (s5.lanesWhere fun _ _ l => match l.wait with | .waitc _ => true | .sleep _ => true | _ => false).foldl
      (fun t p => if p.1 == blk then t.rewake blk p.2.1 p.2.2 else t) s5
  else
    b.groups.keys.foldl (fun t g => t.stopAll blk g cIllegal) s5

/-- Room in a core's engine for the copies that a share brings (R266, R275). -/
def engineTakes (s : State) (core : Nat) (ks : List Nat) : Bool :=
  decide (s.engineCount core 0 + (ks.map fun k => (s.liveCopies k).length).sum ≤ 256)

/-- Put a saved share on a core, if it fits. R22 asks for a core of the same cluster and does not say that no other block of its cohort may
be there: a core that holds one is not refused (DESIGN CHOICE, log entry 73). -/
def putShare (s : State) (core : Nat) (ks : List Nat) : Option State :=
  ks.foldl (fun a k => match a with
    | none => none
    | some t => t.putOn core k (t.block k)) (some s)

end State

/-- The dispatcher restores a saved block, with its share, onto a core of its cluster (R22, R206, R339, R340). -/
def execBlockRestore (blk core : Nat) (s : State) : Host.Outcome State Fault Refusal :=
  let b := s.block blk
  if b.frame.isNone || b.resident || Config.numCores ≤ core || clusterOf core ≠ b.cluster || !s.inService (dieOf core) ||
      !s.liveCtx b.asid || !s.hasTurn b.launch b.cluster || s.hasFrames core b.launch then .next s
  else
    let ks := s.savedShare blk
    if !s.engineTakes core ks then .next s else
    let far := ks.flatMap fun k => s.frameAsks k
    if far ≠ [] then .next (s.askFor far) else
    match s.putShare core ks with
    | none => .next s
    | some t => .next (ks.foldl (fun u k => u.resumeBlock k (s.frameIntact k)) t).noteRoom

end Sys2Proof.Machine
end

