-- ==== Sys2Proof/Machine/Ending.lean ====
section
/-!
DEFINITION. The end of blocks (R26, R168, R221, R265, R270) and of launches (R193, R335, R336).
-/
namespace Sys2Proof.Machine

namespace State

/-- Nothing of a block is at work any more: its groups have ended or stopped, and no access, no copy and no matrix operation
of it is outstanding (R26, R168, R265). -/
def blockOver (s : State) (blk : Nat) : Bool :=
  let b := s.block blk
  (b.groups.all fun kg => kg.2.ended || kg.2.stopped) && b.savedOps == [] &&
  (s.ops.all fun o => o.2.blk != blk) && (s.copies.all fun c => c.2.blk != blk || !c.2.outstanding) &&
  (!b.resident || (s.core b.core).mq.all fun o => o.blk != blk)

/-- The code of a failure of a block's copies that no CWAIT reported (R270). -/
def unreported (s : State) (blk : Nat) : Option (BitVec 8) :=
  s.copies.findSome? fun c =>
    if c.2.blk == blk && !c.2.reported then (match c.2.st with | .failed code _ => some code | _ => none) else none

/-- Take a block away: its save frame, its owner entries, its context's pins, the tiles of its core, the barriers of its cohort
(R26, R164, R168, R221). -/
def dropBlock (s : State) (blk : Nat) : State :=
  let b := s.block blk
  let s1 : State := { s with blocks := s.blocks.erase blk, copies := s.copies.filter fun (c : Nat × Copy) => c.2.blk != blk }
  let s2 := if b.resident then
      (let t := (s1.dropOwner b.core b.owner).releasePins (clusterOf b.core) b.asid
       if b.oslots = 0 then t else t.setCore b.core { (t.core b.core) with tiles := [] })
    else s1
  let s3 := match b.frame with
    | some f => s2.onCtx b.asid fun c => { c with frames := c.frames.filter (· != f.1) }
    | none => s2
  if b.packed.isSome || s3.blocks.any fun kb => kb.2.packed.isNone && kb.2.launch == b.launch && kb.2.cohort == b.cohort then s3
  else
    let k := 4 * cohortKey b.launch b.cohort
    { s3 with cbars := s3.cbars.filter fun (c : Nat × Nat) => !(decide (k ≤ c.1) && decide (c.1 < k + 4)) }

end State

/-- A block ends and frees its resources (R26, R265, R270). -/
def execBlockEnd (blk : Nat) (s : State) : Host.Outcome State Fault Refusal :=
  match s.blocks.get? blk with
  | none => .next s
  | some b =>
    if !s.blockOver blk then .next s else
    .next (((s.dropBlock blk).onLaunch b.launch fun l =>
      { l with failCode := match l.failCode with | some c => some c | none => s.unreported blk }).noteRoom)

namespace State

/-- Every block and packed group of a launch has ended, no frame of it waits, and its contributions to this package's windows are
applied (R284, R335, R336). -/
def launchOver (s : State) (launch : Nat) : Bool :=
  (s.blocks.all fun kb => kb.2.launch != launch) && (s.rings.all fun kr => kr.1 / 4 / Config.numCores != launch) &&
  s.hub.contribs.all fun c => c.launch != some launch

/-- The code a launch fails with, if it fails (R193, R270, R347). -/
def endCode (s : State) (launch : Nat) : Option (BitVec 8) :=
  let l := s.launch launch
  let missing := l.ladder.any fun lad => decide (l.doneCount < lad.items)
  l.firstStop.or (if missing then some 0x08#8 else l.failCode)

/-- The ladder completion word comes first (R191): it is still to be written, or held at its home (R356). -/
def ladderFirst (s : State) (launch : Nat) : Bool :=
  let l := s.launch launch
  match l.ladder with
  | some lad => (decide (lad.items ≤ l.doneCount) && !l.ladderDone) ||
      s.hub.waiting.any fun h => match h.what with | .word _ id => id == 2 * launch + 2 | _ => false
  | none => false

/-- Write a launch's completion word (R335). -/
def finishLaunch (s : State) (launch : Nat) (code : Option (BitVec 8)) : State :=
  let l := s.launch launch
  match code with
  | some c => s.failWord l.asid launch l.device l.desc l.caddr 0 c.toNat
  | none =>
    let r := s.putWord l.asid launch l.caddr l.cval
    if r.2 then r.1 else r.1.post11 l.asid l.device l.desc l.cval 1

end State

/-- A launch completes: its completion word is written (R335, R336); so is that of a launch which the loss of a domain
discarded, once its context's work has stopped (R290). -/
def execLaunchComplete (launch : Nat) (s : State) : Host.Outcome State Fault Refusal :=
  let l := s.launch launch
  if !s.liveCtx l.asid then .next s
  else if l.st == .running && s.launchOver launch && !s.ladderFirst launch then
    match s.wordWaits l.asid l.caddr with
    | some as => .next (s.askFor as)
    | none => .next ((s.finishLaunch launch (s.endCode launch)).onLaunch launch fun k => { k with st := .done })
  else if l.st == .discarded && l.firstStop.isSome && s.blocks.all (fun kb => kb.2.asid != l.asid) then
    match s.wordWaits l.asid l.caddr with
    | some as => .next (s.askFor as)
    | none => .next ((s.finishLaunch launch l.firstStop).onLaunch launch fun k => { k with firstStop := none })
  else .next s

end Sys2Proof.Machine
end

