-- ==== Sys2Proof/Machine/FaultQueue.lean ====
section
/-!
DEFINITION. The fault queue and its answers (R305–R310, R341), changes of translations (R321, R322), migration (R324–R326),
and the other registers of the host port (R317, R341, R364).
-/
namespace Sys2Proof.Machine

/-- What host software does to a register of BAR0 is traffic of the host port's CXL.io, which IDE protects: it is refused until
the port's keys are set (R302, R363; log entry 50). -/
def State.viaIo (s : State) (r : Host.Outcome State Fault Refusal) : Host.Outcome State Fault Refusal :=
  if s.boot.ideHost.isSome then r else .next s

/-! ### The queue (R341) -/

/-- LOG2N of the queue, when it is enabled. -/
def State.fqLog (s : State) : Option Nat :=
  let n := bits s.hub.fqbase 0 5
  if 7 ≤ n ∧ n ≤ 20 then some n else none

/-- The ring is full. -/
def State.fqFull (s : State) (n : Nat) : Bool := s.hub.fqtail - s.hub.fqhead == BitVec.ofNat 64 (2 ^ n)

/-- The hub appends the entry it has held longest: it gets its SEQ, TAIL rises, and MSI-X vector 0 is signalled. -/
def execFaultEntryAppend (s : State) : Host.Outcome State Fault Refusal :=
  match s.hub.held, s.fqLog with
  | e :: rest, some n =>
    if s.fqFull n then .next s else
    let base := bits s.hub.fqbase 12 52 * 4096
    let key := memKey 1 ((base + 32 * (s.hub.fqtail.toNat % 2 ^ n)) % 2 ^ 52)
    let t := s.hubWrite key (e.bytes ++ toBytes 4 s.hub.seq.toNat)
    .next { t with hub := { t.hub with
      held := rest, fqtail := s.hub.fqtail + 1#64, seq := s.hub.seq + 1#32, msix0 := s.hub.msix0 + 1
      outst := t.hub.outst.map fun o => if o.id == e.id then { o with seq := some s.hub.seq } else o } }
  | _, _ => .next s

/-- Host software advances FQHEAD. -/
def execFqheadWrite (head : DWord) (s : State) : Host.Outcome State Fault Refusal :=
  s.viaIo (.next { s with hub := { s.hub with fqhead := head } })

/-! ### Resolve records (R307, R308) -/

namespace State

/-- The appended entries that a record resolves: the one it names, and those of its context and page. -/
def coveredBy (s : State) (seq : Word) : List Outst :=
  match s.hub.outst.find? fun o => o.seq == some seq with
  | some e => s.hub.outst.filter fun o => o.seq.isSome && o.asid == e.asid && o.va.toNat / 4096 == e.va.toNat / 4096
  | none => []

/-- The latest moment at which a group became pending, this cycle's at least (R37). -/
def lastSince (s : State) : Nat :=
  s.blocks.foldl (fun m kb => kb.2.groups.foldl (fun n kg => Nat.max n kg.2.since) m) s.now

/-- One entry of a group is answered with RETRY: with the last one the group is ready, after those made ready earlier. -/
def retryGroup (s : State) (b g id : Nat) : State :=
  let grp := s.group b g
  if !grp.parked.contains id then s else
  let left := grp.parked.filter (· != id)
  s.onGroup b g fun k => if left = [] then { k with parked := [], since := s.lastSince + 1 } else { k with parked := left }

/-- RETRY for one entry. -/
def retryOne (s : State) (o : Outst) : State :=
  match o.waiter with
  | .group b g => s.retryGroup b g o.id
  | .copy id => { s with copies := s.copies.modify id fun c => if c.st == .faulted o.id then { c with st := .pending } else c }
  | .staging b => s.onBlock b fun k => { k with staging := k.staging.map fun t => if t.waits == some o.id then { t with waits := none } else t }

/-- FAIL for one entry. -/
def failOne (s : State) (o : Outst) : State :=
  match o.waiter with
  | .group b g =>
    let grp := s.group b g
    if grp.parked.contains o.id then s.stopAt b g cPageFault grp.parkLanes o.va grp.parkPc else s
  | .copy id =>
    (match s.copies.get? id with
      | some c => if c.st == .faulted o.id then s.failCopy id c cPageFault o.va else s
      | none => s)
  | .staging b => s.stopStaging b cPageFault o.va

/-- The lanes of a group that waits for an entry. -/
def waitingLanes (s : State) (o : Outst) : Option (Nat × Nat × DWord) :=
  match o.waiter with
  | .group b g => some (b, g, (s.group b g).ordinary)
  | _ => none

/-- Apply a record to the entries it resolves, in ascending SEQ; what the host has written comes before the reissues, whose walks read
their tables afresh (R309). -/
def answer (s : State) (fail : Bool) (os : List Outst) : State :=
  let ids := os.map Outst.id
  let tos := os.filterMap s.waitingLanes
  let s0 := s.dropFetched.mark fun n => { noMark with host := n, tos := tos, id := s.nextId }
  let s1 := { s0 with hub := { s0.hub with outst := s0.hub.outst.filter fun o => !ids.contains o.id } }
  os.foldl (if fail then failOne else retryOne) s1

end State

/-- Host software writes RSLV. -/
def execResolveRecord (rslv : DWord) (s : State) : Host.Outcome State Fault Refusal :=
  let os := s.coveredBy (rslv.extractLsb' 0 32)
  s.viaIo (.next (
    if 2 ≤ bits rslv 62 2 || bits rslv 32 30 != 0 || os == [] then s.count hubDie 24
    else s.answer (bits rslv 62 2 == 1) os))

/-! ### TINV (R321) -/

/-- What an invalidation covers: a kind, an ASID and a page. -/
structure Inval where
  kind : Nat
  asid : Nat
  va : DWord
  deriving DecidableEq, Repr

def Inval.of (v : DWord) : Inval := { kind := bits v 61 2, asid := bits v 45 11, va := BitVec.ofNat 64 (bits v 0 45 * 4096) }

/-- A translation that goes. -/
def Inval.removes (i : Inval) (t : TlbEnt) : Bool :=
  match i.kind with
  | 0 => (t.asid == i.asid || t.leaf.getLsbD 6) && t.vpn == i.va.toNat / levelBytes t.level
  | 1 => t.asid == i.asid || t.leaf.getLsbD 6
  | _ => true

/-- An address used through a translation of a level that the invalidation covers: for KIND 0 the whole page, however large,
that holds the named one, for the ASID and for G translations; for KIND 1 every translation that serves the ASID, G ones too (DEDUCED,
log entry 84). -/
def Inval.covers (i : Inval) (asid : Nat) (global : Bool) (level va : Nat) : Bool :=
  match i.kind with
  | 0 => (asid == i.asid || global) && va / levelBytes level == i.va.toNat / levelBytes level
  | 1 => asid == i.asid || global
  | _ => true

/-- The same of what an access kept of its translation; a window has none. -/
def Inval.coversLeaf (i : Inval) (asid : Nat) (leaf : LeafBits) (va : Nat) : Bool :=
  State.bitsLevel leaf != 0 && i.covers asid (leaf.getLsbD 4) (State.bitsLevel leaf) va

namespace State

/-- The addresses of a queued operation's pieces, with what it kept of their translations. -/
def pieceAddrs (o : MOp) : List (DWord × LeafBits) :=
  (o.spans.foldl (fun (a : DWord × List (DWord × LeafBits)) p =>
    (a.1 + BitVec.ofNat 64 p.2.1, a.2 ++ [(a.1, p.2.2)])) (o.addr, [])).2

/-- The operations that may have used a removed translation, for which BUSY waits. -/
def removedUsers (s : State) (i : Inval) : List Nat :=
  (s.ops.filterMap fun o =>
    if o.2.accs.any fun a => !a.done && i.coversLeaf o.2.asid a.leaf a.va.toNat then some o.1 else none) ++
  s.cores.flatMap fun kc => kc.2.mq.filterMap fun o =>
    if (pieceAddrs o).any fun p => i.coversLeaf (s.block o.blk).asid p.2 p.1.toNat then some o.id else none

/-- What an access on its way used of a removed translation stays in no L1 (R321). -/
def markStale (s : State) (i : Inval) : State :=
  { s with
    ops := s.ops.map fun (o : Nat × Op) => (o.1, { o.2 with
      accs := o.2.accs.map fun a => if i.coversLeaf o.2.asid a.leaf a.va.toNat then { a with stale := true } else a })
    cores := s.cores.map fun (k : Nat × Core) => (k.1, { k.2 with
      mq := k.2.mq.map fun o =>
        if (pieceAddrs o).any fun p => i.coversLeaf (s.block o.blk).asid p.2 p.1.toNat then { o with stale := true } else o }) }

/-- TINV reads BUSY (R321). -/
def tinvBusy (s : State) : Bool :=
  s.hub.tinvOps.any fun id => (s.ops.get? id).isSome || s.cores.any fun kc => kc.2.mq.any fun o => o.id == id

/-- The frames that translations map. -/
def mapsFrame (ts : List TlbEnt) (frame : Nat) : Bool :=
  ts.any fun t =>
    let k := leafKey t.leaf t.level 0#64 / 4096
    decide (k ≤ frame) && decide (frame < k + levelBytes t.level / 4096)

/-- Remove the covered translations, L1 lines, reverse-map entries and instruction lines of a cluster; the frames that the
translations mapped may have become coherent (R259, R322). -/
def invalCluster (s : State) (i : Inval) (cl : Nat) : State :=
  let c := s.cluster cl
  let gone := c.tlb.filter i.removes
  let s1 := ((List.range 8).map (8 * cl + ·)).foldl (fun (t : State) core =>
    let k := t.cache core
    let out := k.lines.filter fun l => i.coversLeaf l.asid l.leaf (l.tag * 256)
    let u := out.foldl (fun v l => v.loseL1Line core l) t
    if out = [] then u else u.setCache core { k with lines := k.lines.filter fun l => !out.contains l }) s
  { s1.setCluster cl
    { tlb := c.tlb.filter fun t => !i.removes t
      icache := c.icache.filter fun l => !i.covers l.asid l.global l.level l.va.toNat
      rmap := c.rmap.filter fun r => s1.clusterHolds cl r.1 } with
    swmFrames := if i.kind == 2 then [] else s1.swmFrames.filter fun f => !mapsFrame gone f }

/-- Perform an invalidation in every cluster. -/
def inval (s : State) (i : Inval) : State :=
  s.clusters.keys.foldl (fun t cl => t.invalCluster i cl) s

/-- A write of TINV, of one kind: with bit 63 it starts the invalidation, without it the fields take their values alone. -/
def tinvWrite (s : State) (kind : Nat) (v : DWord) : State :=
  if bits v 61 2 ≠ kind || bits v 56 5 != 0 || s.tinvBusy then s
  else if !v.getLsbD 63 then { s with hub := { s.hub with tinv := v } } else
  let i := Inval.of v
  let users := s.removedUsers i
  let t := ((s.inval i).markStale i).dropFetched
  { t with hub := { t.hub with tinv := v &&& 0x7FFFFFFFFFFFFFFF#64, tinvOps := users } }

end State

def execTinvPage (tinv : DWord) (s : State) : Host.Outcome State Fault Refusal := s.viaIo (.next (s.tinvWrite 0 tinv))

def execTinvAsid (tinv : DWord) (s : State) : Host.Outcome State Fault Refusal := s.viaIo (.next (s.tinvWrite 1 tinv))

def execTinvAll (tinv : DWord) (s : State) : Host.Outcome State Fault Refusal := s.viaIo (.next (s.tinvWrite 2 tinv))

/-! ### Migration (R324–R326) -/

namespace State

/-- The reserved bytes of a migration entry are zero, and its addresses are aligned. -/
def migEntryOk (s : State) (n : Nat) : Bool :=
  let w := s.migWord n
  bits (w 3) 20 4 == 0 && bits (w 3) 32 32 == 0 && w 6 == 0#64 && w 7 == 0#64 &&
  (w 0).toNat % 4096 == 0 && (w 1).toNat % 4096 == 0 && (w 2).toNat % 8 == 0 && (w 4).toNat % 8 == 0

/-- Activation is refused (R325, R318). -/
def migRefused (s : State) (n : Nat) : Bool :=
  !s.migEntryOk n || (s.migOf (s.migNew n)).isSome || s.kresLocked (s.migOld n) || s.kresLocked (s.migNew n) ||
  (s.memDWord (memKey 0 (s.migWord n 2).toNat)).getLsbD 63

/-- Set STATE of an entry. -/
def setMigState (s : State) (n st : Nat) : State :=
  s.setMigWord n 3 ((s.migWord n 3 &&& 0xFFFFFFFF00FFFFFF#64) ||| BitVec.ofNat 64 (st * 2 ^ 24))

/-- Every line has been pulled: the leaf loses MIG, the entry is free, and the completion word is written (R326). -/
def finishMig (s : State) (n : Nat) : State :=
  let leaf := memKey 0 (s.migWord n 2).toNat
  let s1 := s.hubWrite leaf (toBytes 8 (s.memDWord leaf &&& 0xDFFFFFFFFFFFFFFF#64).toNat)
  (s1.setMigState n 0).hubUpdate (memKey 0 (s.migWord n 4).toNat) (.word (s.migWord n 5) 0)

/-- The lowest line not yet pulled: the engine's next. -/
def nextPull (s : State) (n : Nat) : Option Nat := (List.range 16).find? fun l => !s.linePulled n l

end State

namespace State

/-- The leaf of an entry can be read at its home. -/
def leafServes (s : State) (n : Nat) : Bool := s.homesServe (memKey 0 (s.migWord n 2).toNat) 8

/-- An entry becomes ACTIVE, if it may (R325). -/
def beginMig (s : State) (n : Nat) : State :=
  if s.migState n == 0 && !s.migRefused n then s.setMigState n 1 else s

/-- An activation is held while its leaf's home is not in service, and counts (R356). -/
def holdActivation (s : State) (n : Nat) : State :=
  if s.hub.activating.contains n then s else
  let t := (s.awaitedDies (memKey 0 (s.migWord n 2).toNat) 8).foldl (fun (u : State) d => u.count (16 + d) 25) s
  { t with hub := { t.hub with activating := t.hub.activating ++ [n] } }

/-- The held activations whose leaf's home serves now. -/
def serveActivations (s : State) : State :=
  let ns := s.hub.activating.filter s.leafServes
  ns.foldl beginMig { s with hub := { s.hub with activating := s.hub.activating.filter fun n => !ns.contains n } }

end State

/-- Host software writes STATE = 1 of a migration entry (R325). -/
def execMigrationActivate (n : Nat) (s : State) : Host.Outcome State Fault Refusal :=
  s.viaIo (.next (
    if 1024 ≤ n || s.migState n != 0 then s
    else if s.leafServes n then s.beginMig n
    else s.holdActivation n))

/-- The migration engine pulls its next line, or ends a migration whose lines are all in place (R326, R327). -/
def execMigrationPull (n line : Nat) (s : State) : Host.Outcome State Fault Refusal :=
  if s.migState n != 1 then .next s else
  match s.nextPull n with
  | none =>
    let leaf := memKey 0 (s.migWord n 2).toNat
    .next (if s.homeAsks leaf 8 = [] then s.finishMig n else s.askFor (s.homeAsks leaf 8))
  | some l =>
    if l != line then .next s else
    match s.pull n l with
    | .ok t => .next t
    | .wait as => .next (s.askFor as)
    | .lost => .next s

/-! ### Other registers of the host port -/

/-- A write to a KRES range register or to KRESLOCK (R317): register 2r is the base of range r, 2r + 1 its length in frames,
32 is KRESLOCK. -/
def execKresWrite (reg : Nat) (v : DWord) (s : State) : Host.Outcome State Fault Refusal :=
  if s.hub.kresLock then .next (s.count hubDie 26)
  else if reg = 32 then .next { s with hub := { s.hub with kresLock := v.getLsbD 0 } }
  else
    .next { s with hub := { s.hub with
      kres := s.hub.kres.mapIdx fun i r =>
        if i = reg / 2 then (if reg % 2 = 0 then (v.toNat, r.2) else (r.1, v.toNat)) else r } }

/-- A write of 0 clears a counter (R364). -/
def execCounterClear (die ev : Nat) (s : State) : Host.Outcome State Fault Refusal :=
  s.viaIo (.next { s with counters := s.counters.set (64 * die + ev) 0#64 })

/-- A word of the migration table as host software writes it: STATE has an event of its own, and PULLED of an ACTIVE entry is
the hub's (R324). -/
def State.migHostWord (s : State) (n w : Nat) (v : DWord) : DWord :=
  if w = 3 then
    let keep : DWord := if s.migState n == 1 then 0x00000000FF00FFFF#64 else 0x00000000FF000000#64
    (v &&& ~~~keep) ||| (s.migWord n 3 &&& keep)
  else v

end Sys2Proof.Machine
end

