-- ==== Sys2Proof/Machine/Mesh.lean ====
section
/-!
DEFINITION. The routers and their trees: entries (R207, R208), messages on their way (R245, R255), holders (R244, R254), and
evictions (R211, R250). Every message moves one hop for each of its events.
-/
namespace Sys2Proof.Machine

namespace State

/-! ### Messages -/

def msg (s : State) (id : Nat) : Option Msg := s.mesh.msgs.get? id

def dropMsg (s : State) (id : Nat) : State := { s with mesh := { s.mesh with msgs := s.mesh.msgs.erase id } }

/-- A message arrives somewhere: later than every message already there. -/
def putMsg (s : State) (m : Msg) : State :=
  { s with mesh := { s.mesh with msgs := s.mesh.msgs.set s.nextId m }, nextId := s.nextId + 1 }

/-- A message goes on as another one. -/
def become (s : State) (id : Nat) (m : Msg) : State := (s.dropMsg id).putMsg m

def onReq (s : State) (id : Nat) (f : Req → Req) : State := { s with mesh := { s.mesh with reqs := s.mesh.reqs.modify id f } }

/-- The timer of a request is suspended by a debugger's hold (R293). -/
def timerHeld (s : State) (r : Req) : Bool := (s.die (dieOf r.core)).hold || (decide (r.agent < 16) && (s.die r.agent).hold)

/-- The agent at a stop has received a request (R255); a timer that a hold suspended restarts as the request leaves the held
die (R293). -/
def noteReceiver (s : State) (req x y : Nat) : State :=
  match agentAt x y with
  | some a => s.onReq req fun r =>
      let q := { r with agent := a }
      if s.timerHeld r && !s.timerHeld q then { q with clock := s.clock r.core } else q
  | none => s

/-- A router has forwarded a message for a line (R207). -/
def touchEnt (s : State) (x y line : Nat) : State :=
  { s with mesh := { s.mesh with
      trees := s.mesh.trees.map fun k => if k.x == x && k.y == y && k.line == line then { k with stamp := s.mesh.stamp } else k
      stamp := s.mesh.stamp + 1 } }

/-- A message moves one hop. -/
def goHop (s : State) (id : Nat) (m : Msg) (d : Nat) : State :=
  let h := hop m.x m.y d
  let t := (s.touchEnt m.x m.y m.line).become id { m with x := h.1, y := h.2, dir := d }
  if m.typ == .rd || m.typ == .own then
    let u := t.noteReceiver m.req h.1 h.2
    if m.pers && h == (m.tx, m.ty) then u.enterPersist (stopNo h.1 h.2) m.req else u
  else t

/-- What the interface of a router drops (R255, R292): a message of an older incarnation, and what a fenced agent sends, of which the
answers of its stops' routers, NH and REFUSE, are none. -/
def dropsMsg (s : State) (m : Msg) : Bool :=
  decide ((m.inc - s.incOf m.agent).toInt < 0) ||
  (decide (m.agent < 25) && s.hub.fenced.getLsbD m.agent && agentAt m.x m.y == some m.agent &&
    (match m.typ with
      | .rd => true
      | .own => true
      | .data => true
      | .wb => true
      | _ => false))

/-- Perform the event of a message: a message that R255 or R292 drops is counted where it stands. -/
def onMsg (s : State) (id : Nat) (t : MsgType) (f : State → Msg → State) : Host.Outcome State Fault Refusal :=
  match s.msg id with
  | none => .next s
  | some m =>
    if m.typ != t then .next s
    else if s.dropsMsg m then .next ((s.dropMsg id).count ((agentAt m.x m.y).getD hubDie) 13)
    else .next (f s m)

/-! ### The words of a message (R245, R246) -/

/-- TYPE. -/
def typeCode (t : MsgType) : Nat :=
  match t with
  | .rd => 1 | .own => 2 | .data => 3 | .nh => 4 | .inv => 5 | .ack => 6
  | .prune => 7 | .pack => 8 | .unlink => 9 | .wb => 10 | .wba => 11 | .refuse => 12

/-- TRIED: the links that a read has tried at the router where it stands, local at the lowest bit, then N, E, S, W (DESIGN CHOICE,
log entry 74). -/
def triedOf (m : Msg) : BitVec 5 :=
  match m.typ, m.trail with
  | .rd, p :: _ => if p.1 == stopNo m.x m.y then p.2.1 else 0#5
  | _, _ => 0#5

/-- The slice whose request a message is about: what a router says of a request is about its slice; a request without a requester,
and an eviction, is about none (R245, R251; log entry 74). -/
def requester (s : State) (m : Msg) : Option Nat :=
  let asked := s.mesh.reqs.get? m.req
  match m.typ with
  | .wb => some m.die
  | .wba => some m.die
  | .prune => none
  | .pack => none
  | .unlink => none
  | _ => if asked.any Req.noGrant then none else (asked.map Req.die)

/-- The header of a message. -/
def header (s : State) (m : Msg) : BitVec 128 :=
  let r := ((s.requester m).map fun d => sliceStop d m.line).getD (0, 0)
  let slice := ((s.requester m).map fun _ => sliceOf m.line).getD 0
  let tag := ((s.mesh.reqs.get? m.req).map fun q => q.tag.toNat).getD 0
  let flag := fun (b : Bool) => if b then 1 else 0
  BitVec.ofNat 128 (
    typeCode m.typ * 2 ^ 123 + m.line % 2 ^ 44 * 2 ^ 79 + m.smask.toNat * 2 ^ 75 + r.1 * 2 ^ 70 + r.2 * 2 ^ 65 +
    slice * 2 ^ 56 + tag * 2 ^ 44 + m.inc.toNat * 2 ^ 36 + m.grant.toNat * 2 ^ 33 + flag m.pers * 2 ^ 32 +
    flag m.need * 2 ^ 31 + flag m.pruned * 2 ^ 30 + (triedOf m).toNat * 2 ^ 25 + m.dir * 2 ^ 22)

/-- The beats of a message that carries data: one for each sector it names, in ascending order. -/
def beats (s : State) (m : Msg) : List (List Byte) :=
  match m.typ with
  | .data => (sectorsOf m.line m.smask).map fun k => s.memBytes (64 * k) 64
  | .ack => (sectorsOf m.line m.smask).map fun k => s.memBytes (64 * k) 64
  | .wb => (sectorsOf m.line m.smask).map fun k => s.memBytes (64 * k) 64
  | _ => []

/-! ### Meeting at a stop -/

/-- Data of a line that has been granted stands at a stop: a request for the line does not pass it there (R244, R248). -/
def grantLeaving (s : State) (m : Msg) : Bool :=
  s.mesh.msgs.any fun k => k.2.typ == .data && k.2.line == m.line && k.2.x == m.x && k.2.y == m.y

/-- A message that goes behind another one of its line at its stop: data on its way down, an invalidation or a prune-down
that arrived earlier. -/
def isBehind (s : State) (id : Nat) (m : Msg) : Bool :=
  s.mesh.msgs.any fun k =>
    decide (k.1 < id) && k.2.line == m.line && k.2.x == m.x && k.2.y == m.y &&
    (k.2.typ == .data || k.2.typ == .inv || k.2.typ == .prune)

/-! ### Tree entries -/

/-- The set of a line in a tree cache (R207). -/
def treeSet (line : Nat) : Nat :=
  let ln := line % 2 ^ 44
  (ln % 512) ^^^ (ln / 512 % 512)

def ent (s : State) (x y line : Nat) : Option TreeEnt := s.mesh.trees.find? fun e => e.x == x && e.y == y && e.line == line

def dropEnt (s : State) (e : TreeEnt) : State :=
  { s with mesh := { s.mesh with trees := s.mesh.trees.filter fun k => !(k.x == e.x && k.y == e.y && k.line == e.line) } }

/-- Put an entry back as the one its router used last. -/
def putEnt (s : State) (e : TreeEnt) : State :=
  let t := s.dropEnt e
  { t with mesh := { t.mesh with trees := t.mesh.trees ++ [{ e with stamp := t.mesh.stamp }], stamp := t.mesh.stamp + 1 } }

/-- Change an entry without counting a use. -/
def onEnt (s : State) (x y line : Nat) (f : TreeEnt → TreeEnt) : State :=
  { s with mesh := { s.mesh with
      trees := s.mesh.trees.map fun k => if k.x == x && k.y == y && k.line == line then f k else k } }

/-- The request holds the line transient at a router, or no longer (R249). -/
def hold (e : TreeEnt) (req : Nat) : TreeEnt := { e with transient := if e.transient.contains req then e.transient else req :: e.transient }
def letGo (e : TreeEnt) (req : Nat) : TreeEnt := { e with transient := e.transient.filter (· != req) }

/-- A new message of a router, about the request or the eviction that its entry is busy with. -/
def fromRouter (typ : MsgType) (e : TreeEnt) (d : Nat) : Msg :=
  let h := hop e.x e.y d
  { blankMsg typ e.line 0#4 0 e.awaitReq ((agentAt e.x e.y).getD hubDie) h h with dir := d }

/-- Data for the line stands at the router, come from its parent, which has just grafted a link to it: that link is no longer the
freed entry's (R209, R210; log entry 74). -/
def newlyGrafted (s : State) (e : TreeEnt) : Bool :=
  s.mesh.msgs.any fun k =>
    k.2.typ == .data && k.2.line == e.line && k.2.x == e.x && k.2.y == e.y && k.2.trail == [] && opposite k.2.dir == e.up

/-- Data for the line stands at a router: what it grafts there has yet to be grafted. -/
def dataAt (s : State) (x y line : Nat) : Bool :=
  s.mesh.msgs.any fun k => k.2.typ == .data && k.2.line == line && k.2.x == x && k.2.y == y && k.2.trail == []

/-- The parent of a freed entry learns of it (R211). -/
def tellParent (s : State) (e : TreeEnt) : State :=
  if e.root || s.newlyGrafted e then s else s.send (fromRouter .unlink e e.up)

/-- An entry is freed, and its parent learns of it (R211). -/
def leaveTree (s : State) (e : TreeEnt) : State := (s.dropEnt e).tellParent e

/-- An entry that nothing uses is freed. -/
def settle (s : State) (x y line : Nat) : State :=
  match s.ent x y line with
  | none => s
  | some e => if e.links == 0#5 && e.transient == [] && !e.evicting && e.awaiting == 0#5 then s.leaveTree e else s

/-- The answer of a router to the side that asked it; one that left the tree tells its parent too, where that is another. -/
def answerAsker (s : State) (e : TreeEnt) (m : Msg) (gone : Bool) : State :=
  let t := s.send m
  if gone && e.up != e.asker then t.tellParent e else t

/-! ### Holders -/

/-- A holder drops the sectors of a mask: the dirty ones among them are the second answer (R248, R254). -/
def dropSectors (s : State) (die line : Nat) (m : BitVec 4) : State × BitVec 4 :=
  let dirty := (List.range 4).foldl
    (fun (d : BitVec 4) i => if m.getLsbD i && 3 ≤ s.sectState die (4 * line + i) then d ||| (1#4 <<< i) else d) 0#4
  let t := (sectorsOf line m).foldl (fun (u : State) k => if u.sectState die k != 0 then u.loseSector die k else u) s
  (if dirty == 0#4 then t else t.leaveRetention die line, dirty)

/-! ### Room in a tree cache (R207, R249, R252) -/

/-- The line of the persistent request that a home stop serves. -/
def persistNow (s : State) (stop : Nat) : Option Nat := (s.mesh.persist.find? fun p => p.1 == stop).map Prod.snd

/-- A persistent request for a line is being served. -/
def persistLine (s : State) (line : Nat) : Bool :=
  let h := s.homeStop line
  (s.persistNow (stopNo h.1 h.2)).any fun id => (s.mesh.reqs.get? id).any fun r => r.line == line

/-- Where a new entry stands, or what must go first. -/
inductive Place where
  | way (n : Nat)
  | evict (e : TreeEnt)
  | wait
  deriving DecidableEq, Repr

/-- Of two entries, the one to evict: the earlier one in use, the lower way (R207). -/
def olderEnt (b : Option TreeEnt) (e : TreeEnt) : Option TreeEnt :=
  match b with
  | none => some e
  | some k => if e.stamp < k.stamp || (e.stamp == k.stamp && decide (e.way < k.way)) then some e else some k

/-- An entry is being evicted, or chosen for it as soon as the acknowledgements awaited through it have merged; a persistent request
for its line defers that (R207, R212, R252). -/
def goingAway (s : State) (e : TreeEnt) : Bool := e.evicting || (e.doomed && !s.persistLine e.line)

/-- Room for an entry of a line at a router: a free way, or the entry that R249 and R252 allow as a victim. While one of the set is
being evicted or pruned, another message that needs room there waits for that room (DESIGN CHOICE, log entry 74). -/
def roomAt (s : State) (x y line : Nat) : Place :=
  let lim := s.mesh.tclimit.contains (x, y)
  let es := s.mesh.trees.filter fun e => e.x == x && e.y == y && (lim || treeSet e.line == treeSet line)
  let ways := if lim then 2 else 8
  match (List.range ways).find? fun w => decide (es.length < ways) && !es.any fun e => e.way == w with
  | some w => .way w
  | none =>
    if es.any fun e => e.evicting || e.doomed then .wait else
    match (es.filter fun e => e.transient == [] && !s.persistLine e.line).foldl olderEnt none with
    | some e => .evict e
    | none => .wait

/-! ### Evictions (R211, R250) -/

/-- A holder's write-backs of a line that have not been accepted yet. -/
def wbOut (s : State) (die line : Nat) : Bool :=
  s.mesh.msgs.any fun k => (k.2.typ == .wb || k.2.typ == .wba) && k.2.die == die && k.2.line == line

/-- The subtree has been pruned: the entry goes, and the one that asked, or the parent, is told. -/
def pruneDone (s : State) (e : TreeEnt) : State :=
  if e.origin then s.leaveTree e
  else (s.dropEnt e).answerAsker e { fromRouter .pack e e.asker with pruned := true } true

/-- Prune-down begins at a router, for an eviction of its own or for the side it came from: its holder drops the line, a dirty
sector goes home, and the links pass it on. -/
def beginPrune (s : State) (e : TreeEnt) (origin : Bool) (eviction asker : Nat) : State :=
  let local_ := (agentAt e.x e.y).filter fun d => e.links.getLsbD 0 && decide (d < 16)
  let s1 := match local_ with
    | some die =>
      let r := s.dropSectors die e.line 0xF#4
      if r.2 == 0#4 then r.1 else r.1.writeBack die e.line r.2
    | none => s
  let others := [1, 2, 3, 4].filter fun d => e.links.getLsbD d
  let out := local_.any fun die => s1.wbOut die e.line
  let wait := others.foldl (fun (w : BitVec 5) d => w ||| linkBit d) (if out then linkBit 0 else 0#5)
  let e1 := { e with
    evicting := true, doomed := false, origin := origin, awaiting := wait, awaitReq := eviction, asker := asker }
  let s2 := others.foldl (fun (t : State) d => t.send (fromRouter .prune e1 d)) (s1.onEnt e.x e.y e.line fun _ => e1)
  if wait == 0#5 then s2.pruneDone e1 else s2

/-- A router evicts an entry: at once, or, while acknowledgements are awaited through it, once they have merged. -/
def evictEnt (s : State) (e : TreeEnt) : State :=
  if e.awaiting != 0#5 then s.onEnt e.x e.y e.line fun k => { k with doomed := true }
  else ({ s with nextId := s.nextId + 1 } : State).beginPrune e true s.nextId 0

/-- A link of an entry that is being evicted has answered. -/
def pruneAnswer (s : State) (e : TreeEnt) (d : Nat) : State :=
  let e1 := { e with awaiting := e.awaiting &&& ~~~linkBit d, links := e.links &&& ~~~linkBit d }
  let t := s.onEnt e.x e.y e.line fun _ => e1
  if e1.evicting && e1.awaiting == 0#5 then t.pruneDone e1 else t

/-- Make an entry, if there is room; else see to it that there will be. -/
def makeEnt (s : State) (x y line : Nat) (e : TreeEnt) : State × Bool :=
  match s.roomAt x y line with
  | .way w => (s.putEnt { e with way := w }, true)
  | .evict v => (s.evictEnt v, false)
  | .wait => (s, false)

/-- An entry of a router without links. -/
def newEnt (x y line up : Nat) (root : Bool) : TreeEnt :=
  { x := x, y := y, line := line, links := 0#5, up := up, root := root, transient := [], evicting := false
    awaiting := 0#5, dirty := 0#4, awaitReq := 0, asker := 0, doomed := false, stamp := 0, way := 0, origin := false }

/-- A link that must not be grafted yet: an answer or an unlinking from it is on its way to the router. An answer that is awaited and not
on its way is no obstacle to data that has yet to pass the router that caught its read: an invalidation is held there until it has (R249). -/
def linkBusy (s : State) (e : TreeEnt) (d : Nat) (toCatcher : Bool) : Bool :=
  (e.awaiting.getLsbD d && !toCatcher) ||
  s.mesh.msgs.any fun k =>
    (k.2.typ == .unlink || (k.2.typ == .ack && e.awaiting.getLsbD d)) && k.2.line == e.line && k.2.x == e.x && k.2.y == e.y &&
      opposite k.2.dir == d

/-- Graft a link at a router, making its entry where it has none (R209, R247); whether it could be done. -/
def graft (s : State) (x y line d up : Nat) (root toCatcher : Bool) : State × Bool :=
  match s.ent x y line with
  | some e =>
    if e.evicting || s.linkBusy e d toCatcher then (s, false)
    else if d == e.up && !e.root then (s.putEnt e, true)
    else (s.putEnt { e with links := e.links ||| linkBit d }, true)
  | none => s.makeEnt x y line { newEnt x y line up root with links := linkBit d }

/-! ### Requests -/

/-- A request is over. -/
def endReq (s : State) (id : Nat) : State :=
  { s with mesh := { s.mesh with reqs := s.mesh.reqs.erase id, persist := s.mesh.persist.filter fun p => p.2 != id } }

/-- Sectors that a die's slice has just been granted are used by the accesses that waited for them and may be performed now:
they are performed with the grant, before anything can take the sectors away (R251, R253). -/
def performWaiting (s : State) (die : Nat) (sectors : List Nat) : State :=
  let here := fun (l : Loc) => match l with | .mem k => sectors.contains (sectorOf k) | .ls _ _ => false
  let byOp := s.ops.keys.foldl (fun (t : State) id => match t.ops.get? id with
    | some o =>
      let lanes := maskOf fun i => o.accs.any fun a => a.lane == i && !a.done && here a.loc
      if dieOf o.core != die || lanes == 0#64 then t else t.completeOp id lanes
    | none => t) s.bumpFresh
  let byMop := (byOp.cores.filter fun kc => dieOf kc.1 == die).foldl (fun (t : State) kc =>
    (kc.2.mq.filter fun o => o.begun && ((spansFrom o.spans o.prog).head?.any fun p => here p.1)).foldl
      (fun u o => (u.moveChunks kc.1 o.id 1).closeIfMoved kc.1 o.id) t) byOp
  (byMop.copies.filter fun kc => dieOf kc.2.core == die && byMop.copyRuns kc.2).foldl (fun (t : State) kc =>
    if (nextAccesses kc.2).any fun a =>
        match (t.engineLook kc.2.core kc.2.asid (t.block kc.2.blk).launch needRange a.1 a.2.1).2.tr with
        | .ok l _ _ => here l
        | _ => false
    then (t.copyPieces kc.1 1).finishCopy kc.1 else t) byMop

/-- Data arrives at the slice that asked, and takes a way there (R209, R216, R244); what M grants was the slice's from the moment the root sent it (R253). -/
def deliverData (s : State) (id : Nat) (m : Msg) : State :=
  let t := s.dropMsg id
  match t.mesh.reqs.get? m.req with
  | none => t
  | some r =>
    let ks := sectorsOf m.line m.smask
    let u := if m.grant == 3#3 then t else
      ks.foldl (fun (u : State) k => if u.sectState r.die k == 0 then u.setSect r.die k m.grant.toNat else u) (t.wayL2 r.die m.line)
    (u.endReq m.req).performWaiting r.die ks

/-- A refused request is sent again; after 8 refusals it is persistent (R212, R252). It needs data when a sector that it does
not cover is I by now (R248). -/
def resend (s : State) (req : Nat) (counted : Bool) : State :=
  match s.mesh.reqs.get? req with
  | none => s
  | some r =>
    let n := if counted then r.refusals + 1 else r.refusals
    let holds := (sectorsOf r.line r.smask).all fun k => s.sectState r.die k != 0
    let q := { r with
      refusals := n, pers := r.pers || decide (8 ≤ n), held := holds
      need := r.own && !r.noGrant && !r.whole && !holds }
    (s.onReq req fun _ => q).sendReq req q

/-- Data leaves for its requester with a grant (R245). -/
def sendData (s : State) (id : Nat) (m : Msg) (grant : BitVec 3) (agent : Nat) : State :=
  match s.mesh.reqs.get? m.req with
  | none => s.dropMsg id
  | some r =>
    let to_ := sliceStop r.die r.line
    s.become id { m with
      typ := .data, grant := grant, atLocal := false, tx := to_.1, ty := to_.2, agent := agent, inc := s.incOf agent
      need := false }

/-- A request is refused: the answer goes back the way it came, and clears what holds the line transient (R212, R249). -/
def refuseMsg (s : State) (id : Nat) (m : Msg) (counted : Bool) : State :=
  match s.mesh.reqs.get? m.req with
  | none => s.dropMsg id
  | some r =>
    if r.noGrant then (s.dropMsg id).resend m.req counted else
    let to_ := sliceStop r.die r.line
    let a := (agentAt m.x m.y).getD hubDie
    s.become id { m with
      typ := .refuse, atLocal := false, tx := to_.1, ty := to_.2, agent := a, inc := s.incOf a, need := false
      uncounted := !counted }

/-- Where an answer goes next: back to the router that steered its read before this one; or one hop on by dimension order
(R217), to the router that had caught the read before it went on to the root, then to the requester. -/
inductive Way where
  | back (p : Nat × Nat)
  | on (d : Nat)
  deriving DecidableEq, Repr

/-- A message that has come back to its catcher needs it no more. -/
def passVia (m : Msg) : Msg := if m.via == some (stopNo m.x m.y) then { m with via := none } else m

def wayBack (m : Msg) : Way :=
  match m.trail with
  | _ :: p :: _ => .back (p.1 % 20, p.1 / 20)
  | _ =>
    match m.via with
    | some v => .on (routeXY m.x m.y (v % 20) (v / 20))
    | none => .on (routeXY m.x m.y m.tx m.ty)

/-- A message goes back to the router that steered its read before this one. -/
def goTo (s : State) (id : Nat) (m : Msg) (p : Nat × Nat) : State :=
  (s.touchEnt m.x m.y m.line).become id { m with
    x := p.1, y := p.2, dir := routeXY m.x m.y p.1 p.2, trail := m.trail.tail }

/-- A router lets the line of a request go, and frees an entry that nothing uses. -/
def clearTransient (s : State) (m : Msg) : State :=
  (s.onEnt m.x m.y m.line fun e => letGo e m.req).settle m.x m.y m.line

end State

end Sys2Proof.Machine
end

