-- ==== Sys2Proof/Machine/MeshEvents.lean ====
section
/-!
DEFINITION. The coherence messages (R209–R212, R244–R256, R303): each event moves a message one hop or lets it act where it
stands.
-/
namespace Sys2Proof.Machine

namespace State

/-! ### Admission at the home (R251, R252, R356) -/

/-- How a home stop meets a request. -/
inductive Admit where
  | go (s : State)
  | wait (s : State)
  | refuse (s : State)

/-- A request of a context has reached its home (R288). -/
def noteHome (s : State) (m : Msg) : State :=
  match s.mesh.reqs.get? m.req with
  | some r => if r.noGrant then s else s.touchDomains r.asid (s.homeDomains (m.line * 256))
  | none => s

/-- The home must be in service: a request waits there until it is, and counts once (R356). The persistent requests of a home
stop are served in the order in which they arrived, 8 of them in its entries and the others waiting there; any other request
for the line of the one in service is refused (R252). -/
def meetHome (s : State) (id : Nat) (m : Msg) : Admit :=
  let stop := stopNo m.x m.y
  let home := s.homeOf m.line
  let t := s.noteHome m
  if !s.levelServes home then
    .wait (if m.noted then t else
      ({ t with mesh := { t.mesh with msgs := t.mesh.msgs.modify id fun k => { k with noted := true } } } : State).count home 25)
  else
    if m.pers then
      let u := t.enterPersist stop m.req
      if u.persistNow stop == some m.req then .go u else .wait u
    else if t.persistLine m.line then .refuse t
    else .go t

/-- A request must be refused, or, when it is persistent, wait. -/
def refuseOrWait (s : State) (id : Nat) (m : Msg) : State := if m.pers then s else s.refuseMsg id m true

/-! ### RD (R209, R247) -/

/-- A read goes outward from the hub (R303). -/
def goOutward (s : State) (id : Nat) (m : Msg) : State :=
  (s.dropMsg id).onReq m.req fun r => { r with outward := some m, outAt := s.hub.cycle, outReported := false }

/-- Another request for the line waits for its answer from outside (R303). -/
def outPending (s : State) (line : Nat) : Bool := s.mesh.reqs.any fun r => r.2.line == line && r.2.outward.isSome && !r.2.swm

/-- A span that others may hold, or that another package homes, is held S here: what it grants is S (R257). -/
def spanShared (s : State) (line : Nat) : Bool := (s.hub.spans.get? (line / 16)).any fun p => !p.m || p.root

/-- A sector is not granted E: an ownership request for its line is in service, or data of it is on its way to be held S (R244, R251). -/
def onlyShared (s : State) (k : Nat) : Bool :=
  s.isServing (k / 4) || s.mesh.msgs.any fun m =>
    m.2.typ == .data && m.2.grant == 1#3 && m.2.line == k / 4 && m.2.smask.getLsbD (k % 4)

/-- A home reads a line for a read (R219, R221). -/
def homeReadFor (s : State) (m : Msg) : State :=
  match s.mesh.reqs.get? m.req with
  | some r => s.homeReads m.line r.asid r.want
  | none => s

/-- No slice holds the sector: the home supplies it (R209, R247, R257, R303), once what it has granted E has arrived (R244). -/
def homeSupply (s : State) (id : Nat) (m : Msg) : State :=
  let ks := sectorsOf m.line m.smask
  let tier := m.line / 2 ^ 44
  if ks.any s.grantsE then s
  else if tier = 1 ∨ tier = 2 then (if s.outPending m.line then s else s.goOutward id m)
  else if !ks.all fun k => s.spanReady (64 * k) false then s
  else
    let t := ks.foldl (fun (t : State) k => t.spanFor (64 * k) false) s
    let shared := t.spanShared m.line || ks.any fun k => t.hub.hostHeld.contains k || t.onlyShared k
    (t.homeReadFor m).sendData id m (if shared then 1#3 else 2#3) (s.homeOf m.line)

/-- The order in which a router tries its links: local, straight on, then N, E, S, W (R209). -/
def steerOrder (dir : Nat) : List Nat := 0 :: (if dir = 0 then [1, 2, 3, 4] else dir :: [1, 2, 3, 4])

/-- A message as its sender's, an agent (R255). -/
def sentBy (s : State) (m : Msg) (agent : Nat) : Msg := { m with agent := agent, inc := s.incOf agent }

/-- A router answers NH to the one that steered the read to it (R247, R255). -/
def notHere (s : State) (id : Nat) (m : Msg) (p : Nat × BitVec 5 × Nat) : State :=
  let a := (agentAt m.x m.y).getD hubDie
  (s.goTo id (s.sentBy { m with typ := .nh } a) (p.1 % 20, p.1 / 20)).count a 9

/-- A router steers a read along its next untried link, answers NH, or, where it caught the read, sends it toward the root
(R247). -/
def steer (s : State) (id : Nat) (m : Msg) (e : TreeEnt) : State :=
  match m.trail with
  | [] => s
  | (stop, tried, came) :: rest =>
    let s1 := s.putEnt (hold e m.req)
    match (steerOrder came).find? fun d => e.links.getLsbD d && !tried.getLsbD d with
    | some 0 => s1.become id { m with trail := (stop, tried ||| linkBit 0, came) :: rest, atLocal := true }
    | some d => s1.goHop id { m with trail := (stop, tried ||| linkBit d, came) :: rest } d
    | none =>
      match rest with
      | p :: _ => ((s.onEnt m.x m.y m.line fun k => letGo k m.req).settle m.x m.y m.line).notHere id m p
      | [] =>
        if e.root then (if s.grantLeaving m then s else s1.homeSupply id m)
        else s1.goHop id { m with trail := [], via := some stop, rooted := true } (routeXY m.x m.y m.tx m.ty)

/-- A router catches a read, or the root begins its search. -/
def catchRead (s : State) (id : Nat) (m : Msg) (e : TreeEnt) : State :=
  ({ s with nextId := s.nextId + 1 } : State).steer id { m with trail := [(stopNo m.x m.y, 0#5, m.dir)], caught := s.nextId } e

/-- A read at its home (R209, R247, R251, R252). While an ownership request for its line is in service it waits; one that a router has
caught completes with the older value: the invalidation waits at that router, and removes the new copy (R249, R251). -/
def readAtHome (s : State) (id : Nat) (m : Msg) : State :=
  match s.meetHome id m with
  | .wait t => t
  | .refuse t => t.refuseMsg id m true
  | .go t =>
    if (t.isServing m.line && !m.rooted) || t.grantLeaving m then t
    else match t.ent m.x m.y m.line with
      | some k => if t.goingAway k then t.refuseOrWait id m else t.catchRead id m k
      | none => t.homeSupply id m

/-- The invalidation of the ownership request in service has passed a router. -/
def invPassed (s : State) (e : TreeEnt) : Bool := !e.evicting && s.mesh.serving.any fun p => p.1 == e.line && p.2 == e.awaitReq

/-- A read on its way to the home: caught by the first router on the tree, unless it is persistent or has been caught
before (R209, R247, R252). Where the invalidation of the request in service has passed, the read waits until that request is served: no
new copy escapes it (R244). -/
def readOnWay (s : State) (id : Nat) (m : Msg) : State :=
  if m.x == m.tx && m.y == m.ty then s.readAtHome id m else
  let on := routeXY m.x m.y m.tx m.ty
  match s.ent m.x m.y m.line with
  | none => s.goHop id m on
  | some k =>
    if m.pers then s.goHop id m on
    else if s.goingAway k then s.refuseMsg id m true
    else if m.rooted then s.goHop id m on
    else if s.invPassed k then s
    else s.catchRead id m k

/-- A read steered to a router by the one before it (R247, R251): refused where the entry is being evicted, answered NH where
there is none or the search has been already, and steered on. -/
def readSteered (s : State) (id : Nat) (m : Msg) (p : Nat × BitVec 5 × Nat) : State :=
  if s.isBehind id m then s else
  let here := { m with trail := (stopNo m.x m.y, 0#5, m.dir) :: m.trail }
  if m.trail.any fun q => q.1 == stopNo m.x m.y then s.notHere id here p else
  match s.ent m.x m.y m.line with
  | none => s.notHere id here p
  | some e => if s.goingAway e then s.refuseOrWait id here else s.steer id here e

/-- A holder meets a read (R209, R247, R251, R254). -/
def holderRead (s : State) (id : Nat) (m : Msg) : State :=
  let die := (agentAt m.x m.y).getD 0
  let line := m.line
  let states := (sectorsOf line m.smask).map fun k => s.sectState die k
  if states.all fun st => st == 0 then
    if (s.ent m.x m.y line).any s.goingAway then s.refuseOrWait id m
    else (s.become id (s.sentBy { m with typ := .nh, atLocal := false } die)).count die 9
  else if s.mesh.retained.contains (die, sliceOf line) && states.all fun st => decide (st < 3) then
    let t := (sectorsOf line m.smask).foldl (fun (u : State) k => u.loseSector die k) s
    let u := if t.holdsLine die line then t
      else t.onEnt m.x m.y line fun e => { e with links := e.links &&& ~~~linkBit 0 }
    u.refuseMsg id m false
  else
    let r := s.mesh.reqs.get? m.req
    let own := r.any fun q => q.die == die
    let t := if own then s else (sectorsOf line m.smask).foldl (fun (u : State) k =>
      match u.sectState die k with
      | 2 => u.setSect die k 1
      | 4 => u.setSect die k 3
      | _ => u) (s.leaveRetention die line)
    (match r with | some q => t.touchDomains q.asid [die] | none => t).sendData id m 1#3 die

end State

def execRd (m : Nat) (s : State) : Host.Outcome State Fault Refusal :=
  s.onMsg m .rd fun s k =>
    if k.atLocal then s.holderRead m k
    else match k.trail with
      | [] => s.readOnWay m k
      | p :: _ => s.readSteered m k p

/-- NH at the router that steered the read: it tries the next link (R247). A router that has no entry any more answers NH in
turn, or sends the read on to the root. -/
def execNh (m : Nat) (s : State) : Host.Outcome State Fault Refusal :=
  s.onMsg m .nh fun s k =>
    match s.ent k.x k.y k.line with
    | some e => s.steer m (s.sentBy { k with typ := .rd } k.die) e
    | none =>
      match k.trail with
      | _ :: p :: _ => s.notHere m k p
      | _ => s.become m (s.sentBy { k with typ := .rd, trail := [], rooted := true } k.die)

/-! ### DATA (R209, R210, R247, R248) -/

namespace State

/-- A router that was on the tree already tells the side that has grafted a link to it by another way that its parent is
elsewhere (DESIGN CHOICE, log entry 74). -/
def rejoin (s : State) (m : Msg) (old : Option TreeEnt) : State :=
  match old with
  | some e =>
    if m.trail == [] && m.dir != 0 && (e.root || e.up != opposite m.dir) then
      s.send (fromRouter .unlink { e with awaitReq := m.req } (opposite m.dir))
    else s
  | none => s

end State

/-- A link has been grafted at a router: reads that search from there have it to try, whether they had tried it before or not (R244,
R247). -/
def State.untry (s : State) (x y line d : Nat) : State :=
  { s with mesh := { s.mesh with msgs := s.mesh.msgs.map fun (k : Nat × Msg) =>
      if (k.2.typ == .rd || k.2.typ == .nh) && k.2.line == line then
        (k.1, { k.2 with trail := k.2.trail.map fun p =>
          if p.1 == stopNo x y then (p.1, p.2.1 &&& ~~~linkBit d, p.2.2) else p })
      else k } }

/-- DATA passes a router on its way to the requester, or reaches it. -/
def execData (m : Nat) (s : State) : Host.Outcome State Fault Refusal :=
  s.onMsg m .data fun s k0 =>
    let k := State.passVia k0
    match State.wayBack k with
    | .back p => (s.clearTransient k).goTo m k p
    | .on d =>
      let old := s.ent k.x k.y k.line
      let root := s.homeStop k.line == (k.x, k.y)
      let g := s.graft k.x k.y k.line d (opposite k.dir) root k.via.isSome
      if !g.2 then g.1 else
      let t := ((g.1.untry k.x k.y k.line d).rejoin k old).clearTransient k
      let u : State := if root && k.grant == 3#3 then
          ({ t with mesh := { t.mesh with serving := t.mesh.serving.filter fun p => p.2 != k.req } } : State).serveWaiting
        else t
      if d = 0 then u.deliverData m k else u.goHop m { k with trail := [] } d

/-! ### REFUSE (R212) -/

/-- REFUSE goes back the way its request came; the requester sends the request again. -/
def execRefuse (m : Nat) (s : State) : Host.Outcome State Fault Refusal :=
  s.onMsg m .refuse fun s k0 =>
    let k := State.passVia k0
    let t := s.clearTransient k
    match State.wayBack k with
    | .back p => t.goTo m k p
    | .on d => if d = 0 then (t.dropMsg m).resend k.req (!k.uncounted) else t.goHop m { k with trail := [] } d

/-! ### OWN, INV and ACK (R210, R248) -/

namespace State

/-- Every acknowledgement has come in: the root grants M, or a request without a requester is over (R248, R251, R303). The
store is performed for every other agent as its DATA leaves (R253): the slice has the sectors from that moment, and a way for them, and
the accesses that waited for them are performed. Dirty sectors that came up go home where nobody is granted them; the home reads the line
where data is needed and none came (R219, R248). -/
def grantOwn (s : State) (line req : Nat) (dirty : BitVec 4) : State :=
  let clear := fun (t : State) => ({ t with mesh := { t.mesh with serving := t.mesh.serving.filter fun p => p.2 != req } } : State)
  let h := s.homeStop line
  match s.mesh.reqs.get? req with
  | none => (clear s).settle h.1 h.2 line
  | some r =>
    let ks := sectorsOf line r.smask
    if r.noGrant then
      let t := (sectorsOf line dirty).foldl homeWritten (((clear s).endReq req).settle h.1 h.2 line)
      (if r.snoop then t.useOutward ks else t).serveWaiting
    else
      let s0 := if r.need && dirty == 0#4 then s.homeReads line r.asid r.want else s
      let s1 := ks.foldl (fun (t : State) k => (t.spanFor (64 * k) true).setSect r.die k 4) ((s0.useOutward ks).wayL2 r.die line)
      (s1.send { blankMsg .data line r.smask r.die req (s1.homeOf line) h (sliceStop r.die line) with grant := 3#3 }).performWaiting
        r.die ks

/-- A router's acknowledgements are all in: it answers the side that asked, and frees its entry when its mask is empty. An
entry chosen as a victim meanwhile is evicted now. -/
def ackUp (s : State) (e : TreeEnt) : State :=
  let e1 := { e with dirty := 0#4, doomed := false }
  let gone := e.links == 0#5 && e.transient == [] && !e.root && !s.dataAt e.x e.y e.line
  let t := if gone then s.dropEnt e else s.onEnt e.x e.y e.line fun _ => e1
  let u := if e.root then t.grantOwn e.line e.awaitReq e.dirty
    else (t.touchEnt e.x e.y e.line).answerAsker e { fromRouter .ack e e.asker with smask := e.dirty, pruned := gone } gone
  if !e.doomed then u else
  match u.ent e.x e.y e.line with
  | some k => if k.transient == [] && !u.persistLine k.line then u.evictEnt k else u
  | none => u

/-- A router that an INV reaches by a second link while it is busy with the same request: what has been grafted there since loses the
sectors too (R249), and the side that sent this INV is answered at once; the router's own answer waits for the rest. -/
def invalidateMore (s : State) (e : TreeEnt) (m : Msg) : State :=
  let from_ := opposite m.dir
  let local_ := (agentAt e.x e.y).filter fun d => e.links.getLsbD 0 && decide (d < 16) && m.exempt != some d
  let r := match local_ with
    | some die => s.dropSectors die e.line m.smask
    | none => (s, 0#4)
  let pruned := local_.any fun die => !r.1.holdsLine die e.line
  let more := [1, 2, 3, 4].filter fun d => e.links.getLsbD d && !e.awaiting.getLsbD d && d != from_
  let e1 := { e with
    links := if pruned then e.links &&& ~~~linkBit 0 else e.links
    dirty := e.dirty ||| r.2
    awaiting := more.foldl (fun (w : BitVec 5) d => w ||| linkBit d) e.awaiting }
  let t := more.foldl (fun (v : State) d => v.send { fromRouter .inv e1 d with smask := m.smask, exempt := m.exempt })
    (r.1.onEnt e.x e.y e.line fun _ => e1)
  t.send (fromRouter .ack e1 from_)

/-- A router invalidates: its holder drops the masked sectors, and the links pass the INV on (R248). -/
def invalidate (s : State) (e : TreeEnt) (req : Nat) (smask : BitVec 4) (exempt : Option Nat) (asker : Nat) : State :=
  let local_ := (agentAt e.x e.y).filter fun d => e.links.getLsbD 0 && decide (d < 16)
  let r := match local_ with
    | some die => if exempt == some die then (s, 0#4) else s.dropSectors die e.line smask
    | none => (s, 0#4)
  let pruned := local_.any fun die => !r.1.holdsLine die e.line
  let links := if pruned then e.links &&& ~~~linkBit 0 else e.links
  let others := [1, 2, 3, 4].filter fun d => e.links.getLsbD d
  let e1 := { e with
    links := links, awaitReq := req, asker := asker, dirty := r.2
    awaiting := others.foldl (fun (w : BitVec 5) d => w ||| linkBit d) 0#5 }
  let t := r.1.putEnt e1
  let u := others.foldl (fun (v : State) d => v.send { fromRouter .inv e1 d with smask := smask, exempt := exempt }) t
  if others = [] then u.ackUp e1 else u

/-- The slice that asked for ownership held the sectors, and has lost some since: its copy was pruned (R251). -/
def lostSince (s : State) (r : Req) : Bool :=
  !r.noGrant && r.held && (sectorsOf r.line r.smask).any fun k => s.sectState r.die k == 0

/-- Reads of a line that routers caught before an ownership request arrived at its root are still searching: they complete first, with
the older value (R251). -/
def searched (s : State) (id line : Nat) : Bool :=
  s.mesh.msgs.any fun k =>
    (k.2.typ == .rd || k.2.typ == .nh) && k.2.line == line && (k.2.trail != [] || k.2.rooted) && decide (k.2.caught < id)

/-- The root serves an ownership request (R248, R251, R257, R303). One whose slice has lost its copy is refused (R251), unless it is
persistent: it needs data then (R252). -/
def serveOwn (s : State) (id : Nat) (m : Msg) (r : Req) : State :=
  let e := s.ent m.x m.y m.line
  let ks := sectorsOf m.line m.smask
  if s.isServing m.line then s.refuseOrWait id m
  else if e.any s.goingAway then s.refuseOrWait id m
  else if s.grantLeaving m || s.searched id m.line then s
  else if s.lostSince r && !m.pers then s.refuseMsg id m true
  else if e.any fun k => k.transient != [] then s
  else if s.outPending m.line || !ks.all (fun k => s.spanReady (64 * k) true) then s
  else if !r.snoop && ks.any s.needsOutward then s.goOutward id m
  else
    let u := if s.lostSince r then s.onReq m.req fun q => { q with held := false, need := !q.whole } else s
    let t : State := { u.dropMsg id with mesh := { (u.dropMsg id).mesh with serving := (m.line, m.req) :: s.mesh.serving } }
    match e with
    | some k => t.invalidate k m.req m.smask (if r.noGrant then none else some r.die) 0
    | none => t.grantOwn m.line m.req 0#4

/-- An ownership request on its way to the root: a router whose entry for the line is being evicted refuses it (R212). -/
def ownOnWay (s : State) (id : Nat) (m : Msg) : State :=
  if !m.pers && (s.ent m.x m.y m.line).any s.goingAway then s.refuseMsg id m true
  else s.goHop id m (routeXY m.x m.y m.tx m.ty)

/-- A router without an entry answers at once that it holds nothing, but for what data that stands there will graft. -/
def answerEmpty (s : State) (id : Nat) (m : Msg) (typ : MsgType) : State :=
  let e := { newEnt m.x m.y m.line (opposite m.dir) false with awaitReq := m.req }
  (s.dropMsg id).send { fromRouter typ e e.up with pruned := !s.dataAt m.x m.y m.line }

end State

def execOwn (m : Nat) (s : State) : Host.Outcome State Fault Refusal :=
  s.onMsg m .own fun s k =>
    if !(k.x == k.tx && k.y == k.ty) then s.ownOnWay m k else
    match s.mesh.reqs.get? k.req with
    | none => s.dropMsg m
    | some r =>
      match s.meetHome m k with
      | .wait t => t
      | .refuse t => t.refuseMsg m k true
      | .go t => t.serveOwn m k r

/-- INV at a router: held while the line is transient there, and while its entry is being evicted (R249). One that comes by a
second link while the router is busy with the same request goes on to what has been grafted since (R249; log entry 74). -/
def execInv (m : Nat) (s : State) : Host.Outcome State Fault Refusal :=
  s.onMsg m .inv fun s k =>
    if s.isBehind m k then s else
    match s.ent k.x k.y k.line with
    | none => s.answerEmpty m k .ack
    | some e =>
      if e.awaiting != 0#5 && !e.evicting && e.awaitReq == k.req then (s.dropMsg m).invalidateMore e k
      else if e.transient != [] || e.evicting || e.awaiting != 0#5 then s
      else (s.dropMsg m).invalidate e k.req k.smask k.exempt (opposite k.dir)

def execAck (m : Nat) (s : State) : Host.Outcome State Fault Refusal :=
  s.onMsg m .ack fun s k =>
    match s.ent k.x k.y k.line with
    | none => s.dropMsg m
    | some e =>
      let d := opposite k.dir
      let e1 := { e with
        awaiting := e.awaiting &&& ~~~linkBit d, dirty := e.dirty ||| k.smask
        links := if k.pruned then e.links &&& ~~~linkBit d else e.links }
      let t := (s.dropMsg m).onEnt k.x k.y k.line fun _ => e1
      if e1.awaiting == 0#5 then t.ackUp e1 else t

/-! ### PRUNE, PACK, UNLINK, WB and WBA (R211, R250) -/

def execPrune (m : Nat) (s : State) : Host.Outcome State Fault Refusal :=
  s.onMsg m .prune fun s k =>
    if s.isBehind m k then s else
    match s.ent k.x k.y k.line with
    | none => s.answerEmpty m k .pack
    | some e =>
      if e.evicting && e.awaitReq == k.req then (s.dropMsg m).send (State.fromRouter .pack e (opposite k.dir))
      else if e.transient != [] || e.evicting || e.awaiting != 0#5 then s
      else (s.dropMsg m).beginPrune e false k.req (opposite k.dir)

def execPack (m : Nat) (s : State) : Host.Outcome State Fault Refusal :=
  s.onMsg m .pack fun s k =>
    match s.ent k.x k.y k.line with
    | none => s.dropMsg m
    | some e => (s.dropMsg m).pruneAnswer e (opposite k.dir)

def execUnlink (m : Nat) (s : State) : Host.Outcome State Fault Refusal :=
  s.onMsg m .unlink fun s k =>
    ((s.dropMsg m).onEnt k.x k.y k.line fun e => { e with links := e.links &&& ~~~linkBit (opposite k.dir) }).settle k.x k.y k.line

/-- A write-back reaches its home, which has the bytes from then on and answers (R250). -/
def execWb (m : Nat) (s : State) : Host.Outcome State Fault Refusal :=
  s.onMsg m .wb fun s k =>
    if !(k.x == k.tx && k.y == k.ty) then s.goHop m k (routeXY k.x k.y k.tx k.ty)
    else
      let to_ := sliceStop k.die k.line
      let a := s.homeOf k.line
      ((State.sectorsOf k.line k.smask).foldl State.homeWritten s).become m { k with typ := .wba, tx := to_.1, ty := to_.2, agent := a, inc := s.incOf a }

/-- The acknowledgement of a write-back reaches the holder; a prune-down that waits for the last of them goes on (R250). -/
def execWba (m : Nat) (s : State) : Host.Outcome State Fault Refusal :=
  s.onMsg m .wba fun s k =>
    let d := routeXY k.x k.y k.tx k.ty
    if d ≠ 0 then s.goHop m k d
    else
      let t := s.dropMsg m
      match t.ent k.x k.y k.line with
      | some e => if e.evicting && e.awaiting.getLsbD 0 && !t.wbOut k.die k.line then t.pruneAnswer e 0 else t
      | none => t

/-! ### Other events of the mesh -/

/-- A message of a TYPE that R246 does not list. -/
def execMalformedMessage (typ : BitVec 5) (x y : Nat) (s : State) : Host.Outcome State Fault Refusal :=
  if 1 ≤ typ.toNat ∧ typ.toNat ≤ 12 then .next s else .next (s.count ((agentAt x y).getD hubDie) 14)

/-- A snoop of the host, or of a pool device, tears every sector it names down at the root (R251, R303). -/
def execCxlSnoop (k : Snoop) (sectors : List Nat) (s : State) : Host.Outcome State Fault Refusal :=
  let pool := match k with | .biSnpInv => true | .biSnpData => true | .biSnpCur => true | _ => false
  if !s.portOpen pool then .next s else
  let mine := sectors.filter fun c => keyTier (64 * c) == (if pool then 2 else 1)
  .next ((mine.map (· / 4)).eraseDups.foldl (fun (t : State) line =>
    let mask := (mine.filter fun c => c / 4 == line).foldl (fun (m : BitVec 4) c => m ||| (1#4 <<< (c % 4))) 0#4
    t.askSnoop line mask) s)

/-- An idle slice: no request of it and no message of a line of it is on its way (R254). -/
def State.sliceIdle (s : State) (die slice : Nat) : Bool :=
  (s.mesh.reqs.all fun r => !(r.2.die == die && sliceOf r.2.line == slice)) &&
  s.mesh.msgs.all fun m => !(sliceOf m.2.line == slice && agentAt m.2.x m.2.y == some die)

def execSliceRetention (die slice : Nat) (s : State) : Host.Outcome State Fault Refusal :=
  if die < 16 && slice < 384 && s.sliceIdle die slice && !s.mesh.retained.contains (die, slice) then
    .next { s with mesh := { s.mesh with retained := (die, slice) :: s.mesh.retained } }
  else .next s

/-- A request has been outstanding for 2^26 cycles of its core: one record, and it stays outstanding (R255). -/
def execAgentSilent (req : Nat) (s : State) : Host.Outcome State Fault Refusal :=
  match s.mesh.reqs.get? req with
  | none => .next s
  | some r =>
    if r.noGrant || r.reported || s.timerHeld r || decide ((s.clock r.core - r.clock).toNat < 2 ^ 26) then .next s
    else
      let t := s.post (fqBytes (BitVec.ofNat 64 (keyPa (r.line * 256))) (BitVec.ofNat 64 r.agent) r.asid 7 0 r.core 0 0 0#32)
      .next (t.onReq req fun q => { q with reported := true })

/-- A request to the pool has not been answered for 2^27 hub cycles (R289). -/
def execPoolSilent (req : Nat) (s : State) : Host.Outcome State Fault Refusal :=
  match s.mesh.reqs.get? req with
  | none => .next s
  | some r =>
    if r.outward.isNone || r.outReported || r.line / 2 ^ 44 != 2 || decide (s.hub.cycle - r.outAt < 2 ^ 27) then .next s
    else
      let pa := keyPa (r.line * 256)
      let t := s.post (fqBytes (BitVec.ofNat 64 pa) (BitVec.ofNat 64 ((s.poolDomain pa).getD 0)) 0 9 0 0 0 0 0#32)
      .next (t.onReq req fun q => { q with outReported := true })

/-- The host or a pool device answers what the hub asked outward (R303, R304): the bytes of the sectors come with it, poisoned
perhaps; what the hub asked for itself has come, a software-managed sector is filled, a read is granted inward, an ownership request goes on at the root. -/
def execCxlResponse (req : Nat) (exclusive poisoned : Bool) (data : List Byte) (s : State) : Host.Outcome State Fault Refusal :=
  match s.mesh.reqs.get? req with
  | none => .next s
  | some r =>
    match r.outward with
    | none => .next s
    | some m =>
      let tier := r.line / 2 ^ 44
      let ks := State.sectorsOf r.line r.smask
      if !s.portOpen (tier == 2) || (r.own && !exclusive && tier != 0) then .next s else
      let s1 := if data.length = 64 * ks.length && ks.all fun k => !s.someHolds k (· != 0) then
          let u := ((ks.mapIdx fun i k => (i, k)).foldl (fun (t : State) p =>
            t.setMemBytes (64 * p.2) ((data.drop (64 * p.1)).take 64)) s).fromOutside s.traceLen
          ks.foldl State.homeWritten u
        else s
      let s2 := if poisoned then ks.foldl (fun (t : State) k => t.setPoison k true) s1 else s1
      if r.noGrant && !r.own then
        .next (({ s2 with hub := { s2.hub with fetched := ks ++ s2.hub.fetched.filter fun k => !ks.contains k } } : State).endReq req)
      else if r.swm then .next ((ks.foldl (fun (t : State) k => t.takeL2Copy r.die k) s2).endReq req) else
      let s3 := s2.onReq req fun q => { q with outward := none }
      let s4 : State := if tier = 0 then
          { s3 with hub := { s3.hub with hostHeld := s3.hub.hostHeld.filter fun k => !ks.contains k } }
        else if r.own then { s3 with hub := { s3.hub with outward := ks ++ s3.hub.outward.filter fun k => !ks.contains k } }
        else s3
      let t := s4.putMsg m
      .next (if r.own then t else t.sendData s4.nextId m (if exclusive && !ks.any t.onlyShared then 2#3 else 1#3) hubDie)

/-- A host access to HBM over CXL.mem, served at the lines' roots (R303): a write waits until no slice holds its sectors; a
read leaves them shared. It is held while a home is not in service (R356), and while its lines serve another request. -/
def execCxlMemAccess (pa : Nat) (write : Option (List Byte)) (n : Nat) (s : State) : Host.Outcome State Fault Refusal :=
  let len := match write with | some bs => bs.length | none => n
  let key := memKey 0 pa
  if !s.portOpen false || len = 0 || !s.hbmRange pa len || s.isLost key then .next s
  else .next (s.hubUpdate key (match write with | some bs => .host bs | none => .share n))

end Sys2Proof.Machine
end

