-- ==== Sys2Proof/Machine/Domains.lean ====
section
/-!
DEFINITION. Loss of domains (R289, R290), agents removed and re-admitted (R256, R292), and messages discarded with their
route (R298).
-/
namespace Sys2Proof.Machine

namespace State

/-! ### Work that stops -/

/-- Accesses that a test picks are dropped, and operations left without any are over. A record of LDONE of which a part goes is
never performed in part, and its item is not counted (R189, R298). -/
def dropAccs (s : State) (p : Op → Acc → Bool) : State :=
  let goes := fun (o : Op) (a : Acc) => match o.kind with
    | .ldone => o.accs.any fun b => b.lane == a.lane && p o b && !b.done
    | _ => p o a
  let t : State := { s with ops := s.ops.map fun (o : Nat × Op) =>
    (o.1, { o.2 with accs := o.2.accs.filter fun a => !(goes o.2 a && !a.done) }) }
  t.ops.keys.foldl (fun u id => u.closeOp id) t

/-- The groups of a context stop with DOMAIN_LOST at their next instructions (R290). -/
def stopLost (s : State) (asid : Nat) : State :=
  (s.blocks.filter fun kb => kb.2.asid == asid).foldl (fun (t : State) kb =>
    (kb.2.groups.keys.foldl (fun (u : State) g => u.stopAll kb.1 g cLost) t).onBlock kb.1 fun b => { b with savedOps := [] }) s

/-- The outstanding copies of a context fail with DOMAIN_LOST (R285, R290). -/
def failLost (s : State) (asid : Nat) : State :=
  let t := (s.copies.filter fun c => c.2.asid == asid && c.2.outstanding).foldl
    (fun (u : State) c => u.failCopy c.1 c.2 cLost c.2.piece.1) s
  { t with hub := { t.hub with outst := t.hub.outst.filter fun o =>
      !(o.asid == asid && (match o.waiter with | .copy _ => true | .staging _ => true | .group _ _ => false)) } }

/-- The launches of a context: those not begun are discarded, the others place no more cohorts, and each will end with
0x0D (R290). -/
def endLost (s : State) (asid : Nat) : State :=
  let mine := fun (l : Launch) => l.asid == asid && l.st != .done && l.st != .discarded
  let n := (s.launches.filter fun kl => mine kl.2 && (kl.2.st == .waiting || kl.2.st == .ready)).length
  let t : State := { s with
    launches := s.launches.map fun (kl : Nat × Launch) =>
      if !mine kl.2 then kl
      else if kl.2.st == .waiting || kl.2.st == .ready then (kl.1, { kl.2 with st := .discarded, firstStop := some 0x0D#8 })
      else (kl.1, { kl.2 with st := .running, nextCohort := kl.2.cohorts, firstStop := some 0x0D#8 })
    rings := s.rings.filter fun kr => (s.launch (kr.1 / 4 / Config.numCores)).asid != asid }
  if n = 0 then t else t.statusAdd asid 8 n

/-- A context takes DOMAIN_LOST (R290). -/
def contextLost (s : State) (asid : Nat) : State := ((s.stopLost asid).failLost asid).endLost asid

/-- An access that fails where its domain is lost while it is on its way (R150, R290): a prefetch, a cache range and the forms of
instruction lines never do, and a drop follows its load. -/
def failsLate (k : OpKind) : Bool :=
  match k with
  | .load _ => true | .store => true | .atom _ _ => true | .red _ _ => true | .cdisc => true | .ldone => true | _ => false

/-- Of an operation some accesses are performed and others are on their way to a lost domain. -/
def opCrosses (gone : Loc → Bool) (o : Op) : Bool := o.accs.any Acc.done && o.accs.any fun a => failsLate o.kind && !a.done && gone a.loc

/-- The same of a matrix operation. -/
def mopCrosses (gone : Loc → Bool) (o : MOp) : Bool := o.prog != 0 && (spansFrom o.spans o.prog).any fun p => gone p.1

/-- An operation of which a part is performed has passed its checks, and cannot fail without effect (R150): its bit was set first, and
its context takes DOMAIN_LOST (R290; DESIGN CHOICE, log entry 53). -/
def touchCrossing (s : State) (d : Nat) (gone : Loc → Bool) : State :=
  let t := (s.ops.filter fun o => opCrosses gone o.2).foldl (fun (u : State) o => u.touchDomains o.2.asid [d]) s
  (s.cores.flatMap fun kc => kc.2.mq.filter (mopCrosses gone)).foldl
    (fun (u : State) o => u.touchDomains (s.block o.blk).asid [d]) t

/-- The accesses on their way to a lost domain, of contexts that have not touched it, fail: their groups stop with DOMAIN_LOST at the
instruction (R150, R290). -/
def failInFlight (s : State) (gone : Loc → Bool) : State :=
  let t := s.ops.keys.foldl (fun (u : State) id => match u.ops.get? id with
    | some o =>
      if o.accs.any Acc.done then u else
      (match o.accs.find? fun a => failsLate o.kind && !a.done && gone a.loc with
        | some a => u.failOp id o cLost a
        | none => u)
    | none => u) s
  t.cores.keys.foldl (fun (u : State) core =>
    ((u.core core).mq.filter fun o => (spansFrom o.spans o.prog).any fun p => gone p.1).foldl
      (fun (v : State) o => v.stopAt o.blk o.grp cLost (laneBit o.lane) (o.addr + BitVec.ofNat 64 o.prog) o.pc) u) t

/-- A location is in a domain that is lost: memory, or the store of a block on a die of it. -/
def goneWith (s : State) (d : Nat) : Loc → Bool
  | .mem k => s.isLost k && keyTier k != 3
  | .ls b _ => decide (d < 16) && (s.blocks.get? b).any fun k => k.resident && dieOf k.core == d

/-- A domain is lost: its bit is entered, and every context that has touched it takes DOMAIN_LOST; no access of it is
performed any more, and those of other contexts that were on their way to it fail (R289, R290). -/
def loseDomain (s : State) (d : Nat) : State :=
  if s.hub.lost.getLsbD d then s else
  let s0 : State := { s with hub := { s.hub with lost := s.hub.lost ||| (1#32 <<< d) } }
  let gone := s0.goneWith d
  let s1 := s0.touchCrossing d gone
  let hit := (s1.ctxs.filter fun kc => kc.2.tdmask.getLsbD d && kc.2.tearing.isNone).map Prod.fst
  let s2 := hit.foldl contextLost s1
  let s3 := (s2.failInFlight gone).dropAccs fun o a => gone a.loc || (decide (d < 16) && dieOf o.core == d)
  s3.dropMops fun core o => (decide (d < 16) && dieOf core == d) || (spansFrom o.spans o.prog).any fun p => gone p.1

/-! ### Requests that go -/

/-- Messages that a test picks are gone; those that an agent has sent which is being fenced are counted as stale (R292). -/
def dropMsgs (s : State) (fenced : Nat) (p : Msg → Bool) : State :=
  let old := s.mesh.msgs.filter fun m => p m.2 && m.2.agent == fenced
  old.foldl (fun (t : State) m => t.count ((agentAt m.2.x m.2.y).getD hubDie) 13)
    { s with mesh := { s.mesh with msgs := s.mesh.msgs.filter fun m => !p m.2 } }

/-- A link is cleared as though what it leads to had answered PRUNED: an entry that is left with none goes, and the link
toward it with it, as far as the root. -/
def cutLink (s : State) (x y line d : Nat) : Nat → State
  | 0 => s
  | n + 1 =>
    let t := s.onEnt x y line fun e => { e with links := e.links &&& ~~~linkBit d }
    match t.ent x y line with
    | none => t
    | some e =>
      if e.links == 0#5 && e.transient == [] && !e.evicting && e.awaiting == 0#5 then
        let h := hop x y e.up
        if e.root then t.dropEnt e else (t.dropEnt e).cutLink h.1 h.2 line (opposite e.up) n
      else t

/-- The links that data has laid on its way are cleared, where it goes no farther (R256): the last of them leads to where the data
stands, unless the router there is on the tree by that link already. -/
def cutLaid (s : State) (m : Msg) : State :=
  let onTree := (s.ent m.x m.y m.line).any fun e => !e.root && e.up == opposite m.dir
  if m.typ != .data || m.dir == 0 || m.trail != [] || onTree then s
  else
    let h := hop m.x m.y (opposite m.dir)
    s.cutLink h.1 h.2 m.line m.dir 64

/-- Forget what a request has in the mesh: its messages, with the links that its data has laid, and the marks it left; an agent may
be being fenced (25: none). -/
def forgetReq (s : State) (fenced id : Nat) : State :=
  let mine := fun (m : Msg) => m.req == id && (match m.typ with
    | .rd => true | .own => true | .data => true | .nh => true | .refuse => true | _ => false)
  let gone := (s.mesh.msgs.filter fun m => mine m.2).map Prod.snd
  let s1 := gone.foldl cutLaid (s.dropMsgs fenced mine)
  let t : State := { s1 with mesh := { s1.mesh with
    persist := s1.mesh.persist.filter fun p => p.2 != id } }
  (t.mesh.trees.filter fun e => e.transient.contains id).foldl
    (fun (u : State) e => (u.onEnt e.x e.y e.line fun k => letGo k id).settle e.x e.y e.line) t

/-- A request is given up. An ownership request whose acknowledgements are still coming in is forgotten at its root when
they have. -/
def giveUp (s : State) (fenced id : Nat) : State :=
  let t := s.forgetReq fenced id
  let busy := t.mesh.trees.any fun e => e.awaiting != 0#5 && !e.evicting && e.awaitReq == id
  (if busy then t
    else { t with mesh := { t.mesh with serving := t.mesh.serving.filter fun p => p.2 != id } } : State).endReq id

/-- A request that a fenced agent last received is sent afresh; what that agent has sent for it is stale (R292). -/
def sendAgain (s : State) (fenced id : Nat) : State :=
  match s.mesh.reqs.get? id with
  | some r => if r.outward.isSome || s.mesh.serving.any (fun p => p.2 == id) then s else (s.forgetReq fenced id).sendReq id r
  | none => s

/-! ### FENCEOUT (R256) -/

/-- The sectors a compute die holds. -/
def sectorsAt (s : State) (die : Nat) : List Nat := (s.mesh.sect.filter fun kv => kv.1 % 16 == die).map fun kv => kv.1 / 16

/-- A compute die's caches are emptied. -/
def clearDieCaches (s : State) (die : Nat) : State :=
  { s with
    caches := s.caches.filter fun kc =>
      !((decide (kc.1 < 2048) && kc.1 / 128 == die) || (decide (l2Key die 0 ≤ kc.1) && decide (kc.1 < l2Key die 384)))
    swm := s.swm.filter fun c => !((decide (c.cache < 2048) && c.cache / 128 == die) || c.cache == 2048 + die) }

/-- The holders of a compute die are gone: a dirty sector goes home from another slice that holds it, or, where none does, is
poisoned; the links toward the die are cleared, at every router. -/
def fenceCompute (s : State) (die : Nat) : State :=
  let s1 := (s.sectorsAt die).foldl (fun (t : State) k =>
    let t1 := if t.sectState die k < 3 then t else
      match (List.range 16).find? fun d => d != die && t.sectState d k != 0 with
      | some d => t.writeBack d (k / 4) (1#4 <<< (k % 4))
      | none => t.setPoison k true
    t1.loseSector die k) s
  let s2 := s1.clearDieCaches die
  let mine := (s2.mesh.reqs.filter fun r => r.2.die == die && !r.2.noGrant).map Prod.fst
  let s3 := mine.foldl (fun t id => t.giveUp die id) s2
  let s4 := (s3.mesh.trees.filter fun e => agentAt e.x e.y == some die).foldl (fun (t : State) e =>
    if e.evicting then t.pruneAnswer e 0 else t.cutLink e.x e.y e.line 0 64) s3
  ((s4.mesh.reqs.filter fun r => r.2.agent == die).map Prod.fst).foldl (fun t id => t.sendAgain die id) s4

/-- The lines a memory die homes are gone from every cache and every tree (R256); the requests for other lines that it last received
are sent again (R292). -/
def fenceMemory (s : State) (agent : Nat) : State :=
  let homed := fun (line : Nat) => s.homeOf line == agent
  let s1 := (s.mesh.sect.filter fun kv => homed (kv.1 / 16 / 4)).foldl
    (fun (t : State) kv => t.loseSector (kv.1 % 16) (kv.1 / 16)) s
  let sw := (s1.swm.filter fun c => homed (c.sector / 4)).map SwmCopy.sector
  let s2 := (sw.eraseDups.foldl discardCopies s1).dropMsgs agent fun m => homed m.line
  let s3 : State := { s2 with
    caches := s2.caches.erase (mscKey (agent - 16))
    mesh := { s2.mesh with
      trees := s2.mesh.trees.filter fun e => !homed e.line
      serving := s2.mesh.serving.filter fun p => !homed p.1 } }
  let s4 := ((s3.mesh.reqs.filter fun r => homed r.2.line).map Prod.fst).foldl (fun (t : State) id => t.endReq id) s3
  ((s4.mesh.reqs.filter fun r => r.2.agent == agent).map Prod.fst).foldl (fun t id => t.sendAgain agent id) s4

/-- FENCEOUT finishes (R256, R289, R292). -/
def fenceAgent (s : State) (a : Nat) : State :=
  let t := if a < 16 then s.fenceCompute a else s.fenceMemory a
  let u : State := { t with hub := { t.hub with
    fenced := t.hub.fenced ||| (1#25 <<< a), requalified := t.hub.requalified &&& ~~~(1#25 <<< a) } }
  u.loseDomain a

/-! ### READMIT (R292) -/

/-- A compute die as it leaves reset: its clocks count from now (R41), and its banks are as boot firmware reports them (R53). -/
def freshDie (s : State) (die : Nat) : Die :=
  { Die.init with
    base := BitVec.ofNat 64 (s.hub.cycle / 2)
    unusable := Cells.setMany [] 0 ((List.range Config.coresPerDie).map (Config.unusableBanks die)) }

/-- A line begins afresh: its tree is torn down, what was on its way for it is dropped, and its outstanding requests are sent
again. -/
def restartLine (s : State) (line : Nat) : State :=
  let t := s.tearLine line
  let u : State := { t with mesh := { t.mesh with
    msgs := t.mesh.msgs.filter fun m => m.2.line != line
    serving := t.mesh.serving.filter fun p => p.1 != line } }
  (u.mesh.reqs.filter fun r => r.2.line == line && r.2.outward.isNone).foldl (fun (v : State) r => v.sendReq r.1 r.2) u

/-- A re-admitted compute die starts empty: its tree caches too, so the lines they had entries for begin afresh, and those its routers
have messages of on their way, which bear the incarnation that ends. -/
def freshCompute (s : State) (die : Nat) : State :=
  let s1 := s.clearDieCaches die
  let lines := ((s1.mesh.trees.filter fun e => agentAt e.x e.y == some die).map TreeEnt.line ++
    (s1.mesh.msgs.filter fun m => m.2.agent == die).map fun m => m.2.line).eraseDups
  let s2 := lines.foldl restartLine s1
  { s2 with
    cores := s2.cores.filter fun k => dieOf k.1 != die
    clusters := s2.clusters.filter fun k => k.1 / 16 != die
    rings := s2.rings.filter fun k => dieOf (k.1 / 4 % Config.numCores) != die
    dies := s2.dies.set die (s2.freshDie die)
    mesh := { s2.mesh with retained := s2.mesh.retained.filter fun k => k.1 != die } }

/-- A re-admitted memory die starts with every sector it homes poisoned. -/
def freshMemory (s : State) (md : Nat) : State :=
  { s with
    poison := s.poison.filter fun kv => s.homeOf (kv.1 / 4) != 16 + md
    hub := { s.hub with mdPoison := s.hub.mdPoison ||| (1#8 <<< md) } }

/-- READMIT finishes: one step in which every incarnation table raises the agent's number. -/
def readmitAgent (s : State) (a : Nat) : State :=
  let t := if a < 16 then s.freshCompute a else s.freshMemory (a - 16)
  { t with
    mesh := { t.mesh with inc := t.mesh.inc.set a (t.mesh.inc.get a + 1#8) }
    hub := { t.hub with
      fenced := t.hub.fenced &&& ~~~(1#25 <<< a), requalified := t.hub.requalified &&& ~~~(1#25 <<< a)
      lost := t.hub.lost &&& ~~~(1#32 <<< a) } }

/-! ### Messages discarded with their route (R298) -/

/-- A held access to a package. -/
def toPeer (fid : Nat) (l : Loc) : Bool := match l with | .mem k => keyTier k == 3 && peerFid k == fid | .ls _ _ => false

/-- Where the next accesses of a copy that has not failed lie. -/
def copyPlaces (s : State) (c : Copy) : List (DWord × Loc) :=
  if !c.outstanding || c.saved then [] else
  (nextAccesses c).filterMap fun a => match (s.copyLook c a).2.tr with | .ok loc _ _ => some (a.1, loc) | _ => none

/-- The state as it would be with a route to a package. -/
def withRoute (s : State) (fid : Nat) : State :=
  { s with hub := { s.hub with linkUp := 0xFF#8, routes := s.hub.routes.set fid 0xFF#8 } }

/-- The copies that are held for want of a route to a package, their hold having been counted, with where they stand. -/
def heldCopies (s : State) (fid : Nat) : List (Nat × Copy × DWord) :=
  (s.copies.filter fun kc => kc.2.counted.contains 23).filterMap fun kc =>
    (((s.withRoute fid).copyPlaces kc.2).find? fun p => toPeer fid p.2).map fun p => (kc.1, kc.2, p.1)

/-- The held messages to a package are discarded whole: the group of a load, of a WAITC or of an atomic stops, a copy fails, and neither
it nor a store is ever performed in part. -/
def discardRoute (s : State) (fid : Nat) : State :=
  let stops := s.ops.filter fun o =>
    (match o.2.kind with | .load _ => true | .atom _ _ => true | _ => false) &&
    o.2.accs.any fun a => !a.done && toPeer fid a.loc
  let s1 := stops.foldl (fun (t : State) o =>
    let mine := o.2.accs.filter fun a => !a.done && toPeer fid a.loc
    t.stopAt o.2.blk o.2.grp cLost (maskOf fun i => mine.any fun a => a.lane == i) ((mine.map Acc.va).headD 0#64) o.2.pc) s
  let away := fun (o : MOp) => (spansFrom o.spans o.prog).any fun p => toPeer fid p.1
  let s2 := s1.cores.keys.foldl (fun (t : State) core =>
    ((t.core core).mq.filter fun o => o.kind.reads && away o).foldl
      (fun (u : State) o => u.stopAt o.blk o.grp cLost (laneBit o.lane) (o.addr + BitVec.ofNat 64 o.prog) o.pc) t) s1
  let s3 := (s2.dropAccs fun _ a => toPeer fid a.loc).dropMops fun _ o => away o
  let waits := s3.lanesWhere fun _ _ l => match l.wait with | .waitc w => w.asked && toPeer fid w.loc | _ => false
  let s4 := waits.foldl (fun (t : State) k =>
    let l := t.lane k.1 k.2.1 k.2.2
    t.stopAt k.1 k.2.1 cLost (laneBit k.2.2) (match l.wait with | .waitc w => w.va | _ => 0#64) l.pc) s3
  let s5 := (s4.heldCopies fid).foldl (fun (t : State) k => t.failCopy k.1 k.2.1 cLost k.2.2) s4
  let reqs := (s5.mesh.reqs.filter fun r => r.2.line / 2 ^ 44 == 3 && peerFid (r.2.line * 256) == fid).map Prod.fst
  reqs.foldl (fun t id => t.giveUp 25 id) s5

end State

end Sys2Proof.Machine
end

