-- ==== Sys2Proof/Machine/Windows.lean ====
section
/-!
DEFINITION. Reduction windows at their hub (R278, R282): the checks of a contribution, its application, and a window's completion.
-/
namespace Sys2Proof.Machine

namespace State

/-! ### The hub's writes where sectors may be away -/

/-- Sectors that a slice holds or that the host holds are called home first, as for a far operation (R160, R303); none when
every sector is at home. -/
def callHome (s : State) (ks : List Nat) : Option State :=
  match ks.filter fun k => s.someHolds k (· != 0) || s.needsOutward k with
  | [] => none
  | away => some (away.foldl (fun (t : State) k => t.askHome k 0 0) s)

/-- Write a physical range of HBM, if its frames exist and its domain is in service. -/
def hubPut (s : State) (pa : Nat) (bs : List Byte) : State :=
  if s.hbmRange pa bs.length && !s.isLost (memKey 0 pa) then s.hubWrite (memKey 0 pa) bs else s

/-- The same for a completion word (see `Ev.id`). -/
def hubPutWord (s : State) (pa : Nat) (v : DWord) (id : Nat) : State :=
  if s.hbmRange pa 8 && !s.isLost (memKey 0 pa) then s.hubUpdate (memKey 0 pa) (.word v id) else s

/-! ### Contributions at their window -/

def setWindow (s : State) (win : Nat) (w : Window) : State :=
  { s with hub := { s.hub with windows := s.hub.windows.set win w } }

/-- A contribution is discarded, with its count in the window's error: its element or its type is wrong, or its frame is one
that no window application may touch (R282, R318). -/
def contribBad (s : State) (w : Window) (c : Contrib) : Bool :=
  let pa := elemPa w c.elem
  decide (w.count ≤ c.elem) || c.op != w.op || c.ty != w.ty || !s.hbmRange pa (elemSize w.ty) ||
  s.kresLocked (memKey 0 pa) || s.isLost (memKey 0 pa) || s.isPoisoned (memKey 0 pa)

/-- MIN and MAX of a window compare its elements as signed for `.s32` and `.s64` (R87, R278). -/
def windowSigned (ty : Nat) : Bool := ty == 3 || ty == 4

/-- Combine a contribution into its element. -/
def applyElem (s : State) (w : Window) (c : Contrib) : State :=
  let n := elemSize w.ty
  let key := memKey 0 (elemPa w c.elem)
  s.hubWrite key (toBytes n (combine w.op (8 * n) (windowSigned w.ty) (ofBytes (s.memBytes key n))
    (c.value.toNat % 2 ^ (8 * n)) 0))

/-- The results of an FADDX window go to OUT. -/
def writeOut (s : State) (w : Window) : State :=
  if w.op = 10 ∧ w.out ≠ 0 then
    (List.range w.count).foldl (fun (t : State) e =>
      t.hubPut (w.out + 4 * e) (toBytes 4 (unfix (BitVec.ofNat 128 (ofBytes (t.memBytes (memKey 0 (elemPa w e)) 16)))))) s
  else s

/-- A window's completion word. -/
def doneWord (w : Window) : DWord :=
  if w.discarded = 0 then w.doneVal else (1#64 <<< 63) ||| BitVec.ofNat 64 (w.discarded % 2 ^ 32 * 256 + 9)

/-- The memory dies that the results of a window wait for: it reads its elements at their homes (R356). -/
def resultDies (s : State) (w : Window) : List Nat :=
  if w.op = 10 ∧ w.out ≠ 0 then s.awaitedDies (memKey 0 w.base) (w.count * elemSize w.ty) else []

/-- A window has received what it expects: it is DONE, or will be once its elements can be read. -/
def fullWindow (w : Window) : Bool := w.done || decide (w.expect ≤ w.received)

/-- The hub writes OUT, then the completion word, and the window is DONE. -/
def finishWindow (s : State) (win : Nat) (w : Window) : State :=
  ((s.writeOut w).hubPutWord w.doneAddr (doneWord w) (2 * win + 1)).setWindow win { w with done := true }

/-- The count of a window rises; at EXPECT the hub ends it, which is held, and counts, while a home of its elements is not in service
(R356). -/
def countContrib (s : State) (win : Nat) (w : Window) : State :=
  if w.received < w.expect then s.setWindow win w
  else if s.resultDies w = [] then s.finishWindow win w
  else (s.resultDies w).foldl (fun (t : State) d => t.count (16 + d) 25) (s.setWindow win w)

/-- Windows that were held are ended, where they can be now. -/
def serveWindows (s : State) : State :=
  (s.hub.windows.filter fun p => !p.2.done && fullWindow p.2 && s.resultDies p.2 == []).foldl
    (fun (t : State) p => t.finishWindow p.1 p.2) s


end State

end Sys2Proof.Machine
end

