-- ==== Sys2Proof/Machine/Mailbox.lean ====
section
/-!
DEFINITION. The management mailbox (R286, R287) and its commands (R207, R278, R292, R293, R297, R299, R301, R304, R328, R329,
R338, R363). Physical addresses in commands name HBM (log entry 25).
-/
namespace Sys2Proof.Machine

namespace State

/-! ### One command at a time -/

/-- The registers of a command that has started. -/
def mcmd (s : State) (code : BitVec 8) (args : List DWord) : State :=
  { s with hub := { s.hub with code := code, marg := args ++ s.hub.marg.drop args.length } }

/-- A command has ended. -/
def endCmd (s : State) (r : Nat) : State := { s with hub := { s.hub with busy := false, result := BitVec.ofNat 8 r } }

/-- Start a command: ignored while another runs (R286), and as IDE asks (R302). -/
def starts (s : State) (code : BitVec 8) (args : List DWord) (go : State → State) : Host.Outcome State Fault Refusal :=
  s.viaIo (.next (if s.hub.busy then s else go (s.mcmd code args)))

/-- A command has ended once its writes are performed: they may be held for the service of their home (R356). -/
def endWrites (s t : State) : State :=
  if t.hub.waiting.length ≤ s.hub.waiting.length then t.endCmd 0
  else
    let u := t.ownFrom s.hub.waiting.length
    { u with hub := { u.hub with busy := true, cmd := .writes } }

/-- Run a command: refused at level 0 (R286, R354). The first answer is a RESULT other than 0, where the command has changed
nothing. -/
def command (s : State) (code : BitVec 8) (args : List DWord) (check : Nat) (go : State → State) :
    Host.Outcome State Fault Refusal :=
  s.starts code args fun t =>
    if s.boot.level == 0#2 then t.endCmd 2
    else if check ≠ 0 then t.endCmd check
    else (go t).endCmd 0

/-- A command that reads memory whose home is not in service is held there (R356). -/
def awaits (s : State) (pa n : Nat) : Bool := !s.hub.busy && s.homeAsks (memKey 0 pa) n ≠ []

/-- It has started and waits for its bytes; it runs once the home serves. -/
def holdRead (s : State) (code : BitVec 8) (args : List DWord) (pa n : Nat) : Host.Outcome State Fault Refusal :=
  s.starts code args fun t =>
    ({ t with hub := { t.hub with busy := true, cmd := .reads } } : State).askFor (t.homeAsks (memKey 0 pa) n)

/-- Some context is live. -/
def anyCtx (s : State) : Bool := s.ctxs != []

end State

/-- RESULT of checks in their order: the first that holds. -/
def resultOf (cs : List (Bool × Nat)) : Nat := (cs.find? fun c => c.1).map Prod.snd |>.getD 0

/-! ### Agents and domains -/

/-- FENCEOUT (R256, R292). The table of R292 has no such event for an agent that is FENCED already: it ends with RESULT 2 (DESIGN CHOICE,
log entry 75). -/
def execFenceout (agent : DWord) (s : State) : Host.Outcome State Fault Refusal :=
  s.command 0x01#8 [agent]
    (resultOf [(decide (24 ≤ agent.toNat), 1), (s.hub.fenced.getLsbD agent.toNat, 2)])
    fun t => t.fenceAgent agent.toNat

def execReadmit (agent : DWord) (s : State) : Host.Outcome State Fault Refusal :=
  s.command 0x02#8 [agent]
    (resultOf [(decide (24 ≤ agent.toNat), 1),
      (!s.hub.fenced.getLsbD agent.toNat || !s.hub.requalified.getLsbD agent.toNat, 2)])
    fun t => t.readmitAgent agent.toNat

/-- The lines of a pool domain are asked for no more. -/
def State.losePool (s : State) (k : Nat) : State :=
  let t := s.loseDomain (25 + k)
  ((t.mesh.reqs.filter fun r => r.2.line / 2 ^ 44 == 2 && t.poolDomain (keyPa (r.2.line * 256)) == some k).map Prod.fst).foldl
    (fun (u : State) id => u.giveUp 25 id) t

def execPoollose (dom : DWord) (s : State) : Host.Outcome State Fault Refusal :=
  s.command 0x03#8 [dom] (resultOf [(decide (6 < dom.toNat), 1)]) fun t => t.losePool dom.toNat

def execPoolset (range base size dom : DWord) (s : State) : Host.Outcome State Fault Refusal :=
  s.command 0x04#8 [range, base, size, dom]
    (resultOf [(decide (15 < range.toNat) || (decide (6 < dom.toNat) && dom != 0xFF#64), 1), (s.anyCtx, 3)])
    fun t => { t with hub := { t.hub with
      pools := if dom == 0xFF#64 then t.hub.pools.erase range.toNat
        else t.hub.pools.set range.toNat (base.toNat, size.toNat, dom.toNat) } }

/-! ### Debugger halts (R293) -/

/-- HALT. R293 says nothing of a die that is in DEBUG_HOLD already: it stays so, with RESULT 0 (DESIGN CHOICE, log entry 75). -/
def execHalt (die : DWord) (s : State) : Host.Outcome State Fault Refusal :=
  s.command 0x05#8 [die] (resultOf [(decide (15 < die.toNat), 1)])
    fun t => t.setDie die.toNat { t.die die.toNat with hold := true }

/-- RESUME ends DEBUG_HOLD. R293 says nothing of a die that is not in it: nothing changes, with RESULT 0 (DESIGN CHOICE, log
entry 75). -/
def execResume (die : DWord) (s : State) : Host.Outcome State Fault Refusal :=
  s.command 0x06#8 [die] (resultOf [(decide (15 < die.toNat), 1)]) fun t =>
    let u := t.setDie die.toNat { t.die die.toNat with hold := false }
    { u with mesh := { u.mesh with
        reqs := u.mesh.reqs.map fun (r : Nat × Req) =>
          if t.timerHeld r.2 && !u.timerHeld r.2 then (r.1, { r.2 with clock := u.clock r.2.core }) else r } }

/-! ### The fabric (R297) -/

def execFidset (fid : DWord) (s : State) : Host.Outcome State Fault Refusal :=
  s.command 0x07#8 [fid] (resultOf [(fid == 0#64 || decide (4095 < fid.toNat), 1), (s.anyCtx, 3)])
    fun t => { t with hub := { t.hub with fid := fid.toNat } }

/-- A mask removes a live link of a route. -/
def State.removesLive (s : State) (fid : Nat) (mask : BitVec 8) : Bool := (s.route fid &&& ~~~mask) != 0#8

def execRouteset (fid mask : DWord) (s : State) : Host.Outcome State Fault Refusal :=
  let m : BitVec 8 := mask.setWidth 8
  s.command 0x08#8 [fid, mask]
    (resultOf [(decide (4095 < fid.toNat) || decide (255 < mask.toNat), 1), (s.anyCtx && s.removesLive fid.toNat m, 3)])
    fun t =>
      let u : State := { t with hub := { t.hub with routes := t.hub.routes.set fid.toNat m } }
      if m == 0#8 then u.discardRoute fid.toNat else u

/-! ### Reduction windows (R278) -/

/-- The operations and types a window may have. -/
def windowType (op ty : Nat) : Bool :=
  if op = 10 then ty == 11
  else if op ≤ 2 then ty == 3 || ty == 4 || ty == 7 || ty == 8
  else decide (op ≤ 5) && (ty == 7 || ty == 8)

/-- The window of a descriptor. -/
def windowOf (d : List Byte) : Window :=
  { base := wordAt d 0 8, out := wordAt d 8 8, count := wordAt d 16 4, op := wordAt d 20 1, ty := wordAt d 21 1
    expect := wordAt d 24 4, doneAddr := wordAt d 32 8, doneVal := BitVec.ofNat 64 (wordAt d 40 8), received := 0
    discarded := 0, done := false }

/-- A descriptor that R278 allows. -/
def windowOk (d : List Byte) : Bool :=
  let w := windowOf d
  windowType w.op w.ty && w.base % elemSize w.ty == 0 && w.out % 4 == 0 && (w.op == 10 || w.out == 0) &&
  decide (1 ≤ w.count) && decide (w.count ≤ 2 ^ 24) && decide (1 ≤ w.expect) && w.doneAddr % 8 == 0 &&
  allZero ((d.drop 22).take 2) && allZero ((d.drop 28).take 4) && allZero ((d.drop 48).take 16)

/-- A window is receiving contributions. -/
def State.receiving (s : State) (win : Nat) : Bool :=
  (s.hub.windows.get? win).any fun w => !w.done && (decide (0 < w.received) || s.hub.contribs.any fun c => c.win == win)

def execWinset (win desc : DWord) (s : State) : Host.Outcome State Fault Refusal :=
  let d := s.hubRead (memKey 0 desc.toNat) 64
  if s.boot.level != 0#2 && win.toNat ≤ 255 && s.hbmRange desc.toNat 64 && s.awaits desc.toNat 64 then
    s.holdRead 0x09#8 [win, desc] desc.toNat 64
  else
  s.command 0x09#8 [win, desc]
    (resultOf [(decide (255 < win.toNat) || !s.hbmRange desc.toNat 64 || !windowOk d, 1), (s.receiving win.toNat, 2)])
    fun t => { t with hub := { t.hub with windows := t.hub.windows.set win.toNat (windowOf d) } }

/-! ### Remote regions (R299, R301) -/

/-- The region of an entry, VALID. -/
def regionOf (d : List Byte) : Region :=
  { base := wordAt d 0 8, len := wordAt d 8 8, key := BitVec.ofNat 32 (wordAt d 16 4), perm := d.getD 20 0#8, st := 1
    inflight := 0 }

def regionOk (d : List Byte) : Bool :=
  wordAt d 0 8 % 64 == 0 && wordAt d 8 8 % 64 == 0 && bits (d.getD 20 0#8) 2 6 == 0 && allZero ((d.drop 22).take 2)

/-! ### The tables of the remote access unit (R299) -/

/-- A region entry, and a connection state, as the tables in host memory hold them (log entry 76). -/
def regionBytes (r : Region) : List Byte :=
  toBytes 8 r.base ++ toBytes 8 r.len ++ toBytes 4 r.key.toNat ++ [r.perm, BitVec.ofNat 8 r.st, 0#8, 0#8] ++ toBytes 8 r.inflight

def regionFrom (d : List Byte) : Region :=
  { base := wordAt d 0 8, len := wordAt d 8 8, key := BitVec.ofNat 32 (wordAt d 16 4), perm := d.getD 20 0#8
    st := (d.getD 21 0#8).toNat, inflight := wordAt d 24 8 }

def connBytes (next : Nat) : List Byte := toBytes 8 next ++ List.replicate 56 0#8

namespace State

/-- Where the tables hold a region's entry, and a live connection's state. -/
def regionKey (s : State) (r : Nat) : Nat := memKey 1 ((s.hub.regtable.map fun t => t.1).getD 0 + 32 * r)
def connKey (s : State) (c : Nat) : Nat := memKey 1 ((s.hub.regtable.map fun t => t.2.2.1).getD 0 + 64 * s.hub.connPlace.idxOf c)

/-- A region's entry, and the sequence number that a live connection waits for, wherever they are. -/
def regionAt (s : State) (r : Nat) : Option Region :=
  if s.hub.regSpilled.contains r then some (regionFrom (s.hubRead (s.regionKey r) 32)) else s.hub.regions.get? r

def connAt (s : State) (c : Nat) : Option Nat :=
  if s.hub.connSpilled.contains c then some (wordAt (s.hubRead (s.connKey c) 8) 0 8) else s.hub.conns.get? c

/-- The cached entry used longest ago goes to its table. -/
def spillRegion (s : State) (r : Nat) : State :=
  let t : State := { s with hub := { s.hub with regUsed := s.hub.regUsed.filter (· != r), regions := s.hub.regions.erase r } }
  match s.hub.regions.get? r with
  | some k => ({ t with hub := { t.hub with regSpilled := r :: t.hub.regSpilled } } : State).hubWrite (t.regionKey r) (regionBytes k)
  | none => t

def spillConn (s : State) (c : Nat) : State :=
  let t : State := { s with hub := { s.hub with connUsed := s.hub.connUsed.filter (· != c), conns := s.hub.conns.erase c } }
  match s.hub.conns.get? c with
  | some n => ({ t with hub := { t.hub with connSpilled := c :: t.hub.connSpilled } } : State).hubWrite (t.connKey c) (connBytes n)
  | none => t

/-- The hub has a region's entry in its cache: a miss fetches it from its table, counts one event, and may spill another. Before
there are tables every entry is in the cache. R299 says nothing of a message for a region number at or above the region count: it counts a
miss, and may spill another entry, too (DESIGN CHOICE, log entry 76). -/
def useRegion (s : State) (r : Nat) : State :=
  if s.hub.regtable.isNone then s else
  let miss := !s.hub.regUsed.contains r
  let regions := match s.regionAt r with | some k => s.hub.regions.set r k | none => s.hub.regions
  let used := s.hub.regUsed.filter (· != r) ++ [r]
  let t : State := { s with hub := { s.hub with
    regions := regions, regUsed := used, regSpilled := s.hub.regSpilled.filter (· != r)
    missed := if miss then s.hub.missed + 1 else s.hub.missed } }
  if used.length ≤ 4096 then t else t.spillRegion (used.headD 0)

/-- The same for a connection's state; a connection without one becomes live with the sequence number of its first message. -/
def useConn (s : State) (c first : Nat) : State :=
  let place := if s.hub.connPlace.contains c then s.hub.connPlace else s.hub.connPlace ++ [c]
  let miss := s.hub.connPlace.contains c && !s.hub.connUsed.contains c
  let used := s.hub.connUsed.filter (· != c) ++ [c]
  let t : State := { s with hub := { s.hub with
    conns := s.hub.conns.set c ((s.connAt c).getD first), connUsed := used, connPlace := place
    connSpilled := s.hub.connSpilled.filter (· != c), missed := if miss then s.hub.missed + 1 else s.hub.missed } }
  if used.length ≤ 512 then t else t.spillConn (used.headD 0)

/-- STATE of a region: 0 FREE. -/
def regionState (s : State) (r : Nat) : Nat := ((s.regionAt r).map Region.st).getD 0

/-- Some region is VALID or REVOKING. -/
def anyRegion (s : State) : Bool := s.hub.regSpilled != [] || s.hub.regions.any fun k => k.2.st != 0

end State

def execRegset (region entry : DWord) (s : State) : Host.Outcome State Fault Refusal :=
  let r := region.toNat
  let d := s.hubRead (memKey 0 entry.toNat) 32
  let beyond := match s.hub.regtable with | some t => decide (t.2.1 ≤ r) | none => false
  if s.boot.level != 0#2 && decide (r < 2 ^ 24) && !beyond && s.hbmRange entry.toNat 32 && s.awaits entry.toNat 32 then
    s.holdRead 0x0A#8 [region, entry] entry.toNat 32
  else
  s.command 0x0A#8 [region, entry]
    (resultOf [(decide (2 ^ 24 ≤ r) || beyond || !s.hbmRange entry.toNat 32 || !regionOk d, 1),
      ((s.hub.regtable.isNone && decide (4096 ≤ r)) || s.regionState r != 0, 2)])
    fun t => let u := t.useRegion r
      { u with hub := { u.hub with regions := u.hub.regions.set r (regionOf d) } }

/-- A REVOKING region without messages is FREE, and its completion word is written (R301). -/
def State.freeRegion (s : State) (r : Nat) : State :=
  match s.hub.regions.get? r with
  | some k =>
    if k.st == 2 && k.inflight == 0 then
      ({ s with hub := { s.hub with regions := s.hub.regions.erase r, revokes := s.hub.revokes.erase r } } : State).hubWrite
        (memKey 0 ((s.hub.revokes.get? r).getD 0)) (toBytes 8 1)
    else s
  | none => s

/-- REVOKE (R301). No rule says how its completion word is aligned: an address that is no multiple of 8 is refused with RESULT 1 (DESIGN
CHOICE, log entry 75). -/
def execRevoke (region cword : DWord) (s : State) : Host.Outcome State Fault Refusal :=
  let r := region.toNat
  s.command 0x0B#8 [region, cword]
    (resultOf [(decide (2 ^ 24 ≤ r) || cword.toNat % 8 != 0 || !s.hbmRange cword.toNat 8, 1), (s.regionState r != 1, 2)])
    fun t =>
      let u := t.useRegion r
      ({ u with hub := { u.hub with
        regions := u.hub.regions.modify r fun k => { k with st := 2 }
        revokes := u.hub.revokes.set r cword.toNat } } : State).freeRegion r

/-- REGTABLE: the tables are the hub's from now on; the connections that are live take their places in the order of their
numbers. -/
def execRegtable (rbase rcount cbase ccount : DWord) (s : State) : Host.Outcome State Fault Refusal :=
  let rc := rcount.toNat
  let cc := ccount.toNat
  s.command 0x0E#8 [rbase, rcount, cbase, ccount]
    (resultOf [(rbase.toNat % 4096 != 0 || cbase.toNat % 4096 != 0 || rc % 4096 != 0 || decide (rc < 4096) ||
        decide (2 ^ 24 < rc) || cc % 512 != 0 || decide (cc < 512) || decide (2 ^ 20 < cc), 1),
      (s.anyRegion, 2)])
    fun t => { t with hub := { t.hub with regtable := some (rbase.toNat, rc, cbase.toNat, cc), regUsed := [] } }

/-! ### SCRUB and TCLIMIT -/

def execScrub (base len : DWord) (s : State) : Host.Outcome State Fault Refusal :=
  let bad := base.toNat % 64 != 0 || len.toNat % 64 != 0 || !s.hbmRange base.toNat len.toNat
  if s.boot.level == 0#2 || bad then s.command 0x0C#8 [base, len] 1 id
  else s.starts 0x0C#8 [base, len] fun t => t.endWrites ((List.range (len.toNat / 64)).foldl (fun (u : State) i =>
    let k := memKey 0 base.toNat / 64 + i
    ((u.discardCopies k).hubWrite (64 * k) (List.replicate 64 0#8)).setPoison k false) t)

/-- TCLIMIT (R207, R287). Entries beyond two of a set that the router holds already stay until a new entry needs room there (DESIGN
CHOICE, log entry 74). -/
def execTclimit (x y on : DWord) (s : State) : Host.Outcome State Fault Refusal :=
  let at_ := (x.toNat, y.toNat)
  s.command 0x0D#8 [x, y, on]
    (resultOf [(decide (19 < x.toNat) || decide (16 < y.toNat) || decide (1 < on.toNat), 1), (s.anyCtx, 3)])
    fun t => { t with mesh := { t.mesh with
      tclimit := if on == 0#64 then t.mesh.tclimit.filter (· != at_) else at_ :: t.mesh.tclimit.filter (· != at_) } }

/-! ### Contexts (R328, R329, R338) -/

/-- A queue word of a context descriptor: base and LOG2N. -/
def queueWord (d : List Byte) (q : Nat) : DWord := BitVec.ofNat 64 (wordAt d (64 + 8 * q) 8)

/-- A context descriptor that R329 allows. -/
def ctxOk (d : List Byte) : Bool :=
  let nq := wordAt d 52 1
  wordAt d 0 8 % 4096 == 0 && decide (wordAt d 8 2 < 2048) && allZero ((d.drop 10).take 6) &&
  !trapvecReserved (BitVec.ofNat 64 (wordAt d 16 8)) && decide (wordAt d 24 8 < 512) && wordAt d 32 8 % 64 == 0 &&
  wordAt d 40 8 % 2 ^ 22 == 0 && decide (wordAt d 48 4 ≤ 65536) && decide (1 ≤ nq) && decide (nq ≤ 8) &&
  allZero ((d.drop 53).take 11) &&
  (List.range 8).all fun q =>
    let w := queueWord d q
    if q < nq then bits w 5 2 == 0 && decide (1 ≤ bits w 0 5) && decide (bits w 0 5 ≤ 16) else w == 0#64

/-- The context of a descriptor. -/
def ctxOf (d : List Byte) : Ctx :=
  { Ctx.init with
    root := wordAt d 0 8, trapvec := BitVec.ofNat 64 (wordAt d 16 8), nearq := BitVec.ofNat 64 (wordAt d 24 8)
    status := wordAt d 32 8, saveBase := wordAt d 40 8, saveSlots := wordAt d 48 4
    queues := (List.range (wordAt d 52 1)).map fun q =>
      ((queueWord d q).toNat / 128 * 128, bits (queueWord d q) 0 5, 0#64) }

def execCtxcreate (desc : DWord) (s : State) : Host.Outcome State Fault Refusal :=
  let d := s.hubRead (memKey 0 desc.toNat) 128
  if s.boot.level != 0#2 && desc.toNat % 128 == 0 && s.hbmRange desc.toNat 128 && s.awaits desc.toNat 128 then
    s.holdRead 0x10#8 [desc] desc.toNat 128
  else
  s.command 0x10#8 [desc]
    (resultOf [(desc.toNat % 128 != 0 || !s.hbmRange desc.toNat 128 || !ctxOk d, 1),
      ((s.ctxs.get? (wordAt d 8 2)).isSome, 2)])
    fun t => { t with ctxs := t.ctxs.set (wordAt d 8 2) (ctxOf d) }

namespace State

/-- The blocks of a context. -/
def blocksOf (s : State) (asid : Nat) : List (Nat × Block) := s.blocks.filter fun kb => kb.2.asid == asid

/-- The counts of a teardown report: launches; device-side launches that are on their way to the dispatcher, and reach it at T
or later; groups, copies, fault-queue entries. -/
def tearCounts (s : State) (asid : Nat) : List Nat :=
  [ s.launchesOf asid fun l => l.st != .done && l.st != .discarded,
    s.launchesOf asid fun l => l.device.isSome && l.st == .waiting,
    ((s.blocksOf asid).map fun kb => (kb.2.groups.filter fun kg => !kg.2.ended && !kg.2.stopped).length).sum,
    s.copiesOf asid,
    (s.hub.outst.filter fun o => o.asid == asid).length ]

/-- The work of a context goes at once (R168, R206, R265, R338): what its units have queued, the blocks that do not stay, and the
accesses to their local store; lines on their way are pinned for it no more (R164), and its lanes watch nothing (R143). -/
def dropWork (s : State) (asid : Nat) (stays : Block → Bool) : State :=
  let ks := ((s.blocksOf asid).filter fun kb => !stays kb.2).map Prod.fst
  let s1 := ks.foldl dropBlock (s.abandon asid)
  let s2 := s1.dropAccs fun o a => o.asid == asid && (match a.loc with | .ls b _ => !(s1.blocks.get? b).any stays | .mem _ => false)
  let s3 := (s.blocksOf asid).foldl (fun (t : State) kb => t.dropMonitors kb.1) s2
  { s3 with ops := s3.ops.map fun (o : Nat × Op) => match o.2.kind with
      | .ifill true => if o.2.asid == asid then (o.1, { o.2 with kind := .ifill false }) else o
      | _ => o }

/-- The fault-queue entries of a context are dropped: those that wait at the hub, and those that wait for an answer (R310). -/
def dropEntries (s : State) (asid : Nat) : State :=
  let ids := (s.hub.outst.filter fun o => o.asid == asid && o.seq.isNone).map Outst.id
  { s with hub := { s.hub with
      held := s.hub.held.filter fun e => !ids.contains e.id
      outst := s.hub.outst.filter fun o => o.asid != asid } }

/-- Launches of a context are discarded; those that had not begun are counted (R330, R338). -/
def discardLaunches (s : State) (asid : Nat) : State :=
  let n := s.launchesOf asid fun l => l.st == .waiting || l.st == .ready
  let t : State := { s with
    launches := s.launches.map fun (kl : Nat × Launch) =>
      if kl.2.asid == asid && kl.2.st != .done then (kl.1, { kl.2 with st := .discarded, firstStop := none }) else kl }
  if n = 0 then t else t.statusAdd asid 8 n

/-- Completion words of a context that are held are written no more (R338). -/
def dropWords (s : State) (asid : Nat) : State :=
  { s with hub := { s.hub with waiting := s.hub.waiting.filter fun h => h.ctx != some asid } }

/-- A block whose groups may stand inside an instruction. -/
def issues (b : Block) : Bool := b.resident && b.started && b.packed.isNone && !b.leaving

/-- What the teardown of a context frees (R338), but for the blocks that stay. -/
def freeCtx (s : State) (asid : Nat) (stays : Block → Bool) : State :=
  let s1 := ((s.discardLaunches asid).dropWork asid stays).dropEntries asid
  let i : Inval := { kind := 1, asid := asid, va := 0#64 }
  (((s1.clusters.keys.foldl (fun (t : State) c => t.unpinAll c asid) s1).inval i).markStale i).dropWords asid

/-- CTXTEAR takes effect (R338). A group stops at its next instruction boundary: it may issue once more before TEARDOWN_REPORT finds it
stopped (log entry 85). -/
def tearDown (s : State) (asid report : Nat) : State :=
  let counts := s.tearCounts asid
  (s.freeCtx asid issues).onCtx asid fun c => { c with tearing := some (report, counts), frames := [] }

/-- Every group of a torn-down context has come to its boundary: the rest of it goes, and what its last instructions have done since T is
counted; the launches among it have raced the teardown (R338). -/
def tearRest (s : State) (asid : Nat) : State :=
  let m := s.tearCounts asid
  (s.addTear asid [m.getD 0 0, m.getD 0 0, 0, m.getD 3 0, m.getD 4 0]).freeCtx asid fun _ => false

end State

/-- CTXTEAR: BUSY reads 1 until the report is written. -/
def execCtxtear (asid report : DWord) (s : State) : Host.Outcome State Fault Refusal :=
  let a := asid.toNat
  let check := resultOf
    [(decide (2047 < a) || report.toNat % 64 != 0 || !s.hbmRange report.toNat 64, 1), (!s.liveCtx a, 2)]
  if s.boot.level == 0#2 || check ≠ 0 then s.command 0x11#8 [asid, report] check id
  else s.starts 0x11#8 [asid, report] fun t =>
    let u := t.tearDown a report.toNat
    { u with hub := { u.hub with busy := true } }

/-- Once nothing of a torn-down context remains on any core, the report is written, the ASID is free and BUSY reads 0 (R338); where
the report's home is not in service yet, BUSY reads 1 until it is (R356). Before that its groups come to their boundaries. -/
def execTeardownReport (asid : Nat) (s : State) : Host.Outcome State Fault Refusal :=
  match (s.ctx asid).tearing with
  | none => .next s
  | some (report, counts) =>
    if s.blocks.any fun kb => kb.2.asid == asid then .next (s.tearRest asid)
    else if s.ops.any fun o => o.2.asid == asid then .next s
    else
      let bs := (List.range 8).flatMap fun i => toBytes 8 (counts.getD i 0)
      let t := (s.hubWrite (memKey 0 report) bs).ownFrom s.hub.waiting.length
      let held := decide (s.hub.waiting.length < t.hub.waiting.length)
      .next { t with
        ctxs := t.ctxs.erase asid
        hub := { t.hub with busy := held, cmd := if held then .writes else t.hub.cmd, result := 0#8 } }

/-! ### ATTEST (R363) -/

/-- Bytes 0–199 of a quote. -/
def State.quoteHead (s : State) (nonce : List Byte) : List Byte :=
  nonce ++ s.boot.fwMeasure ++ s.boot.recMeasure ++
  toBytes 4 ((s.boot.record.map fun r => wordAt r 12 4).getD 0) ++ toBytes 1 s.boot.level.toNat ++ toBytes 3 0

/-- A quote: its head and its signature by the identity key. -/
def State.quote (s : State) (nonce : List Byte) : List Byte :=
  let h := s.quoteHead nonce
  h ++ (List.range 64).map fun i => Config.identitySign h i

/-- ATTEST is accepted at every level; BUSY reads 1 until every byte of the quote is written, which may have to wait for the memory
dies of the nonce and of the output (R356). -/
def execAttest (nonce out : DWord) (s : State) : Host.Outcome State Fault Refusal :=
  let aligned := nonce.toNat % 64 == 0 && out.toNat % 64 == 0
  if aligned && s.awaits nonce.toNat 64 then s.holdRead 0x12#8 [nonce, out] nonce.toNat 64 else
  s.starts 0x12#8 [nonce, out] fun t =>
    if !aligned then t.endCmd 1
    else t.endWrites (t.hubWrite (memKey 0 out.toNat) (s.quote (s.hubRead (memKey 0 nonce.toNat) 64)))

/-! ### The registers of BAR0 -/

/-- The command of a CODE, with the arguments of MARG0–MARG3 (R287); a code that is not listed ends with RESULT 1. -/
def runCode (code : BitVec 8) (m : List DWord) (s : State) : Host.Outcome State Fault Refusal :=
  let a := fun (i : Nat) => m.getD i 0#64
  match code.toNat with
  | 0x01 => execFenceout (a 0) s
  | 0x02 => execReadmit (a 0) s
  | 0x03 => execPoollose (a 0) s
  | 0x04 => execPoolset (a 0) (a 1) (a 2) (a 3) s
  | 0x05 => execHalt (a 0) s
  | 0x06 => execResume (a 0) s
  | 0x07 => execFidset (a 0) s
  | 0x08 => execRouteset (a 0) (a 1) s
  | 0x09 => execWinset (a 0) (a 1) s
  | 0x0A => execRegset (a 0) (a 1) s
  | 0x0B => execRevoke (a 0) (a 1) s
  | 0x0C => execScrub (a 0) (a 1) s
  | 0x0D => execTclimit (a 0) (a 1) (a 2) s
  | 0x0E => execRegtable (a 0) (a 1) (a 2) (a 3) s
  | 0x10 => execCtxcreate (a 0) s
  | 0x11 => execCtxtear (a 0) (a 1) s
  | 0x12 => execAttest (a 0) (a 1) s
  | _ => s.command code [] 1 id

/-- What was held for a memory die goes on when it serves (R356): the writes, and the command that waits for them or for its bytes. -/
def State.serveHeld (s : State) : State :=
  let t := s.serveWaiting.serveActivations.serveWindows
  match t.hub.cmd with
  | .nothing => t
  | .writes =>
    if t.hub.waiting.any HeldWrite.own then t else ({ t with hub := { t.hub with cmd := .nothing } } : State).endCmd 0
  | .reads =>
    (match runCode t.hub.code t.hub.marg { t with hub := { t.hub with busy := false, cmd := .nothing } } with
      | .next u => u
      | _ => t)

/-- A write to MCMD (R286): with BUSY it starts the command in CODE. A non-zero reserved bit is a bad argument (DESIGN CHOICE,
log entry 75). -/
def State.mcmdWrite (s : State) (v : DWord) : Host.Outcome State Fault Refusal :=
  let code : BitVec 8 := v.extractLsb' 0 8
  if !v.getLsbD 63 then s.starts code [] id
  else if bits v 8 55 != 0 then s.command code [] 1 id
  else runCode code s.hub.marg s

/-- A write to a register of BAR0 without an event of its own (R286, R324, R341). -/
def execRegisterWrite (off : Nat) (v : DWord) (s : State) : Host.Outcome State Fault Refusal :=
  if off = 0 then s.mcmdWrite v else
  s.viaIo (.next (
    if off = 0x110 then
      (if s.ctxs = [] then { s with hub := { s.hub with fqbase := v &&& 0xFFFFFFFFFFFFF01F#64 } } else s)
    else if 0x008 ≤ off ∧ off ≤ 0x020 ∧ off % 8 = 0 then { s with hub := { s.hub with marg := s.hub.marg.set (off / 8 - 1) v } }
    else if 0x10000 ≤ off ∧ off < 0x20000 ∧ off % 8 = 0 then
      let n := (off - 0x10000) / 64
      let w := (off - 0x10000) % 64 / 8
      s.setMigWord n w (s.migHostWord n w v)
    else s))

/-- A word of the migration table as it is read: its reserved fields read as zero (R3, R324). -/
def State.migRead (s : State) (n w : Nat) : DWord :=
  if 6 ≤ w then 0#64 else if w = 3 then s.migWord n 3 &&& 0xFF0FFFFF#64 else s.migWord n w

/-- What a register of BAR0 reads as (R286, R307, R321, R324, R341, R354, R355, R362, R364); RSLV reads as zero. -/
def State.barRead (s : State) (off : Nat) : DWord :=
  if off = 0x000 then (if s.hub.busy then 1#64 <<< 63 else 0#64) ||| s.hub.code.setWidth 64
  else if 0x008 ≤ off ∧ off ≤ 0x020 ∧ off % 8 = 0 then s.hub.marg.getD (off / 8 - 1) 0#64
  else if off = 0x028 then s.hub.result.setWidth 64
  else if off = 0x100 then 0#64
  else if off = 0x108 then (if s.tinvBusy then 1#64 <<< 63 else 0#64) ||| s.hub.tinv
  else if off = 0x110 then s.hub.fqbase
  else if off = 0x118 then s.hub.fqtail
  else if off = 0x120 then s.hub.fqhead
  else if off = 0x128 then s.boot.level.setWidth 64
  else if off = 0x130 then s.boot.bootstat.setWidth 64
  else if 0x140 ≤ off ∧ off < 0x160 ∧ off % 8 = 0 then BitVec.ofNat 64 (wordAt s.boot.pubkey (off - 0x140) 8)
  else if 0x10000 ≤ off ∧ off < 0x20000 ∧ off % 8 = 0 then s.migRead ((off - 0x10000) / 64) ((off - 0x10000) % 64 / 8)
  else if 0x20000 ≤ off ∧ off < 0x20000 + 8 * 64 * 25 ∧ off % 8 = 0 then s.counters.get ((off - 0x20000) / 8)
  else 0#64

end Sys2Proof.Machine
end

