-- ==== Sys2Proof/Machine/Remote.lean ====
section
/-!
DEFINITION. The links to the pool, to other packages and to remote machines: loss of pool domains (R289), Prawell links
(R297, R298), inbound messages (R283), contributions at their window (R282), and remote messages (R299–R301).
-/
namespace Sys2Proof.Machine

/-! ### The pool port (R289) -/

/-- The pool port reports that its link is down, that a device has been removed, or viral. -/
def execPoolPortLoss (c : PoolLoss) (s : State) : Host.Outcome State Fault Refusal :=
  match c with
  | .removed dom => .next (if dom ≤ 6 then s.losePool dom else s)
  | .linkDown => .next ((List.range 7).foldl State.losePool s)
  | .viral => .next ((List.range 7).foldl State.losePool s)

/-! ### Prawell links (R297, R298) -/

namespace State

/-- A location of another package that no live link reaches. -/
def unreachable (s : State) (l : Loc) : Bool :=
  match l with
  | .mem k => keyTier k == 3 && s.route (peerFid k) == 0#8
  | .ls _ _ => false

/-- The slice of its die, or its core's L1, serves an access without its home (R244, R258). -/
def servedHere (s : State) (o : Op) (a : Acc) : Bool :=
  match a.loc with
  | .ls _ _ => true
  | .mem k =>
    let die := dieOf o.core
    if atHome o a then false
    else if a.swm then
      (s.copyOf (s.swmCache o.core) (sectorOf k)).isSome || (s.copyOf (2048 + die) (sectorOf k)).isSome
    else if o.kind.writes then s.sectState die (sectorOf k) == 2 || s.sectState die (sectorOf k) == 4
    else s.sectState die (sectorOf k) != 0

/-- An access on its way that is held for want of a route (R298). -/
def routeHolds (s : State) (o : Op) (a : Acc) : Bool := !a.done && s.unreachable a.loc && !s.servedHere o a

/-- A matrix operation whose next piece is held. -/
def routeHoldsMop (s : State) (core : Nat) (o : MOp) : Bool :=
  match spansFrom o.spans o.prog with
  | p :: _ =>
    let y := o.ordered core (s.block o.blk).asid p
    s.routeHolds { y.op with kind := if o.kind.stores then .store else .load false } y.acc
  | [] => false

/-- Note the holds that a route's loss has caused, each once: what is held now, of copies by where they stood before. -/
def markHolds (s before : State) : State :=
  { s with
    ops := s.ops.map fun (o : Nat × Op) => (o.1, { o.2 with
      accs := o.2.accs.map fun a => if s.routeHolds o.2 a && !a.counted.contains 23 then { a with counted := 23 :: a.counted } else a })
    cores := s.cores.map fun (k : Nat × Core) => (k.1, { k.2 with
      mq := k.2.mq.map fun o => if s.routeHoldsMop k.1 o && !o.counted.contains 23 then { o with counted := 23 :: o.counted } else o })
    copies := s.copies.map fun (c : Nat × Copy) =>
      if ((before.copyPlaces c.2).any fun p => s.unreachable p.2) && !c.2.counted.contains 23 then (c.1, { c.2 with counted := 23 :: c.2.counted })
      else c }

/-- The holds noted for want of a route. -/
def routeMarks (s : State) : Nat :=
  (s.ops.map fun o => o.2.accs.countP fun a => a.counted.contains 23).sum +
  (s.cores.map fun k => k.2.mq.countP fun o => o.counted.contains 23).sum + s.copies.countP fun c => c.2.counted.contains 23

/-- What a route that has returned lets go on may be held anew. -/
def clearHolds (s : State) : State :=
  let free := fun (ok : Bool) (l : List Nat) => if ok then l.filter (· != 23) else l
  { s with
    ops := s.ops.map fun (o : Nat × Op) => (o.1, { o.2 with
      accs := o.2.accs.map fun a => { a with counted := free (!s.unreachable a.loc) a.counted } })
    cores := s.cores.map fun (k : Nat × Core) => (k.1, { k.2 with
      mq := k.2.mq.map fun o => { o with counted := free (!s.routeHoldsMop k.1 o) o.counted } })
    copies := s.copies.map fun (c : Nat × Copy) =>
      (c.1, { c.2 with counted := free ((s.copyPlaces c.2).any fun p => match p.2 with | .mem k => keyTier k == 3 | _ => false) c.2.counted }) }

end State

/-- A link fails retraining: it is down, a record goes to the fault queue, and each access that becomes unreachable is held, which counts
once (R297, R298). -/
def execLinkDown (link : Nat) (s : State) : Host.Outcome State Fault Refusal :=
  if 8 ≤ link || !s.hub.linkUp.getLsbD link then .next s else
  let t : State := { s with hub := { s.hub with linkUp := s.hub.linkUp &&& ~~~(1#8 <<< link) } }
  let u := (t.post (fqBytes 0#64 (BitVec.ofNat 64 link) 0 10 0 0 0 0 0#32)).markHolds s
  .next (u.count hubDie 23 (u.routeMarks - s.routeMarks))

/-- A link returns: messages that were held for it may go on. -/
def execLinkUp (link : Nat) (s : State) : Host.Outcome State Fault Refusal :=
  .next ({ s with hub := { s.hub with linkUp := s.hub.linkUp ||| (1#8 <<< link) } } : State).clearHolds

/-- A flit that fails its CRC is replayed by its link, which changes nothing else (R297). -/
def execFlitCrcFail (_link : Nat) (s : State) : Host.Outcome State Fault Refusal := .next s

namespace State

/-! ### Inbound messages (R283) -/

/-- The message a packet belongs to, as far as it has been assembled. -/
def inboundOf (s : State) (p : Packet) : Inbound :=
  (s.hub.inbound.find? fun i => i.fid == p.fid && i.msg == p.msg).getD
    { fid := p.fid, msg := p.msg, count := p.count, got := [], writes := [], counts := [] }

/-- Put a message at its place. -/
def setInbound (s : State) (i : Inbound) : State :=
  { s with hub := { s.hub with
      inbound := i :: s.hub.inbound.filter fun k => !(k.fid == i.fid && k.msg == i.msg) } }

/-- A contribution enters the hub's queue. -/
def queueContrib (s : State) (c : Contrib) : State :=
  { s with hub := { s.hub with contribs := s.hub.contribs ++ [{ c with id := s.nextId }] }, nextId := s.nextId + 1 }

end State

/-! ### Spans (R257) -/

namespace State

/-- The slices' exclusive copies of a line are exclusive no more: another package holds its span for reading, and a dirty sector that it
is given brings its slice out of retention (R254). A line of which a request
for ownership is in service, or data is on its way, begins afresh. -/
def lowerLine (s : State) (line : Nat) : State :=
  if s.isServing line || s.mesh.msgs.any (fun m => m.2.typ == .data && m.2.line == line) then s.restartLine line else
  (sectorsOf line 0xF#4).foldl (fun (t : State) k =>
    (List.range 16).foldl (fun (u : State) d =>
      match u.sectState d k with
      | 2 => u.setSect d k 1
      | 3 => u.leaveRetention d line
      | 4 => (u.leaveRetention d line).setSect d k 3
      | _ => u) t) s

/-- The 16 lines of a page. -/
def pageLines (page : Nat) : List Nat := (List.range 16).map fun i => 16 * page + i

/-- Another package takes a span from this one, or gives one of this package's back: pages are numbered by their keys over
4,096. -/
def spanChange (s : State) (fid page grant : Nat) : State :=
  let key := 4096 * page
  let erase := fun (t : State) => ({ t with hub := { t.hub with spans := t.hub.spans.erase page } } : State)
  match keyTier key, s.hub.spans.get? page with
  | 3, none => s
  | 3, some p =>
    if peerFid key != fid then s
    else if grant = 0 then erase ((pageLines page).foldl restartLine s)
    else ((pageLines page).foldl lowerLine s).setSpan key { p with m := false }
  | 0, old =>
    if grant = 0 then erase (s.spanFor key true) else
    let t := s.spanFor key (grant == 2)
    let p : Span :=
      { links := s.route fid ||| (if grant == 2 then 0#8 else (old.map Span.links).getD 0#8), up := 0, root := true
        m := grant == 2, got := 0#64 }
    ((pageLines page).foldl (if grant = 2 then restartLine else lowerLine) t).setSpan key p
  | _, _ => s

end State

/-- A message with one more packet: the bytes it carries wait for the whole message. -/
def Inbound.add (i : Inbound) (p : Packet) : Inbound :=
  let j := { i with got := p.seq :: i.got }
  match p.payload with
  | .write pa bytes => { j with writes := j.writes ++ [(pa, bytes)] }
  | _ => j

/-- A packet is applied as it arrives (R283): a contribution enters the hub's queue, a span changes. -/
def State.applyPacket (s : State) (p : Packet) : State :=
  match p.payload with
  | .write _ _ => s
  | .contribution win elem op ty value count =>
    s.queueContrib { id := 0, fid := s.hub.fid, win := win, elem := elem, op := op, ty := ty, value := value, count := count, lane := none
                     launch := none, msg := some (p.fid, p.msg), held := false }
  | .span page grant => s.spanChange p.fid page grant

/-! ### Contributions at their window (R282) -/

namespace State

/-- What an applied or discarded contribution counts for its window: that of a message is taken into account once every packet of the
message has been applied (R283). -/
def noteContrib (s : State) (k : Contrib) (w : Window) (bad : Bool) : State :=
  let d := if bad then k.count else 0
  match k.msg with
  | none => s.countContrib k.win { w with received := w.received + k.count, discarded := w.discarded + d }
  | some m => { s with hub := { s.hub with
      inbound := s.hub.inbound.map fun i =>
        if i.fid == m.1 && i.msg == m.2 then { i with counts := i.counts ++ [(k.win, k.count, d)] } else i } }

/-- A message is whole: its bytes are written, what its contributions have counted is taken into account, and those still in the queue
count by themselves (R283). -/
def wholeMessage (s : State) (i : Inbound) : State :=
  let t := (i.writes.foldl (fun (u : State) w => u.hubPut w.1 w.2) (s.setInbound { i with writes := [], counts := [] })).fromOutside
    s.traceLen
  let v := i.counts.foldl (fun (u : State) c => match u.hub.windows.get? c.1 with
    | some w => if fullWindow w then u else u.countContrib c.1 { w with received := w.received + c.2.1, discarded := w.discarded + c.2.2 }
    | none => u) t
  { v with hub := { v.hub with
      contribs := v.hub.contribs.map fun c => if c.msg == some (i.fid, i.msg) then { c with msg := none } else c } }

/-- A contribution leaves the hub's queue. -/
def dropContrib (s : State) (c : Nat) : State :=
  { s with hub := { s.hub with contribs := s.hub.contribs.filter fun x => x.id != c } }

/-- Nothing of a contribution's lane comes before it any more (R230, R284); when it may be applied. -/
def contribTurn (s : State) (k : Contrib) : Turn :=
  match k.lane with
  | some l => s.turn (s.contribOrdered k l) none
  | none => .now [s.traceLen]

/-- A contribution has been applied: the writes noted since are its lane's, or another package's (R240, R284). -/
def contribTook (s : State) (since : Nat) (before : State) (k : Contrib) : State :=
  match k.lane with
  | some l => s.took since ((before.contribOrdered k l).ev none) before.traceLen
  | none => s.fromOutside since

/-- A contribution is held for the service of its element's home, which counts once (R356). -/
def holdContrib (s : State) (k : Contrib) (key : Nat) : State :=
  if k.held then s else
  ({ s with hub := { s.hub with
      contribs := s.hub.contribs.map fun c => if c.id == k.id then { c with held := true } else c } } : State).count
    (16 + s.homeMd (key / 256)) 25

end State

/-- A packet arrives: a second copy of a sequence number is dropped; the packet is applied, and with the last one its message is whole. A
message that is whole stays known by its id. -/
def execPrawellPacket (p : Packet) (s : State) : Host.Outcome State Fault Refusal :=
  let i := s.inboundOf p
  if i.got.contains p.seq || i.count ≤ p.seq then .next s else
  let t := (s.setInbound (i.add p)).applyPacket p
  .next (if (t.inboundOf p).got.length < i.count then t else t.wholeMessage (t.inboundOf p))

/-- The hub applies a contribution to its window (R282): in its lane's order (R284), and once the home of its element serves (R356). -/
def execContributionApply (c : Nat) (s : State) : Host.Outcome State Fault Refusal :=
  match s.hub.contribs.find? fun k => k.id == c with
  | none => .next s
  | some k =>
    let s1 := s.dropContrib c
    match s.hub.windows.get? k.win with
    | none => .next (s1.count hubDie 22)
    | some w =>
      if State.fullWindow w then .next (s1.count hubDie 21)
      else if s.contribBad w k then .next (s1.noteContrib k w true)
      else
        let key := memKey 0 (State.elemPa w k.elem)
        if s.contribTurn k == .wait then .next s
        else if !s.homesServe key (elemSize w.ty) then .next (s.holdContrib k key)
        else match s.callHome [sectorOf key] with
          | some t => .next t
          | none => .next ((((s.applyElem w k).contribTook s.traceLen s k).dropContrib c).noteContrib k w false)

/-! ### Remote messages (R299–R301) -/

namespace State

/-- As many connections as may be live (R299). -/
def connLimit (s : State) : Nat := match s.hub.regtable with | some t => t.2.2.2 | none => 512

/-- The locked or lost frames of a physical range. -/
def rangeHas (p : Nat → Bool) (pa n : Nat) : Bool := (rangeOf (memKey 0 pa) n).any fun k => p (64 * k)

/-- The check of a message (R300, R318): the refusal that applies, if one does. A range that HBM does not hold is refused
as one beyond its region (DESIGN CHOICE, log entry 76). -/
def remoteCheck (s : State) (m : RemoteMsg) : Option Refuse :=
  match s.regionAt m.region with
  | none => some .key
  | some r =>
    if r.st != 1 || r.key != m.key then some .key
    else if m.length < 1 || 65536 < m.length || r.len < m.offset + m.length || !s.hbmRange (r.base + m.offset) m.length then some .bounds
    else if !r.perm.getLsbD (if m.write then 1 else 0) || rangeHas s.kresLocked (r.base + m.offset) m.length then some .perm
    else if rangeHas s.isLost (r.base + m.offset) m.length then some .domain
    else none

/-- INFLIGHT of a region changes. -/
def inflight (s : State) (r : Nat) (f : Nat → Nat) : State :=
  let t := s.useRegion r
  { t with hub := { t.hub with regions := t.hub.regions.modify r fun k => { k with inflight := f k.inflight } } }

/-- The unit answers a message with a refusal (R299, R300). -/
def answerRefused (s : State) (m : RemoteMsg) (k : Refuse) : State :=
  { s with hub := { s.hub with refusals := s.hub.refusals ++ [(m.conn, m.seq, k)] } }

/-- A message's first packet: the check, once (R300). A refused message has no effect but its answer, and that it keeps its
place in the sequence. -/
def firstPacket (s : State) (m : RemoteMsg) : State :=
  let no := s.remoteCheck m
  let r : Remote :=
    { id := s.nextId, conn := m.conn, seq := m.seq, region := m.region
      base := ((s.regionAt m.region).map Region.base).getD 0 + m.offset, length := m.length, write := m.write
      packets := m.packets, got := [m.packet], bytes := [(m.at_, m.bytes)], lastAt := s.hub.cycle, refused := no }
  let u := (s.useRegion m.region).useConn m.conn m.seq
  let t : State := { u with hub := { u.hub with remotes := u.hub.remotes ++ [r] }, nextId := u.nextId + 1 }
  match no with
  | some k => t.answerRefused m k
  | none => t.inflight m.region (· + 1)

/-- A later packet of an accepted message: a second copy is dropped (R283). -/
def laterPacket (s : State) (r : Remote) (m : RemoteMsg) : State :=
  if r.got.contains m.packet then s else
  { s with hub := { s.hub with
      remotes := s.hub.remotes.map fun k =>
        if k.id == r.id then
          { k with got := m.packet :: k.got, bytes := k.bytes ++ [(m.at_, m.bytes)], lastAt := s.hub.cycle }
        else k } }

/-- A message that the connection has already passed. -/
def remotePassed (s : State) (m : RemoteMsg) : Bool := (s.connAt m.conn).any fun n => decide (m.seq < n)

/-- A message's end for its region: INFLIGHT falls, and a REVOKING region without messages is FREE (R300, R301). -/
def endInflight (s : State) (r : Nat) : State := (s.inflight r (· - 1)).freeRegion r

/-- A write has all its packets; a read needs its first only. -/
def remoteWhole (r : Remote) : Bool := !r.write || decide (r.packets ≤ r.got.length)

/-- The bytes of a write are performed, all of them, or, when a domain of its range has been lost since its acceptance, none
(R290, R300, R301). A read touches no state. -/
def performRemote (s : State) (r : Remote) : State :=
  if r.write && !rangeHas s.isLost r.base r.length then
    (r.bytes.foldl (fun (t : State) p => t.hubWrite (memKey 0 (r.base + p.1)) (p.2.take (r.length - p.1))) s).fromOutside s.traceLen
  else s

/-- A message leaves the unit, and its connection waits for the next one. -/
def dropRemote (s : State) (r : Remote) : State :=
  let t := s.useConn r.conn r.seq
  { t with hub := { t.hub with
      remotes := t.hub.remotes.filter fun k => k.id != r.id, conns := t.hub.conns.set r.conn (r.seq + 1) } }

end State

/-- A packet of a remote message arrives. The first message of a connection beyond the limit is refused with KEY (R299). -/
def execRemoteMessage (m : RemoteMsg) (s : State) : Host.Outcome State Fault Refusal :=
  if s.remotePassed m then .next s else
  match s.hub.remotes.find? fun r => r.conn == m.conn && r.seq == m.seq with
  | some r => .next (if r.refused.isSome then s else s.laterPacket r m)
  | none =>
    if (s.connAt m.conn).isNone && decide (s.connLimit ≤ s.hub.connPlace.length) then .next (s.answerRefused m .key)
    else .next (s.firstPacket m)

/-- A write whose packets have stopped for 2^27 hub cycles is discarded whole, and counted. -/
def execRemoteWriteTimeout (conn seq : Nat) (s : State) : Host.Outcome State Fault Refusal :=
  match s.hub.remotes.find? fun r => r.conn == conn && r.seq == seq with
  | none => .next s
  | some r =>
    if r.refused.isSome || !r.write || State.remoteWhole r || decide (s.hub.cycle - r.lastAt < 2 ^ 27) then .next s
    else
      let t : State := { s with hub := { s.hub with
        remotes := s.hub.remotes.map fun k => if k.id == r.id then { k with refused := some .timeout, bytes := [] } else k
        timedOut := s.hub.timedOut + 1 } }
      .next (t.endInflight r.region)

/-- A message is performed when it is next in its connection's sequence: its accesses, then INFLIGHT, then the region of a
revocation. -/
def execRemoteMessageFinish (id : Nat) (s : State) : Host.Outcome State Fault Refusal :=
  match s.hub.remotes.find? fun r => r.id == id with
  | none => .next s
  | some r =>
    if s.connAt r.conn != some r.seq then .next s
    else if r.refused.isSome then .next (s.dropRemote r)
    else if !State.remoteWhole r then .next s
    else if s.homeAsks (memKey 0 r.base) r.length ≠ [] then .next (s.askFor (s.homeAsks (memKey 0 r.base) r.length))
    else match s.callHome (if r.write then State.rangeOf (memKey 0 r.base) r.length else []) with
      | some t => .next t
      | none => .next (((s.performRemote r).dropRemote r).endInflight r.region)

end Sys2Proof.Machine
end

