-- ==== Sys2Proof/Machine/Bringup.lean ====
section
/-!
DEFINITION. Reset and boot (R357, R358, R362), bring-up and the service levels (R354–R356, R296), errors (R360), and IDE keys
(R363).
-/
namespace Sys2Proof.Machine

/-! ### The configuration record (R357, R358) -/

/-- A record: 352 bytes. -/
def configBytes : Nat := 352

/-- The slot at a flash offset. -/
def State.slotOf (s : State) (n : Nat) : List Byte := s.boot.flash.getMany (n * 0x10000) configBytes

/-- Every field of a record is in range, and its signature verifies. -/
def recordValid (r : List Byte) : Bool :=
  wordAt r 0 8 == 0x4B57434600000001 && wordAt r 8 4 == configBytes && decide (1 ≤ wordAt r 12 4) &&
  decide (1 ≤ wordAt r 19 1) && decide (wordAt r 19 1 ≤ 64) && allZero ((r.drop 20).take 4) &&
  allZero ((r.drop 280).take 8) && Config.recordSigned (r.take 288) ((r.drop 288).take 64)

/-- VERSION of a record. -/
def recordVersion (r : List Byte) : Nat := wordAt r 12 4

/-- CDMASK and MDMASK as agents of R57; the hub is not a matter of the record. -/
def recordAgents (r : List Byte) : BitVec 25 := BitVec.ofNat 25 (wordAt r 16 2 + wordAt r 18 1 * 2 ^ 16)

/-- The KRES ranges of a record. -/
def recordKres (r : List Byte) : List (Nat × Nat) :=
  (List.range 16).map fun i => (wordAt r (24 + 16 * i) 8, wordAt r (32 + 16 * i) 8)

/-- The record that is booted: the valid slot of higher VERSION, slot 0 where they are equal. -/
def State.bootRecord (s : State) : Option (List Byte) :=
  let a := s.slotOf 0
  let b := s.slotOf 1
  match recordValid a, recordValid b with
  | false, false => none
  | true, false => some a
  | false, true => some b
  | true, true => some (if recordVersion a < recordVersion b then b else a)

/-! ### RESET (R358, R362) -/

/-- What a reset of the device leaves alone: external flash, the memory of the host, the pool and other packages, and the
model's own counts. -/
def State.fresh0 (s : State) : State :=
  { State.reset with
    agenda := s.agenda, tick := s.tick, fresh := s.fresh, nextId := s.nextId
    mem := s.mem.filter fun c => decide (2 ^ 52 ≤ c.1)
    boot := { Boot.init with flash := s.boot.flash } }

/-! ### Bring-up (R355) -/

namespace State

/-- The dies the record admits, and the hub. -/
def admitted (s : State) : BitVec 25 := ((s.boot.record.map recordAgents).getD 0#25) ||| (1#25 <<< hubDie)

/-- The admitted agents of a range that a test picks. -/
def someAdmitted (s : State) (first n : Nat) (p : Nat → Bool) : Bool :=
  (List.range n).any fun i => s.admitted.getLsbD (first + i) && p (first + i)

/-- The hub has failed, or every admitted compute die or every admitted memory die (R355). -/
def bringupLost (s : State) : Bool :=
  s.boot.failed.getLsbD hubDie ||
  (s.boot.record.isSome &&
    (!s.someAdmitted 0 16 (fun a => !s.boot.failed.getLsbD a) || !s.someAdmitted 16 8 fun a => !s.boot.failed.getLsbD a))

/-- The channels the interleave table names. -/
def tableHas (s : State) (ch : Nat) : Bool := s.hub.interleave.any fun e => e.2 == BitVec.ofNat 16 (0x8000 + 64 * ch)

/-- BOOTSTAT bits 2 and 3 (R355). -/
def bootBits (s : State) : State :=
  let b2 : BitVec 4 := if s.boot.level == 0#2 && s.bringupLost then 4#4 else 0#4
  let b3 : BitVec 4 := if s.boot.stuck.any s.tableHas then 8#4 else 0#4
  { s with boot := { s.boot with bootstat := s.boot.bootstat ||| b2 ||| b3 } }

/-- A die's bring-up has an outcome. -/
def decided (s : State) (a : Nat) : Bool := s.boot.passed.getLsbD a || s.boot.failed.getLsbD a

/-- The security block measures the record that it boots; boot firmware writes and locks the KRES ranges (R317, R358, R362).
The identity key and the measurement of the firmware stand from the reset on. -/
def bootUp (s : State) : State :=
  (match s.bootRecord with
    | none => { s with boot := { s.boot with bootstat := s.boot.bootstat ||| 1#4 } }
    | some r =>
      { s with
        boot := { s.boot with record := some r, recMeasure := (List.range 64).map (Config.sha512 r) }
        hub := { s.hub with kres := recordKres r, kresLock := true } } : State).bootBits

end State

def execReset (s : State) : Host.Outcome State Fault Refusal := .next s.fresh0.bootUp

/-- The outcome of a die's bring-up, the first time: a compute die that passes leaves reset (R41, R53), and writes that were
held for a memory die go on (R356). -/
def State.bringupOutcome (s : State) (agent : Nat) (passed : Bool) : State :=
  if s.decided agent then s
  else if passed then
    let t : State := { s with boot := { s.boot with passed := s.boot.passed ||| (1#25 <<< agent) } }
    (if agent < 16 then t.setDie agent { t.freshDie agent with hold := (t.die agent).hold } else t).serveHeld
  else ({ s with boot := { s.boot with failed := s.boot.failed ||| (1#25 <<< agent) } } : State).bootBits

/-- A die passes or fails bring-up; a fenced agent that passes may be re-admitted (R292). -/
def execDieBringupDone (agent : Nat) (passed : Bool) (s : State) : Host.Outcome State Fault Refusal :=
  if hubDie < agent || !s.admitted.getLsbD agent then .next s
  else
    let t := s.bringupOutcome agent passed
    .next (if passed && t.hub.fenced.getLsbD agent then
        { t with hub := { t.hub with requalified := t.hub.requalified ||| (1#25 <<< agent) } }
      else t)

/-- An HBM channel completes training at half or at full rate, or cannot. -/
def execChannelTrained (ch : Nat) (full ok : Bool) (s : State) : Host.Outcome State Fault Refusal :=
  if 512 ≤ ch || !s.admitted.getLsbD (16 + ch / 64) then .next s
  else if !full then
    .next (if ok && !s.boot.half.contains ch then { s with boot := { s.boot with half := ch :: s.boot.half } } else s)
  else if !s.boot.half.contains ch || s.boot.full.contains ch || s.boot.stuck.contains ch then .next s
  else if ok then .next { s with boot := { s.boot with full := ch :: s.boot.full } }
  else .next ({ s with boot := { s.boot with stuck := ch :: s.boot.stuck } } : State).bootBits

/-! ### Service levels (R354–R356) -/

namespace State

/-- The healthy channels in ascending order: trained at half rate, on a die that has not failed (R296). -/
def healthyChannels (s : State) : List Nat :=
  (List.range 512).filter fun ch =>
    s.boot.half.contains ch && s.admitted.getLsbD (16 + ch / 64) && !s.boot.failed.getLsbD (16 + ch / 64)

/-- Fill the interleave table, and with it the capacity and the stranded remainder, in frames (R295, R296): a channel has
524,288 frames. -/
def fillTable (s : State) : State :=
  let chs := s.healthyChannels
  let c := chs.length
  let most := (4096 + c - 1) / c
  { s with hub := { s.hub with
      interleave := Cells.setMany [] 0 ((List.range 4096).map fun i => BitVec.ofNat 16 (0x8000 + 64 * chs.getD (i % c) 0))
      hbmFrames := 4096 * (524288 / most)
      stranded := c * 524288 - 4096 * (524288 / most) } }

/-- What firmware reports to host software (R296): the HBM capacity and the stranded remainder in bytes, and the table. -/
def bootReport (s : State) : Nat × Nat × List (BitVec 16) :=
  (4096 * s.hub.hbmFrames, 4096 * s.hub.stranded, (List.range 4096).map s.hub.interleave.get)

/-- The condition of a step up (R355). -/
def mayClimb (s : State) : Bool :=
  match s.boot.level.toNat with
  | 0 =>
    s.boot.record.isSome && s.boot.passed.getLsbD hubDie &&
    s.someAdmitted 0 16 (fun a => s.boot.passed.getLsbD a) &&
    s.someAdmitted 16 8 fun a => s.boot.passed.getLsbD a && s.boot.half.any fun ch => ch / 64 == a - 16
  | 1 => !s.someAdmitted 0 24 fun a => !s.decided a
  | 2 => s.hub.interleave.all fun e => s.boot.full.any fun ch => e.2 == BitVec.ofNat 16 (0x8000 + 64 * ch)
  | _ => false

/-- One level up: SVCLEVEL and SVC hold it, MSI-X vector 1 is signalled, and what waited for a memory die goes on (R356). -/
def climb (s : State) : State :=
  let t := if s.boot.level == 0#2 then s.fillTable else s
  ({ t with
    boot := { t.boot with level := t.boot.level + 1#2 }
    hub := { t.hub with msix1 := t.hub.msix1 + 1 } } : State).bootBits.serveHeld

end State

def execServiceLevelStep (s : State) : Host.Outcome State Fault Refusal :=
  .next (if s.mayClimb then s.climb else s)

/-! ### Errors (R360) -/

/-- A corrected soft error counts, and has no other effect. -/
def execEccCorrected (die : Nat) (s : State) : Host.Outcome State Fault Refusal :=
  .next (if die ≤ hubDie then s.count die 11 else s)

/-- The groups of a block stop with POISON at their next instructions (R347, R360). -/
def State.stopPoisoned (s : State) (b : Nat) : State :=
  (s.block b).groups.keys.foldl (fun (t : State) g => t.stopAll b g cPoison) s

/-- The tags of w bits that a damaged one could be: its code has detected at most two wrong bits (log entry 44). -/
def nearTags (w tag : Nat) : List Nat :=
  tag :: ((List.range w).map fun i => tag ^^^ 2 ^ i) ++
  (List.range w).flatMap fun i => (List.range i).map fun j => tag ^^^ 2 ^ i ^^^ 2 ^ j

/-- The lines that a physical tag could stand for. -/
def nearLines (line : Nat) : List Nat := nearTags 44 line

namespace State

/-- Every sector of some lines is poisoned at its home. -/
def poisonLines (s : State) (lines : List Nat) : State :=
  lines.foldl (fun t l => (sectorsOf l 0xF#4).foldl (fun u k => u.setPoison k true) t) s

/-- The physical line that a virtual line of an address space leads to, for a core. -/
def lineAt (s : State) (core asid vline : Nat) : Option Nat :=
  match s.lookup core asid (BitVec.ofNat 64 (256 * vline)) with
  | .leaf e level => some (leafKey e level (BitVec.ofNat 64 (256 * vline)) / 256)
  | _ => none

/-- The physical lines that an entry with a virtual tag, a line and an ASID, could describe: what the tags it could have, of its own set
among `sets`, lead to (R216). -/
def virtLines (s : State) (core asid vline pline sets : Nat) : List Nat :=
  pline :: ((nearTags 60 (vline + 2 ^ 49 * asid)).filter fun t => t % sets == vline % sets).filterMap fun t =>
    s.lineAt core (t / 2 ^ 49) (t % 2 ^ 49)

/-- The physical lines that an entry of a cache could describe: those of its set. -/
def tagLines (s : State) (cache : Nat) (l : CLine) : List Nat :=
  if cache < 2048 then s.virtLines cache l.asid l.tag l.frame 64
  else if cache < mscKey 0 then (nearLines l.tag).filter fun n => n % 32 == l.tag % 32 && sliceOf n == sliceOf l.tag
  else (nearLines l.tag).filter fun n => s.mscSet n == s.mscSet l.tag

/-- A cache tag is lost: every sector its entry could describe is poisoned, and the entry is empty (R360). -/
def tagError (s : State) (cache set way : Nat) : State :=
  let c := s.cache cache
  match c.lines.find? fun l => l.set == set && l.way == way with
  | none => s
  | some l =>
    let t := s.poisonLines (s.tagLines cache l)
    if 2048 ≤ cache ∧ cache < mscKey 0 then
      (sectorsOf l.tag 0xF#4).foldl (fun u k => u.loseSector ((cache - 2048) / 384) k) t
    else t.setCache cache { c with lines := c.lines.filter fun k => k != l }

/-- A tree-cache entry is lost: every sector it could describe is poisoned, and its line begins afresh (R360). -/
def treeError (s : State) (x y set way : Nat) : State :=
  match s.mesh.trees.find? fun e => e.x == x && e.y == y && treeSet e.line == set && e.way == way with
  | none => s
  | some e => (s.poisonLines ((nearLines e.line).filter fun n => treeSet n == set)).restartLine e.line

/-- The tag of an instruction-cache entry is lost: it is virtual, and its place tells nothing of it. -/
def itagError (s : State) (cluster entry : Nat) : State :=
  let c := s.cluster cluster
  match c.icache[entry]? with
  | none => s
  | some l =>
    (s.poisonLines (s.virtLines (8 * cluster) l.asid (l.va.toNat / 256) l.line 1)).setCluster cluster
      { c with icache := c.icache.eraseIdx entry }

end State

/-- An uncorrectable error, by where it was found. -/
def execEccUncorrectable (at_ : EccPlace) (s : State) : Host.Outcome State Fault Refusal :=
  match at_ with
  | .data sector => .next (s.setPoison sector true)
  | .block b => .next (s.stopPoisoned b)
  | .tag cache set way => .next (s.tagError cache set way)
  | .itag cluster entry => .next (s.itagError cluster entry)
  | .tree x y set way => .next (s.treeError x y set way)
  | .config => .next { s with
      hub := { s.hub with placeHalt := true }, boot := { s.boot with bootstat := s.boot.bootstat ||| 2#4 } }

/-- IDE keys of a port are set: what was held for them goes on (R363). -/
def execIdeKeyExchange (pool : Bool) (key : DWord) (s : State) : Host.Outcome State Fault Refusal :=
  .next (if pool then { s with boot := { s.boot with idePool := some key } }
    else { s with boot := { s.boot with ideHost := some key } } : State).serveHeld

end Sys2Proof.Machine
end

