-- ==== Sys2Proof/Machine/CopyEvents.lean ====
section
/-!
DEFINITION. The copy engine's steps: a copy moves on and completes, faults, or fails (R263, R270, R272).
-/
namespace Sys2Proof.Machine

/-- A copy moves up to n bytes or elements, and completes with its last one (R263, R272, R275). -/
def execCopyComplete (copy n : Nat) (s : State) : Host.Outcome State Fault Refusal :=
  match s.copies.get? copy with
  | none => .next s
  | some c =>
    if !s.copyRuns c then .next s
    else if c.tensor && c.desc == [] then .next (s.bumpFresh.readDesc copy c).1
    else .next (((s.bumpFresh).copyPieces copy n).finishCopy copy)

/-- A copy meets a missing translation: it parks on a fault entry (R270, R305). -/
def execCopyFault (copy : Nat) (s : State) : Host.Outcome State Fault Refusal :=
  match s.copies.get? copy with
  | none => .next s
  | some c =>
    if !s.copyRuns c then .next s else
    match s.copyBlocked c with
    | some (va, w, .missing) =>
      let b := s.block c.blk
      let id := s.nextId
      let s1 := s.postWait c.asid va
        (fqBytes va (laneBit c.lane) c.asid (if w then 5 else 4) (b.groupField c.grp) c.core 0 0 b.field) (.copy copy)
      .next { s1 with copies := s1.copies.modify copy fun k => { k with st := .faulted id } }
    | _ => .next s

/-- The trap code a refused access of a copy fails with (R270). -/
def failCode : Tr → Option Nat
  | .protection => some cProtection
  | .kernelReserved => some cKernel
  | .lost => some cLost
  | .poison => some cPoison
  | _ => none

/-- A copy meets a failure that cannot resume (R270); one that is held for its route does not fail for it (R298). -/
def execCopyFail (copy : Nat) (s : State) : Host.Outcome State Fault Refusal :=
  match s.copies.get? copy with
  | none => .next s
  | some c =>
    if !s.copyRuns c then .next s else
    match s.copyBlocked c with
    | some (va, _, t) =>
      if t == .lost && c.counted.contains 23 then .next s else
      (match failCode t with
        | some code => .next ((s.copyPulled c).failCopy copy c code va)
        | none => .next s)
    | none => .next s

end Sys2Proof.Machine
end

