-- ==== Sys2Proof/Machine/Moves.lean ====
section
/-!
DEFINITION. The moves (R101) and the special registers they read (R50, R51).
-/
namespace Sys2Proof.Machine

def execMov (f : FmtA) (s : State) : Host.Outcome State Fault Refusal :=
  run (.mov f) s fun m => aluWord1 s f m fun _ a => a

def execMovi (f : FmtI) (s : State) : Host.Outcome State Fault Refusal :=
  run (.movi f) s fun m =>
    if f.u then .ok (s.putU f.d.toNat 32 (f.imm.setWidth 64)) 0#64
    else .ok (s.onExec m fun _ l => l.setV f.d.toNat f.imm) 0#64

def execMovw (f : FmtW) (s : State) : Host.Outcome State Fault Refusal :=
  run (.movw f) s fun m =>
    if f.u then .ok (s.putU f.d.toNat 64 f.imm) 0#64
    else .ok (s.onExec m fun _ l => l.setVpair f.d.toNat f.imm) 0#64

/-- A special register's value in lane i of the group at issue (R50; packed groups: R194). -/
def specialReg (s : State) (n : Nat) (l : Lane) (i : Nat) : DWord :=
  let blk := s.cb
  let num := fun (k : Nat) => BitVec.ofNat 64 (k % 2 ^ 32)
  match n with
  | 0 => num i
  | 1 => num (i / 4)
  | 2 => num (if blk.packed.isSome then 0 else s.cur.grp)
  | 3 => if blk.packed.isSome then 0xFFFFFFFF#64 else num blk.no
  | 4 => if blk.packed.isSome then 0xFFFFFFFF#64 else num blk.cohort
  | 5 => (s.launch blk.launch).tag.setWidth 64
  | 6 => num blk.core
  | 7 => s.clock blk.core
  | 8 => blk.reuse.setWidth 64
  | 9 => l.batch.setWidth 64
  | 10 => num s.cg.rung
  | 11 => l.item.setWidth 64
  | 12 => l.cause.setWidth 64
  | 13 => l.tval
  | 14 => l.epc
  | _ => 0#64

/-- A move from a per-lane source: a uniform destination needs one value in every executing lane (R51, R101). -/
def moveFrom (s : State) (f : FmtA) (m : DWord) (w : Nat) (val : Lane → Nat → DWord) : Res :=
  let one := val (s.cg.lane (lowest m)) (lowest m)
  if f.u then
    if (lanesOf m).any fun i => val (s.cg.lane i) i != one then .trap m cUniformSplit 0#64
    else .ok (s.putU f.d.toNat 64 one) 0#64
  else .ok (s.onExec m fun i l => l.put (destReg f l) w (val l i)) 0#64

def execMovSpecial (f : FmtA) (s : State) : Host.Outcome State Fault Refusal :=
  run (.movSpecial f) s fun m => moveFrom s f m (tyWidth f.ty) (specialReg s f.a.toNat)

def execMovIndex (f : FmtA) (s : State) : Host.Outcome State Fault Refusal :=
  run (.movIndex f) s fun m => moveFrom s f m 32 fun l _ => (l.x.get f.a.toNat).setWidth 64

end Sys2Proof.Machine
end

