-- ==== Sys2Proof/Machine/Dispatch.lean ====
section
/-!
DEFINITION. One arm for each constructor of `Instr`: the call of its meaning.
-/
namespace Sys2Proof.Machine

def exec (i : Instr) (s : State) : Host.Outcome State Fault Refusal :=
  match i with
  | .blockHeader h => Sys2Proof.Machine.execBlockHeader h s
  | .nop => Sys2Proof.Machine.execNop s
  | .iadd f => Sys2Proof.Machine.execIadd f s
  | .isub f => Sys2Proof.Machine.execIsub f s
  | .iaddc f => Sys2Proof.Machine.execIaddc f s
  | .isubb f => Sys2Proof.Machine.execIsubb f s
  | .iabs f => Sys2Proof.Machine.execIabs f s
  | .ineg f => Sys2Proof.Machine.execIneg f s
  | .imin f => Sys2Proof.Machine.execImin f s
  | .imax f => Sys2Proof.Machine.execImax f s
  | .iadd64 f => Sys2Proof.Machine.execIadd64 f s
  | .imul f => Sys2Proof.Machine.execImul f s
  | .imulh f => Sys2Proof.Machine.execImulh f s
  | .imad f => Sys2Proof.Machine.execImad f s
  | .imadw signed f => Sys2Proof.Machine.execImadw signed f s
  | .icmp f => Sys2Proof.Machine.execIcmp f s
  | .sel w64 f => Sys2Proof.Machine.execSel w64 f s
  | .and f => Sys2Proof.Machine.execAnd f s
  | .or f => Sys2Proof.Machine.execOr f s
  | .xor f => Sys2Proof.Machine.execXor f s
  | .not f => Sys2Proof.Machine.execNot f s
  | .tern f => Sys2Proof.Machine.execTern f s
  | .shl f => Sys2Proof.Machine.execShl f s
  | .shr f => Sys2Proof.Machine.execShr f s
  | .sar f => Sys2Proof.Machine.execSar f s
  | .rot f => Sys2Proof.Machine.execRot f s
  | .fshl f => Sys2Proof.Machine.execFshl f s
  | .fshr f => Sys2Proof.Machine.execFshr f s
  | .popc f => Sys2Proof.Machine.execPopc f s
  | .clz f => Sys2Proof.Machine.execClz f s
  | .ctz f => Sys2Proof.Machine.execCtz f s
  | .brev f => Sys2Proof.Machine.execBrev f s
  | .bfx f => Sys2Proof.Machine.execBfx f s
  | .bfi f => Sys2Proof.Machine.execBfi f s
  | .prmb f => Sys2Proof.Machine.execPrmb f s
  | .lea f => Sys2Proof.Machine.execLea f s
  | .fadd f => Sys2Proof.Machine.execFadd f s
  | .fsub f => Sys2Proof.Machine.execFsub f s
  | .fmul f => Sys2Proof.Machine.execFmul f s
  | .fmin f => Sys2Proof.Machine.execFmin f s
  | .fmax f => Sys2Proof.Machine.execFmax f s
  | .fcmp f => Sys2Proof.Machine.execFcmp f s
  | .fscale f => Sys2Proof.Machine.execFscale f s
  | .fdivf f => Sys2Proof.Machine.execFdivf f s
  | .pkadd f => Sys2Proof.Machine.execPkadd f s
  | .pkmul f => Sys2Proof.Machine.execPkmul f s
  | .ffma f => Sys2Proof.Machine.execFfma f s
  | .pkfma bh f => Sys2Proof.Machine.execPkfma bh f s
  | .fclass f => Sys2Proof.Machine.execFclass f s
  | .frnd f => Sys2Proof.Machine.execFrnd f s
  | .fgexp f => Sys2Proof.Machine.execFgexp f s
  | .frcp f => Sys2Proof.Machine.execFrcp f s
  | .frsq f => Sys2Proof.Machine.execFrsq f s
  | .fsqrt f => Sys2Proof.Machine.execFsqrt f s
  | .fex2 f => Sys2Proof.Machine.execFex2 f s
  | .flg2 f => Sys2Proof.Machine.execFlg2 f s
  | .fsin f => Sys2Proof.Machine.execFsin f s
  | .fcos f => Sys2Proof.Machine.execFcos f s
  | .ftanh f => Sys2Proof.Machine.execFtanh f s
  | .fcvt f => Sys2Proof.Machine.execFcvt f s
  | .f2i f => Sys2Proof.Machine.execF2i f s
  | .i2f f => Sys2Proof.Machine.execI2f f s
  | .qblk f => Sys2Proof.Machine.execQblk f s
  | .dqblk f => Sys2Proof.Machine.execDqblk f s
  | .pack8 f => Sys2Proof.Machine.execPack8 f s
  | .split8 f => Sys2Proof.Machine.execSplit8 f s
  | .plop f => Sys2Proof.Machine.execPlop f s
  | .pmov f => Sys2Proof.Machine.execPmov f s
  | .xset f => Sys2Proof.Machine.execXset f s
  | .xidx f => Sys2Proof.Machine.execXidx f s
  | .xadd f => Sys2Proof.Machine.execXadd f s
  | .vtos f => Sys2Proof.Machine.execVtos f s
  | .stov f => Sys2Proof.Machine.execStov f s
  | .mov f => Sys2Proof.Machine.execMov f s
  | .movi f => Sys2Proof.Machine.execMovi f s
  | .movw f => Sys2Proof.Machine.execMovw f s
  | .movSpecial f => Sys2Proof.Machine.execMovSpecial f s
  | .movIndex f => Sys2Proof.Machine.execMovIndex f s
  | .qswap f => Sys2Proof.Machine.execQswap f s
  | .qbcast f => Sys2Proof.Machine.execQbcast f s
  | .gshfl f => Sys2Proof.Machine.execGshfl f s
  | .vote f => Sys2Proof.Machine.execVote f s
  | .ballot f => Sys2Proof.Machine.execBallot f s
  | .matchLanes f => Sys2Proof.Machine.execMatchLanes f s
  | .redux f => Sys2Proof.Machine.execRedux f s
  | .elect f => Sys2Proof.Machine.execElect f s
  | .bra f => Sys2Proof.Machine.execBra f s
  | .brx f => Sys2Proof.Machine.execBrx f s
  | .call f => Sys2Proof.Machine.execCall f s
  | .callx f => Sys2Proof.Machine.execCallx f s
  | .ret f => Sys2Proof.Machine.execRet f s
  | .exitLanes f => Sys2Proof.Machine.execExitLanes f s
  | .yieldGroup f => Sys2Proof.Machine.execYieldGroup f s
  | .bar f => Sys2Proof.Machine.execBar f s
  | .cbar f => Sys2Proof.Machine.execCbar f s
  | .waitc f => Sys2Proof.Machine.execWaitc f s
  | .sleep f => Sys2Proof.Machine.execSleep f s
  | .ld sx f => Sys2Proof.Machine.execLd sx f s
  | .st f => Sys2Proof.Machine.execSt f s
  | .ldv f => Sys2Proof.Machine.execLdv f s
  | .stv f => Sys2Proof.Machine.execStv f s
  | .sld sx f => Sys2Proof.Machine.execSld sx f s
  | .sst f => Sys2Proof.Machine.execSst f s
  | .atom far op f => Sys2Proof.Machine.execAtom far op f s
  | .red far op f => Sys2Proof.Machine.execRed far op f s
  | .pref f => Sys2Proof.Machine.execPref f s
  | .cwb f => Sys2Proof.Machine.execCwb f s
  | .cinv f => Sys2Proof.Machine.execCinv f s
  | .cdisc f => Sys2Proof.Machine.execCdisc f s
  | .ipf f => Sys2Proof.Machine.execIpf f s
  | .ipin f => Sys2Proof.Machine.execIpin f s
  | .iunpin f => Sys2Proof.Machine.execIunpin f s
  | .fence f => Sys2Proof.Machine.execFence f s
  | .tcfg f => Sys2Proof.Machine.execTcfg f s
  | .omclaim f => Sys2Proof.Machine.execOmclaim f s
  | .omrel f => Sys2Proof.Machine.execOmrel f s
  | .omld isB f => Sys2Proof.Machine.execOmld isB f s
  | .omst isB f => Sys2Proof.Machine.execOmst isB f s
  | .mma f => Sys2Proof.Machine.execMma f s
  | .acz f => Sys2Proof.Machine.execAcz f s
  | .acld f => Sys2Proof.Machine.execAcld f s
  | .acst f => Sys2Proof.Machine.execAcst f s
  | .acrd f => Sys2Proof.Machine.execAcrd f s
  | .msave f => Sys2Proof.Machine.execMsave f s
  | .mres f => Sys2Proof.Machine.execMres f s
  | .cpy f => Sys2Proof.Machine.execCpy f s
  | .cpyt f => Sys2Proof.Machine.execCpyt f s
  | .cseal f => Sys2Proof.Machine.execCseal f s
  | .cwait f => Sys2Proof.Machine.execCwait f s
  | .xred f => Sys2Proof.Machine.execXred f s
  | .spred f => Sys2Proof.Machine.execSpred f s
  | .esave f => Sys2Proof.Machine.execEsave f s
  | .eres f => Sys2Proof.Machine.execEres f s
  | .esc f => Sys2Proof.Machine.execEsc f s
  | .ldone f => Sys2Proof.Machine.execLdone f s
  | .lqry f => Sys2Proof.Machine.execLqry f s
  | .ldrain f => Sys2Proof.Machine.execLdrain f s
  | .trap f => Sys2Proof.Machine.execTrap f s
  | .bkpt f => Sys2Proof.Machine.execBkpt f s
  | .sysr f => Sys2Proof.Machine.execSysr f s
  | .sysw f => Sys2Proof.Machine.execSysw f s
  | .launch f => Sys2Proof.Machine.execLaunch f s
  | .lstat f => Sys2Proof.Machine.execLstat f s
  | .rte f => Sys2Proof.Machine.execRte f s
  | .memoryOpComplete op lanes => Sys2Proof.Machine.execMemoryOpComplete op lanes s
  | .matrixOpBegin core op => Sys2Proof.Machine.execMatrixOpBegin core op s
  | .matrixOpComplete core op rows => Sys2Proof.Machine.execMatrixOpComplete core op rows s
  | .leaveGrant die => Sys2Proof.Machine.execLeaveGrant die s
  | .copyComplete copy n => Sys2Proof.Machine.execCopyComplete copy n s
  | .copyFault copy => Sys2Proof.Machine.execCopyFault copy s
  | .copyFail copy => Sys2Proof.Machine.execCopyFail copy s
  | .barrierPhaseComplete cohort blk bar => Sys2Proof.Machine.execBarrierPhaseComplete cohort blk bar s
  | .waitcTrigger sector => Sys2Proof.Machine.execWaitcTrigger sector s
  | .waitcPoll blk grp lane => Sys2Proof.Machine.execWaitcPoll blk grp lane s
  | .sleepExpire blk grp lane => Sys2Proof.Machine.execSleepExpire blk grp lane s
  | .quantumExpire blk grp => Sys2Proof.Machine.execQuantumExpire blk grp s
  | .groupSwap blk grp => Sys2Proof.Machine.execGroupSwap blk grp s
  | .icacheFill blk grp => Sys2Proof.Machine.execIcacheFill blk grp s
  | .ringHoldExpire core launch rung => Sys2Proof.Machine.execRingHoldExpire core launch rung s
  | .packedGroupStart core launch rung => Sys2Proof.Machine.execPackedGroupStart core launch rung s
  | .ladderDoneWrite launch => Sys2Proof.Machine.execLadderDoneWrite launch s
  | .ownerIdleExpire cache owner => Sys2Proof.Machine.execOwnerIdleExpire cache owner s
  | .launchRecord asid queue => Sys2Proof.Machine.execLaunchRecord asid queue s
  | .dependenceMet launch => Sys2Proof.Machine.execDependenceMet launch s
  | .cohortPlace launch cores => Sys2Proof.Machine.execCohortPlace launch cores s
  | .blockStart blk => Sys2Proof.Machine.execBlockStart blk s
  | .priorityAge launch => Sys2Proof.Machine.execPriorityAge launch s
  | .blockPreempt blk => Sys2Proof.Machine.execBlockPreempt blk s
  | .blockRestore blk core => Sys2Proof.Machine.execBlockRestore blk core s
  | .blockEnd blk => Sys2Proof.Machine.execBlockEnd blk s
  | .launchComplete launch => Sys2Proof.Machine.execLaunchComplete launch s
  | .teardownReport asid => Sys2Proof.Machine.execTeardownReport asid s
  | .faultEntryAppend => Sys2Proof.Machine.execFaultEntryAppend s
  | .resolveRecord rslv => Sys2Proof.Machine.execResolveRecord rslv s
  | .fqheadWrite head => Sys2Proof.Machine.execFqheadWrite head s
  | .tinvPage tinv => Sys2Proof.Machine.execTinvPage tinv s
  | .tinvAsid tinv => Sys2Proof.Machine.execTinvAsid tinv s
  | .tinvAll tinv => Sys2Proof.Machine.execTinvAll tinv s
  | .migrationActivate n => Sys2Proof.Machine.execMigrationActivate n s
  | .migrationPull n line => Sys2Proof.Machine.execMigrationPull n line s
  | .kresWrite reg v => Sys2Proof.Machine.execKresWrite reg v s
  | .counterClear die ev => Sys2Proof.Machine.execCounterClear die ev s
  | .registerWrite off v => Sys2Proof.Machine.execRegisterWrite off v s
  | .fenceout agent => Sys2Proof.Machine.execFenceout agent s
  | .readmit agent => Sys2Proof.Machine.execReadmit agent s
  | .poollose dom => Sys2Proof.Machine.execPoollose dom s
  | .poolset range base size dom => Sys2Proof.Machine.execPoolset range base size dom s
  | .halt die => Sys2Proof.Machine.execHalt die s
  | .resume die => Sys2Proof.Machine.execResume die s
  | .fidset fid => Sys2Proof.Machine.execFidset fid s
  | .routeset fid mask => Sys2Proof.Machine.execRouteset fid mask s
  | .winset win desc => Sys2Proof.Machine.execWinset win desc s
  | .regset region entry => Sys2Proof.Machine.execRegset region entry s
  | .revoke region cword => Sys2Proof.Machine.execRevoke region cword s
  | .scrub base len => Sys2Proof.Machine.execScrub base len s
  | .tclimit x y on => Sys2Proof.Machine.execTclimit x y on s
  | .regtable rbase rcount cbase ccount => Sys2Proof.Machine.execRegtable rbase rcount cbase ccount s
  | .ctxcreate desc => Sys2Proof.Machine.execCtxcreate desc s
  | .ctxtear asid report => Sys2Proof.Machine.execCtxtear asid report s
  | .attest nonce out => Sys2Proof.Machine.execAttest nonce out s
  | .rd m => Sys2Proof.Machine.execRd m s
  | .own m => Sys2Proof.Machine.execOwn m s
  | .data m => Sys2Proof.Machine.execData m s
  | .nh m => Sys2Proof.Machine.execNh m s
  | .inv m => Sys2Proof.Machine.execInv m s
  | .ack m => Sys2Proof.Machine.execAck m s
  | .prune m => Sys2Proof.Machine.execPrune m s
  | .pack m => Sys2Proof.Machine.execPack m s
  | .unlink m => Sys2Proof.Machine.execUnlink m s
  | .wb m => Sys2Proof.Machine.execWb m s
  | .wba m => Sys2Proof.Machine.execWba m s
  | .refuse m => Sys2Proof.Machine.execRefuse m s
  | .malformedMessage typ x y => Sys2Proof.Machine.execMalformedMessage typ x y s
  | .cxlSnoop k sectors => Sys2Proof.Machine.execCxlSnoop k sectors s
  | .sliceRetention die slice => Sys2Proof.Machine.execSliceRetention die slice s
  | .agentSilent req => Sys2Proof.Machine.execAgentSilent req s
  | .poolSilent req => Sys2Proof.Machine.execPoolSilent req s
  | .poolPortLoss c => Sys2Proof.Machine.execPoolPortLoss c s
  | .linkDown link => Sys2Proof.Machine.execLinkDown link s
  | .linkUp link => Sys2Proof.Machine.execLinkUp link s
  | .prawellPacket p => Sys2Proof.Machine.execPrawellPacket p s
  | .contributionApply c => Sys2Proof.Machine.execContributionApply c s
  | .remoteMessage m => Sys2Proof.Machine.execRemoteMessage m s
  | .remoteWriteTimeout conn seq => Sys2Proof.Machine.execRemoteWriteTimeout conn seq s
  | .reset => Sys2Proof.Machine.execReset s
  | .dieBringupDone agent passed => Sys2Proof.Machine.execDieBringupDone agent passed s
  | .channelTrained ch full ok => Sys2Proof.Machine.execChannelTrained ch full ok s
  | .serviceLevelStep => Sys2Proof.Machine.execServiceLevelStep s
  | .eccCorrected die => Sys2Proof.Machine.execEccCorrected die s
  | .eccUncorrectable at_ => Sys2Proof.Machine.execEccUncorrectable at_ s
  | .ideKeyExchange pool key => Sys2Proof.Machine.execIdeKeyExchange pool key s
  | .cxlMemAccess pa write n => Sys2Proof.Machine.execCxlMemAccess pa write n s
  | .cxlResponse req exclusive poisoned data => Sys2Proof.Machine.execCxlResponse req exclusive poisoned data s
  | .remoteMessageFinish id => Sys2Proof.Machine.execRemoteMessageFinish id s
  | .flitCrcFail link => Sys2Proof.Machine.execFlitCrcFail link s

end Sys2Proof.Machine
end

