-- ==== Sys2Proof/Machine/Issue.lean ====
section
/-!
DEFINITION. How a core issues: the active set and its slots (R36, R37), a group's issue (R27, R28); the actions of a step.
-/
namespace Sys2Proof.Machine

/-! ### The issue -/

/-- The group cannot issue in this cycle: the choice stands (R28); a miss freezes its sequencer and counts a schedule
slip (R40); a hazard counts once for each stall of a path (R81); a wait for the copy engine is noted (R266). -/
def State.noIssue (s : State) (b g : Nat) (misses : List DWord) (why : List (DWord × Option Nat)) : State :=
  let grp := s.group b g
  let new := (why.filter fun w => w.2 == some 0 && !grp.stalls.contains (w.1, 0)).map fun w => (w.1, 0)
  let s1 := s.setGroup b g
    { grp with frozen := misses.head?.or grp.frozen, stalls := grp.stalls ++ new, full := why.any fun w => w.2 == some 15 }
  let s2 := if new = [] then s1 else s1.count (dieOf (s.block b).core) 0 new.length
  if misses = [] then s2 else s2.count (dieOf (s.block b).core) 1

/-- Issue one group, if it can (R27, R28). `none`: it cannot, and the state says why. A handler entry that waited for a
translation completes as the group resumes (R54): that is no issue (R32). -/
def State.issueGroup (s : State) (b g : Nat) : State × Option (Host.Outcome State Fault Refusal) :=
  let grp0 := s.group b g
  match grp0.pendTrap with
  | some p => (s.resumeTrap b g p, none)
  | none =>
    let grp := grp0.retireRecon
    let g1 := { grp with
      choice := grp.paths, forceq := grp.forceOrder, yielded := false, stalls := if grp.choiceStands then grp.stalls else [] }
    let s1 := s.setGroup b g g1
    match s1.attempt exec b g g1.choice with
    | .idle => (s1, none)
    | .miss lines => (s1.noIssue b g lines [], none)
    | .stall t why => (t.noIssue b g [] why, none)
    | .issue o => (s1, some o)

/-! ### The core's slots -/

/-- Which group takes a slot first: longest since its last issue, then the older (R36). -/
def State.slotBefore (s : State) (core : Nat) (a b : Nat × Nat) : Bool :=
  let wa := (s.clock core - (s.group a.1 a.2).lastIssue).toNat
  let wb := (s.clock core - (s.group b.1 b.2).lastIssue).toNat
  decide (wb < wa) || (wa == wb && s.older a b)

/-- Fill the active set while it has room: the ready pending group that has been pending longest comes first (R36, R37). -/
def State.fillActive (s : State) (core : Nat) : State :=
  let act := (s.groupsOf core).filter fun k => (s.group k.1 k.2).active
  ((s.readyPending core).take (Config.activeMax - act.length)).foldl (fun t k => t.activate k) s

/-- Offer a slot to the groups in order; the first that can issue does (R36). -/
def State.offer (s : State) : List (Nat × Nat) → Host.Outcome State Fault Refusal
  | [] => .next s
  | k :: ks =>
    match s.issueGroup k.1 k.2 with
    | (_, some o) => o
    | (t, none) => t.offer ks

/-- The paths B of a core that have issued and whose instructions wait for path A of their issue (R28, R152). -/
def State.latesOf (s : State) (core : Nat) : List (Nat × Nat × Late) :=
  ((s.groupsOf core).filter fun k => (s.group k.1 k.2).mayIssue && (s.group k.1 k.2).pendTrap.isNone).flatMap fun k =>
    (s.group k.1 k.2).lates.map fun l => (k.1, k.2, l)

/-- Those that can have their effect have it. -/
def State.serveLates (s : State) : List (Nat × Nat × Late) → Host.Outcome State Fault Refusal
  | [] => .next s
  | k :: ks =>
    match s.tryLate exec k.1 k.2.1 k.2.2 with
    | .next t => t.serveLates ks
    | o => o

/-- The groups of a core compete for a slot (R36). -/
def State.issueSlot (s : State) (core : Nat) : Host.Outcome State Fault Refusal :=
  if Config.issueSlots ≤ (s.core core).issued.length then .next s else
  let s1 := s.fillActive core
  let cands := (s1.groupsOf core).filter fun k =>
    (s1.group k.1 k.2).active && (s1.group k.1 k.2).mayIssue && !(s1.core core).issued.contains k
  s1.offer (sortBy (s1.slotBefore core) cands)

/-- One issue slot of a core (R36). A core of a die in DEBUG_HOLD or FENCED gives none (R292, R293). -/
def State.slot (s : State) (core : Nat) : Host.Outcome State Fault Refusal :=
  if (s.die (dieOf core)).hold || s.hub.fenced.getLsbD (dieOf core) then .next s else
  match s.serveLates (s.latesOf core) with
  | .next t => t.issueSlot core
  | o => o

/-- The paths of a group that wait for room in the copy engine (R266). -/
def State.waitsForEngine (s : State) (b g : Nat) : Nat :=
  let grp := s.group b g
  if !grp.full || !grp.mayIssue || !grp.choiceStands then 0 else
  match s.attempt exec b g grp.choice with
  | .stall _ why => (why.filter fun w => w.2 == some 15).length
  | _ => 0

/-- Each cycle that a path waits for room in the copy engine counts one event (R266). -/
def State.countFull (s : State) : State :=
  (s.blocks.filter fun kb => kb.2.resident && kb.2.started).foldl (fun t kb =>
    kb.2.groups.keys.foldl (fun u g =>
      let n := s.waitsForEngine kb.1 g
      if n = 0 then u else u.count (dieOf kb.2.core) 15 n) t) s

/-- One arithmetic cycle: every core's z.clock and two hub cycles pass, the device-side launches of the
cycle reach the dispatcher (R338), and the slots are free again (R36, R41); the candidate execution is kept on or forgotten (R240). -/
def State.clockTick (s : State) : State :=
  let s1 := s.keepTrace.countFull.arriveLaunches
  { s1 with
    hub := { s1.hub with cycle := s1.hub.cycle + 2 }
    cores := s1.cores.map fun kc => (kc.1, { kc.2 with issued := [] }) }

/-- Take one action. An instruction of program text is no event: a core issues it, nothing else does. -/
def State.act (s : State) : Action → Host.Outcome State Fault Refusal
  | .slot core => s.slot core
  | .tick => .next s.clockTick
  | .event i => if encode i = [] then exec i s else .next s

/-! ### A program in place -/

/-- Where `State.withFetchWord` puts the word: the second word of the line at this address. -/
def demoLine : DWord := 0x1000#64

/-- A lane inside a block of the demonstration, or arriving at its header. -/
def demoLane (isHeader two : Bool) : Lane :=
  { Lane.init with
    kind := .ordinary, pc := demoLine + 8#64
    pos := if isHeader then none else
      some { hdr := demoLine, len := if two then 2 else 1, seta := 15#4, setb := 15#4 } }

/-- One running group of 64 lanes on core 0, whose next word is in the instruction cache (log entry 12). -/
def State.placeWord (s : State) (w w2 : DWord) : State :=
  let ctx : Ctx := Ctx.init
  let l : Launch := { Launch.init with lanes := 64, regs := 1024, entry := demoLine, st := .running, nextCohort := 1 }
  let g : Group :=
    { Group.init with lanes := List.replicate 64 (demoLane (isHeaderWord w) (isTwoWord w)), active := true }
  let b : Block :=
    { Block.init with
      launch := 1, resident := true, started := true, regs := 1024, lanes := 64, groups := [(0, g)] }
  let line : ILine :=
    { asid := 0, va := demoLine, global := false, level := 1, line := demoLine.toNat / 256
      words := [0#64, w, w2] ++ List.replicate 29 0#64, bad := 0#4, pins := [] }
  { s with
    agenda := [.slot 0]
    ctxs := s.ctxs.set 0 ctx
    launches := s.launches.set 1 l
    blocks := [(blockKey 1 0, b)]
    cores := s.cores.set 0 { s.core 0 with issued := [] }
    dies := s.dies.set 0 { s.die 0 with hold := false }
    clusters := s.clusters.set 0 { (s.cluster 0) with icache := [line] }
    hub := { s.hub with hbmFrames := 4096 * 65536 }
    boot := { s.boot with level := 3#2, passed := BitVec.allOnes 25 } }

end Sys2Proof.Machine
end

