-- ==== Sys2Proof/Machine/Step.lean ====
section
/-!
DEFINITION. One step: the next action of the agenda, or, where none is left, the one the open schedule gives.
-/
namespace Sys2Proof.Machine

/-- The action that moves next, and the state without it. -/
def State.nextAction (s : State) : Action × State :=
  match s.agenda with
  | a :: rest => (a, { s with agenda := rest, tick := s.tick + 1 })
  | [] => (Config.schedule s.tick, { s with tick := s.tick + 1 })

/-- One step of the device. -/
def step (s : State) : Host.Outcome State Fault Refusal :=
  s.nextAction.2.act s.nextAction.1

/-- The state with an instruction placed where the very next step fetches and runs it (log entry 12). -/
def State.withFetchWord (s : State) (nbits w : Nat) : State :=
  s.placeWord (BitVec.ofNat 64 (w % 2 ^ nbits)) (BitVec.ofNat 64 (w % 2 ^ nbits / 2 ^ 64))

end Sys2Proof.Machine
end

