-- ==== Sys2Proof/Safety.lean ====
section
/-!
DEFINITION. The terms claims are stated in: a safe state and a safe step, when an instruction passes the checks every
instruction makes before its own effect, where it leaves the lanes of its path, and what a lane of a group holds.
-/
namespace Sys2Proof.Machine

/-- The stores of the device keep their canonical form: memory, poison, dead bytes, counters and the sector states of
the mesh. -/
def State.wf (s : State) : Bool :=
  s.mem.wf && Cells.wf s.poison && Cells.wf s.dead && Cells.wf s.counters && Cells.wf s.mesh.sect

/-- The step answers a next state. -/
def State.safeStep (s : State) : Prop := ∃ t, step s = .next t

/-- The instruction at issue passes the checks that come before its own effect: its registers lie in the reservation and
its place in the block allows it (R43, R77, R126), some lane of the path executes it (R45), no register it names has a
write pending (R81), no index is out of range (R48), and, where it writes a uniform register, every active lane of the
group executes it (R33, R34). -/
structure MayRun (i : Instr) (s : State) : Prop where
  legal : s.illegalHere i = false
  some : s.execLanes i.guard ≠ 0#64
  quiet : s.hazard i (s.execLanes i.guard) = false
  indexed : s.badIndex i (s.execLanes i.guard) = none
  whole : (uniformRule i && s.splitUniform (s.execLanes i.guard)) = false

/-- t, with the lanes of the path at issue in s that are still ordinary and were not moved past the instruction's words
(R75, R97). -/
def State.pastWords (s t : State) (words : Nat) (moved : DWord) : State :=
  (t.advance (t.stillOrdinary (s.cur.lanes &&& ~~~moved)) words).result .done

/-- s with the instruction at issue trapped in the lanes of a mask (R343, R344): no other effect of it. -/
def State.trappedAt (s : State) (m : DWord) (code : Nat) (tval : DWord) : State :=
  (s.takeTrap s.cur.blk s.cur.grp m code tval s.cur.pc).result .trapped

/-- s after an instruction that delivers a value of w bits to D and does nothing else. -/
def State.afterD (s : State) (f : FmtA) (w : Nat) (val : Group → Lane → Nat → DWord) : State :=
  s.pastWords (s.putD f (s.execLanes f.guard) w val) 1 0#64

/-- s after an instruction that delivers a predicate to D and does nothing else. -/
def State.afterP (s : State) (f : FmtA) (val : Group → Lane → Bool) : State :=
  s.pastWords (s.putP f (s.execLanes f.guard) val) 1 0#64

/-- The group at issue is there: its block, and the group in it. -/
def State.issuing (s : State) : Prop :=
  (s.blocks.get? s.cur.blk).isSome = true ∧ (s.cb.groups.get? s.cur.grp).isSome = true

/-- A touch that leads to a location through a leaf that is not being pulled (R150, R326). -/
def Touch.reaches (t : Touch) : Prop :=
  ∃ loc leaf level, t.tr = .ok loc leaf level ∧ ((∃ k, loc = .mem k) → (level == 1 && leaf.getLsbD 61) = false)

end Sys2Proof.Machine
end

