-- ==== Sys2Proof/Certificates/Slice0/Obligations.lean ====
section
/-!
DEFINITION. What is claimed of the device: one statement for each family of instructions and of the other agents' steps,
the rules every instruction obeys, frames, and what every step keeps.
-/
open Sys2Proof Sys2Proof.Machine

/-! ### Integer arithmetic -/

namespace Sys2Proof.Machine

/-- The integer operands of a lane, at the type's width and signedness (R66, R102). -/
def intA (f : FmtA) (g : Group) (l : Lane) : Int :=
  toInteger (tyWidth f.ty) (tySigned f.ty) (rdA f g l (tyWidth f.ty))
def intB (f : FmtA) (g : Group) (l : Lane) : Int :=
  toInteger (tyWidth f.ty) (tySigned f.ty) (rdB f g l (tyWidth f.ty))

/-- s after an integer instruction whose exact result is x: clamped under `.sat`, wrapped otherwise (R102). -/
def State.afterInt (s : State) (f : FmtA) (x : Int → Int → Int) : State :=
  s.afterD f (tyWidth f.ty) fun g l _ =>
    let y := x (intA f g l) (intB f g l)
    ofInteger (tyWidth f.ty) (if f.sat then clampTo (tyWidth f.ty) (tySigned f.ty) y else y)

/-- s after an instruction that delivers a 32-bit word to D and a carry to predicate pK (R103). -/
def State.afterCarry (s : State) (f : FmtA) (x : Nat → Nat → Nat → Nat × Bool) : State :=
  let m := s.execLanes f.guard
  let both := fun (l : Lane) =>
    x (rdA f s.cg l 32).toNat (rdB f s.cg l 32).toNat (if l.pred f.c.toNat then 1 else 0)
  let r := both (s.cg.lane (lowest m))
  s.pastWords
    (if f.u then
      (s.putU f.d.toNat 32 (BitVec.ofNat 64 r.1)).onExec m fun _ l => l.setP f.c.toNat r.2
    else
      s.onExec m fun _ l =>
        (l.put (destReg f l) 32 (BitVec.ofNat 64 (both l).1)).setP f.c.toNat (both l).2) 1 0#64

/-- Three 32-bit operands of a lane. -/
def State.afterThree (s : State) (f : FmtA) (x : Word → Word → Word → Word) : State :=
  s.afterD f 32 fun g l _ =>
    (x ((rdA f g l 32).setWidth 32) ((rdB f g l 32).setWidth 32) ((rdC f g l 32).setWidth 32)).setWidth 64

end Sys2Proof.Machine

/-- R102: IADD, ISUB, IADD64, IABS, INEG, IMIN and IMAX deliver their exact result, clamped under `.sat` and wrapped
otherwise, in every executing lane or once to a uniform D. -/
def Obligations.IntegerAddSubMinMax : Prop :=
  ∀ (f : FmtA) (s : State),
    (MayRun (.iadd f) s → exec (.iadd f) s = .next (s.afterInt f (· + ·))) ∧
    (MayRun (.isub f) s → exec (.isub f) s = .next (s.afterInt f (· - ·))) ∧
    (MayRun (.iadd64 f) s → exec (.iadd64 f) s = .next (s.afterInt f (· + ·))) ∧
    (MayRun (.iabs f) s → exec (.iabs f) s = .next (s.afterInt f fun a _ => |a|)) ∧
    (MayRun (.ineg f) s → exec (.ineg f) s = .next (s.afterInt f fun a _ => -a)) ∧
    (MayRun (.imin f) s → exec (.imin f) s = .next (s.afterInt f min)) ∧
    (MayRun (.imax f) s → exec (.imax f) s = .next (s.afterInt f max))

/-- R103: IADDC and ISUBB deliver the low word of a + b + ci and of a − b − bi, and the carry or borrow out to pK; a
uniform form traps where pK differs among the executing lanes (R99). -/
def Obligations.CarryChains : Prop :=
  ∀ (f : FmtA) (s : State),
    let m := s.execLanes f.guard
    (MayRun (.iaddc f) s → exec (.iaddc f) s = .next (
      if predSplit s f.u m f.c.toNat then s.trappedAt m cUniformSplit 0#64
      else s.afterCarry f fun a b ci => ((a + b + ci) % 2 ^ 32, decide (2 ^ 32 ≤ a + b + ci)))) ∧
    (MayRun (.isubb f) s → exec (.isubb f) s = .next (
      if predSplit s f.u m f.c.toNat then s.trappedAt m cUniformSplit 0#64
      else s.afterCarry f fun a b bi => ((((a : Int) - b - bi) % 2 ^ 32).toNat, decide (a < b + bi))))

/-- R104: IMUL keeps the low w bits of the product and IMULH the high ones, IMAD adds c to the low 32 bits, IMADW adds a
64-bit c to the 64-bit product of two 32-bit operands. -/
def Obligations.Multiplies : Prop :=
  ∀ (f : FmtA) (s : State),
    (MayRun (.imul f) s → exec (.imul f) s = .next (s.afterInt f (· * ·))) ∧
    (MayRun (.imulh f) s → exec (.imulh f) s = .next (s.afterInt f fun a b => (a * b) / 2 ^ tyWidth f.ty)) ∧
    (MayRun (.imad f) s → exec (.imad f) s = .next (s.afterThree f fun a b c => a * b + c)) ∧
    (∀ sg, MayRun (.imadw sg f) s → exec (.imadw sg f) s = .next (s.afterD f 64 fun g l _ =>
      BitVec.ofInt 64 (toInteger 32 sg (rdA f g l 32) * toInteger 32 sg (rdB f g l 32)) + rdC f g l 64))

/-- R105 and R88: ICMP writes the predicate its condition gives for the two integers; SEL delivers a where its predicate,
complemented if the modifier asks, holds and b otherwise. -/
def Obligations.CompareAndSelect : Prop :=
  ∀ (f : FmtA) (s : State),
    (MayRun (.icmp f) s → exec (.icmp f) s = .next (s.afterP f fun g l =>
      match f.rm with
      | 0 => decide (intA f g l = intB f g l)
      | 1 => decide (intA f g l ≠ intB f g l)
      | 2 => decide (intA f g l < intB f g l)
      | 3 => decide (intA f g l ≤ intB f g l)
      | 4 => decide (intA f g l > intB f g l)
      | 5 => decide (intA f g l ≥ intB f g l)
      | _ => false)) ∧
    (∀ w64, MayRun (.sel w64 f) s → exec (.sel w64 f) s = .next (
      if predSplit s f.u (s.execLanes f.guard) (bits f.c 0 7) then s.trappedAt (s.execLanes f.guard) cUniformSplit 0#64
      else s.afterD f (if w64 then 64 else 32) fun g l _ =>
        if xor (l.pred (bits f.c 0 7)) (f.c.getLsbD 9) then rdA f g l (if w64 then 64 else 32)
        else rdB f g l (if w64 then 64 else 32)))

/-- R106 and R107: AND, OR, XOR and NOT work bit by bit at the type's width, and bit i of TERN's result is the entry of its
table that c_i, b_i and a_i select. -/
def Obligations.LogicAndTernary : Prop :=
  ∀ (f : FmtA) (t : FmtL) (s : State),
    (MayRun (.and f) s → exec (.and f) s = .next (s.afterD f (tyWidth f.ty) fun g l _ =>
      rdA f g l (tyWidth f.ty) &&& rdB f g l (tyWidth f.ty))) ∧
    (MayRun (.or f) s → exec (.or f) s = .next (s.afterD f (tyWidth f.ty) fun g l _ =>
      rdA f g l (tyWidth f.ty) ||| rdB f g l (tyWidth f.ty))) ∧
    (MayRun (.xor f) s → exec (.xor f) s = .next (s.afterD f (tyWidth f.ty) fun g l _ =>
      rdA f g l (tyWidth f.ty) ^^^ rdB f g l (tyWidth f.ty))) ∧
    (MayRun (.not f) s → exec (.not f) s = .next (s.afterD f (tyWidth f.ty) fun g l _ => ~~~(rdA f g l (tyWidth f.ty)))) ∧
    (MayRun (.tern t) s → ∃ x : Word → Word → Word → Word,
      exec (.tern t) s = .next (s.afterThree (FmtL.asA t) x) ∧
      ∀ a b c (i : Nat), i < 32 → (x a b c).getLsbD i =
        t.lut.getLsbD ((if c.getLsbD i then 4 else 0) + (if b.getLsbD i then 2 else 0) + (if a.getLsbD i then 1 else 0)))

/-- R108: SHL, SHR and SAR shift by the unsigned 32-bit b and give 0, or copies of the sign, from w on; ROT rotates left by
b mod w; FSHL and FSHR keep the high and the low word of a:b shifted by c mod 32. -/
def Obligations.Shifts : Prop :=
  ∀ (f : FmtA) (s : State),
    let w := tyWidth f.ty
    let a := fun g l => rdA f g l w
    let n := fun g l => (rdB f g l 32).toNat % 2 ^ 32
    (MayRun (.shl f) s → exec (.shl f) s = .next (s.afterD f w fun g l _ =>
      if n g l < w then a g l <<< n g l else 0#64)) ∧
    (MayRun (.shr f) s → exec (.shr f) s = .next (s.afterD f w fun g l _ =>
      if n g l < w then a g l >>> n g l else 0#64)) ∧
    (MayRun (.sar f) s → exec (.sar f) s = .next (s.afterD f w fun g l _ =>
      ofInteger w (toInteger w true (a g l) / 2 ^ min (n g l) w))) ∧
    (MayRun (.rot f) s → exec (.rot f) s = .next (s.afterD f w fun g l _ =>
      (a g l <<< (n g l % w)) ||| (cut w (a g l) >>> (w - n g l % w)))) ∧
    (MayRun (.fshl f) s → exec (.fshl f) s = .next (s.afterThree f fun x y z =>
      ((x ++ y : BitVec 64) <<< (z.toNat % 32)).extractLsb' 32 32)) ∧
    (MayRun (.fshr f) s → exec (.fshr f) s = .next (s.afterThree f fun x y z =>
      ((x ++ y : BitVec 64) >>> (z.toNat % 32)).extractLsb' 0 32))

/-- R109 and R110: the bit counts, bit reversal, the bit fields of BFX and BFI, the byte permutation, and LEA's address.
Log entry 78 gives the model's choices among these. -/
def Obligations.BitFieldsAndAddresses : Prop :=
  ∀ (f : FmtA) (s : State),
    let w := tyWidth f.ty
    let a := fun g l => rdA f g l w
    (MayRun (.popc f) s → exec (.popc f) s = .next (s.afterD f 32 fun g l _ =>
      BitVec.ofNat 64 ((List.range w).countP fun i => (a g l).getLsbD i))) ∧
    (MayRun (.clz f) s → exec (.clz f) s = .next (s.afterD f 32 fun g l _ =>
      BitVec.ofNat 64 ((List.range w).takeWhile fun i => !(a g l).getLsbD (w - 1 - i)).length)) ∧
    (MayRun (.ctz f) s → exec (.ctz f) s = .next (s.afterD f 32 fun g l _ =>
      BitVec.ofNat 64 ((List.range w).takeWhile fun i => !(a g l).getLsbD i).length)) ∧
    (MayRun (.brev f) s → ∃ x : DWord → DWord, exec (.brev f) s = .next (s.afterD f w fun g l _ => x (a g l)) ∧
      ∀ v i, i < w → (x v).getLsbD i = v.getLsbD (w - 1 - i)) ∧
    (MayRun (.bfx f) s → exec (.bfx f) s = .next (s.afterD f 32 fun g l _ =>
      let p := fieldOf ((rdB f g l 32).setWidth 32)
      let v := BitVec.ofNat 64 ((rdA f g l 32).toNat / 2 ^ p.1 % 2 ^ p.2)
      if p.2 = 0 then 0#64 else if tySigned f.ty then ofInteger 32 (toInteger p.2 true v) else v)) ∧
    (MayRun (.bfi f) s → ∃ x : Word → Word → Word → Word, exec (.bfi f) s = .next (s.afterThree f x) ∧
      ∀ u b c (i : Nat), i < 32 → (x u b c).getLsbD i =
        if (fieldOf b).1 ≤ i ∧ i < (fieldOf b).1 + (fieldOf b).2 then u.getLsbD (i - (fieldOf b).1) else c.getLsbD i) ∧
    (MayRun (.prmb f) s → exec (.prmb f) s = .next (s.afterThree f fun x y z =>
      permuteByte (y ++ x) z 3 ++ permuteByte (y ++ x) z 2 ++ permuteByte (y ++ x) z 1 ++ permuteByte (y ++ x) z 0)) ∧
    (MayRun (.lea f) s → exec (.lea f) s = .next (s.afterD f 64 fun g l _ =>
      rdA f g l 64 + (BitVec.ofInt 64 (toInteger 32 (tySigned f.ty) (rdB f g l 32)) <<< f.rm)))

/-! ### Floating point -/

namespace Sys2Proof.Machine

/-- The float operands of a lane, flushed under `.ftz` (R60, R66). -/
def fpA (f : FmtA) (g : Group) (l : Lane) : Fval := fpVal f.ty f.ftz (rdA f g l 32)
def fpB (f : FmtA) (g : Group) (l : Lane) : Fval := fpVal f.ty f.ftz (rdB f g l 32)

/-- s after a float instruction whose exact result is x, rounded once to the type's format (R69). -/
def State.afterFp (s : State) (f : FmtA) (x : Group → Lane → Fval) : State :=
  s.afterD f 32 fun g l _ => BitVec.ofNat 64 ((fmtOf f.ty).round (rmode f.rm) f.ftz f.sat (x g l))

/-- Element e of a packed pair, as a value (R66). -/
def elemOf (ty : Nat) (v : DWord) (e : Nat) : Fval := fpVal ty false (pairElem v e)

/-- s after a packed instruction whose exact results are x 0 and x 1. -/
def State.afterPacked (s : State) (f : FmtA) (x : Group → Lane → Nat → Fval) : State :=
  s.afterD f 32 fun g l _ => packPair fun e => (fmtOf f.ty).round (rmode f.rm) false f.sat (x g l e)

/-- s after an FP32 function of one operand, rounded once (R114). -/
def State.afterFp1 (s : State) (f : FmtA) (x : Fval → Fval) : State :=
  s.afterD f 32 fun g l _ =>
    BitVec.ofNat 64 (f32.round (rmode f.rm) f.ftz f.sat (x (fpVal 11 f.ftz (rdA f g l 32))))

end Sys2Proof.Machine

/-- R111 and R115: FADD, FSUB, FMUL, FDIVF and FSCALE, PKADD and PKMUL round their exact result once, each element of a
pair on its own; FFMA and PKFMA round a × b + c once. -/
def Obligations.FloatArithmetic : Prop :=
  ∀ (f : FmtA) (t : FmtT) (s : State),
    (MayRun (.fadd f) s → exec (.fadd f) s = .next (s.afterFp f fun g l => Fval.add f.rm (fpA f g l) (fpB f g l))) ∧
    (MayRun (.fsub f) s → exec (.fsub f) s = .next (s.afterFp f fun g l => Fval.add f.rm (fpA f g l) (fpB f g l).neg)) ∧
    (MayRun (.fmul f) s → exec (.fmul f) s = .next (s.afterFp f fun g l => (fpA f g l).mul (fpB f g l))) ∧
    (MayRun (.fdivf f) s → exec (.fdivf f) s = .next (s.afterFp f fun g l => (fpA f g l).div (fpB f g l))) ∧
    (MayRun (.fscale f) s → exec (.fscale f) s = .next (s.afterFp f fun g l =>
      (fpA f g l).scale (toInteger 32 true (rdB f g l 32)))) ∧
    (MayRun (.pkadd f) s → exec (.pkadd f) s = .next (s.afterPacked f fun g l e =>
      Fval.add f.rm (elemOf f.ty (rdA f g l 32) e) (elemOf f.ty (rdB f g l 32) e))) ∧
    (MayRun (.pkmul f) s → exec (.pkmul f) s = .next (s.afterPacked f fun g l e =>
      (elemOf f.ty (rdA f g l 32) e).mul (elemOf f.ty (rdB f g l 32) e))) ∧
    (MayRun (.ffma t) s → exec (.ffma t) s = .next (s.afterD t.f 32 fun g l _ =>
      BitVec.ofNat 64 (fusedElem f32 t.rm.toNat t.ftz (rdA t.f g l 32).toNat (rdB t.f g l 32).toNat
        (rdC t.f g l 32).toNat))) ∧
    (∀ bh, MayRun (.pkfma bh t) s → exec (.pkfma bh t) s = .next (s.afterD t.f 32 fun g l _ =>
      packPair fun e => fusedElem (if bh then bf16 else f16) t.rm.toNat false (pairElem (rdA t.f g l 32) e).toNat
        (pairElem (rdB t.f g l 32) e).toNat (pairElem (rdC t.f g l 32) e).toNat))

/-- R112 and R113: FMIN and FMAX deliver the code of the operand that is not a NaN and orders first or last, the canonical
NaN where both are NaNs, −0 ordering below +0; FCMP writes the predicate its condition gives. -/
def Obligations.FloatMinMaxCompare : Prop :=
  ∀ (f : FmtA) (s : State),
    let a := fun g l => fpCode f.ty f.ftz (rdA f g l 32)
    let b := fun g l => fpCode f.ty f.ftz (rdB f g l 32)
    let v := fun c => (fmtOf f.ty).decode c
    let pick := fun (below : Fval → Fval → Bool) (x y : Nat) =>
      if (v x).isNan && (v y).isNan then (fmtOf f.ty).nanCode
      else if (v x).isNan then y else if (v y).isNan then x else if below (v x) (v y) then y else x
    (MayRun (.fmin f) s → exec (.fmin f) s = .next (s.afterD f 32 fun g l _ =>
      BitVec.ofNat 64 (pick (fun x y => fpBelow y x) (a g l) (b g l)))) ∧
    (MayRun (.fmax f) s → exec (.fmax f) s = .next (s.afterD f 32 fun g l _ =>
      BitVec.ofNat 64 (pick (fun x y => fpBelow x y) (a g l) (b g l)))) ∧
    (MayRun (.fcmp f) s → exec (.fcmp f) s = .next (s.afterP f fun g l => compareFloat f.rm (fpA f g l) (fpB f g l)))

/-- R114: FCLASS, FRND and FGEXP, and the FP32 functions that round the exact value once: FRCP, FRSQ, FSQRT, FEX2, FLG2,
FSIN, FCOS and FTANH. Log entry 23 gives the model's choices among these. -/
def Obligations.FloatFunctions : Prop :=
  ∀ (f : FmtA) (s : State),
    let a := fun g l => fpCode f.ty f.ftz (rdA f g l 32)
    (MayRun (.fclass f) s → exec (.fclass f) s = .next (s.afterD f 32 fun g l _ =>
      BitVec.ofNat 64 (2 ^ fpClass (fmtOf f.ty) (a g l)))) ∧
    (MayRun (.frnd f) s → exec (.frnd f) s = .next (s.afterD f 32 fun g l _ =>
      BitVec.ofNat 64 (frndCode (fmtOf f.ty) f.rm (a g l)))) ∧
    (MayRun (.fgexp f) s → exec (.fgexp f) s = .next (s.afterD f 32 fun g l _ => gexp (fpA f g l))) ∧
    (MayRun (.frcp f) s → exec (.frcp f) s = .next (s.afterFp1 f fun x => Fval.div (.fin false 1 1) x)) ∧
    (MayRun (.frsq f) s → exec (.frsq f) s = .next (s.afterFp1 f realRsqrt)) ∧
    (MayRun (.fsqrt f) s → exec (.fsqrt f) s = .next (s.afterFp1 f realSqrt)) ∧
    (MayRun (.fex2 f) s → exec (.fex2 f) s = .next (s.afterFp1 f realExp2)) ∧
    (MayRun (.flg2 f) s → exec (.flg2 f) s = .next (s.afterFp1 f realLog2)) ∧
    (MayRun (.fsin f) s → exec (.fsin f) s = .next (s.afterFp1 f realSin)) ∧
    (MayRun (.fcos f) s → exec (.fcos f) s = .next (s.afterFp1 f realCos)) ∧
    (MayRun (.ftanh f) s → exec (.ftanh f) s = .next (s.afterFp1 f realTanh))

/-! ### Conversions and blocks -/

/-- R117: FCVT rounds the source value once into the destination format, F2I saturates the rounded integer (0 for a NaN), and
I2F rounds the integer once; stochastic rounding draws on the seed register and the lane (R116). -/
def Obligations.Conversions : Prop :=
  ∀ (f : FmtC) (s : State),
    let src := f.src.toNat
    (MayRun (.fcvt f) s → exec (.fcvt f) s = .next (s.afterD f.f 32 fun g l i =>
      BitVec.ofNat 64 ((fmtOf f.tyd).round (cvtRnd f g l i) (f.ftz && f.tyd == 11) f.sat
        (fpVal src (f.ftz && src == 11) (rdA f.f g l 32))))) ∧
    (MayRun (.f2i f) s → exec (.f2i f) s = .next (s.afterD f.f (tyWidth f.tyd) fun g l i =>
      ofInteger (tyWidth f.tyd) (toInt (cvtRnd f g l i) (intWidth f.tyd) (tySigned f.tyd)
        (fpVal src f.ftz (rdA f.f g l 32))))) ∧
    (MayRun (.i2f f) s → exec (.i2f f) s = .next (s.afterD f.f 32 fun g l i =>
      BitVec.ofNat 64 ((fmtOf f.tyd).round (cvtRnd f g l i) false f.sat
        (Fval.ofInt false (toInteger (intWidth src) (tySigned src) (rdA f.f g l (tyWidth src))) 1))))

/-- R119, R120 and R121: QBLK delivers a block's packed codes and its side register, DQBLK its 32 values (a bad scale sets
the context's status bit, R65), PACK8 replaces one element of D and SPLIT8 extracts one of a. Log entry 78 gives the
model's choices among these. -/
def Obligations.BlocksAndPacking : Prop :=
  ∀ (f : FmtA) (s : State),
    let m := s.execLanes f.guard
    (MayRun (.qblk f) s → exec (.qblk f) s = .next (s.pastWords (s.putRange f m fun g l i =>
      let q := quantise f.ty f.rm ((rdB f g l 32).setWidth 32) i (rdRange g l f.u f.a.toNat 32)
      packCodes f.ty q.codes ++ [q.side]) 1 0#64)) ∧
    (MayRun (.dqblk f) s →
      let src := fun (g : Group) (l : Lane) => rdRange g l f.u f.a.toNat (blkRegs f.ty)
      let t := s.putRange f m fun g l _ => dequantise f.ty (src g l)
      exec (.dqblk f) s = .next (s.pastWords
        (if (lanesOf m).any fun i => badScale f.ty (src s.cg (s.cg.lane i)) then t.statusBadscale s.cb.asid else t)
        1 0#64)) ∧
    (MayRun (.pack8 f) s → ∃ x : DWord → DWord → DWord → DWord,
      exec (.pack8 f) s = .next (s.afterD f 32 fun g l _ => x (rdD f g l 32) (rdA f g l 32) (rdB f g l 32)) ∧
      ∀ d a b (i : Nat), i < 32 → (x d a b).getLsbD i =
        if (packPos f.ty b).1 ≤ i ∧ i < (packPos f.ty b).1 + (packPos f.ty b).2 then a.getLsbD (i - (packPos f.ty b).1)
        else d.getLsbD i) ∧
    (MayRun (.split8 f) s → exec (.split8 f) s = .next (s.afterD f 32 fun g l _ =>
      BitVec.ofNat 64 ((rdA f g l 32).toNat / 2 ^ (packPos f.ty (rdB f g l 32)).1 % 2 ^ (packPos f.ty (rdB f g l 32)).2)))

/-! ### Moves, predicates, index registers -/

/-- R101 and R51: MOV, MOVI and MOVW deliver their source; a move from a special or an index register delivers each lane's
own value, and once, checked to be one value, to a uniform D. -/
def Obligations.RegisterMoves : Prop :=
  ∀ (f : FmtA) (fi : FmtI) (fw : FmtW) (s : State),
    let m := s.execLanes f.guard
    let from_ := fun (w : Nat) (val : Lane → Nat → DWord) =>
      let one := val (s.cg.lane (lowest m)) (lowest m)
      if f.u then
        if (lanesOf m).any fun i => val (s.cg.lane i) i != one then s.trappedAt m cUniformSplit 0#64
        else s.pastWords (s.putU f.d.toNat 64 one) 1 0#64
      else s.pastWords (s.onExec m fun i l => l.put (destReg f l) w (val l i)) 1 0#64
    (MayRun (.mov f) s → exec (.mov f) s = .next (s.afterD f (tyWidth f.ty) fun g l _ => rdA f g l (tyWidth f.ty))) ∧
    (MayRun (.movi fi) s → exec (.movi fi) s = .next (s.pastWords
      (if fi.u then s.putU fi.d.toNat 32 (fi.imm.setWidth 64)
        else s.onExec (s.execLanes fi.guard) fun _ l => l.setV fi.d.toNat fi.imm) 1 0#64)) ∧
    (MayRun (.movw fw) s → exec (.movw fw) s = .next (s.pastWords
      (if fw.u then s.putU fw.d.toNat 64 fw.imm
        else s.onExec (s.execLanes fw.guard) fun _ l => l.setVpair fw.d.toNat fw.imm) 2 0#64)) ∧
    (MayRun (.movSpecial f) s →
      exec (.movSpecial f) s = .next (from_ (tyWidth f.ty) (specialReg s f.a.toNat))) ∧
    (MayRun (.movIndex f) s →
      exec (.movIndex f) s = .next (from_ 32 fun l _ => (l.x.get f.a.toNat).setWidth 64))

/-- R129 to R133: PLOP looks a predicate up in its table, PMOV moves predicates to or from the bits of a register, VTOS copies the
lowest executing lane's value (trapping under `.chk` where the lanes differ), STOV broadcasts a uniform register; XSET gives an
index register BASE, LIMIT and index 0, XIDX sets its INDEX and XADD adds to it; where a lane's new window leaves the reservation,
or its index the field, the instruction traps with the lowest such lane's value. -/
def Obligations.PredicateUniformAndIndexMoves : Prop :=
  ∀ (f : FmtA) (s : State),
    let m := s.execLanes f.guard
    let w := tyWidth f.ty
    let v := fun i => rdA f s.cg (s.cg.lane i) w
    let after := fun (val : Lane → Except Int Word) =>
      match (lanesOf m).findSome? fun i => match val (s.cg.lane i) with | .error t => some t | .ok _ => none with
      | some t => s.trappedAt m cIndexRange (ofInteger 64 t)
      | none => s.pastWords (s.onExec m fun _ l => match val l with
          | .ok x => { l with x := l.x.set f.d.toNat x }
          | .error _ => l) 1 0#64
    let opd := fun (l : Lane) => if f.bi then f.imm else (l.vreg f.a.toNat).toInt
    let moved := fun (l : Lane) (i : Int) =>
      if i < -2048 ∨ 2047 < i then .error i else .ok (indexReg (l.baseOf f.d.toNat) (l.limitOf f.d.toNat) i)
    (MayRun (.plop f) s → exec (.plop f) s = .next (s.afterP f fun _ l =>
      f.c.getLsbD ((if l.pred f.a.toNat then 2 else 0) + if l.pred f.b.toNat then 1 else 0))) ∧
    (MayRun (.pmov f) s → exec (.pmov f) s = .next (s.pastWords (s.onExec m fun _ l =>
      if f.c.getLsbD 0 then l.setPredBits f.d.toNat (bits f.c 1 5 + 1) (l.vreg f.a.toNat)
      else l.setV f.d.toNat (l.predBits f.a.toNat (bits f.c 1 5 + 1))) 1 0#64)) ∧
    (MayRun (.vtos f) s → exec (.vtos f) s = .next (
      if f.sat && (lanesOf m).any fun i => v i != v (lowest m) then s.trappedAt m cUniformSplit 0#64
      else s.pastWords (s.putU f.d.toNat w (v (lowest m))) 1 0#64)) ∧
    (MayRun (.stov f) s → exec (.stov f) s = .next (s.pastWords (s.onExec m fun _ l =>
      l.put (destReg f l) w (cut w (s.cg.ureg f.a.toNat))) 1 0#64)) ∧
    (MayRun (.xset f) s → exec (.xset f) s = .next (after fun l =>
      let a := (l.vreg f.a.toNat).toNat
      let b := if f.bi then f.b.toNat else (l.vreg f.b.toNat).toNat
      if s.cb.regs < a + b || 1023 < b then .error (a + b : Nat) else .ok (indexReg a b 0))) ∧
    (MayRun (.xidx f) s → exec (.xidx f) s = .next (after fun l => moved l (opd l))) ∧
    (MayRun (.xadd f) s → exec (.xadd f) s = .next (after fun l => moved l (l.indexOf f.d.toNat + opd l)))

/-! ### Lanes of a group -/

/-- R134: QSWAP, QBCAST and GSHFL deliver what the source lane's register held before the issue, once nothing is pending on
it there (R123); until then the path waits. -/
def Obligations.LaneExchanges : Prop :=
  ∀ (f : FmtA) (s : State),
    let m := s.execLanes f.guard
    let w := tyWidth f.ty
    let after := fun (src : Lane → Nat → Nat) =>
      if (lanesOf m).any fun i =>
          (srcRegs f.a w).any fun r => s.pendingHere (src (s.cg.lane i) i) r
      then s.result (.stalled (some 0))
      else s.pastWords (s.onExec m fun i l =>
        l.put f.d.toNat w (readOpd s.cg (s.cur.before.lane (src l i)) false f.a false w)) 1 0#64
    (MayRun (.qswap f) s → exec (.qswap f) s = .next (after fun _ i => 4 * (i / 4) + ((i % 4) ^^^ bits f.b 0 2))) ∧
    (MayRun (.qbcast f) s → exec (.qbcast f) s = .next (after fun _ i => 4 * (i / 4) + bits f.b 0 2)) ∧
    (MayRun (.gshfl f) s → exec (.gshfl f) s = .next (after fun l _ =>
      if f.bi then bits f.b 0 6 else bits (l.vreg f.b.toNat) 0 6))

/-- R135 and R136: VOTE, BALLOT, MATCH and ELECT over the executing lanes, and REDUX's reduction of their operands, to every
executing lane or to one uniform register. -/
def Obligations.VotesAndReductions : Prop :=
  ∀ (f : FmtA) (s : State),
    let m := s.execLanes f.guard
    let w := tyWidth f.ty
    let yes := m &&& maskOf fun i => (s.cg.lane i).pred f.a.toNat
    let r := reduce f.rm f.ty ((lanesOf m).map fun i => rdA f s.cg (s.cg.lane i) w)
    (MayRun (.vote f) s → exec (.vote f) s = .next (s.afterP f fun _ _ =>
      match f.rm with
      | 0 => yes == m
      | 1 => yes != 0#64
      | _ => yes == m || yes == 0#64)) ∧
    (MayRun (.ballot f) s → exec (.ballot f) s = .next (s.afterD f 64 fun _ _ _ => yes)) ∧
    (MayRun (.matchLanes f) s → exec (.matchLanes f) s = .next (s.afterD f 64 fun g l _ =>
      m &&& maskOf fun j => rdA f g (g.lane j) w == rdA f g l w)) ∧
    (MayRun (.elect f) s → exec (.elect f) s = .next (s.pastWords (s.onExec m fun i l =>
      l.setP f.d.toNat (i == lowest m)) 1 0#64)) ∧
    (MayRun (.redux f) s → exec (.redux f) s = .next (
      if f.ftz then s.pastWords (s.putU f.d.toNat w r) 1 0#64 else s.afterD f w fun _ _ _ => r))
/-! ### Control flow -/

namespace Sys2Proof.Machine

/-- The lanes the instruction at issue leaves where they wait for a reconvergence point, and the others (R75). -/
def State.heldHere (s : State) : DWord := s.cg.membersAt s.cur.pc s.cur.lanes
def State.goingOn (s : State) : DWord := s.cur.lanes &&& ~~~s.heldHere

/-- s with the lanes that stay at a reconvergence point held there. -/
def State.holding (s : State) : State := s.onExec s.heldHere fun _ l => { l with wait := .held }

end Sys2Proof.Machine

/-- R75: a path at a header holds the lanes that are members of its point; where every lane is one, nothing else happens.
The others trap at a header that breaks a rule, wait while a flag WAIT names is set as this issue begins, and
otherwise make or join the reconvergence entry and adopt the block, once the point RECONV names is a header they may
enter; where that point has no translation, the group parks for it, and where its walk waits for a table, the path
waits. Log entries 16, 17, 39 and 68 give the model's choices among these. -/
def Obligations.HeaderIssue : Prop :=
  ∀ (h : Header) (s : State),
    let point := reconPoint s.cur.pc h
    let target := s.checkTarget s.cb.core s.cb.asid point
    (s.goingOn = 0#64 → exec (.blockHeader h) s = .next (s.pastWords s.holding 1 s.heldHere)) ∧
    (s.goingOn ≠ 0#64 → h.legal = false → exec (.blockHeader h) s =
      .next ((s.holding.takeTrap s.cur.blk s.cur.grp s.goingOn cIllegal 0#64 s.cur.pc).result .trapped)) ∧
    (s.goingOn ≠ 0#64 → h.legal = true → s.cur.before.waitsOn h.wait = true →
      exec (.blockHeader h) s = .next (s.result (.stalled none))) ∧
    (s.goingOn ≠ 0#64 → h.legal = true → s.cur.before.waitsOn h.wait = false → (h.reconv = 0#16 ∨ target = .ok) →
      exec (.blockHeader h) s = .next (s.pastWords (s.holding.startBlock h s.goingOn) 1 s.heldHere)) ∧
    (∀ c v, s.goingOn ≠ 0#64 → h.legal = true → s.cur.before.waitsOn h.wait = false → h.reconv ≠ 0#16 → target = .trap c v →
      exec (.blockHeader h) s =
        .next ((s.holding.takeTrap s.cur.blk s.cur.grp s.goingOn c v s.cur.pc).result .trapped)) ∧
    (s.goingOn ≠ 0#64 → h.legal = true → s.cur.before.waitsOn h.wait = false → h.reconv ≠ 0#16 → target = .missing →
      exec (.blockHeader h) s = .next ((s.parkGroup s.cur.blk s.cur.grp s.goingOn s.cur.pc
        [(point, s.goingOn, 3)]).result (.parked s.goingOn [(point, s.goingOn, 3)]))) ∧
    (∀ as, s.goingOn ≠ 0#64 → h.legal = true → s.cur.before.waitsOn h.wait = false → h.reconv ≠ 0#16 → target = .wait as →
      exec (.blockHeader h) s = .next ((s.askFor as).result (.stalled none)))

/-- R125 and R126: BRA and CALL send every executing lane to the header at their offset, CALL writing the address of the
next word to its link pair; they trap in every executing lane where that target may not be entered, and park the group
where it has no translation. BRX, RET and CALLX send each lane to the header its own pair names, when every lane may
enter its own; otherwise the first lane that may not traps, with every lane refused for the same cause, or, where none
traps, the lanes whose targets have no translation park the group. While the walk of a target waits for a table, the
path waits. Log entries 39 and 67 give the model's choices among these. -/
def Obligations.BranchesAndCalls : Prop :=
  ∀ (f : FmtB) (s : State),
    let m := s.execLanes f.guard
    let ok := fun t => s.checkTarget s.cb.core s.cb.asid t = .ok
    let t := s.cur.pc + BitVec.ofInt 64 (8 * f.off.toInt)
    let own := fun i => (s.cg.lane i).vpair f.a.toNat
    let mine := fun i => s.checkTarget s.cb.core s.cb.asid (own i)
    let kept := fun i => (∀ k, mine i ≠ .noFrame k) ∧ ∀ as, mine i ≠ .wait as
    let refused := fun (i : Instr) (m' : DWord) (c : Nat) (v : DWord) => exec i s = .next (s.trappedAt m' c v)
    let parks := fun (i : Instr) (m' : DWord) es =>
      exec i s = .next ((s.parkGroup s.cur.blk s.cur.grp m' s.cur.pc es).result (.parked m' es))
    let each := fun (i : Instr) => MayRun i s → (∀ j ∈ lanesOf m, kept j) →
      (∀ before after j c v, lanesOf m = before ++ j :: after → (∀ k ∈ before, ∀ d w, mine k ≠ .trap d w) →
        mine j = .trap c v →
        ∃ m', refused i m' c v ∧ ∀ k < 64, m'.getLsbD k = true ↔ k ∈ lanesOf m ∧ ∃ w, mine k = .trap c w) ∧
      ((∀ j ∈ lanesOf m, ∀ c v, mine j ≠ .trap c v) → (∃ j ∈ lanesOf m, mine j = .missing) →
        ∃ m', parks i m' (pageEntries 3 (((lanesOf m).filter fun j => mine j == .missing).map fun j => (j, own j))) ∧
          ∀ k < 64, m'.getLsbD k = true ↔ k ∈ lanesOf m ∧ mine k = .missing)
    let asks := (lanesOf m).flatMap fun j => match mine j with | .wait as => as | _ => []
    let waits := fun (i : Instr) => MayRun i s → (∃ j ∈ lanesOf m, ∃ as, mine j = .wait as) →
      exec i s = .next ((s.askFor asks).result (.stalled none))
    let link := fun (l : Lane) => l.setVpair f.a.toNat (s.cur.pc + 8#64)
    (MayRun (.bra f) s → ok t → exec (.bra f) s = .next (s.pastWords (s.onExec m fun _ l => l.goTo t) 1 m)) ∧
    (MayRun (.call f) s → ok t →
      exec (.call f) s = .next (s.pastWords (s.onExec m fun _ l => (link l).goTo t) 1 m)) ∧
    (∀ c v, MayRun (.bra f) s → s.checkTarget s.cb.core s.cb.asid t = .trap c v →
      exec (.bra f) s = .next (s.trappedAt m c v)) ∧
    (∀ c v, MayRun (.call f) s → s.checkTarget s.cb.core s.cb.asid t = .trap c v →
      exec (.call f) s = .next (s.trappedAt m c v)) ∧
    (MayRun (.brx f) s → (∀ i ∈ lanesOf m, ok (own i)) →
      exec (.brx f) s = .next (s.pastWords (s.onExec m fun i l => l.goTo (own i)) 1 m)) ∧
    (MayRun (.ret f) s → (∀ i ∈ lanesOf m, ok (own i)) →
      exec (.ret f) s = .next (s.pastWords (s.onExec m fun i l => l.goTo (own i)) 1 m)) ∧
    (MayRun (.callx f) s → (∀ i ∈ lanesOf m, ok (own i)) →
      exec (.callx f) s = .next (s.pastWords (s.onExec m fun i l => (link l).goTo (own i)) 1 m)) ∧
    (MayRun (.bra f) s → s.checkTarget s.cb.core s.cb.asid t = .missing → parks (.bra f) m [(t, m, 3)]) ∧
    (MayRun (.call f) s → s.checkTarget s.cb.core s.cb.asid t = .missing → parks (.call f) m [(t, m, 3)]) ∧
    each (.brx f) ∧ each (.ret f) ∧ each (.callx f) ∧
    (∀ as, MayRun (.bra f) s → s.checkTarget s.cb.core s.cb.asid t = .wait as →
      exec (.bra f) s = .next ((s.askFor as).result (.stalled none))) ∧
    (∀ as, MayRun (.call f) s → s.checkTarget s.cb.core s.cb.asid t = .wait as →
      exec (.call f) s = .next ((s.askFor as).result (.stalled none))) ∧
    waits (.brx f) ∧ waits (.ret f) ∧ waits (.callx f)

/-- R95, R127 and R128: NOP only passes; EXIT turns the executing lanes into helpers, takes them out of every reconvergence
entry, ends a group left without an ordinary lane, and counts the items they leave undone; YIELD marks its group as one
whose quantum has expired. -/
def Obligations.NopExitYield : Prop :=
  ∀ (f : FmtB) (s : State),
    let m := s.execLanes f.guard
    (MayRun .nop s → exec .nop s = .next (s.pastWords s 1 0#64)) ∧
    (MayRun (.exitLanes f) s → s.issuing → ∃ t, exec (.exitLanes f) s = .next t ∧
      (∀ i < s.cg.lanes.length, (t.lane s.cur.blk s.cur.grp i).kind =
        if m.getLsbD i then .helper else (s.cg.lane i).kind) ∧
      (s.cg.ordinary &&& ~~~m = 0#64 → s.cg.lanes.length = 64 → (t.group s.cur.blk s.cur.grp).ended = true) ∧
      (∀ e ∈ (t.group s.cur.blk s.cur.grp).recon, e.members &&& m = 0#64) ∧
      t.counters = (if (s.launch s.cb.launch).ladder.isSome = true then
        (s.count (dieOf s.cb.core) 16 ((lanesOf m).filter fun i => !(s.cg.lane i).done).length).counters else s.counters) ∧
      t.mem = s.mem ∧ t.dead = s.dead) ∧
    (MayRun (.yieldGroup f) s → exec (.yieldGroup f) s = .next (s.pastWords
      (s.onGroup s.cur.blk s.cur.grp fun g => { g with yielded := true }) 1 0#64))

/-- R137 and R144: BAR and CBAR leave the executing lanes waiting at the barrier, past the instruction (CBAR traps in a
packed group); SLEEP leaves each lane waiting until b cycles of its core have passed, and does not wait for 0. Log
entry 57 gives the model's choices among these. -/
def Obligations.BarriersAndSleep : Prop :=
  ∀ (f : FmtA) (s : State),
    let m := s.execLanes f.guard
    (MayRun (.bar f) s → exec (.bar f) s = .next (s.pastWords
      (s.onExec m fun _ l => { l with wait := .bar f.b.toNat }) 1 0#64)) ∧
    (MayRun (.cbar f) s → exec (.cbar f) s = .next (
      if s.cb.packed.isSome then s.trappedAt m cLadder 0#64
      else s.pastWords (s.onExec m fun _ l => { l with wait := .cbar f.b.toNat }) 1 0#64)) ∧
    (MayRun (.sleep f) s → exec (.sleep f) s = .next (s.pastWords (s.onExec m fun _ l =>
      if rdB f s.cg l 32 = 0#64 then l
      else { l with wait := .sleep (s.clock s.cb.core + rdB f s.cg l 32) }) 1 0#64))

namespace Sys2Proof.Machine

/-- What R150 says of ranges that may not all be reached, looked up and judged in t for the instruction at issue in s, once no
walk of theirs waits: a refusal by protection or by a kernel-reserved frame traps, then a missing translation parks with
one entry for each page, then a lost domain traps, then poison (the last two once the lines of migrating pages are
pulled, which stay so); each with the address of the first such range, in every executing lane. -/
def Refused (i : Instr) (s t : State) (kind : Nat) (ts : List Touch) : Prop :=
  let m := s.execLanes i.guard
  let p := pullTouches t ts
  let late := p.2
  let allowed := fun (u : Touch) => u.tr ≠ .protection ∧ u.tr ≠ .kernelReserved
  let trapped := fun (c : Nat) (v : DWord) =>
    exec i s = .next ((p.1.takeTrap s.cur.blk s.cur.grp m c v s.cur.pc).result .trapped)
  ((∃ u ∈ ts, u.waits = true) → exec i s = .next ((t.askTouches ts).result (.stalled none))) ∧
  ((∀ u ∈ ts, u.waits = false) → (∀ u ∈ ts, allowed u ∧ u.tr ≠ .missing) → (∃ u ∈ late, u.waits = true) →
    exec i s = .next ((p.1.askTouches late).result (.stalled none))) ∧
  ((∀ u ∈ ts, u.waits = false) → ∀ (before after : List Touch) (u : Touch), ts = before ++ u :: after → (∀ w ∈ before, allowed w) →
    (u.tr = .protection → exec i s = .next (s.trappedAt m cProtection u.va)) ∧
    (u.tr = .kernelReserved → exec i s = .next (s.trappedAt m cKernel u.va))) ∧
  ((∀ u ∈ ts, u.waits = false) → (∀ u ∈ ts, allowed u) → (∃ u ∈ ts, u.tr = .missing) →
    let es := pageEntries kind ((ts.filter fun u => u.tr == Tr.missing).map fun u => (u.lane, u.va))
    exec i s = .next ((s.parkGroup s.cur.blk s.cur.grp m s.cur.pc es).result (.parked m es))) ∧
  ((∀ u ∈ ts, u.waits = false) → (∀ u ∈ ts, allowed u ∧ u.tr ≠ .missing) → (∀ u ∈ late, u.waits = false) →
    ∀ (before after : List Touch) (u : Touch), late = before ++ u :: after →
      (u.tr = .lost → (∀ w ∈ before, w.tr ≠ .lost) → trapped cLost u.va) ∧
      (u.tr = .poison → (∀ w ∈ late, w.tr ≠ .lost) → (∀ w ∈ before, w.tr ≠ .poison) → trapped cPoison u.va))

end Sys2Proof.Machine

/-- R141, R142 and R150: WAITC traps at a misaligned address, and traps or parks as a load does where a lane may not read
its word; while the walk of a lane's page waits for a table, or a line of a migrating page waits to be pulled, the path
waits, its requests made. Where every executing lane's word may be read, each lane reads its word. A lane whose read its
earlier accesses hold back waits; one that reads its word, at a place that the order of accesses allows, completes when
the condition holds of the value (the value in D, past the instruction) and otherwise waits, noting when it read, and
counts where it had read before; and a lane whose word its slice does not hold yet waits, having asked for it. Log
entries 14, 26, 39, 52, 64 and 67 give the model's choices among these. -/
def Obligations.WaitcInstruction : Prop :=
  (∀ (f : FmtA) (s : State),
    let m := s.execLanes f.guard
    let n := tyWidth f.ty / 8
    let addr := fun i => (s.cg.lane i).vpair f.a.toNat
    let ts := (lanesOf m).map fun i => s.touch needR i (addr i) n
    let noted := s.noteTouches ts
    (MayRun (.waitc f) s → (∀ i ∈ lanesOf m, (addr i).toNat % n = 0) → (∀ t ∈ ts, t.reaches) →
      exec (.waitc f) s = .next (s.pastWords
        (noted.2.foldl (fun (a : State) u =>
          (a.dropMonitor (.lane s.cur.blk s.cur.grp u.lane)).tryWait s.cur.blk s.cur.grp u.lane
            (watchOf f s.cg (s.cg.lane u.lane) u.va noted.1.nextId s.partner) u.place.1 u.place.2) noted.1.bumpId) 1 m)) ∧
    (∀ i, MayRun (.waitc f) s → (lanesOf m).find? (fun i => (addr i).toNat % n ≠ 0) = some i →
      exec (.waitc f) s = .next (s.trappedAt m cMisaligned (addr i))) ∧
    (MayRun (.waitc f) s → (∀ i ∈ lanesOf m, (addr i).toNat % n = 0) → Refused (.waitc f) s s 0 ts)) ∧
  (∀ (s : State) (b g i : Nat) (w0 : Watch) (loc : Loc) (swm : Bool),
    let core := (s.block b).core
    let w := { w0 with loc := loc }
    let t := s.tryWait b g i w0 loc swm
    let r := s.readAtSlice core (s.block b).asid loc swm (w.readAt.isSome && !w.asked) w.width
    let holds := fun (x : DWord) =>
      compareInt w.cc (toInteger (8 * w.width) w.signed x) (toInteger (8 * w.width) w.signed w.cmp)
    (s.blocks.get? b).isSome = true → i < (s.group b g).lanes.length →
    (r.1.blocks.get? b).isSome = true → i < (r.1.group b g).lanes.length →
    (s.waitTurn b g i w loc swm = .wait → (t.lane b g i).wait = .waitc w) ∧
    ∀ ps, s.waitTurn b g i w loc swm = .now ps →
      (∀ v, r.2 = some v →
        let x := r.1.waitValue w loc swm v (r.1.waitPlace w loc swm v ps)
        (holds x = true → t.lane b g i = (r.1.lane b g i).completeWait w x) ∧
        (holds x = false →
          (t.lane b g i).wait = .waitc { w with
            readAt := some (r.1.clock core), asked := false, again := r.1.behindHome (dieOf core) loc swm } ∧
          t.counters = if w.readAt.isSome then (r.1.count (dieOf core) 10).counters else r.1.counters)) ∧
      (r.2 = none →
        let h := r.1.countHold core loc w.counted
        (t.lane b g i).wait = .waitc { w with asked := true, counted := h.2 }))

/-! ### Memory instructions as they issue -/

namespace Sys2Proof.Machine

/-- The touches of an access by every executing lane; one that the core's L1 serves is not translated (R319). -/
def State.touches (s : State) (f : FmtM) (need : Need) (addr : Nat → DWord) : List Touch :=
  (lanesOf (s.execLanes f.guard)).map fun i => s.laneTouch need i (addr i) (Sys2Proof.Machine.accBytes f)

/-- Every executing lane's address is aligned to the width (R147). -/
def State.aligned (s : State) (f : FmtM) (addr : Nat → DWord) : Prop :=
  ∀ i ∈ lanesOf (s.execLanes f.guard), (addr i).toNat % Sys2Proof.Machine.accBytes f = 0

/-- s with an operation outstanding that holds one access for each touch, as the block's reuse clock counts it (R49, R149,
R151), and the path past the instruction. -/
def State.afterAccess (s : State) (f : FmtM) (ts : List Touch) (kind : OpKind) (dest : Nat) (acq rel last far : Bool)
    (data : Lane → BitVec 128 × DWord) : State :=
  let noted := s.noteTouches ts
  s.pastWords (noted.1.openOp (s.execLanes f.guard) f kind dest far true acq rel last
    (noted.2.map fun u => u.acc (data (s.cg.lane u.lane)).1 (data (s.cg.lane u.lane)).2)) 1 0#64

/-- What R147 and R150 say of an access that some lane may not make: a misaligned address traps, in every executing lane, with
the lowest such lane's address; then the rules of `Refused` hold. -/
def AccessRefused (i : Instr) (f : FmtM) (s : State) (need : Need) (kind : Nat) (addr : Nat → DWord) : Prop :=
  (∀ j, (lanesOf (s.execLanes i.guard)).find? (fun j => (addr j).toNat % accBytes f ≠ 0) = some j →
    exec i s = .next (s.trappedAt (s.execLanes i.guard) cMisaligned (addr j))) ∧
  (s.aligned f addr → Refused i s s kind (s.touches f need addr))

end Sys2Proof.Machine

/-- R145, R146, R150, R151, R153, R154 and R158: where every executing lane's address is aligned and leads somewhere, LD,
ST, LDV, STV, ATOM and RED leave outstanding an operation that holds one access for each executing lane, at a.w +
sext(B) × n (LD, ST, RED), at the uniform base plus (sext(B) + lane) × n (LDV, STV) or at a.w (ATOM), with the lane's
data. Log entries 16 and 19 give the model's choices among these. -/
def Obligations.LoadsStoresAtomicsIssue : Prop :=
  ∀ (f : FmtM) (s : State),
    let off := fun i => (s.cg.lane i).vpair f.a.toNat + BitVec.ofInt 64 (f.b.toInt * accBytes f)
    let run_ := fun (i : Nat) => s.cg.ureg f.a.toNat + BitVec.ofInt 64 ((f.b.toInt + i) * accBytes f)
    let at_ := fun i => (s.cg.lane i).vpair f.a.toNat
    let acq := f.ord.getLsbD 0
    let rel := f.ord.getLsbD 1
    let data := fun (l : Lane) => (l.data f.d.toNat f.wid.toNat, 0#64)
    (∀ sx, MayRun (.ld sx f) s → s.aligned f off → (∀ t ∈ s.touches f needR off, t.reaches) →
      exec (.ld sx f) s = .next
        (s.afterAccess f (s.touches f needR off) (.load sx) f.d.toNat acq false f.l false noData)) ∧
    (MayRun (.st f) s → s.aligned f off → (∀ t ∈ s.touches f needW off, t.reaches) →
      exec (.st f) s = .next (s.afterAccess f (s.touches f needW off) .store 0 false rel false false data)) ∧
    (MayRun (.ldv f) s → s.aligned f run_ → (∀ t ∈ s.touches f needR run_, t.reaches) →
      exec (.ldv f) s = .next
        (s.afterAccess f (s.touches f needR run_) (.load false) f.d.toNat acq false f.l false noData)) ∧
    (MayRun (.stv f) s → s.aligned f run_ → (∀ t ∈ s.touches f needW run_, t.reaches) →
      exec (.stv f) s = .next (s.afterAccess f (s.touches f needW run_) .store 0 false rel false false data)) ∧
    (∀ far op, MayRun (.atom far op f) s → s.aligned f at_ → (∀ t ∈ s.touches f needRW at_, t.reaches) →
      exec (.atom far op f) s = .next (s.afterAccess f (s.touches f needRW at_) (.atom op.toNat f.l) f.d.toNat acq rel
        false far (atomData op.toNat f.wid.toNat f.b.toNat))) ∧
    (∀ far op, MayRun (.red far op f) s → s.aligned f off → (∀ t ∈ s.touches f needRW off, t.reaches) →
      exec (.red far op f) s = .next (s.afterAccess f (s.touches f needRW off) (.red op.toNat f.l) 0 false rel
        false far (atomData op.toNat f.wid.toNat f.d.toNat)))

/-- R147 and R150: LD, ST, LDV, STV, ATOM and RED trap, in every executing lane, at the lowest misaligned address; aligned
ones that some lane may not make trap with the lowest refused lane's address, for a refusal by protection or a
kernel-reserved frame first; a missing translation parks the group, with one entry for each page; then a lost domain
traps, and then poison. While the walk of a lane's page waits for a table, or a line of a migrating page waits to be
pulled, the path waits, its requests made. Log entries 19, 39, 53, 64 and 67 give the model's choices among these. -/
def Obligations.AccessTraps : Prop :=
  ∀ (f : FmtM) (s : State),
    let off := fun i => (s.cg.lane i).vpair f.a.toNat + BitVec.ofInt 64 (f.b.toInt * accBytes f)
    let run_ := fun (i : Nat) => s.cg.ureg f.a.toNat + BitVec.ofInt 64 ((f.b.toInt + i) * accBytes f)
    let at_ := fun i => (s.cg.lane i).vpair f.a.toNat
    (∀ sx, MayRun (.ld sx f) s → AccessRefused (.ld sx f) f s needR 0 off) ∧
    (MayRun (.st f) s → AccessRefused (.st f) f s needW 1 off) ∧
    (MayRun (.ldv f) s → AccessRefused (.ldv f) f s needR 0 run_) ∧
    (MayRun (.stv f) s → AccessRefused (.stv f) f s needW 1 run_) ∧
    (∀ far op, MayRun (.atom far op f) s → AccessRefused (.atom far op f) f s needRW 2 at_) ∧
    (∀ far op, MayRun (.red far op f) s → AccessRefused (.red far op f) f s needRW 2 off)

/-- R145, R147 and R155: SLD and SST reach the block's own local store at the 32-bit sum of a and sext(B) × n, trap where the
offset is misaligned or the access passes the end of the block's `.lstore` bytes, and otherwise leave one access for each
executing lane outstanding. -/
def Obligations.LocalStoreIssue : Prop :=
  ∀ (f : FmtM) (s : State),
    let m := s.execLanes f.guard
    let n := accBytes f
    let off := fun i => ((s.cg.lane i).vreg f.a.toNat + BitVec.ofInt 32 (f.b.toInt * n)).toNat
    let accs := fun (data : Lane → BitVec 128) => (lanesOf m).map fun i =>
      ({ lane := i, va := BitVec.ofNat 64 (off i), loc := .ls s.cur.blk (off i), leaf := 0#7, fresh := false
         val := data (s.cg.lane i), val2 := 0#64, done := false, counted := [] } : Acc)
    let good := ∀ i ∈ lanesOf m, off i % n = 0 ∧ off i + n ≤ s.cb.lstore
    (∀ sx, MayRun (.sld sx f) s → good → exec (.sld sx f) s = .next (s.pastWords (s.openOp m f (.load sx) f.d.toNat false true
      (f.ord.getLsbD 0) false false (accs fun _ => 0#128)) 1 0#64)) ∧
    (MayRun (.sst f) s → good → exec (.sst f) s = .next (s.pastWords (s.openOp m f .store 0 false true false
      (f.ord.getLsbD 1) false (accs fun l => l.data f.d.toNat f.wid.toNat)) 1 0#64)) ∧
    (∀ sx i, MayRun (.sld sx f) s → (lanesOf m).find? (fun i => off i % n ≠ 0) = some i →
      exec (.sld sx f) s = .next (s.trappedAt m cMisaligned (BitVec.ofNat 64 (off i)))) ∧
    (∀ sx i, MayRun (.sld sx f) s → (∀ i ∈ lanesOf m, off i % n = 0) →
      (lanesOf m).find? (fun i => s.cb.lstore < off i + n) = some i →
      exec (.sld sx f) s = .next (s.trappedAt m cProtection (BitVec.ofNat 64 (off i)))) ∧
    (∀ i, MayRun (.sst f) s → (lanesOf m).find? (fun i => off i % n ≠ 0) = some i →
      exec (.sst f) s = .next (s.trappedAt m cMisaligned (BitVec.ofNat 64 (off i)))) ∧
    (∀ i, MayRun (.sst f) s → (∀ i ∈ lanesOf m, off i % n = 0) →
      (lanesOf m).find? (fun i => s.cb.lstore < off i + n) = some i →
      exec (.sst f) s = .next (s.trappedAt m cProtection (BitVec.ofNat 64 (off i))))

/-- R162, R163, R164 and R165: PREF, CWB and CINV leave an access outstanding for each sector range of an executing lane
that leads somewhere and skip the others, PREF once the lines of migrating pages are pulled, each waiting while a walk
or a pull of its ranges waits; CDISC does so when every range is made of whole sectors and may be written, and traps
at a range that is not, or as a store does where one may not be written; IPF, IPIN, IUNPIN and FENCE leave one access
for each executing lane. Log entries 39, 45, 64, 67, 71 and 81 give the model's choices among these. -/
def Obligations.CacheRangesAndFences : Prop :=
  ∀ (f : FmtM) (s : State),
    let m := s.execLanes f.guard
    let range := fun (l : Lane) => (l.vpair f.a.toNat, (l.vreg f.b.toNat).toNat)
    let after := fun (kind : OpKind) (noted : State × List Touch) =>
      s.pastWords (noted.1.openOp m f kind 0 false true false false false (noted.2.map lengthAcc)) 1 0#64
    let outer := rangeTouches s m needRange fun l => sectorRange (range l).1 (range l).2
    let outward := s.noteTouches (usable outer)
    let lines := (lanesOf m).map fun i => s.touch needR i (sectorRange ((s.cg.lane i).vpair f.a.toNat) 1).1 64
    let fetched := pullTouches s lines
    let quiet := fun (ts : List Touch) => ∀ u ∈ ts, u.waits = false
    let waits := fun (i : Instr) (t : State) (ts : List Touch) =>
      (∃ u ∈ ts, u.waits = true) → exec i s = .next ((t.askTouches ts).result (.stalled none))
    let plain := fun (kind : OpKind) (accs : List Acc) =>
      s.pastWords (s.openOp m f kind 0 false false false false false accs) 1 0#64
    let text := (lanesOf m).map fun i => plainAcc i (range (s.cg.lane i)).1 (range (s.cg.lane i)).2
    (MayRun (.pref f) s → waits (.pref f) s lines ∧ (quiet lines → waits (.pref f) fetched.1 fetched.2 ∧
      (quiet fetched.2 → exec (.pref f) s =
        .next (after (.pref (f.d.getLsbD 0)) (fetched.1.noteTouches (usable fetched.2)))))) ∧
    (MayRun (.cwb f) s → waits (.cwb f) s outer ∧ (quiet outer → exec (.cwb f) s = .next (after .cwb outward))) ∧
    (MayRun (.cinv f) s → waits (.cinv f) s outer ∧ (quiet outer → exec (.cinv f) s = .next (after .cinv outward))) ∧
    (MayRun (.cdisc f) s →
      (∀ i ∈ lanesOf m, (range (s.cg.lane i)).1.toNat % 64 = 0 ∧ (range (s.cg.lane i)).2 % 64 = 0) →
      (∀ t ∈ rangeTouches s m needW range, t.reaches) →
      exec (.cdisc f) s = .next (after .cdisc (s.noteTouches (rangeTouches s m needW range)))) ∧
    (∀ i, MayRun (.cdisc f) s → (lanesOf m).find? (fun i =>
        (range (s.cg.lane i)).1.toNat % 64 ≠ 0 || (range (s.cg.lane i)).2 % 64 ≠ 0) = some i →
      exec (.cdisc f) s = .next (s.trappedAt m cMisaligned (range (s.cg.lane i)).1)) ∧
    (MayRun (.cdisc f) s →
      (∀ i ∈ lanesOf m, (range (s.cg.lane i)).1.toNat % 64 = 0 ∧ (range (s.cg.lane i)).2 % 64 = 0) →
      Refused (.cdisc f) s s 1 (rangeTouches s m needW range)) ∧
    (MayRun (.ipf f) s → exec (.ipf f) s = .next (plain (.ifill false) text)) ∧
    (MayRun (.ipin f) s → exec (.ipin f) s = .next (plain (.ifill true) text)) ∧
    (MayRun (.iunpin f) s → exec (.iunpin f) s = .next (plain .unpin text)) ∧
    (MayRun (.fence f) s → exec (.fence f) s = .next (plain (.fence f.ord) ((lanesOf m).map fun i => plainAcc i 0#64 0)))

/-! ### The matrix unit, the copy engines and the ladder -/

namespace Sys2Proof.Machine

/-- The pieces of a range of the executing lane that is elected (R172, R176). -/
def State.piecesOf (s : State) (f : FmtA) (need : Need) (addr : DWord) (n : Nat) : List Touch :=
  (rangeChunks 64 addr n).map fun c => s.touch need (lowest (s.execLanes f.guard)) c.1 c.2

/-- What reads at issue answer once nothing holds them back and memory has what they need: the state they lead to, and
their bytes (R230, R240). -/
def State.readsAs (s : State) (nud : Nat) (reads : Reads) (q : State × List (List Byte)) : Prop :=
  s.readBehind reads = false ∧ s.readHeld reads = false ∧ (s.readReady nud reads).2 = true ∧
  (s.readReady nud reads).1.readBytes nud reads = some q

/-- What keeps an instruction that reads in t from having its effect: path A of its issue, whose accesses where it reads come
first (R152), so that the path issues now and reads later (log entries 26, 68); its lane's order or another lane, which
hold the read back (R230, R240); memory that has not answered yet; or a piece whose turn the reads before it have taken. -/
def ReadWaits (i : Instr) (s t : State) (nud : Nat) (reads : Reads) : Prop :=
  let r := t.readReady nud reads
  (t.readBehind reads = true → exec i s = .next (s.result .behind)) ∧
  (t.readBehind reads = false → t.readHeld reads = true → exec i s = .next (t.result (.stalled none))) ∧
  (t.readBehind reads = false → t.readHeld reads = false → r.2 = false →
    exec i s = .next ((r.1.readNote reads).result (.stalled none))) ∧
  (t.readBehind reads = false → t.readHeld reads = false → r.2 = true → r.1.readBytes nud reads = none →
    exec i s = .next (r.1.result (.stalled none)))

/-- How a path that finds no room in a unit is left: it waits, and where path A of the same issue alone leaves it none, it issues with
path A and takes its place in the unit later (R6, R28; log entry 68). -/
def State.unplaced (s : State) (byA : Bool) (ev : Option Nat) : State :=
  s.result (if s.cur.follows && byA then .behind else .stalled ev)

/-- The same for the queue of the matrix unit (R173). -/
def State.queueFull (s : State) (kind : MKind) : State := s.unplaced (!roomIn s (pathMops s) kind) none

/-- t, which the issue in s has led to, with a matrix operation accepted and the path past the instruction (R173). -/
def State.afterQueue (s t : State) (f : FmtA) (kind : MKind) (addr : DWord) (ts : List Touch) : State :=
  let m := s.execLanes f.guard
  s.pastWords (t.enqueue m ((s.cg.lane (lowest m)).flagFor f.u) (matNud f) kind addr (spansOf ts) 0) 1 0#64

/-- The block at issue is a matrix block that is configured (R166, R167). -/
def State.matrixBlock (s : State) : Prop := s.cb.oslots ≠ 0 ∧ s.cb.mconf = true

end Sys2Proof.Machine

/-- R15, R166, R167, R173, R174, R177 and R178: in a matrix block, TCFG writes the TCB and configures the block, OMCLAIM claims free
slots of the block and OMREL gives claimed ones back, each accepted into the queue; a wrong TCB, a slot beyond the
block's or one in the wrong state traps with TILE_STATE, and a path that finds the queue full waits, or takes its place
later where path A alone has filled it. Log entries 16 and 68 give the model's choices among these. -/
def Obligations.MatrixConfigAndSlots : Prop :=
  ∀ (f : FmtA) (s : State),
    let m := s.execLanes f.guard
    let v := s.cg.ureg f.a.toNat
    let c := s.core s.cb.core
    let r := slotMask f.d.toNat f.b.toNat
    let inside := f.d.toNat + f.b.toNat ≤ s.cb.oslots
    let change := fun (g : BitVec 64 → BitVec 64) => s.onBlock s.cur.blk fun b => { b with claimed := g b.claimed }
    (MayRun (.tcfg f) s → s.cb.oslots ≠ 0 → tcfgOk s v = true → queueRoom s .tcfg = true →
      exec (.tcfg f) s = .next (s.afterQueue
        ((s.setCore s.cb.core { c with tcb := v }).onBlock s.cur.blk fun b => { b with mconf := true }) f .tcfg 0#64 [])) ∧
    (MayRun (.omclaim f) s → s.cb.oslots ≠ 0 → inside → s.cb.claimed &&& r = 0#64 →
      queueRoom s (.omclaim f.d.toNat f.b.toNat) = true → exec (.omclaim f) s = .next
        (s.afterQueue (change (· ||| r)) f (.omclaim f.d.toNat f.b.toNat) 0#64 [])) ∧
    (MayRun (.omrel f) s → s.cb.oslots ≠ 0 → inside → s.cb.claimed &&& r = r →
      queueRoom s (.omrel f.d.toNat f.b.toNat) = true → exec (.omrel f) s = .next
        (s.afterQueue (change (· &&& ~~~r)) f (.omrel f.d.toNat f.b.toNat) 0#64 [])) ∧
    (MayRun (.tcfg f) s → s.cb.oslots = 0 ∨ tcfgOk s v = false →
      exec (.tcfg f) s = .next (s.trappedAt m cTileState 0#64)) ∧
    (MayRun (.omclaim f) s → s.cb.oslots = 0 ∨ ¬ inside ∨ s.cb.claimed &&& r ≠ 0#64 →
      exec (.omclaim f) s = .next (s.trappedAt m cTileState 0#64)) ∧
    (MayRun (.omrel f) s → s.cb.oslots = 0 ∨ ¬ inside ∨ s.cb.claimed &&& r ≠ r →
      exec (.omrel f) s = .next (s.trappedAt m cTileState 0#64)) ∧
    (MayRun (.tcfg f) s → s.cb.oslots ≠ 0 → tcfgOk s v = true → queueRoom s .tcfg = false →
      exec (.tcfg f) s = .next (s.queueFull .tcfg)) ∧
    (MayRun (.omclaim f) s → s.cb.oslots ≠ 0 → inside → s.cb.claimed &&& r = 0#64 →
      queueRoom s (.omclaim f.d.toNat f.b.toNat) = false →
      exec (.omclaim f) s = .next (s.queueFull (.omclaim f.d.toNat f.b.toNat))) ∧
    (MayRun (.omrel f) s → s.cb.oslots ≠ 0 → inside → s.cb.claimed &&& r = r →
      queueRoom s (.omrel f.d.toNat f.b.toNat) = false →
      exec (.omrel f) s = .next (s.queueFull (.omrel f.d.toNat f.b.toNat)))

namespace Sys2Proof.Machine

/-- What a matrix instruction over n bytes at the elected lane's address does in a configured block, as the operation `kind`
(R173, R176): it traps at an address that is no multiple of 256, traps or parks where a page of the range may not be
reached, waits while a walk or a pull of the range or a full queue does, and is accepted otherwise. -/
def MatrixRange (i : Instr) (f : FmtA) (s : State) (need : Need) (fault n : Nat) (kind : MKind) : Prop :=
  let m := s.execLanes f.guard
  let addr := (s.cg.lane (lowest m)).vpair f.a.toNat
  let ts := s.piecesOf f need addr n
  (addr.toNat % 256 ≠ 0 → exec i s = .next (s.trappedAt m cMisaligned addr)) ∧
  (addr.toNat % 256 = 0 → Refused i s s fault ts) ∧
  (addr.toNat % 256 = 0 → (∀ t ∈ ts, t.reaches) → queueRoom s kind = false →
    exec i s = .next (s.queueFull kind)) ∧
  (addr.toNat % 256 = 0 → (∀ t ∈ ts, t.reaches) → queueRoom s kind = true →
    exec i s = .next (s.afterQueue (s.noteTouches ts).1 f kind addr (s.noteTouches ts).2))

end Sys2Proof.Machine

/-- R166, R173, R176, R179, R183 and R184: in a configured block, OMLD, OMST, ACLD, ACST and MSAVE put an operation over
the elected lane's range into the queue when its address is a multiple of 256 and every page of the range leads
somewhere; a misaligned address traps, a page that may not be reached traps or parks, the path waits, its requests
made, while the walk of a page waits for a table or a line of a migrating page waits to be pulled, and a full queue
makes the path wait, or take its place later where path A alone has filled it. Outside a configured block, and for
OMLD and OMST at a slot that is not claimed, they trap with TILE_STATE. Log entries 16, 39, 47, 64, 67, 68 and 71 give
the model's choices among these. -/
def Obligations.MatrixMemoryIssue : Prop :=
  ∀ (f : FmtA) (s : State),
    let m := s.execLanes f.guard
    let slot := f.d.toNat
    let held := s.cb.claimed.getLsbD slot = true
    let last := f.c.getLsbD 5
    let refused := fun i => exec i s = .next (s.trappedAt m cTileState 0#64)
    (∀ isB, MayRun (.omld isB f) s → s.matrixBlock → held →
      MatrixRange (.omld isB f) f s needR 0 (imageBytes (tcbNow s) isB) (.omld isB slot last)) ∧
    (∀ isB, MayRun (.omst isB f) s → s.matrixBlock → held →
      MatrixRange (.omst isB f) f s needW 1 (imageBytes (tcbNow s) isB) (.omst isB slot)) ∧
    (MayRun (.acld f) s → s.matrixBlock → MatrixRange (.acld f) f s needR 0 (tileBytes (tcbNow s)) (.acld slot last)) ∧
    (MayRun (.acst f) s → s.matrixBlock → MatrixRange (.acst f) f s needW 1 (tileBytes (tcbNow s)) (.acst slot)) ∧
    (MayRun (.msave f) s → s.matrixBlock → MatrixRange (.msave f) f s needW 1 131328 .msave) ∧
    (∀ isB, MayRun (.omld isB f) s → ¬ (s.matrixBlock ∧ held) → refused (.omld isB f)) ∧
    (∀ isB, MayRun (.omst isB f) s → ¬ (s.matrixBlock ∧ held) → refused (.omst isB f)) ∧
    (MayRun (.acld f) s → ¬ s.matrixBlock → refused (.acld f)) ∧
    (MayRun (.acst f) s → ¬ s.matrixBlock → refused (.acst f)) ∧
    (MayRun (.msave f) s → ¬ s.matrixBlock → refused (.msave f))

/-- R16, R173, R180, R182 and R183: in a configured block, MMA checks its format word, its block's alignment and place in
the local store and the block's parameters in that order, and is accepted with the parameters it read; it waits while
that read is held back, and where an access of path A of the same issue reaches there, which comes first, it issues
with path A and reads its parameters later; ACZ and ACRD are accepted as they stand, ACRD with each lane's row. Each
traps with TILE_STATE outside a configured block, and where the queue has no room for it waits, or takes its place
later where path A alone has filled it. Log entries 16, 26, 54 and 68 give the model's choices among these. -/
def Obligations.MatrixMathIssue : Prop :=
  ∀ (f : FmtA) (s : State),
    let m := s.execLanes f.guard
    let el := s.cg.lane (lowest m)
    let off := (el.vreg f.a.toNat).toNat
    let fw := el.vreg f.b.toNat
    let agree := ∀ i ∈ lanesOf m, (s.cg.lane i).vreg f.b.toNat = fw
    let format := bits fw 10 22 = 0 ∧ bits fw 0 10 = bits (tcbNow s) 0 10
    let loc := Loc.ls s.cur.blk off
    let turn := s.issueTurn (lowest m) loc 32 0#7
    let v := s.issueTook (lowest m) loc 32 0#7
    let pb := s.bytesAt (s.pick turn) loc 32
    let first := s.issueBehind loc 32 = false
    let free := first ∧ turn ≠ .wait
    let good := pbOk s.cb.claimed (tcbFmt (tcbNow s)) pb
    let rows := (lanesOf m).map fun i => (i, if f.bi then bits f.b 0 6 else bits ((s.cg.lane i).vreg f.b.toNat) 0 6)
    (MayRun (.mma f) s → s.matrixBlock → agree → format → off % 32 = 0 → off + 32 ≤ s.cb.lstore → free → good = true →
      queueRoom v (.mma pb) = true → exec (.mma f) s = .next (s.pastWords
        (v.enqueue m ((v.cg.lane (lowest m)).flagFor f.u) (matNud f) (.mma pb) 0#64 [] 0) 1 0#64)) ∧
    (MayRun (.acz f) s → s.matrixBlock → queueRoom s (.acz f.d.toNat) = true →
      exec (.acz f) s = .next (s.afterQueue s f (.acz f.d.toNat) 0#64 [])) ∧
    (MayRun (.acrd f) s → s.matrixBlock → queueRoom s (.acrd f.a.toNat f.d.toNat rows) = true →
      exec (.acrd f) s = .next (s.afterQueue s f (.acrd f.a.toNat f.d.toNat rows) 0#64 [])) ∧
    (MayRun (.mma f) s → ¬ s.matrixBlock → exec (.mma f) s = .next (s.trappedAt m cTileState 0#64)) ∧
    (MayRun (.acz f) s → ¬ s.matrixBlock → exec (.acz f) s = .next (s.trappedAt m cTileState 0#64)) ∧
    (MayRun (.acrd f) s → ¬ s.matrixBlock → exec (.acrd f) s = .next (s.trappedAt m cTileState 0#64)) ∧
    (MayRun (.mma f) s → s.matrixBlock → agree → format → off % 32 = 0 → off + 32 ≤ s.cb.lstore → free → good = true →
      queueRoom v (.mma pb) = false → exec (.mma f) s = .next (s.unplaced (!roomIn v (pathMops v) (.mma pb)) none)) ∧
    (MayRun (.acz f) s → s.matrixBlock → queueRoom s (.acz f.d.toNat) = false →
      exec (.acz f) s = .next (s.queueFull (.acz f.d.toNat))) ∧
    (MayRun (.acrd f) s → s.matrixBlock → queueRoom s (.acrd f.a.toNat f.d.toNat rows) = false →
      exec (.acrd f) s = .next (s.queueFull (.acrd f.a.toNat f.d.toNat rows))) ∧
    (MayRun (.mma f) s → s.matrixBlock → ¬ agree → exec (.mma f) s = .next (s.trappedAt m cFormat 0#64)) ∧
    (MayRun (.mma f) s → s.matrixBlock → agree → ¬ format → exec (.mma f) s = .next (s.trappedAt m cTileState 0#64)) ∧
    (MayRun (.mma f) s → s.matrixBlock → agree → format → off % 32 ≠ 0 →
      exec (.mma f) s = .next (s.trappedAt m cMisaligned (BitVec.ofNat 64 off))) ∧
    (MayRun (.mma f) s → s.matrixBlock → agree → format → off % 32 = 0 → s.cb.lstore < off + 32 →
      exec (.mma f) s = .next (s.trappedAt m cProtection (BitVec.ofNat 64 off))) ∧
    (MayRun (.mma f) s → s.matrixBlock → agree → format → off % 32 = 0 → off + 32 ≤ s.cb.lstore → free → good = false →
      exec (.mma f) s = .next ((v.takeTrap s.cur.blk s.cur.grp m cTileState 0#64 s.cur.pc).result .trapped)) ∧
    (MayRun (.mma f) s → s.matrixBlock → agree → format → off % 32 = 0 → off + 32 ≤ s.cb.lstore → first → ¬ free →
      exec (.mma f) s = .next (s.result (.stalled none))) ∧
    (MayRun (.mma f) s → s.matrixBlock → agree → format → off % 32 = 0 → off + 32 ≤ s.cb.lstore → ¬ first →
      exec (.mma f) s = .next (s.result .behind))

/-- R185: MRES traps in a block without slots, at a misaligned address and where a page of its record may not be reached;
the path waits, its requests made, while the walk of a page waits for a table or a line of a migrating page waits to be
pulled; it waits until the block has no operation queued by an earlier issue, and while its lane's earlier accesses or
the memory hold its read back, path A's accesses to the record coming first; then it reads the record at the elected
lane's address, traps with TILE_STATE on one that breaks R185's rules, and otherwise, once the queue has room, restores
the TCB and queues the tiles' restoration and the saved MMAs, in their order, with the first one's progress. Log entries
26, 39, 54, 59, 64, 67, 68 and 71 give the model's choices among these. -/
def Obligations.MatrixRestore : Prop :=
  ∀ (f : FmtA) (s : State),
    let m := s.execLanes f.guard
    let addr := (s.cg.lane (lowest m)).vpair f.a.toNat
    let ts := s.piecesOf f needR addr 131328
    let noted := s.noteTouches ts
    let reads := [(lowest m, addr, spansOf noted.2)]
    let busy := (s.core s.cb.core).mq.any fun o => o.blk == s.cur.blk && decide (o.id < s.cur.firstId)
    MayRun (.mres f) s →
    (s.cb.oslots = 0 → exec (.mres f) s = .next (s.trappedAt m cTileState 0#64)) ∧
    (s.cb.oslots ≠ 0 → addr.toNat % 256 ≠ 0 → exec (.mres f) s = .next (s.trappedAt m cMisaligned addr)) ∧
    (s.cb.oslots ≠ 0 → addr.toNat % 256 = 0 → Refused (.mres f) s s 0 ts) ∧
    (s.cb.oslots ≠ 0 → addr.toNat % 256 = 0 → (∀ t ∈ ts, t.reaches) →
      (busy = true → exec (.mres f) s = .next (s.result (.stalled none))) ∧
      (busy = false → ReadWaits (.mres f) s noted.1 (matNud f) reads) ∧
      ∀ q, busy = false → noted.1.readsAs (matNud f) reads q →
        let r := MRecord.ofBytes (q.2.headD [])
        let room := fun (n : Nat) => n + r.pbs.length < 8
        (r.ok s.cb.claimed = true → room (s.core s.cb.core).mq.length → exec (.mres f) s =
          .next (s.pastWords (q.1.restoreRecord m ((s.cg.lane (lowest m)).flagFor f.u) (matNud f) addr r) 1 0#64)) ∧
        (r.ok s.cb.claimed = true → ¬ room (s.core s.cb.core).mq.length → exec (.mres f) s =
          .next (s.unplaced (!restoreRoom (pathMops s) r) none)) ∧
        (r.ok s.cb.claimed = false → exec (.mres f) s =
          .next ((q.1.takeTrap s.cur.blk s.cur.grp m cTileState 0#64 s.cur.pc).result .trapped)))

namespace Sys2Proof.Machine

/-- The lanes' control words, and with `.post` their completion words' addresses, pass the checks of a copy (R262, R263). -/
def State.copyWords (s : State) (f : FmtA) (ctl : Lane → Word) : Prop :=
  ∀ i ∈ lanesOf (s.execLanes f.guard), bits (ctl (s.cg.lane i)) 9 23 = 0 ∧
    (f.bi = true → ((s.cg.lane i).vpair f.c.toNat).toNat % 8 = 0)

end Sys2Proof.Machine

/-- R261 to R263, R266 and R272: CPY hands one copy of B bytes from the lane's A to its D, and CPYT one copy that its
descriptor describes, to the core's engine for each executing lane, when the control and completion words are well
formed and the engine has room; a reserved control bit, a misaligned descriptor or completion word, a refused window
byte and a descriptor that breaks R272's rules trap; CPYT traps or parks where its descriptor may not be read,
waits, its requests made, while the walk of its page waits for a table or a line of a migrating page waits to be
pulled, waits while its read is held back, and, where path A of the same issue reaches its descriptor, issues with path
A and reads it later; and a path that finds the engine full waits, or takes its place later where path A alone has
filled it. Log entries 26, 39, 54, 64, 67 and 68 give the model's choices among these. -/
def Obligations.CopiesIssue : Prop :=
  ∀ (f : FmtA) (s : State),
    let m := s.execLanes f.guard
    let l := fun i => s.cg.lane i
    let addr := fun i => (l i).vpair f.a.toNat
    let room := s.engineCount s.cb.core 0 + countLanes m ≤ 256
    let full := s.unplaced (decide (256 < s.engineCount s.cb.core s.cur.firstId + countLanes m)) (some 15)
    let ranges := (lanesOf m).flatMap fun i =>
      [((l i).vpair f.a.toNat, ((l i).vreg f.b.toNat).toNat), ((l i).vpair f.d.toNat, ((l i).vreg f.b.toNat).toNat)] ++
        (if f.bi then [((l i).vpair f.c.toNat, 8)] else [])
    let ctl := fun (x : Lane) => x.vreg (f.b.toNat + 1)
    let tctl := fun (x : Lane) => x.vreg f.b.toNat
    let ts := (lanesOf m).flatMap fun i => (rangeChunks 64 (addr i) 128).map fun c => s.touch needR i c.1 c.2
    let noted := s.noteTouches ts
    let reads := (lanesOf m).map fun i => (i, addr i, spansOf (noted.2.filter fun u => u.lane == i))
    (MayRun (.cpy f) s → s.copyWords f ctl → badWindow s ranges = none → room →
      exec (.cpy f) s = .next (s.pastWords ((lanesOf m).foldl (fun t i => t.startCopy (newCopy s m f i false []
        ((l i).vpair f.a.toNat) ((l i).vpair f.d.toNat) ((l i).vreg f.b.toNat).toNat (ctl (l i)))) s) 1 0#64)) ∧
    (∀ r, MayRun (.cpyt f) s → s.copyWords f tctl → (∀ i ∈ lanesOf m, (addr i).toNat % 64 = 0) → (∀ t ∈ ts, t.reaches) →
      noted.1.readsAs 0 reads r → (∀ d ∈ (lanesOf m).zip r.2, descOk d.2 = true) → room →
      exec (.cpyt f) s = .next (s.pastWords (((lanesOf m).zip r.2).foldl (fun u d =>
        u.startCopy (newCopy s m f d.1 true d.2 (addr d.1) 0#64 0 (tctl (l d.1)))) r.1) 1 0#64)) ∧
    (∀ w, MayRun (.cpy f) s → badCtl s m ctl = some w →
      exec (.cpy f) s = .next (s.trappedAt m cIllegal (w.setWidth 64))) ∧
    (∀ w, MayRun (.cpyt f) s → badCtl s m tctl = some w →
      exec (.cpyt f) s = .next (s.trappedAt m cIllegal (w.setWidth 64))) ∧
    (∀ a, MayRun (.cpy f) s → badCtl s m ctl = none → badPost s m f = some a →
      exec (.cpy f) s = .next (s.trappedAt m cMisaligned a)) ∧
    (∀ i, MayRun (.cpyt f) s → badCtl s m tctl = none → (lanesOf m).find? (fun i => (addr i).toNat % 64 ≠ 0) = some i →
      exec (.cpyt f) s = .next (s.trappedAt m cMisaligned (addr i))) ∧
    (MayRun (.cpyt f) s → badCtl s m tctl = none → (∀ i ∈ lanesOf m, (addr i).toNat % 64 = 0) →
      Refused (.cpyt f) s s 0 ts ∧
      ((∀ t ∈ ts, t.reaches) → ReadWaits (.cpyt f) s noted.1 0 reads) ∧
      (∀ r, (∀ t ∈ ts, t.reaches) → noted.1.readsAs 0 reads r →
        (∀ d, ((lanesOf m).zip r.2).find? (fun d => !descOk d.2) = some d → exec (.cpyt f) s =
          .next ((r.1.takeTrap s.cur.blk s.cur.grp m cProtection (addr d.1) s.cur.pc).result .trapped)) ∧
        ((∀ d ∈ (lanesOf m).zip r.2, descOk d.2 = true) →
          (∀ a, badPost s m f = some a → exec (.cpyt f) s =
            .next ((r.1.takeTrap s.cur.blk s.cur.grp m cMisaligned a s.cur.pc).result .trapped)) ∧
          (badPost s m f = none → ¬ room → exec (.cpyt f) s = .next full)))) ∧
    (∀ a, MayRun (.cpy f) s → s.copyWords f ctl → badWindow s ranges = some a →
      exec (.cpy f) s = .next (s.trappedAt m cProtection a)) ∧
    (MayRun (.cpy f) s → s.copyWords f ctl → badWindow s ranges = none → ¬ room →
      exec (.cpy f) s = .next full)

/-- R266 to R269: CSEAL gives each executing lane's open copies its next batch number unless the lane has sixteen batches
that are not DONE; CWAIT waits while a batch it covers is neither DONE nor FAILED, passes when none is left, the payload
of the batches it covers coming before what the lane does afterwards (R284; log entry 14 says how orders are kept), and
reports the lowest failed batch of the lowest lane by a trap in that lane. Log entries 14 and 58 give the
model's choices among these. -/
def Obligations.CopyBatches : Prop :=
  ∀ (f : FmtA) (s : State),
    let m := s.execLanes f.guard
    let left := fun i => coveredBatches s i (rdBv f (s.cg.lane i))
    (MayRun (.cseal f) s → (∀ i ∈ lanesOf m, sealPasses s i = false) → exec (.cseal f) s =
      .next (s.pastWords ((lanesOf m).foldl (fun t i => t.sealLane s.cur.blk s.cur.grp i) s) 1 0#64)) ∧
    (∀ i ∈ lanesOf m, MayRun (.cseal f) s → sealPasses s i = true →
      exec (.cseal f) s = .next (s.result (.stalled (some 15)))) ∧
    (MayRun (.cwait f) s → (∀ i ∈ lanesOf m, left i = []) → exec (.cwait f) s = .next (s.pastWords
      ((lanesOf m).foldl (fun t i => t.markBatches i (rdBv f (s.cg.lane i))) s) 1 0#64)) ∧
    (∀ i ∈ lanesOf m, ∀ b ∈ left i, MayRun (.cwait f) s → batchFailed s i b = false →
      exec (.cwait f) s = .next (s.result (.stalled none))) ∧
    (∀ i b bs, MayRun (.cwait f) s → (∀ j ∈ lanesOf m, ∀ b ∈ left j, batchFailed s j b = true) →
      (lanesOf m).find? (fun j => left j ≠ []) = some i → left i = b :: bs →
      exec (.cwait f) s = .next (((s.reportBatch i b).takeTrap s.cur.blk s.cur.grp (laneBit i) (batchError s i b).1
        (batchError s i b).2 s.cur.pc).result .trapped))

namespace Sys2Proof.Machine

/-- What a contribution says, without its number. -/
def Contrib.what (c : Contrib) : Nat × Nat × Nat × Nat × Nat × BitVec 128 × Nat :=
  (c.fid, c.win, c.elem, c.op, c.ty, c.value, c.count)

end Sys2Proof.Machine

/-- R278, R279, R280 and R284: XRED and SPRED add one contribution for each executing lane whose handle names this package
to the hub's, in lane order, with the lane's value, at element B + lane number (XRED) or at the element in B (SPRED),
and change no memory; a handle with a reserved bit or without a route traps, and (log entry 67's choice) the path
waits while an access that comes before the contribution in its lane is outstanding. Log entries 41 and 67 give the
model's choices among these. -/
def Obligations.Contributions : Prop :=
  ∀ (f : FmtA) (s : State),
    let m := s.execLanes f.guard
    let h := fun i => (s.cg.lane i).vreg f.a.toNat
    let ok := ∀ i ∈ lanesOf m, handleOk s (h i) = true
    let free := ∀ i ∈ lanesOf m, contribWaits s (h i) i = false
    let added := fun (elem : Nat → Word) => ((lanesOf m).filter fun i => handleFid (h i) == s.hub.fid).map fun i =>
      (s.hub.fid, handleWin (h i), (elem i).toNat, redOp f, f.ty, contribValue f (s.cg.lane i), 1)
    let adds := fun (elem : Nat → Word) (t : State) =>
      t.hub.contribs.map Contrib.what = s.hub.contribs.map Contrib.what ++ added elem ∧ t.mem = s.mem ∧ t.ops = s.ops ∧
      (∀ b g, (b ≠ s.cur.blk ∨ g ≠ s.cur.grp) → t.group b g = s.group b g)
    (MayRun (.xred f) s → ok → free → ∃ t, exec (.xred f) s = .next t ∧
      adds (fun i => rdBv f (s.cg.lane i) + BitVec.ofNat 32 i) t) ∧
    (MayRun (.spred f) s → ok → free → ∃ t, exec (.spred f) s = .next t ∧
      adds (fun i => (s.cg.lane i).vreg f.b.toNat) t) ∧
    (∀ i, MayRun (.xred f) s → (lanesOf m).find? (fun i => !handleOk s (h i)) = some i →
      exec (.xred f) s = .next (s.trappedAt m cProtection ((h i).setWidth 64))) ∧
    (∀ i, MayRun (.spred f) s → (lanesOf m).find? (fun i => !handleOk s (h i)) = some i →
      exec (.spred f) s = .next (s.trappedAt m cProtection ((h i).setWidth 64))) ∧
    (MayRun (.xred f) s → ok → ¬ free → exec (.xred f) s = .next (s.result (.stalled none))) ∧
    (MayRun (.spred f) s → ok → ¬ free → exec (.spred f) s = .next (s.result (.stalled none)))

/-- R274 and R275: ESAVE takes the block's copies out of the engine and leaves stores of their record outstanding, when
every page of the record leads somewhere; ERES reads a record at the elected lane's address, its entries after its
header, and, where every rule of R275 holds, queues its copies again. A misaligned address, a page that may not be
reached, and for ERES a header or an entry that breaks a rule trap (a missing translation parks); both wait, their
requests made, while the walk of a page waits for a table or a line of a migrating page waits to be pulled; ERES waits
while a read of its own is held back, and, where path A of the same issue reaches what it reads, issues with path A and
reads later. Log entries 26, 39, 54, 60, 64, 67 and 68 give the model's choices among these. -/
def Obligations.EngineRecords : Prop :=
  ∀ (f : FmtA) (s : State),
    let m := s.execLanes f.guard
    let lane := lowest m
    let addr := (s.cg.lane lane).vpair f.a.toNat
    let bs := s.engineRecord s.cur.blk
    let ws := s.piecesOf f needW addr bs.length
    let wn := s.noteTouches ws
    let hs := s.piecesOf f needR addr 64
    let hn := s.noteTouches hs
    let hread := [(lane, addr, spansOf hn.2)]
    (MayRun (.esave f) s → addr.toNat % 64 = 0 → (∀ t ∈ ws, t.reaches) → exec (.esave f) s = .next (s.pastWords
      ((wn.1.saveCopies s.cur.blk).openStores m f (pieceAccs lane addr (spansOf wn.2) bs)) 1 0#64)) ∧
    (MayRun (.esave f) s → addr.toNat % 64 = 0 → Refused (.esave f) s s 1 ws) ∧
    (MayRun (.esave f) s → addr.toNat % 64 ≠ 0 → exec (.esave f) s = .next (s.trappedAt m cMisaligned addr)) ∧
    (MayRun (.eres f) s → addr.toNat % 64 ≠ 0 → exec (.eres f) s = .next (s.trappedAt m cMisaligned addr)) ∧
    (MayRun (.eres f) s → addr.toNat % 64 = 0 → Refused (.eres f) s s 0 hs) ∧
    (MayRun (.eres f) s → addr.toNat % 64 = 0 → (∀ t ∈ hs, t.reaches) → ReadWaits (.eres f) s hn.1 0 hread) ∧
    ∀ h, MayRun (.eres f) s → addr.toNat % 64 = 0 → (∀ t ∈ hs, t.reaches) → hn.1.readsAs 0 hread h →
      let hd := h.2.headD []
      let n := wordAt hd 0 8
      let header := wordAt hd 8 8 = (s.blockId s.cb).toNat ∧ n ≤ 256 ∧ allZero ((hd.drop 16).take 48) = true ∧
        s.engineCount s.cb.core 0 + n ≤ 256
      let es := (rangeChunks 64 (addr + 64#64) (64 * n)).map fun c => h.1.touch needR lane c.1 c.2
      let en := h.1.noteTouches es
      let eread := [(lane, addr + 64#64, spansOf en.2)]
      (¬ header →
        exec (.eres f) s = .next ((h.1.takeTrap s.cur.blk s.cur.grp m cProtection addr s.cur.pc).result .trapped)) ∧
      (header → n = 0 → exec (.eres f) s = .next (s.pastWords h.1 1 0#64)) ∧
      (header → n ≠ 0 → (addr + 64#64).toNat % 64 = 0 → Refused (.eres f) s h.1 0 es) ∧
      (header → n ≠ 0 → (addr + 64#64).toNat % 64 = 0 → (∀ t ∈ es, t.reaches) →
        ReadWaits (.eres f) s en.1 0 eread ∧
        ∀ r, en.1.readsAs 0 eread r →
          let ents := (List.range n).map fun i => ((r.2.headD []).drop (64 * i)).take 64
          ((∀ i < n, entryOk s (ents.getD i []) = true) → exec (.eres f) s = .next (s.pastWords
            (ents.foldl (fun v e => v.requeue (copyOfEntry s e)) r.1) 1 0#64)) ∧
          (∀ i < n, entryOk s (ents.getD i []) = false → (∀ j < i, entryOk s (ents.getD j []) = true) →
            exec (.eres f) s = .next ((r.1.takeTrap s.cur.blk s.cur.grp m
              cProtection (addr + BitVec.ofNat 64 (64 + 64 * i)) s.cur.pc).result .trapped)))

/-- R189 and R199 to R203: in a ladder's launch, ESC appends the lanes' frames to the ring of a higher rung, in lane order
as far as the ring has room, and ends those lanes, the others staying at it; it waits while no lane may enter, but
issues so where path A of the same issue has filled the ring; LDONE leaves the stores of each lane's record
outstanding and sets its DONE bit, trapping or parking where a record may not be written, and waiting, its requests
made, while the walk of a record's page waits for a table or a line of a migrating page waits to be pulled; LQRY reads the state word of
a rung's ring and LDRAIN marks the ring; outside their rules each traps with LADDER. Log entries 39, 62, 64, 67, 68
and 73 give the model's choices among these. -/
def Obligations.LadderInstructions : Prop :=
  ∀ (f : FmtA) (s : State) (l : Ladder),
    let m := s.execLanes f.guard
    let k := f.b.toNat
    let key := ringKey s.cb.core s.cb.launch k
    let ring := s.ring key
    let x := fun i => s.cg.lane i
    let fresh := ∀ i ∈ lanesOf m, (x i).done = false
    let still := fun n => runPending s m f.a.toNat n = false
    let refused := fun i => exec i s = .next (s.trappedAt m cLadder 0#64)
    let ts := (lanesOf m).flatMap fun i => (rangeChunks 4 (recordAddr l (x i)) l.rstride).map fun c => s.touch needW i c.1 c.2
    let noted := s.noteTouches ts
    let o : Op :=
      { kind := .ldone, blk := s.cur.blk, grp := s.cur.grp, core := s.cb.core, asid := s.cb.asid, flag := none, wid := 2
        acq := false, rel := false, scope := 3, far := false, last := false, nud := 0, clock := s.cb.reuse, dest := 0
        pc := s.cur.pc, after := s.partner, accs := noted.2.flatMap (recordAccs s l f.a.toNat) }
    (∀ r, MayRun (.esc f) s → ladderNow s = some l → s.cg.rung < k → l.rungs[k]? = some r →
      f.a.toNat + r.frame ≤ s.cb.regs → fresh → still r.frame →
      let go := (lanesOf m).take (r.ring - ring.frames.length)
      let gm := maskOf fun i => go.contains i
      (go ≠ [] ∨ s.cur.follows = true → exec (.esc f) s = .next (s.pastWords ((s.setRing key
        { ring with frames := ring.frames ++ go.map (frameOf s f.a.toNat r.frame) }).retireLanes s.cur.blk s.cur.grp gm)
          1 m)) ∧
      (go = [] → s.cur.follows = false → exec (.esc f) s = .next (s.result (.stalled none)))) ∧
    (MayRun (.ldone f) s → ladderNow s = some l → f.a.toNat + l.rstride / 4 ≤ s.cb.regs → fresh → still (l.rstride / 4) →
      (∀ t ∈ ts, t.reaches) →
      let t1 := noted.1.onExec m fun _ y => { y with done := true }
      exec (.ldone f) s =
        .next (s.pastWords { t1 with ops := t1.ops.set t1.nextId o, nextId := t1.nextId + 1 } 1 0#64)) ∧
    (MayRun (.lqry f) s → ladderNow s = some l → k < l.rungs.length → exec (.lqry f) s = .next
      (s.pastWords (s.onExec m fun _ y => y.put f.d.toNat 32 (ringWord s l k)) 1 0#64)) ∧
    (MayRun (.ldrain f) s → ladderNow s = some l → 0 < k → k < l.rungs.length → exec (.ldrain f) s = .next
      (s.pastWords (s.setRing key { ring with forced := true }) 1 0#64)) ∧
    (MayRun (.ldone f) s → ladderNow s = some l → f.a.toNat + l.rstride / 4 ≤ s.cb.regs → fresh → still (l.rstride / 4) →
      Refused (.ldone f) s s 1 ts) ∧
    (∀ r, MayRun (.esc f) s → ladderNow s = some l → s.cg.rung < k → l.rungs[k]? = some r →
      f.a.toNat + r.frame ≤ s.cb.regs → fresh → ¬ still r.frame → exec (.esc f) s = .next (s.result (.stalled (some 0)))) ∧
    (MayRun (.ldone f) s → ladderNow s = some l → f.a.toNat + l.rstride / 4 ≤ s.cb.regs → fresh →
      ¬ still (l.rstride / 4) → exec (.ldone f) s = .next (s.result (.stalled (some 0)))) ∧
    (MayRun (.esc f) s → (ladderNow s = none ∨ k ≤ s.cg.rung) → refused (.esc f)) ∧
    (MayRun (.esc f) s → ladderNow s = some l → l.rungs.length ≤ k → refused (.esc f)) ∧
    (∀ r, MayRun (.esc f) s → ladderNow s = some l → s.cg.rung < k → l.rungs[k]? = some r →
      (s.cb.regs < f.a.toNat + r.frame ∨ ¬ fresh) → refused (.esc f)) ∧
    (MayRun (.ldone f) s → ladderNow s = none → refused (.ldone f)) ∧
    (MayRun (.ldone f) s → ladderNow s = some l → (s.cb.regs < f.a.toNat + l.rstride / 4 ∨ ¬ fresh) → refused (.ldone f)) ∧
    (MayRun (.lqry f) s → ladderNow s = none → refused (.lqry f)) ∧
    (MayRun (.lqry f) s → ladderNow s = some l → l.rungs.length ≤ k → refused (.lqry f)) ∧
    (MayRun (.ldrain f) s → ladderNow s = none → refused (.ldrain f)) ∧
    (MayRun (.ldrain f) s → ladderNow s = some l → (k = 0 ∨ l.rungs.length ≤ k) → refused (.ldrain f))

/-! ### System instructions -/

/-- R52, R54 and R348 to R350: TRAP and BKPT trap with their codes, TRAP with its immediate as TVAL; SYSR reads a system
register into a uniform register; SYSW writes TRAPVEC, traps with ILLEGAL where a reserved bit of the value is set and
with PROTECTION for any other register. Log entry 61 gives the model's choices among these. -/
def Obligations.TrapsAndSystemRegisters : Prop :=
  ∀ (f : FmtI) (s : State),
    let m := s.execLanes f.guard
    let v := s.cg.ureg f.d.toNat
    let clean := bits v 57 7 = 0 ∧ bits v 1 2 = 0
    (MayRun (.trap f) s → exec (.trap f) s = .next (s.trappedAt m cTrap (f.imm.setWidth 64))) ∧
    (MayRun (.bkpt f) s → exec (.bkpt f) s = .next (s.trappedAt m cBreak 0#64)) ∧
    (MayRun (.sysr f) s → exec (.sysr f) s =
      .next (s.pastWords (s.putU f.d.toNat 64 (sysReg s f.imm.toNat)) 1 0#64)) ∧
    (MayRun (.sysw f) s → f.imm.toNat = 1 → clean → exec (.sysw f) s =
      .next (s.pastWords (s.onCtx s.cb.asid fun c => { c with trapvec := v }) 1 0#64)) ∧
    (MayRun (.sysw f) s → f.imm.toNat = 1 → ¬ clean → exec (.sysw f) s = .next (s.trappedAt m cIllegal 0#64)) ∧
    (MayRun (.sysw f) s → f.imm.toNat ≠ 1 → ∃ tval, exec (.sysw f) s = .next (s.trappedAt m cProtection tval))

namespace Sys2Proof.Machine

/-- What LAUNCH reads as its descriptor, and the state after it: nothing at a misaligned address or one that may not be read,
else the 64 bytes that a load of the elected lane reads (R334, R351). -/
def State.descriptorIs (s : State) (m desc : DWord) (t : State) (body : Option (List Byte)) : Prop :=
  let look := s.virtLook s.cb.core s.cb.asid needR desc 64
  let reads := fun (ts : List Touch) => [(lowest m, desc, spansOf ts)]
  (desc.toNat % 64 ≠ 0 ∧ t = s ∧ body = none) ∨
  (desc.toNat % 64 = 0 ∧ s.virtWaits s.cb.core s.cb.asid needR desc 64 = none ∧ look.2 = none ∧ t = look.1 ∧ body = none) ∨
  (desc.toNat % 64 = 0 ∧ s.virtWaits s.cb.core s.cb.asid needR desc 64 = none ∧ ∃ ts, look.2 = some ts ∧ ∃ bs,
    look.1.readsAs 0 (reads ts) (t, bs) ∧ body = bs.head?)

end Sys2Proof.Machine

/-- R351 and R352: LAUNCH waits for its lanes' accesses (log entry 67's choice), and until its descriptor, and what its
check reads, can be read; where path A of the same issue reaches its descriptor, it issues with path A and reads it
later (log entries 26 and 68); then it checks the descriptor its uniform registers name, appends the launch to the
context's device queue and gives 0, or gives the code of its refusal, with P the acceptance; LSTAT gives the count of
unfinished launches, the free places of the device queue, or the context's DISCARDED. Log entries 26, 39, 54, 64, 67, 68
and 77 give the model's choices among these. -/
def Obligations.DeviceLaunches : Prop :=
  ∀ (f : FmtA) (s : State),
    let m := s.execLanes f.guard
    let u := fun k => s.cg.ureg (f.a.toNat + k)
    let quiet := ∀ i ∈ lanesOf m, s.laneQuiet s.cur.blk s.cur.grp i = true
    let look := s.virtLook s.cb.core s.cb.asid needR (u 0) 64
    let reads := fun (ts : List Touch) => [(lowest m, u 0, spansOf ts)]
    let answer := fun (t : State) (code : Nat) => s.pastWords
      ((t.putU f.d.toNat 64 (BitVec.ofNat 64 code)).onExec m fun _ l => l.setP f.b.toNat (code == 0)) 1 0#64
    (MayRun (.launch f) s → quiet → ∀ t body, s.descriptorIs m (u 0) t body →
      let c : LCheck := { desc := u 0, body := body, caddr := u 1, deps := [], ndep := 0, clean := true
                          full := decide (256 ≤ t.deviceQueued t.cb.asid) }
      let t1 := t.launchLook t.cb.asid c
      let p := (t.launch t.cb.launch).prio
      (∀ as, t.launchWaits s.cb.asid c = some as → exec (.launch f) s = .next ((t.askFor as).result (.stalled none))) ∧
      (∀ l, t.launchWaits s.cb.asid c = none → checkLaunch t t.cb.asid c = .ok l → exec (.launch f) s = .next (answer (t1.addLaunch
        { l with cval := u 2, device := issuer t, prio := p, eff := p, st := .waiting }) 0)) ∧
      (∀ code, t.launchWaits s.cb.asid c = none → checkLaunch t t.cb.asid c = .error code → exec (.launch f) s =
        .next (answer (t1.failWord t.cb.asid 0 (issuer t) (u 0) (u 1) 1 code) code))) ∧
    (∀ as, MayRun (.launch f) s → quiet → (u 0).toNat % 64 = 0 →
      s.virtWaits s.cb.core s.cb.asid needR (u 0) 64 = some as →
      exec (.launch f) s = .next ((s.askFor as).result (.stalled none))) ∧
    (∀ ts, MayRun (.launch f) s → quiet → (u 0).toNat % 64 = 0 → s.virtWaits s.cb.core s.cb.asid needR (u 0) 64 = none →
      look.2 = some ts → ReadWaits (.launch f) s look.1 0 (reads ts)) ∧
    (∀ i ∈ lanesOf m, MayRun (.launch f) s → s.laneQuiet s.cur.blk s.cur.grp i = false →
      exec (.launch f) s = .next (s.result (.stalled none))) ∧
    (MayRun (.lstat f) s → exec (.lstat f) s =
      .next (s.pastWords (s.putU f.d.toNat 64 (launchStat s f.b.toNat)) 1 0#64))

/-- R353: RTE brings each executing lane back to where its trap stopped it, past the instruction that trapped unless B
asks for it again or the lane stood at a header, and traps with ILLEGAL in the executing lanes that are not in a
handler; it waits while the fetch of such an instruction does. Log entries 39 and 65 give the model's choices among
these. -/
def Obligations.ReturnFromTrap : Prop :=
  ∀ (f : FmtA) (s : State),
    let m := s.execLanes f.guard
    let out := m &&& maskOf fun i => !(s.cg.lane i).inHandler
    let fetches := (lanesOf m).findSome? fun i => wordWaitsAt s (s.cg.lane i).epc
    (∀ as, MayRun (.rte f) s → (∀ i ∈ lanesOf m, (s.cg.lane i).inHandler = true) → fetches = some as →
      exec (.rte f) s = .next ((s.askFor as).result (.stalled none))) ∧
    (MayRun (.rte f) s → s.issuing → (∀ i ∈ lanesOf m, (s.cg.lane i).inHandler = true) → fetches = none → ∃ t,
      exec (.rte f) s = .next t ∧ t.mem = s.mem ∧ t.ops = s.ops ∧
      ∀ i < s.cg.lanes.length, m.getLsbD i = true →
        let l := s.cg.lane i
        let r := t.lane s.cur.blk s.cur.grp i
        r.pc = (if l.epc = l.rhdr ∨ f.b.getLsbD 0 = true then l.epc else l.epc + BitVec.ofNat 64 (8 * wordsAt s l.epc)) ∧
        r.inHandler = false ∧ r.v = l.v ∧ r.p = l.p ∧ r.x = l.x) ∧
    (MayRun (.rte f) s → out ≠ 0#64 → exec (.rte f) s = .next (s.trappedAt out cIllegal 0#64))

/-! ### The steps of the core, the matrix unit, the engines and the ladder -/

/-- R36, R37, R40, R138, R142, R143, R144 and R151: an outstanding operation waits until the host and the pool have
answered for all of it, and then performs the accesses of the chosen lanes that the order of accesses allows; what reaches a watched sector makes the lanes with a monitor there read again,
and a poll those that have not read yet, have been restored, or have had none for 256 cycles; a due barrier phase lets
its lanes go on together, what they did before it coming first for its scope (log entry 14), and counts; a sleep ends when its cycles have passed; a group whose quantum is over, that yielded, or
that cannot issue makes way for the pending group that waited longest; and a line that a group waits for arrives. Log
entries 11, 14, 45, 52, 53 and 57 give the model's choices among these. -/
def Obligations.CoreEvents : Prop :=
  ∀ (s : State) (b g i k : Nat),
    let core := (s.block b).core
    let runs := fun (w : Wait) => (s.lane b g i).wait = w
    let after := fun (w : Wait) (x : Wait) => if x = w then Wait.running else x
    let spent := Config.quantum ≤ (s.group b g).quantum ∨ (s.group b g).yielded = true
    let line := s.fillLine core (s.block b).asid
    (∀ o lanes, s.ops.get? k = some o →
      let u := s.seeOutward k o o.accs
      ((u.ops.get? k = none ∨ ∃ q, u.ops.get? k = some q ∧ q.accs.any (State.unseen q) = true) →
        exec (.memoryOpComplete k lanes) s = .next u) ∧
      (∀ q, u.ops.get? k = some q → q.accs.any (State.unseen q) = false →
        let go := u.bumpFresh.accsDue k q (State.chosenAccs q lanes)
        exec (.memoryOpComplete k lanes) s =
          .next ((((u.bumpFresh.performList k q go).spendOutward k q go).countDone q k).closeOp k)) ∧
      ((∀ a ∈ o.accs, State.unseen o a = false) → u = s)) ∧
    (exec (.waitcTrigger k) s =
      .next ((s.monitors.filter fun m => m.sector == k && m.trig && s.watches m.owner).foldl (fun (t : State) m =>
        match m.owner with
        | .lane b g i => if s.held (dieOf (s.block b).core) then t else t.recheck b g i
        | _ => t) s)) ∧
    (∀ w, runs (.waitc w) →
      (w.readAt = none ∨ w.asked = true ∨ w.again = true ∨
        ∃ c, w.readAt = some c ∧ s.monitorOf (.lane b g i) = none ∧ 256 ≤ (s.clock core - c).toNat) →
      exec (.waitcPoll b g i) s = .next (s.recheck b g i)) ∧
    (s.barDue b k = true → ∃ t, exec (.barrierPhaseComplete false b k) s = .next t ∧
      ((t.block b).bar k).phase = ((s.block b).bar k).phase + 1 ∧
      (∀ j x, (t.lane b j x).wait = after (.bar k) (s.lane b j x).wait) ∧
      ∀ c ≠ b, t.block c = s.block c) ∧
    (s.cbarDue b k = true → exec (.barrierPhaseComplete true b k) s =
      .next (let key := 4 * cohortKey (s.block b).launch (s.block b).cohort + k
        let u := s.markPhase (s.cohortBlocks b) (.cbar k) 2
        let t := (s.cohortBlocks b).foldl (fun t kb => t.onBlock kb.1 fun x => x.release (.cbar k)) u
        { t with cbars := t.cbars.set key (t.cbars.getD key 0 + 1) })) ∧
    (∀ till, runs (.sleep till) → (s.block b).resident = true → 0 ≤ (s.clock core - till).toInt →
      exec (.sleepExpire b g i) s = .next (s.onLanes b g (laneBit i) fun _ l => { l with wait := .running })) ∧
    (∀ till, runs (.sleep till) → (s.clock core - till).toInt < 0 → exec (.sleepExpire b g i) s = .next s) ∧
    (∀ n ns, s.inActiveSet b g = true → s.readyPending core = n :: ns → spent →
      exec (.quantumExpire b g) s = .next ((s.deactivate (b, g)).activate n)) ∧
    (∀ n ns, s.inActiveSet b g = true → s.readyPending core = n :: ns → s.ready b g = false →
      exec (.groupSwap b g) s = .next ((s.deactivate (b, g)).activate n)) ∧
    (∀ va, (s.group b g).frozen = some va → (s.block b).resident = true → exec (.icacheFill b g) s =
      .next (if (line va).2 then (line va).1.onGroup b g fun x => { x with frozen := none } else (line va).1)) ∧
    (∀ va, (s.group b g).frozen = none → s.pendingMiss b g = some va → exec (.icacheFill b g) s =
      .next (if (line va).2 then (line va).1.count (dieOf core) 1 else (line va).1)) ∧
    ((s.group b g).frozen = none → s.pendingMiss b g = none → exec (.icacheFill b g) s = .next (s.fillNext b g))

/-- R174, R177 to R185 and R359: a queued operation begins when what it touches is free, asking for power leave if it is
an MMA of more than sixteen K-steps; TCFG, OMCLAIM, OMREL, ACZ, ACRD and MRES take effect and leave the queue in one
step; an MMA that may run performs its next row step; a memory operation moves its next pieces, and leaves with its
last; the first request of a die takes a free leave token, once the cycle in which it asked is over. Log entries 11,
56, 59 and 70 give the model's choices among these. -/
def Obligations.MatrixEvents : Prop :=
  (∀ (s : State) (core k n : Nat) (o : MOp), s.mop core k = some o →
    let done := fun (t : State) => exec (.matrixOpComplete core k n) s = .next (t.closeMop core o)
    let moved := exec (.matrixOpComplete core k n) s = .next ((s.bumpFresh.moveChunks core k n).closeIfMoved core k)
    let begins := s.onMop core k fun q => { q with begun := true }
    (o.begun = false → mayBegin (s.core core).mq k = true →
      (∀ pb, o.kind = .mma pb → pbHeavy pb = true → exec (.matrixOpBegin core k) s =
        .next ((begins.onMop core k fun q => { q with asked := true }).askLeave core false k)) ∧
      (∀ pb, o.kind = .mma pb → pbHeavy pb = false → exec (.matrixOpBegin core k) s = .next begins) ∧
      (o.kind = .msave → exec (.matrixOpBegin core k) s = .next (begins.stopMmas core o.blk k)) ∧
      (o.kind.isMma = false → o.kind ≠ .msave → exec (.matrixOpBegin core k) s = .next begins)) ∧
    (o.begun = true →
      (o.kind = .tcfg → done (s.clearTiles core 0 8)) ∧
      (∀ first m, o.kind = .omclaim first m → done (s.wipeSlots o.blk first m)) ∧
      (∀ first m, o.kind = .omrel first m → done (s.wipeSlots o.blk first m)) ∧
      (∀ t, o.kind = .acz t → done (s.clearTiles core t 1)) ∧
      (∀ t dest rows, o.kind = .acrd t dest rows → done (s.deliverRows core o t dest rows)) ∧
      (∀ tiles, o.kind = .mres tiles → done (s.setCore core { s.core core with tiles := tiles })) ∧
      (∀ isB slot last, o.kind = .omld isB slot last → moved) ∧
      (∀ isB slot, o.kind = .omst isB slot → moved) ∧
      (∀ t last, o.kind = .acld t last → moved) ∧
      (∀ t, o.kind = .acst t → moved) ∧
      (o.kind = .msave → moved) ∧
      (∀ pb, o.kind = .mma pb → (pbHeavy pb = true → o.leave = true) → o.prog < pbSteps pb * tcbM o.tcb → ∃ t,
        exec (.matrixOpComplete core k 1) s = .next t ∧
        (t.core core).tiles = (s.block o.blk).rowStep o.tcb pb (o.prog / tcbM o.tcb) (o.prog % tcbM o.tcb)
          (s.core core).tiles))) ∧
  (∀ (s : State) die q rest, (s.die die).queue = q :: rest → (s.die die).taken < s.leaveTokens → q.at_ < s.hub.cycle →
      let t := s.setDie die { s.die die with taken := (s.die die).taken + 1, queue := rest }
      exec (.leaveGrant die) s = .next (if q.engine then
          { t with copies := t.copies.modify q.id fun c => { c with leave := true } }
        else t.onMop q.core q.id fun x => { x with leave := true }))

/-- R263, R264, R270, R272, R275 and R305: a copy that its engine may serve reads its descriptor again if it was restored,
or moves its next pieces and completes with its last; where its next access meets a missing translation it parks on a
fault entry of its own, which names the lane and the page, with the kind of a copy's read (4) or write (5); where the
access is refused for good the copy fails with the refusal's code, what was pulled for it staying so, but for one that is
held for its package's route (R298), which stays. Log entries 11 and 56 give the model's choices among these. -/
def Obligations.CopyEvents : Prop :=
  ∀ (s : State) (k n : Nat) (c : Copy), s.copies.get? k = some c → s.copyRuns c = true →
    (c.tensor = true → c.desc = [] → exec (.copyComplete k n) s = .next (s.bumpFresh.readDesc k c).1) ∧
    ((c.tensor = false ∨ c.desc ≠ []) →
      exec (.copyComplete k n) s = .next ((s.bumpFresh.copyPieces k n).finishCopy k)) ∧
    (∀ va w, s.copyBlocked c = some (va, w, .missing) → ∃ t, exec (.copyFault k) s = .next t ∧
      (t.copies.get? k).map Copy.st = some (.faulted s.nextId) ∧ t.mem = s.mem ∧
      t.hub.outst = s.hub.outst ++ [{ id := s.nextId, asid := c.asid, va := va, seq := none, waiter := .copy k }] ∧
      ∃ e, t.hub.held = s.hub.held ++ [e] ∧ e.id = s.nextId ∧ e.bytes = fqBytes va (laneBit c.lane) c.asid
        (if w then 5 else 4) ((s.block c.blk).groupField c.grp) c.core 0 0 (s.block c.blk).field) ∧
    (∀ va w t code, s.copyBlocked c = some (va, w, t) →
      ((t = .protection ∧ code = cProtection) ∨ (t = .kernelReserved ∧ code = cKernel) ∨ (t = .lost ∧ code = cLost) ∨
        (t = .poison ∧ code = cPoison)) →
      (t = .lost → c.counted.contains 23 = true → exec (.copyFail k) s = .next s) ∧
      ((t = .lost → c.counted.contains 23 = false) → exec (.copyFail k) s = .next ((s.copyPulled c).failCopy k c code va)) ∧
      (c.reported = false → (((s.copyPulled c).failCopy k c code va).copies.get? k).map Copy.st =
        some (.failed (BitVec.ofNat 8 code) va)))

/-- R190, R191, R194 to R197 and R221: the oldest frame of a ring that has waited HOLD cycles fires it; a firing ring that
no other goes before starts, where it fits, a packed group of its oldest frames, as many as 64, and loses them; when
every item is done the ladder's completion word is written once, when its address can be walked; an owner idle for
65536 requests loses its lines' ownership. Log entries 11, 39, 62 and 73 give the model's choices among these. -/
def Obligations.LadderEvents : Prop :=
  ∀ (s : State) (core launch k : Nat),
    let key := ringKey core launch k
    let l := s.launch launch
    (∀ r rs f fs d, s.rings.get? key = some r → l.ladder.map Ladder.rungs = some rs → r.frames = f :: fs →
      rs[k]? = some d → d.hold ≤ (s.clock core - f.stamp).toNat → (s.die (dieOf core)).hold = false →
      exec (.ringHoldExpire core launch k) s = .next (s.setRing key { r with firing := some 18 })) ∧
    (∀ ev lad r, s.trigger core launch k = some ev → l.ladder = some lad → lad.rungs[k]? = some r → k ≠ 0 →
      core < Config.numCores → (s.core core).issued = [] → ((s.packed core launch k r).coreUse core).fits = true →
      (∀ x ∈ s.firingRings core, x = (launch, k) ∨ s.startsBefore x (launch, k) = false) →
      (s.die (dieOf core)).hold = false → ∃ t, exec (.packedGroupStart core launch k) s = .next t ∧
        (t.ring key).frames = (s.ring key).frames.drop 64 ∧ t.mem = s.mem ∧
        ∃ b, ((t.block b).packed = some k ∧ (t.block b).launch = launch ∧ (t.block b).core = core ∧
          (t.block b).groups = [(0, startPacked l k r ((s.ring key).frames.take 64) s.now)])) ∧
    (∀ lad, l.ladder = some lad → l.ladderDone = false → l.st ≠ .done → l.st ≠ .discarded → lad.items ≤ l.doneCount →
      (s.ctx l.asid).tearing = none → s.virtWaits hubCore l.asid needW lad.doneAddr 8 = none →
      let r := s.virtWrite l.asid lad.doneAddr lad.doneVal launch
      exec (.ladderDoneWrite launch) s = .next ((if r.2 then r.1 else r.1.post11 l.asid l.device l.desc lad.doneVal 2).onLaunch
        launch fun x => { x with ladderDone := true })) ∧
    (∀ lad as, l.ladder = some lad → l.ladderDone = false → l.st ≠ .done → l.st ≠ .discarded → lad.items ≤ l.doneCount →
      (s.ctx l.asid).tearing = none → s.virtWaits hubCore l.asid needW lad.doneAddr 8 = some as →
      exec (.ladderDoneWrite launch) s = .next (s.askFor as)) ∧
    (∀ cache owner e, owner ≠ 0 → (s.cache cache).ownerEnt owner = some e → 65536 ≤ e.idle →
      exec (.ownerIdleExpire cache owner) s = .next (s.setCache cache ((s.cache cache).dropOwner owner)))

/-! ### Launches, faults and translations -/

/-- R331 to R340: the command processor takes the record at HEAD, raises HEAD and checks it, once what it reads has come,
and watches a queue that is empty; a waiting launch keeps the dependence words not yet met and is READY without any;
the dispatcher places a cohort on cores that take it, ages a launch that waits, starts a block once its staging is
over, chooses a block to pre-empt and saves it when it is quiet, and restores it on a core of its cluster once its
frame can be read; a block ends when nothing of it is at work, a launch completes with its word or its error; the
groups of a torn-down context come to their boundaries, and its report is written when nothing of it remains, BUSY reading
1 until it is. Log entries 11, 25, 28, 29, 33, 39, 57, 72 and 85 give the model's choices among these: 25 that the
addresses of the queue and of the report are of HBM. -/
def Obligations.LaunchEvents : Prop :=
  ∀ (s : State) (a q h k core : Nat) (cores : List Nat),
    let l := s.launch h
    let b := s.block k
    (∀ c base n head, s.ctxs.get? a = some c → c.queues[q]? = some (base, n, head) → c.tearing = none →
      s.queueHeld a q = false →
      let slot := memKey 0 (base + 128 + 128 * (head.toNat % 2 ^ n))
      let r := s.hubRead slot 128
      (s.homeAsks (memKey 0 base) 8 = [] → s.memDWord (memKey 0 base) ≠ head → s.homeAsks slot 128 = [] →
        s.recordWaits a r = none → exec (.launchRecord a q) s = .next
          (((s.hubWrite (memKey 0 (base + 8)) (toBytes 8 (head + 1#64).toNat)).onCtx a fun x =>
            { x with queues := x.queues.set q (base, n, head + 1#64) }).submit a q r).noteRoom) ∧
      (s.homeAsks (memKey 0 base) 8 = [] → s.memDWord (memKey 0 base) = head →
        exec (.launchRecord a q) s = .next (s.watchQueue a q base)) ∧
      (s.homeAsks (memKey 0 base) 8 ≠ [] →
        exec (.launchRecord a q) s = .next (s.askFor (s.homeAsks (memKey 0 base) 8))) ∧
      (s.homeAsks (memKey 0 base) 8 = [] → s.memDWord (memKey 0 base) ≠ head → s.homeAsks slot 128 ≠ [] →
        exec (.launchRecord a q) s = .next (s.askFor (s.homeAsks slot 128))) ∧
      (∀ as, s.homeAsks (memKey 0 base) 8 = [] → s.memDWord (memKey 0 base) ≠ head → s.homeAsks slot 128 = [] →
        s.recordWaits a r = some as → exec (.launchRecord a q) s = .next (s.askFor as))) ∧
    (l.st = .waiting → l.device = none → (s.launches.get? h).isSome = true →
      let left := l.deps.filter fun d => !s.depMet l.asid d
      let u := (l.deps.filter (s.depMet l.asid)).foldl (fun (u : State) d => u.spendLook l.asid d.1 8) s
      (left = [] → exec (.dependenceMet h) s = .next (u.makeReady h).noteRoom ∧ u.mem = s.mem ∧
        ((u.makeReady h).noteRoom.launch h).st = .ready ∧ ((u.makeReady h).noteRoom.launch h).deps = []) ∧
      (left ≠ [] → ∃ t, exec (.dependenceMet h) s = .next t ∧ (t.launch h).deps = left ∧ (t.launch h).st = .waiting ∧
        ∀ j ≠ h, t.launch j = s.launch j)) ∧
    (∀ t, s.hub.placeHalt = false → s.toPlace h = true → cores.length = l.blocks → cores.Nodup →
      (∀ c ∈ cores, c < Config.numCores ∧ clusterOf c = clusterOf (cores.headD 0)) →
      s.inService (clusterOf (cores.headD 0) / 16) = true → s.spreadOk h (clusterOf (cores.headD 0) / 16) = true →
      s.hasTurn h (clusterOf (cores.headD 0)) = true → s.putCohort h cores = some t →
      exec (.cohortPlace h cores) s = .next ({ t.onLaunch h fun x =>
        { x with
          nextCohort := x.nextCohort + 1, st := if x.cohorts ≤ x.nextCohort + 1 then .running else .dispatching
          eff := x.prio, ageFrom := s.hub.cycle, roomFrom := none, turn := t.nextId
          residentOrder := if x.nextCohort = 0 then t.nextId else x.residentOrder } with nextId := t.nextId + 1 } : State).noteRoom) ∧
    (b.resident = true → b.started = false → b.leaving = false → (∃ kg ∈ b.groups, kg.2.stopped = false) →
      s.inService (dieOf b.core) = true →
      let r := s.bumpFresh.stageRun k (((s.launch b.launch).stages.map fun e => e.len + 1).sum + 1)
      exec (.blockStart k) s =
        .next (if r.2 then (r.1.bumpId.onBlock k fun x =>
            { x with started := true, startOrder := r.1.nextId }).touchDomains b.asid [dieOf b.core]
          else r.1)) ∧
    ((l.st = .ready ∨ l.st = .dispatching) → l.nextCohort < l.cohorts → l.eff < 7 → 2 ^ 20 ≤ s.hub.cycle - l.ageFrom →
      exec (.priorityAge h) s =
        .next (s.onLaunch h fun x => { x with eff := x.eff + 1, ageFrom := x.ageFrom + 2 ^ 20 })) ∧
    (b.leaving = false → s.preemptDue k = true → exec (.blockPreempt k) s =
      .next ((s.shareOf k).foldl (fun t j => t.onBlock j fun x => { x with leaving := true }) s)) ∧
    (b.leaving = true → (∀ j ∈ s.shareOf k, s.saveQuiet j = true) →
      (s.shareOf k).length ≤ (s.freeFrames b.asid).length → exec (.blockPreempt k) s = .next (s.saveShare k).noteRoom) ∧
    (∀ t, b.frame.isSome = true → b.resident = false → core < Config.numCores → clusterOf core = b.cluster →
      s.inService (dieOf core) = true → s.liveCtx b.asid = true →
      s.hasTurn b.launch b.cluster = true → s.hasFrames core b.launch = false →
      s.engineTakes core (s.savedShare k) = true → (∀ j ∈ s.savedShare k, s.frameAsks j = []) → s.putShare core (s.savedShare k) = some t →
      exec (.blockRestore k core) s =
        .next ((s.savedShare k).foldl (fun u j => u.resumeBlock j (s.frameIntact j)) t).noteRoom) ∧
    (∀ x, s.blocks.get? k = some x → s.blockOver k = true → exec (.blockEnd k) s = .next ((s.dropBlock k).onLaunch x.launch
      fun y => { y with failCode := match y.failCode with | some c => some c | none => s.unreported k }).noteRoom) ∧
    (s.liveCtx l.asid = true → l.st = .running → s.launchOver h = true → s.ladderFirst h = false →
      (s.wordWaits l.asid l.caddr = none → exec (.launchComplete h) s =
        .next ((s.finishLaunch h (s.endCode h)).onLaunch h fun x => { x with st := .done })) ∧
      (∀ as, s.wordWaits l.asid l.caddr = some as → exec (.launchComplete h) s = .next (s.askFor as))) ∧
    ((s.ctx a).tearing.isSome = true → (∃ kb ∈ s.blocks, kb.2.asid = a) → exec (.teardownReport a) s = .next (s.tearRest a)) ∧
    (∀ report counts, (s.ctx a).tearing = some (report, counts) → (∀ kb ∈ s.blocks, kb.2.asid ≠ a) →
      (∀ o ∈ s.ops, o.2.asid ≠ a) → exec (.teardownReport a) s =
        .next (let bs := (List.range 8).flatMap fun i => toBytes 8 (counts.getD i 0)
          let t := (s.hubWrite (memKey 0 report) bs).ownFrom s.hub.waiting.length
          let held := decide (s.hub.waiting.length < t.hub.waiting.length)
          { t with
            ctxs := t.ctxs.erase a
            hub := { t.hub with busy := held, cmd := if held then .writes else t.hub.cmd, result := 0#8 } }))

/-- R305, R307, R308, R321, R325, R326 and R341: the hub writes the entry held longest, with its SEQ, at the place of TAIL
in the ring, and TAIL and SEQ rise by one; a resolve record answers every appended entry of its context and page, with
RETRY or with FAIL, and one that is malformed or names none counts; a write of FQHEAD holds; a write of TINV with bit 63
removes what it covers in every cluster, one without it sets the fields alone, and one with a reserved bit or during
BUSY does nothing; a migration entry that may be activated becomes ACTIVE, once its leaf's home serves, its engine
pulls its next line once it owns the old one's sectors, and it ends when every line is pulled. What host software writes has its
effect once the port's IDE keys are set, and none before. Log entries 11, 25, 39, 50, 63, 64 and 84 give the model's
choices among these. -/
def Obligations.FaultAndTranslationEvents : Prop :=
  ∀ (s : State) (v : DWord) (n : Nat),
    let os := s.coveredBy (v.extractLsb' 0 32)
    let tinv := fun (t : State) =>
      t = (let u := s.inval (Inval.of v)
        let w := (u.markStale (Inval.of v)).dropFetched
        { w with hub := { w.hub with tinv := v &&& 0x7FFFFFFFFFFFFFFF#64, tinvOps := s.removedUsers (Inval.of v) } })
    let free := bits v 56 5 = 0 ∧ s.tinvBusy = false
    let starts := v.getLsbD 63 = true ∧ free
    let fields := v.getLsbD 63 = false ∧ free
    let stored : Host.Outcome State Fault Refusal := .next { s with hub := { s.hub with tinv := v } }
    let well := bits v 62 2 < 2 ∧ bits v 32 30 = 0 ∧ os ≠ []
    let keyed := s.boot.ideHost.isSome = true
    (∀ e rest lg, s.hub.held = e :: rest → s.fqLog = some lg → s.fqFull lg = false →
      let at_ := memKey 1 ((bits s.hub.fqbase 12 52 * 4096 + 32 * (s.hub.fqtail.toNat % 2 ^ lg)) % 2 ^ 52)
      let bytes := e.bytes ++ toBytes 4 s.hub.seq.toNat
      s.mayServe s.hub.waiting at_ (.bytes bytes) = true → ∃ t, exec .faultEntryAppend s = .next t ∧
      (∀ i < bytes.length, t.memByte (at_ + i) = bytes.getD i 0#8 ∧ t.isDead (at_ + i) = false) ∧ t.hub.held = rest ∧ t.hub.fqtail = s.hub.fqtail + 1#64 ∧
      t.hub.seq = s.hub.seq + 1#32 ∧ t.hub.msix0 = s.hub.msix0 + 1 ∧
      t.hub.outst = s.hub.outst.map (fun o => if o.id == e.id then { o with seq := some s.hub.seq } else o)) ∧
    (keyed → well → exec (.resolveRecord v) s = .next (s.answer (bits v 62 2 == 1) os)) ∧
    (keyed → ¬ well → exec (.resolveRecord v) s = .next (s.count hubDie 24)) ∧
    (keyed → exec (.fqheadWrite v) s = .next { s with hub := { s.hub with fqhead := v } }) ∧
    (keyed → starts → bits v 61 2 = 0 → ∃ t, exec (.tinvPage v) s = .next t ∧ tinv t) ∧
    (keyed → starts → bits v 61 2 = 1 → ∃ t, exec (.tinvAsid v) s = .next t ∧ tinv t) ∧
    (keyed → starts → bits v 61 2 = 2 → ∃ t, exec (.tinvAll v) s = .next t ∧ tinv t) ∧
    (keyed → fields → (bits v 61 2 = 0 → exec (.tinvPage v) s = stored) ∧ (bits v 61 2 = 1 → exec (.tinvAsid v) s = stored) ∧
      (bits v 61 2 = 2 → exec (.tinvAll v) s = stored)) ∧
    (¬ free → exec (.tinvPage v) s = .next s ∧ exec (.tinvAsid v) s = .next s ∧ exec (.tinvAll v) s = .next s) ∧
    (n < 1024 → s.migState n = 0 → keyed →
      (s.leafServes n = true → exec (.migrationActivate n) s =
        .next (if s.migRefused n then s else s.setMigState n 1)) ∧
      (s.leafServes n = false → exec (.migrationActivate n) s = .next (s.holdActivation n))) ∧
    (∀ line, s.migState n = 1 → s.nextPull n = some line → s.isLost (s.migOld n) = false →
      (s.pullAsks n line = [] → s.pullQuiet n line = true →
        exec (.migrationPull n line) s = .next (s.pullLine n line)) ∧
      (¬ (s.pullAsks n line = [] ∧ s.pullQuiet n line = true) →
        exec (.migrationPull n line) s = .next (s.askFor (s.pullAsks n line)))) ∧
    (∀ line, s.migState n = 1 → s.nextPull n = none →
      let asks := s.homeAsks (memKey 0 (s.migWord n 2).toNat) 8
      exec (.migrationPull n line) s = .next (if asks = [] then s.finishMig n else s.askFor asks)) ∧
    (¬ keyed → exec (.resolveRecord v) s = .next s ∧ exec (.fqheadWrite v) s = .next s ∧ exec (.tinvPage v) s = .next s ∧
      exec (.tinvAsid v) s = .next s ∧ exec (.tinvAll v) s = .next s ∧
      exec (.migrationActivate n) s = .next s)

/-! ### The mailbox -/

namespace Sys2Proof.Machine

/-- A command of the mailbox that its checks let pass ends with RESULT 0 (R286). -/
def State.commandDone (s : State) (code : BitVec 8) (args : List DWord) (go : State → State) : Host.Outcome State Fault Refusal :=
  .next ((go (s.mcmd code args)).endCmd 0)

/-- One that ends so once its writes are performed: BUSY reads 1 while one is held for the service of its home (R356). -/
def State.commandWrites (s : State) (code : BitVec 8) (args : List DWord) (go : State → State) : Host.Outcome State Fault Refusal :=
  let t := go (s.mcmd code args)
  .next (if t.hub.waiting.length ≤ s.hub.waiting.length then t.endCmd 0
    else
      let u := t.ownFrom s.hub.waiting.length
      { u with hub := { u.hub with busy := true, cmd := .writes } })

/-- One that waits, with BUSY, for the home of the n bytes that it reads at pa (R356). -/
def State.commandHeld (s : State) (code : BitVec 8) (args : List DWord) (pa n : Nat) : Host.Outcome State Fault Refusal :=
  let t := s.mcmd code args
  .next (({ t with hub := { t.hub with busy := true, cmd := .reads } } : State).askFor (t.homeAsks (memKey 0 pa) n))

end Sys2Proof.Machine

/-- R207, R278, R286, R287, R292, R293, R297, R299, R301, R304, R317, R328, R338, R363 and R364: once the host port's IDE
keys are set, while no command runs and the level is above 0, each command whose arguments and state its rule allows
has its effect and ends with RESULT 0, once the homes of what it reads and of what it writes are in service; ATTEST
runs at every level; CTXTEAR leaves BUSY set; the other registers of the host port hold what is written as their rules
allow; and a write of MCMD runs the command in CODE on MARG0 to MARG3. Log entries 25, 34, 39, 50, 62, 75, 76 and 80
give the model's choices among these. -/
def Obligations.MailboxCommands : Prop :=
  ∀ (s : State) (a b c d : DWord),
    let keyed := s.boot.ideHost.isSome = true
    let ready := keyed ∧ s.hub.busy = false ∧ s.boot.level ≠ 0#2
    let n := a.toNat
    let bytes := fun (p : DWord) k => s.hubRead (memKey 0 p.toNat) k
    let hold := fun (x : Bool) (t : State) => t.setDie n { t.die n with hold := x }
    (ready → n < 24 → s.hub.fenced.getLsbD n = false →
      exec (.fenceout a) s = s.commandDone 0x01#8 [a] fun t => t.fenceAgent n) ∧
    (ready → n < 24 → s.hub.fenced.getLsbD n = true → s.hub.requalified.getLsbD n = true →
      exec (.readmit a) s = s.commandDone 0x02#8 [a] fun t => t.readmitAgent n) ∧
    (ready → n ≤ 6 → exec (.poollose a) s = s.commandDone 0x03#8 [a] fun t => t.losePool n) ∧
    (ready → n ≤ 15 → (d.toNat ≤ 6 ∨ d = 0xFF#64) → s.ctxs = [] →
      exec (.poolset a b c d) s = s.commandDone 0x04#8 [a, b, c, d] fun t => { t with hub := { t.hub with
        pools := if d = 0xFF#64 then t.hub.pools.erase n else t.hub.pools.set n (b.toNat, c.toNat, d.toNat) } }) ∧
    (ready → n ≤ 15 → exec (.halt a) s = s.commandDone 0x05#8 [a] (hold true)) ∧
    (ready → n ≤ 15 → ∃ t, exec (.resume a) s = .next t ∧ (t.die n).hold = false ∧ t.hub.result = 0#8 ∧ t.mem = s.mem) ∧
    (ready → a ≠ 0#64 → n ≤ 4095 → s.ctxs = [] →
      exec (.fidset a) s = s.commandDone 0x07#8 [a] fun t => { t with hub := { t.hub with fid := n } }) ∧
    (ready → n ≤ 4095 → b.toNat ≤ 255 → (s.ctxs = [] ∨ s.removesLive n (b.setWidth 8) = false) →
      exec (.routeset a b) s = s.commandDone 0x08#8 [a, b] fun t =>
        let u : State := { t with hub := { t.hub with routes := t.hub.routes.set n (b.setWidth 8) } }
        if b.setWidth 8 = 0#8 then u.discardRoute n else u) ∧
    (ready → n ≤ 255 → s.hbmRange b.toNat 64 = true → s.awaits b.toNat 64 = true →
      exec (.winset a b) s = s.commandHeld 0x09#8 [a, b] b.toNat 64) ∧
    (ready → n ≤ 255 → s.hbmRange b.toNat 64 = true → s.awaits b.toNat 64 = false → windowOk (bytes b 64) = true →
      s.receiving n = false → exec (.winset a b) s = s.commandDone 0x09#8 [a, b] fun t =>
        { t with hub := { t.hub with windows := t.hub.windows.set n (windowOf (bytes b 64)) } }) ∧
    (ready → n < 2 ^ 24 → (∀ t, s.hub.regtable = some t → n < t.2.1) → s.hbmRange b.toNat 32 = true →
      s.awaits b.toNat 32 = true → exec (.regset a b) s = s.commandHeld 0x0A#8 [a, b] b.toNat 32) ∧
    (ready → n < 2 ^ 24 → (s.hub.regtable = none → n < 4096) → (∀ t, s.hub.regtable = some t → n < t.2.1) →
      s.hbmRange b.toNat 32 = true → s.awaits b.toNat 32 = false → regionOk (bytes b 32) = true → s.regionState n = 0 →
      exec (.regset a b) s = s.commandDone 0x0A#8 [a, b] fun t =>
        let u := t.useRegion n
        { u with hub := { u.hub with regions := u.hub.regions.set n (regionOf (bytes b 32)) } }) ∧
    (ready → n < 2 ^ 24 → b.toNat % 8 = 0 → s.hbmRange b.toNat 8 = true → s.regionState n = 1 →
      exec (.revoke a b) s = s.commandDone 0x0B#8 [a, b] fun t =>
        let u := t.useRegion n
        ({ u with hub := { u.hub with
          regions := u.hub.regions.modify n (fun k => { k with st := 2 }), revokes := u.hub.revokes.set n b.toNat } } :
            State).freeRegion n) ∧
    (ready → n % 64 = 0 → b.toNat % 64 = 0 → s.hbmRange n b.toNat = true →
      exec (.scrub a b) s = s.commandWrites 0x0C#8 [a, b] fun t => (List.range (b.toNat / 64)).foldl (fun (u : State) i =>
        ((u.discardCopies (n / 64 + i)).hubWrite (64 * (n / 64 + i)) (List.replicate 64 0#8)).setPoison (n / 64 + i) false) t) ∧
    (ready → n ≤ 19 → b.toNat ≤ 16 → c.toNat ≤ 1 → s.ctxs = [] → ∃ t, exec (.tclimit a b c) s = .next t ∧
      (∀ p, t.mesh.tclimit.contains p = if p = (n, b.toNat) then c == 1#64 else s.mesh.tclimit.contains p) ∧
      t.hub.result = 0#8 ∧ t.mem = s.mem) ∧
    (ready → n % 4096 = 0 → c.toNat % 4096 = 0 → (b.toNat % 4096 = 0 ∧ 4096 ≤ b.toNat ∧ b.toNat ≤ 2 ^ 24) →
      (d.toNat % 512 = 0 ∧ 512 ≤ d.toNat ∧ d.toNat ≤ 2 ^ 20) → s.anyRegion = false →
      exec (.regtable a b c d) s = s.commandDone 0x0E#8 [a, b, c, d] fun t =>
        { t with hub := { t.hub with regtable := some (n, b.toNat, c.toNat, d.toNat), regUsed := [] } }) ∧
    (ready → n % 128 = 0 → s.hbmRange n 128 = true → s.awaits n 128 = true →
      exec (.ctxcreate a) s = s.commandHeld 0x10#8 [a] n 128) ∧
    (ready → n % 128 = 0 → s.hbmRange n 128 = true → s.awaits n 128 = false → ctxOk (bytes a 128) = true →
      s.ctxs.get? (wordAt (bytes a 128) 8 2) = none → exec (.ctxcreate a) s = s.commandDone 0x10#8 [a] fun t =>
        { t with ctxs := t.ctxs.set (wordAt (bytes a 128) 8 2) (ctxOf (bytes a 128)) }) ∧
    (ready → n ≤ 2047 → b.toNat % 64 = 0 → s.hbmRange b.toNat 64 = true → s.liveCtx n = true →
      exec (.ctxtear a b) s = .next (let t := (s.mcmd 0x11#8 [a, b]).tearDown n b.toNat
        { t with hub := { t.hub with busy := true } })) ∧
    (keyed → s.hub.busy = false → n % 64 = 0 → b.toNat % 64 = 0 → s.awaits n 64 = true →
      exec (.attest a b) s = s.commandHeld 0x12#8 [a, b] n 64) ∧
    (keyed → s.hub.busy = false → n % 64 = 0 → b.toNat % 64 = 0 → s.awaits n 64 = false → exec (.attest a b) s =
      s.commandWrites 0x12#8 [a, b] fun t => t.hubWrite (memKey 0 b.toNat) (s.quote (bytes a 64))) ∧
    (∀ reg, s.hub.kresLock = false → reg < 32 → ∃ t, exec (.kresWrite reg a) s = .next t ∧
      t.hub.kres[reg / 2]? = (s.hub.kres[reg / 2]?).map fun r => if reg % 2 = 0 then (n, r.2) else (r.1, n)) ∧
    (s.hub.kresLock = false → exec (.kresWrite 32 a) s =
      .next { s with hub := { s.hub with kresLock := a.getLsbD 0 } }) ∧
    (∀ die ev, keyed → exec (.counterClear die ev) s = .next { s with counters := s.counters.set (64 * die + ev) 0#64 }) ∧
    (keyed → s.ctxs = [] → exec (.registerWrite 0x110 a) s =
      .next { s with hub := { s.hub with fqbase := a &&& 0xFFFFFFFFFFFFF01F#64 } }) ∧
    (keyed → ∀ k < 4, exec (.registerWrite (8 + 8 * k) a) s = .next { s with hub := { s.hub with marg := s.hub.marg.set k a } }) ∧
    (keyed → ∀ e < 1024, ∀ w < 8, exec (.registerWrite (0x10000 + 64 * e + 8 * w) a) s =
      .next (s.setMigWord e w (s.migHostWord e w a))) ∧
    (a.getLsbD 63 = true → bits a 8 55 = 0 →
      exec (.registerWrite 0 a) s = runCode (a.extractLsb' 0 8) s.hub.marg s)

/-- R286, R287 and R354: a command written while another runs has no effect; one at level 0 gets RESULT 2, one whose
arguments its rule refuses RESULT 1, and one that names the wrong state its rule's RESULT; a refused command changes
the mailbox alone; a code that is not listed ends with RESULT 1; and before the port's IDE keys are set no write has
an effect. Log entries 34, 39, 50 and 75 give the model's choices among these. -/
def Obligations.MailboxRefusals : Prop :=
  ∀ (s : State) (a b c d : DWord),
    let t := fun code args r => (.next ((s.mcmd code args).endCmd r) : Host.Outcome State Fault Refusal)
    let keyed := s.boot.ideHost.isSome = true
    let ready := keyed ∧ s.hub.busy = false ∧ s.boot.level ≠ 0#2
    let n := a.toNat
    let bytes := fun (p : DWord) k => s.hubRead (memKey 0 p.toNat) k
    let still := exec (.fenceout a) s = .next s ∧ exec (.readmit a) s = .next s ∧ exec (.poollose a) s = .next s ∧
      exec (.poolset a b c d) s = .next s ∧ exec (.halt a) s = .next s ∧ exec (.resume a) s = .next s ∧
      exec (.fidset a) s = .next s ∧ exec (.routeset a b) s = .next s ∧ exec (.winset a b) s = .next s ∧
      exec (.regset a b) s = .next s ∧ exec (.revoke a b) s = .next s ∧ exec (.scrub a b) s = .next s ∧
      exec (.tclimit a b c) s = .next s ∧ exec (.regtable a b c d) s = .next s ∧ exec (.ctxcreate a) s = .next s ∧
      exec (.ctxtear a b) s = .next s ∧ exec (.attest a b) s = .next s
    (s.hub.busy = true → still) ∧
    (¬ keyed → still ∧ ∀ off, exec (.registerWrite off a) s = .next s) ∧
    (keyed → s.hub.busy = false → s.boot.level = 0#2 → exec (.fenceout a) s = t 0x01#8 [a] 2 ∧
      exec (.readmit a) s = t 0x02#8 [a] 2 ∧ exec (.poollose a) s = t 0x03#8 [a] 2 ∧
      exec (.poolset a b c d) s = t 0x04#8 [a, b, c, d] 2 ∧ exec (.halt a) s = t 0x05#8 [a] 2 ∧
      exec (.resume a) s = t 0x06#8 [a] 2 ∧ exec (.fidset a) s = t 0x07#8 [a] 2 ∧
      exec (.routeset a b) s = t 0x08#8 [a, b] 2 ∧ exec (.winset a b) s = t 0x09#8 [a, b] 2 ∧
      exec (.regset a b) s = t 0x0A#8 [a, b] 2 ∧ exec (.revoke a b) s = t 0x0B#8 [a, b] 2 ∧
      exec (.scrub a b) s = t 0x0C#8 [a, b] 2 ∧ exec (.tclimit a b c) s = t 0x0D#8 [a, b, c] 2 ∧
      exec (.regtable a b c d) s = t 0x0E#8 [a, b, c, d] 2 ∧ exec (.ctxcreate a) s = t 0x10#8 [a] 2 ∧
      exec (.ctxtear a b) s = t 0x11#8 [a, b] 2) ∧
    (ready → 24 ≤ n → exec (.fenceout a) s = t 0x01#8 [a] 1 ∧ exec (.readmit a) s = t 0x02#8 [a] 1) ∧
    (ready → n < 24 → s.hub.fenced.getLsbD n = true → exec (.fenceout a) s = t 0x01#8 [a] 2) ∧
    (ready → n < 24 → (s.hub.fenced.getLsbD n = false ∨ s.hub.requalified.getLsbD n = false) →
      exec (.readmit a) s = t 0x02#8 [a] 2) ∧
    (ready → 6 < n → exec (.poollose a) s = t 0x03#8 [a] 1) ∧
    (ready → (15 < n ∨ (6 < d.toNat ∧ d ≠ 0xFF#64)) → exec (.poolset a b c d) s = t 0x04#8 [a, b, c, d] 1) ∧
    (ready → n ≤ 15 → (d.toNat ≤ 6 ∨ d = 0xFF#64) → s.ctxs ≠ [] →
      exec (.poolset a b c d) s = t 0x04#8 [a, b, c, d] 3) ∧
    (ready → 15 < n → exec (.halt a) s = t 0x05#8 [a] 1 ∧ exec (.resume a) s = t 0x06#8 [a] 1) ∧
    (ready → (a = 0#64 ∨ 4095 < n) → exec (.fidset a) s = t 0x07#8 [a] 1) ∧
    (ready → a ≠ 0#64 → n ≤ 4095 → s.ctxs ≠ [] → exec (.fidset a) s = t 0x07#8 [a] 3) ∧
    (ready → (4095 < n ∨ 255 < b.toNat) → exec (.routeset a b) s = t 0x08#8 [a, b] 1) ∧
    (ready → n ≤ 4095 → b.toNat ≤ 255 → s.ctxs ≠ [] → s.removesLive n (b.setWidth 8) = true →
      exec (.routeset a b) s = t 0x08#8 [a, b] 3) ∧
    (ready → (255 < n ∨ s.hbmRange b.toNat 64 = false ∨ (s.awaits b.toNat 64 = false ∧ windowOk (bytes b 64) = false)) →
      exec (.winset a b) s = t 0x09#8 [a, b] 1) ∧
    (ready → n ≤ 255 → s.hbmRange b.toNat 64 = true → s.awaits b.toNat 64 = false → windowOk (bytes b 64) = true →
      s.receiving n = true →
      exec (.winset a b) s = t 0x09#8 [a, b] 2) ∧
    (ready → (2 ^ 24 ≤ n ∨ (∃ r, s.hub.regtable = some r ∧ r.2.1 ≤ n) ∨ s.hbmRange b.toNat 32 = false ∨
      (s.awaits b.toNat 32 = false ∧ regionOk (bytes b 32) = false)) → exec (.regset a b) s = t 0x0A#8 [a, b] 1) ∧
    (ready → n < 2 ^ 24 → (∀ r, s.hub.regtable = some r → n < r.2.1) → s.hbmRange b.toNat 32 = true →
      s.awaits b.toNat 32 = false →
      regionOk (bytes b 32) = true → ((s.hub.regtable = none ∧ 4096 ≤ n) ∨ s.regionState n ≠ 0) →
      exec (.regset a b) s = t 0x0A#8 [a, b] 2) ∧
    (ready → (2 ^ 24 ≤ n ∨ b.toNat % 8 ≠ 0 ∨ s.hbmRange b.toNat 8 = false) → exec (.revoke a b) s = t 0x0B#8 [a, b] 1) ∧
    (ready → n < 2 ^ 24 → b.toNat % 8 = 0 → s.hbmRange b.toNat 8 = true → s.regionState n ≠ 1 →
      exec (.revoke a b) s = t 0x0B#8 [a, b] 2) ∧
    (ready → (n % 64 ≠ 0 ∨ b.toNat % 64 ≠ 0 ∨ s.hbmRange n b.toNat = false) →
      exec (.scrub a b) s = t 0x0C#8 [a, b] 1) ∧
    (ready → (19 < n ∨ 16 < b.toNat ∨ 1 < c.toNat) → exec (.tclimit a b c) s = t 0x0D#8 [a, b, c] 1) ∧
    (ready → n ≤ 19 → b.toNat ≤ 16 → c.toNat ≤ 1 → s.ctxs ≠ [] → exec (.tclimit a b c) s = t 0x0D#8 [a, b, c] 3) ∧
    (ready → (n % 4096 ≠ 0 ∨ c.toNat % 4096 ≠ 0 ∨ b.toNat % 4096 ≠ 0 ∨ b.toNat < 4096 ∨ 2 ^ 24 < b.toNat ∨
      d.toNat % 512 ≠ 0 ∨ d.toNat < 512 ∨ 2 ^ 20 < d.toNat) → exec (.regtable a b c d) s = t 0x0E#8 [a, b, c, d] 1) ∧
    (ready → n % 4096 = 0 → c.toNat % 4096 = 0 → (b.toNat % 4096 = 0 ∧ 4096 ≤ b.toNat ∧ b.toNat ≤ 2 ^ 24) →
      (d.toNat % 512 = 0 ∧ 512 ≤ d.toNat ∧ d.toNat ≤ 2 ^ 20) → s.anyRegion = true →
      exec (.regtable a b c d) s = t 0x0E#8 [a, b, c, d] 2) ∧
    (ready → (n % 128 ≠ 0 ∨ s.hbmRange n 128 = false ∨ (s.awaits n 128 = false ∧ ctxOk (bytes a 128) = false)) →
      exec (.ctxcreate a) s = t 0x10#8 [a] 1) ∧
    (ready → n % 128 = 0 → s.hbmRange n 128 = true → s.awaits n 128 = false → ctxOk (bytes a 128) = true →
      (s.ctxs.get? (wordAt (bytes a 128) 8 2)).isSome = true → exec (.ctxcreate a) s = t 0x10#8 [a] 2) ∧
    (ready → (2047 < n ∨ b.toNat % 64 ≠ 0 ∨ s.hbmRange b.toNat 64 = false) → exec (.ctxtear a b) s = t 0x11#8 [a, b] 1) ∧
    (ready → n ≤ 2047 → b.toNat % 64 = 0 → s.hbmRange b.toNat 64 = true → s.liveCtx n = false →
      exec (.ctxtear a b) s = t 0x11#8 [a, b] 2) ∧
    (keyed → s.hub.busy = false → (n % 64 ≠ 0 ∨ b.toNat % 64 ≠ 0) → exec (.attest a b) s = t 0x12#8 [a, b] 1) ∧
    (ready → a.getLsbD 63 = true → bits a 8 55 = 0 → (a.extractLsb' 0 8 = 0#8 ∨ a.extractLsb' 0 8 = 0xF#8 ∨
      0x12#8 < a.extractLsb' 0 8) → exec (.registerWrite 0 a) s = t (a.extractLsb' 0 8) [] 1)

/-! ### Coherence messages -/

namespace Sys2Proof.Machine

/-- The event in which a message of a type acts (R245). -/
def Msg.event (k : Msg) (m : Nat) : Instr :=
  match k.typ with
  | .rd => .rd m
  | .own => .own m
  | .data => .data m
  | .nh => .nh m
  | .inv => .inv m
  | .ack => .ack m
  | .prune => .prune m
  | .pack => .pack m
  | .unlink => .unlink m
  | .wb => .wb m
  | .wba => .wba m
  | .refuse => .refuse m

/-- t, in which the root's service of a request for ownership is over, and what waited for it goes on (R248, R303). -/
def State.served (t : State) (req : Nat) : State :=
  ({ t with mesh := { t.mesh with serving := t.mesh.serving.filter fun p => p.2 != req } } : State).serveWaiting

/-- An instruction's accesses without the lanes that were counted as held up on a route (R298). -/
def Op.uncounted (o : Op) : Op := { o with accs := o.accs.map fun a : Acc => { a with counted := [] } }

/-- The reset state with a boot unit and a hub of its own: external flash's memory apart, what is outside HBM stays, and
so do the model's own counts (R355, R356). -/
def State.resetAs (s : State) (b : Boot) (h : Hub) : State :=
  { State.reset with
    agenda := s.agenda, tick := s.tick, fresh := s.fresh, nextId := s.nextId
    mem := s.mem.filter fun c => decide (2 ^ 52 ≤ c.1), boot := b, hub := h }

end Sys2Proof.Machine

/-- R209 to R212, R245 to R252, R254 and R255: a message of an older incarnation is dropped where it stands and counted;
otherwise a read is steered, caught or supplied where it stands, a steered read that meets no entry, or a search that
has been there already, is answered NH, NH tries the router's next link, DATA grafts its router and goes on, REFUSE
goes back and the request is sent again, OWN travels to its home, refused at a router that evicts its entry, and is
served there in its turn, INV invalidates the router's holder and passes on, to what
has been grafted since too where it comes by a second link, a router without an entry answers INV and
PRUNE at once, ACK, PACK and UNLINK take their link's bit, a write-back reaches its home and is acknowledged. Log
entries 11, 24, 30, 31, 74 and 79 give the model's choices among these. -/
def Obligations.CoherenceMessages : Prop :=
  ∀ (s : State) (m : Nat) (k : Msg), s.msg m = some k →
    ((k.inc - s.incOf k.agent).toInt < 0 →
      exec (k.event m) s = .next ((s.dropMsg m).count ((agentAt k.x k.y).getD hubDie) 13)) ∧
    (s.dropsMsg k = false →
      let e := s.ent k.x k.y k.line
      let away := ¬ (k.x = k.tx ∧ k.y = k.ty)
      let from_ := opposite k.dir
      (k.typ = .rd → k.atLocal = true → exec (.rd m) s = .next (s.holderRead m k)) ∧
      (k.typ = .rd → k.atLocal = false → k.trail = [] → exec (.rd m) s = .next (s.readOnWay m k)) ∧
      (∀ p ps, k.typ = .rd → k.atLocal = false → k.trail = p :: ps → s.isBehind m k = false →
        let here := { k with trail := (stopNo k.x k.y, 0#5, k.dir) :: k.trail }
        let known := k.trail.any fun q => q.1 == stopNo k.x k.y
        ((known = true ∨ e = none) → exec (.rd m) s = .next (s.notHere m here p)) ∧
        (∀ x, known = false → e = some x → exec (.rd m) s =
          .next (if s.goingAway x then s.refuseOrWait m here else s.steer m here x))) ∧
      (∀ x, k.typ = .nh → e = some x → exec (.nh m) s = .next (s.steer m (s.sentBy { k with typ := .rd } k.die) x)) ∧
      (∀ q p ps, k.typ = .nh → e = none → k.trail = q :: p :: ps → exec (.nh m) s = .next (s.notHere m k p)) ∧
      (k.typ = .nh → e = none → k.trail.length < 2 →
        exec (.nh m) s = .next (s.become m (s.sentBy { k with typ := .rd, trail := [], rooted := true } k.die))) ∧
      (∀ p, k.typ = .data → State.wayBack (State.passVia k) = .back p →
        exec (.data m) s = .next ((s.clearTransient (State.passVia k)).goTo m (State.passVia k) p)) ∧
      (∀ d, k.typ = .data → State.wayBack (State.passVia k) = .on d →
        let q := State.passVia k
        let root := s.homeStop k.line == (k.x, k.y)
        let g := s.graft k.x k.y k.line d from_ root q.via.isSome
        let t := ((g.1.untry k.x k.y k.line d).rejoin q e).clearTransient q
        let u := if root = true ∧ k.grant = 3#3 then t.served k.req else t
        exec (.data m) s = .next (if !g.2 then g.1 else if d = 0 then u.deliverData m q else u.goHop m { q with trail := [] } d)) ∧
      (∀ d, k.typ = .refuse → State.wayBack (State.passVia k) = .on d →
        let q := State.passVia k
        exec (.refuse m) s = .next (if d = 0 then ((s.clearTransient q).dropMsg m).resend q.req (!q.uncounted)
          else (s.clearTransient q).goHop m { q with trail := [] } d)) ∧
      (∀ p, k.typ = .refuse → State.wayBack (State.passVia k) = .back p →
        exec (.refuse m) s = .next ((s.clearTransient (State.passVia k)).goTo m (State.passVia k) p)) ∧
      (k.typ = .own → away → (k.pers = true ∨ ∀ x, e = some x → s.goingAway x = false) →
        exec (.own m) s = .next (s.goHop m k (routeXY k.x k.y k.tx k.ty))) ∧
      (∀ x, k.typ = .own → away → k.pers = false → e = some x → s.goingAway x = true →
        exec (.own m) s = .next (s.refuseMsg m k true)) ∧
      (∀ r t, k.typ = .own → ¬ away → s.mesh.reqs.get? k.req = some r → s.meetHome m k = .go t →
        exec (.own m) s = .next (t.serveOwn m k r)) ∧
      (∀ r t, k.typ = .own → ¬ away → s.mesh.reqs.get? k.req = some r → s.meetHome m k = .wait t →
        exec (.own m) s = .next t) ∧
      (∀ r t, k.typ = .own → ¬ away → s.mesh.reqs.get? k.req = some r → s.meetHome m k = .refuse t →
        exec (.own m) s = .next (t.refuseMsg m k true)) ∧
      (k.typ = .own → ¬ away → s.mesh.reqs.get? k.req = none → exec (.own m) s = .next (s.dropMsg m)) ∧
      ((k.typ = .inv ∨ k.typ = .prune) → s.isBehind m k = true → exec (k.event m) s = .next s) ∧
      (∀ x, k.typ = .inv → s.isBehind m k = false → e = some x → x.awaiting ≠ 0#5 → x.evicting = false →
        x.awaitReq = k.req → exec (.inv m) s = .next ((s.dropMsg m).invalidateMore x k)) ∧
      (∀ x, k.typ = .inv → s.isBehind m k = false → e = some x →
        (x.evicting = true ∨ (x.transient ≠ [] ∧ x.awaiting = 0#5) ∨ (x.awaiting ≠ 0#5 ∧ x.awaitReq ≠ k.req)) →
        exec (.inv m) s = .next s) ∧
      (∀ x, k.typ = .prune → s.isBehind m k = false → e = some x → x.evicting = true → x.awaitReq = k.req →
        exec (.prune m) s = .next ((s.dropMsg m).send (State.fromRouter .pack x from_))) ∧
      (∀ x, k.typ = .prune → s.isBehind m k = false → e = some x →
        ((x.evicting = true ∧ x.awaitReq ≠ k.req) ∨ (x.evicting = false ∧ (x.transient ≠ [] ∨ x.awaiting ≠ 0#5))) →
        exec (.prune m) s = .next s) ∧
      ((k.typ = .ack ∨ k.typ = .pack) → e = none → exec (k.event m) s = .next (s.dropMsg m)) ∧
      (∀ x, k.typ = .inv → s.isBehind m k = false → e = some x → x.transient = [] → x.evicting = false → x.awaiting = 0#5 →
        exec (.inv m) s = .next ((s.dropMsg m).invalidate x k.req k.smask k.exempt from_)) ∧
      (k.typ = .inv → s.isBehind m k = false → e = none → exec (.inv m) s = .next (s.answerEmpty m k .ack)) ∧
      (∀ x, k.typ = .ack → e = some x →
        let y := { x with
          awaiting := x.awaiting &&& ~~~linkBit from_, dirty := x.dirty ||| k.smask
          links := if k.pruned then x.links &&& ~~~linkBit from_ else x.links }
        let t := (s.dropMsg m).onEnt k.x k.y k.line fun _ => y
        exec (.ack m) s = .next (if y.awaiting = 0#5 then t.ackUp y else t)) ∧
      (∀ x, k.typ = .prune → s.isBehind m k = false → e = some x → x.transient = [] → x.evicting = false → x.awaiting = 0#5 →
        exec (.prune m) s = .next ((s.dropMsg m).beginPrune x false k.req from_)) ∧
      (k.typ = .prune → s.isBehind m k = false → e = none → exec (.prune m) s = .next (s.answerEmpty m k .pack)) ∧
      (∀ x, k.typ = .pack → e = some x → exec (.pack m) s = .next ((s.dropMsg m).pruneAnswer x from_)) ∧
      (k.typ = .unlink → exec (.unlink m) s = .next (((s.dropMsg m).onEnt k.x k.y k.line fun x =>
        { x with links := x.links &&& ~~~linkBit from_ }).settle k.x k.y k.line)) ∧
      (k.typ = .wb → away → exec (.wb m) s = .next (s.goHop m k (routeXY k.x k.y k.tx k.ty))) ∧
      (k.typ = .wb → ¬ away → exec (.wb m) s = .next (((State.sectorsOf k.line k.smask).foldl State.homeWritten s).become m { k with
        typ := .wba, tx := (sliceStop k.die k.line).1, ty := (sliceStop k.die k.line).2, agent := s.homeOf k.line
        inc := s.incOf (s.homeOf k.line) })) ∧
      (k.typ = .wba → routeXY k.x k.y k.tx k.ty ≠ 0 →
        exec (.wba m) s = .next (s.goHop m k (routeXY k.x k.y k.tx k.ty))) ∧
      (k.typ = .wba → routeXY k.x k.y k.tx k.ty = 0 → (∀ x, (s.dropMsg m).ent k.x k.y k.line = some x → x.evicting = false) →
        exec (.wba m) s = .next (s.dropMsg m)) ∧
      (∀ x, k.typ = .wba → routeXY k.x k.y k.tx k.ty = 0 → (s.dropMsg m).ent k.x k.y k.line = some x →
        x.awaiting.getLsbD 0 = false → exec (.wba m) s = .next (s.dropMsg m)) ∧
      (∀ x, k.typ = .wba → routeXY k.x k.y k.tx k.ty = 0 → (s.dropMsg m).ent k.x k.y k.line = some x →
        x.evicting = true → x.awaiting.getLsbD 0 = true → exec (.wba m) s = .next
          (if (s.dropMsg m).wbOut k.die k.line then s.dropMsg m else (s.dropMsg m).pruneAnswer x 0)))

/-! ### Ports, links and errors -/

/-- R246, R251, R254, R255, R289, R297, R298, R303, R360 and R363: a message of no TYPE counts; a snoop tears its sectors
down; an idle slice enters retention; a request outstanding for 2^26 cycles, and one the pool has not answered for
2^27, is reported once; the loss of a pool device loses its domain and the loss of the port every pool domain; a link
that fails is down, with one record, the accesses that it holds up being noted, and one that returns is up; a CRC
failure changes nothing; a corrected error counts; an uncorrectable one poisons its sector, or every sector its tag
could describe, stops its block's groups or halts placement; IDE keys are held, and what waited for them goes on; a
host access to HBM takes effect, or waits while its homes, its lines or what comes before it do; and an answer from
outward, for a slice or for the hub itself, takes effect. Log entries 11, 32, 37, 44 and 50 give the model's
choices among these. -/
def Obligations.PortAndErrorEvents : Prop :=
  ∀ (s : State) (n : Nat),
    (∀ (typ : BitVec 5) x y, typ = 0#5 ∨ 12 < typ.toNat →
      exec (.malformedMessage typ x y) s = .next (s.count ((agentAt x y).getD hubDie) 14)) ∧
    (∀ (typ : BitVec 5) x y, 1 ≤ typ.toNat → typ.toNat ≤ 12 → exec (.malformedMessage typ x y) s = .next s) ∧
    (∀ k c, s.portOpen (k = .biSnpInv || k = .biSnpData || k = .biSnpCur) = true →
      keyTier (64 * c) = (if k = .biSnpInv ∨ k = .biSnpData ∨ k = .biSnpCur then 2 else 1) →
      exec (.cxlSnoop k [c]) s = .next (s.askSnoop (c / 4) (1#4 <<< (c % 4)))) ∧
    (∀ d, d < 16 → n < 384 → s.sliceIdle d n = true → (d, n) ∉ s.mesh.retained →
      exec (.sliceRetention d n) s = .next { s with mesh := { s.mesh with retained := (d, n) :: s.mesh.retained } }) ∧
    (∀ r, s.mesh.reqs.get? n = some r → r.noGrant = false → r.reported = false → s.timerHeld r = false →
      2 ^ 26 ≤ (s.clock r.core - r.clock).toNat → exec (.agentSilent n) s =
        .next ((s.post (fqBytes (BitVec.ofNat 64 (keyPa (r.line * 256))) (BitVec.ofNat 64 r.agent) r.asid 7 0 r.core 0 0
          0#32)).onReq n fun q => { q with reported := true })) ∧
    (∀ r, s.mesh.reqs.get? n = some r → r.outward.isSome = true → r.outReported = false → r.line / 2 ^ 44 = 2 →
      2 ^ 27 ≤ s.hub.cycle - r.outAt → exec (.poolSilent n) s =
        .next ((s.post (fqBytes (BitVec.ofNat 64 (keyPa (r.line * 256)))
          (BitVec.ofNat 64 ((s.poolDomain (keyPa (r.line * 256))).getD 0)) 0 9 0 0 0 0 0#32)).onReq n
              fun q => { q with outReported := true })) ∧
    (n ≤ 6 → exec (.poolPortLoss (.removed n)) s = .next (s.losePool n)) ∧
    (∀ c, c = .linkDown ∨ c = .viral → exec (.poolPortLoss c) s = .next ((List.range 7).foldl State.losePool s)) ∧
    (n < 8 → s.hub.linkUp.getLsbD n = true → ∃ t, exec (.linkDown n) s = .next t ∧ t.hub.linkUp.getLsbD n = false ∧
      t.hub.held.map FqEntry.bytes = s.hub.held.map FqEntry.bytes ++ [fqBytes 0#64 (BitVec.ofNat 64 n) 0 10 0 0 0 0 0#32] ∧
      t.mem = s.mem ∧ t.blocks = s.blocks ∧ ∀ k, (t.ops.get? k).map Op.uncounted = (s.ops.get? k).map Op.uncounted) ∧
    (n < 8 → ∃ t, exec (.linkUp n) s = .next t ∧ t.hub.linkUp = s.hub.linkUp ||| (1#8 <<< n) ∧ t.mem = s.mem) ∧
    (exec (.flitCrcFail n) s = .next s) ∧
    (n ≤ hubDie → exec (.eccCorrected n) s = .next (s.count n 11)) ∧
    (exec (.eccUncorrectable (.data n)) s = .next (s.setPoison n true)) ∧
    (exec (.eccUncorrectable (.block n)) s = .next (s.stopPoisoned n)) ∧
    (∀ set way, exec (.eccUncorrectable (.tag n set way)) s = .next (s.tagError n set way)) ∧
    (∀ entry, exec (.eccUncorrectable (.itag n entry)) s = .next (s.itagError n entry)) ∧
    (∀ y set way, exec (.eccUncorrectable (.tree n y set way)) s = .next (s.treeError n y set way)) ∧
    (∃ t, exec (.eccUncorrectable .config) s = .next t ∧ t.hub.placeHalt = true ∧
      t.boot.bootstat = s.boot.bootstat ||| 2#4) ∧
    (∀ key, exec (.ideKeyExchange true key) s = .next ({ s with boot := { s.boot with idePool := some key } } : State).serveHeld ∧
      exec (.ideKeyExchange false key) s = .next ({ s with boot := { s.boot with ideHost := some key } } : State).serveHeld) ∧
    (∀ w len, (w = .share len ∨ ∃ bs, w = .host bs ∧ bs.length = len) → len ≠ 0 → s.portOpen false = true →
      s.hbmRange n len = true → s.isLost (memKey 0 n) = false →
      let touches := exec (.cxlMemAccess n (match w with | .host bs => some bs | _ => none) len) s
      (∀ bs, w = .host bs → s.mayServe s.hub.waiting (memKey 0 n) w = true → touches = .next
        (((s.homeWrite (memKey 0 n) bs).fromOutside s.traceLen).toHost (State.rangeOf (memKey 0 n) len))) ∧
      (w = .share len → s.mayServe s.hub.waiting (memKey 0 n) w = true → touches = .next
        (((State.rangeOf (memKey 0 n) len).foldl State.shareOut s).toHost (State.rangeOf (memKey 0 n) len))) ∧
      (s.mayServe s.hub.waiting (memKey 0 n) w = false → ∃ t, touches = .next t ∧ t.mem = s.mem ∧
        t.hub.waiting = s.hub.waiting ++ [{ key := memKey 0 n, what := w, own := false, ctx := none }])) ∧
    (∀ r m, s.mesh.reqs.get? n = some r → r.outward = some m → r.own = true → r.swm = false →
      r.line / 2 ^ 44 = 2 →
      s.portOpen true = true → ∃ t, exec (.cxlResponse n true false []) s = .next t ∧
        (t.mesh.reqs.get? n).map Req.outward = some none ∧
        (∀ k ∈ State.sectorsOf r.line r.smask, k ∈ t.hub.outward) ∧ t.mesh.msgs.get? s.nextId = some m) ∧
    (∀ r m ex ps data, s.mesh.reqs.get? n = some r → r.outward = some m → r.own = false → r.noGrant = true →
      s.portOpen (r.line / 2 ^ 44 == 2) = true → ∃ t, exec (.cxlResponse n ex ps data) s = .next t ∧
        t.mesh.reqs.get? n = none ∧ ∀ k ∈ State.sectorsOf r.line r.smask, k ∈ t.hub.fetched)

/-! ### Other packages and remote machines -/

/-- R281 to R284 and R300: a packet joins its message and is applied, a copy of one that has come is dropped, and with the
last packet the message's writes are performed and its contributions are counted; a contribution is applied to its
window's element, or counts where the window is absent, has all that it expects or does not fit it, and waits for its
lane's order, for the element's home and while a copy of the element is away; a window that has all it expects writes
OUT, then its completion word, and is DONE, once the homes of its elements serve; a remote message is checked at its first packet, is
discarded when its packets stop for 2^27 cycles, and is performed whole in its connection's order, once its homes
serve and no copy of its range is away; one that the connection has passed, or that was refused, changes nothing. Log
entries 11, 38, 39, 40, 76, 79 and 80 give the model's choices among these. -/
def Obligations.InboundEvents : Prop :=
  ∀ (s : State) (p : Packet) (m : RemoteMsg) (r : Remote) (c : Contrib) (w : Window),
    let i := s.inboundOf p
    let j := (s.setInbound (i.add p)).applyPacket p
    let rest := ({ s with hub := { s.hub with contribs := s.hub.contribs.filter fun x => x.id != c.id } } : State)
    let key := memKey 0 (State.elemPa w c.elem)
    let here := s.homesServe key (elemSize w.ty)
    let asks := s.homeAsks (memKey 0 r.base) r.length
    let queued := s.hub.contribs.find? (fun x => x.id == c.id) = some c
    let known := s.hub.remotes.find? (fun x => x.conn == m.conn && x.seq == m.seq)
    let mine := s.hub.remotes.find? (fun x => x.id == r.id) = some r
    ((i.got.contains p.seq = true ∨ i.count ≤ p.seq) → exec (.prawellPacket p) s = .next s) ∧
    (i.got.contains p.seq = false → p.seq < i.count → (j.inboundOf p).got.length < i.count →
      exec (.prawellPacket p) s = .next j) ∧
    (i.got.contains p.seq = false → p.seq < i.count → i.count ≤ (j.inboundOf p).got.length →
      exec (.prawellPacket p) s = .next (j.wholeMessage (j.inboundOf p))) ∧
    (queued → s.hub.windows.get? c.win = none → exec (.contributionApply c.id) s = .next (rest.count hubDie 22)) ∧
    (queued → s.hub.windows.get? c.win = some w →
      (State.fullWindow w = true → exec (.contributionApply c.id) s = .next (rest.count hubDie 21)) ∧
      (State.fullWindow w = false → s.contribBad w c = true →
        exec (.contributionApply c.id) s = .next (rest.noteContrib c w true) ∧
        (c.msg = none → rest.noteContrib c w true =
          rest.countContrib c.win { w with received := w.received + c.count, discarded := w.discarded + c.count })) ∧
      (State.fullWindow w = false → s.contribBad w c = false → s.contribTurn c ≠ .wait → here = true →
        s.callHome [sectorOf key] = none →
        let t := ((s.applyElem w c).contribTook s.traceLen s c).dropContrib c.id
        exec (.contributionApply c.id) s = .next (t.noteContrib c w false) ∧
        (c.msg = none → t.noteContrib c w false = t.countContrib c.win { w with received := w.received + c.count }))) ∧
    (queued → s.hub.windows.get? c.win = some w → State.fullWindow w = false → s.contribBad w c = false →
      (s.contribTurn c = .wait → exec (.contributionApply c.id) s = .next s) ∧
      (s.contribTurn c ≠ .wait → here = false → exec (.contributionApply c.id) s = .next (s.holdContrib c key)) ∧
      ∀ t, s.contribTurn c ≠ .wait → here = true → s.callHome [sectorOf key] = some t →
        exec (.contributionApply c.id) s = .next t) ∧
    (∀ k v, v.received < v.expect → s.countContrib k v = s.setWindow k v) ∧
    (∀ k v, v.expect ≤ v.received →
      (s.resultDies v = [] → s.countContrib k v =
        ((s.writeOut v).hubPutWord v.doneAddr (State.doneWord v) (2 * k + 1)).setWindow k { v with done := true }) ∧
      (s.resultDies v ≠ [] → (s.countContrib k v).hub.windows.get? k = some v ∧ (s.countContrib k v).mem = s.mem)) ∧
    (s.remotePassed m = true → exec (.remoteMessage m) s = .next s) ∧
    (known = some r → r.refused.isSome = true → exec (.remoteMessage m) s = .next s) ∧
    (s.remotePassed m = false → known = none →
      exec (.remoteMessage m) s = .next
        (if (s.connAt m.conn).isNone ∧ s.connLimit ≤ s.hub.connPlace.length then s.answerRefused m .key else s.firstPacket m)) ∧
    (s.remotePassed m = false → known = some r → r.refused = none →
      exec (.remoteMessage m) s = .next (s.laterPacket r m)) ∧
    (∀ conn seq, s.hub.remotes.find? (fun x => x.conn == conn && x.seq == seq) = some r → r.refused = none →
      r.write = true → r.got.length < r.packets → 2 ^ 27 ≤ s.hub.cycle - r.lastAt → exec (.remoteWriteTimeout conn seq) s =
        .next (({ s with hub := { s.hub with
          remotes := s.hub.remotes.map (fun k => if k.id == r.id then { k with refused := some .timeout, bytes := [] } else k)
          timedOut := s.hub.timedOut + 1 } } : State).endInflight r.region)) ∧
    (mine → s.connAt r.conn = some r.seq → r.refused = none → State.remoteWhole r = true → asks ≠ [] →
      exec (.remoteMessageFinish r.id) s = .next (s.askFor asks)) ∧
    (mine → s.connAt r.conn = some r.seq → r.refused = none → State.remoteWhole r = true → asks = [] →
      s.callHome (if r.write then State.rangeOf (memKey 0 r.base) r.length else []) = none →
      exec (.remoteMessageFinish r.id) s = .next (((s.performRemote r).dropRemote r).endInflight r.region)) ∧
    (mine → s.connAt r.conn = some r.seq → r.refused = none → State.remoteWhole r = true → asks = [] →
      ∀ t, s.callHome (if r.write then State.rangeOf (memKey 0 r.base) r.length else []) = some t →
        exec (.remoteMessageFinish r.id) s = .next t) ∧
    (mine → s.connAt r.conn ≠ some r.seq → exec (.remoteMessageFinish r.id) s = .next s) ∧
    (mine → r.refused = none → State.remoteWhole r = false → exec (.remoteMessageFinish r.id) s = .next s) ∧
    (mine → s.connAt r.conn = some r.seq → r.refused.isSome = true →
      exec (.remoteMessageFinish r.id) s = .next (s.dropRemote r))

/-! ### Boot -/

/-- R292, R296, R317, R354 to R358 and R362: a reset leaves the reset state, but for external flash, the memory that is
not HBM and the model's own counts, with the valid record of higher VERSION in force and measured and its KRES ranges
locked, or BOOTSTAT bit 0 set where no record is valid; a die's bring-up and a channel's training are noted once; the
service level rises by one where its condition holds, with one signal of vector 1, and not otherwise; what was held
for a memory die goes on with either. Log entries 2, 8, 11, 42, 43, 51 and 80 give the model's choices among these. -/
def Obligations.BootEvents : Prop :=
  ∀ (s : State) (a ch : Nat),
    let still := s.hub.waiting = [] ∧ ∀ w ∈ s.hub.windows, w.2.done = true ∨ State.fullWindow w.2 = false
    (exec .reset s = .next (match s.bootRecord with
      | none => s.resetAs { Boot.init with flash := s.boot.flash, bootstat := 1#4 } State.reset.hub
      | some r => s.resetAs { Boot.init with
          flash := s.boot.flash, record := some r, recMeasure := (List.range 64).map (Config.sha512 r)
          bootstat := if (List.range 16).any (recordAgents r).getLsbD && (List.range 8).any fun i => (recordAgents r).getLsbD (16 + i)
            then 0#4 else 4#4 }
          { State.reset.hub with kres := recordKres r, kresLock := true })) ∧
    (a ≤ hubDie → s.admitted.getLsbD a = true → ∃ u : State, exec (.dieBringupDone a true) s =
        .next (if u.hub.fenced.getLsbD a then
          { u with hub := { u.hub with requalified := u.hub.requalified ||| (1#25 <<< a) } } else u) ∧
      (s.decided a = true → u = s) ∧
      (s.decided a = false → ∃ v : State, u = v.serveHeld ∧ v.boot.passed = s.boot.passed ||| (1#25 <<< a) ∧
        v.boot.failed = s.boot.failed ∧ v.mem = s.mem ∧ v.hub = s.hub)) ∧
    (a ≤ hubDie → s.admitted.getLsbD a = true → s.hub.fenced.getLsbD a = false → s.decided a = false →
      s.hub.cmd = .nothing → ∃ t, exec (.dieBringupDone a true) s = .next t ∧ t.boot.passed = s.boot.passed ||| (1#25 <<< a) ∧
      t.boot.failed = s.boot.failed ∧ (still → t.mem = s.mem)) ∧
    (a ≤ hubDie → s.admitted.getLsbD a = true → s.hub.fenced.getLsbD a = false → s.decided a = false → ∃ t,
      exec (.dieBringupDone a false) s = .next t ∧ t.boot.failed = s.boot.failed ||| (1#25 <<< a) ∧
      t.boot.passed = s.boot.passed ∧ t.mem = s.mem) ∧
    (a ≤ hubDie → s.admitted.getLsbD a = true → s.hub.fenced.getLsbD a = true → s.hub.cmd = .nothing → ∃ t,
      exec (.dieBringupDone a true) s = .next t ∧ t.hub.requalified = s.hub.requalified ||| (1#25 <<< a) ∧
      t.boot.passed = (if s.decided a then s.boot.passed else s.boot.passed ||| (1#25 <<< a)) ∧ t.boot.failed = s.boot.failed) ∧
    (ch < 512 → s.admitted.getLsbD (16 + ch / 64) = true → ch ∉ s.boot.half → ∃ t,
      exec (.channelTrained ch false true) s = .next t ∧ t.boot.half = ch :: s.boot.half ∧ t.boot.full = s.boot.full) ∧
    (ch < 512 → s.admitted.getLsbD (16 + ch / 64) = true → ch ∈ s.boot.half → ch ∉ s.boot.full → ch ∉ s.boot.stuck →
      ∃ t, exec (.channelTrained ch true true) s = .next t ∧ t.boot.full = ch :: s.boot.full) ∧
    (s.mayClimb = true → ∃ v : State, exec .serviceLevelStep s = .next v.serveHeld ∧ v.boot.level = s.boot.level + 1#2 ∧
      v.hub.msix1 = s.hub.msix1 + 1 ∧ v.mem = s.mem ∧ v.blocks = s.blocks ∧ v.hub.waiting = s.hub.waiting ∧
      v.hub.cmd = s.hub.cmd) ∧
    (s.mayClimb = true → s.hub.cmd = .nothing → ∃ t, exec .serviceLevelStep s = .next t ∧ t.boot.level = s.boot.level + 1#2 ∧
      t.hub.msix1 = s.hub.msix1 + 1 ∧ (still → t.mem = s.mem) ∧ t.blocks = s.blocks) ∧
    (s.mayClimb = false → exec .serviceLevelStep s = .next s)

/-! ### Rules of every instruction -/

/-- R33, R34, R43, R45, R48, R77, R81, R97 and R126: every instruction of program text first traps its path where a
register lies outside the reservation or its place in the block is wrong; then, its guard holding in no lane, it is
passed and does nothing else; then it does not issue while a register it names has a write pending; then it traps
where an index is out of range; then it traps where it writes a uniform register from a path that is not the whole
group. Log entries 16, 22 and 48 give the model's choices among these. -/
def Obligations.InstructionChecks : Prop :=
  ∀ (i : Instr) (s : State), i.chk.isSome = true →
    let m := s.execLanes i.guard
    (s.illegalHere i = true → exec i s = .next (s.trappedAt s.cur.lanes cIllegal 0#64)) ∧
    (s.illegalHere i = false → m = 0#64 → exec i s = .next (s.pastWords s (wordsOf i) 0#64)) ∧
    (s.illegalHere i = false → m ≠ 0#64 → s.hazard i m = true →
      exec i s = .next (s.result (.stalled (some 0)))) ∧
    (∀ x, s.illegalHere i = false → m ≠ 0#64 → s.hazard i m = false → s.badIndex i m = some x →
      exec i s = .next (s.trappedAt m cIndexRange (ofInteger 64 x))) ∧
    (s.illegalHere i = false → m ≠ 0#64 → s.hazard i m = false → s.badIndex i m = none → uniformRule i = true →
      (m ≠ s.cur.lanes ∨ s.cur.lanes ≠ s.activeLanes) → exec i s = .next (s.trappedAt m cUniformSplit 0#64))

/-- R54, R343 to R347: a trap enters the handler of TRAPVEC in every lane of its mask at once, with cause, TVAL, EPC and
IN_HANDLER set, the lane's other registers and every other lane as they were; where no handler is installed, a lane is
in one already, the code is one that never enters a handler, or the handler is no legal target, the group stops with
one KIND 8 record and only the codes that never enter one set EPC and TVAL; where the handler's header has no
translation the group parks with the entry pending, and where its walk waits the entry is pending alone. Log entries
16 and 82 give the model's choices among these. -/
def Obligations.TrapEntry : Prop :=
  ∀ (s : State) (b g : Nat) (lanes : DWord) (code : Nat) (tval epc : DWord), (s.blocks.get? b).isSome = true →
    let k := s.block b
    let tv := (s.ctx k.asid).trapvec
    let t := s.takeTrap b g lanes code tval epc
    let nested := (lanesOf lanes).any fun i => (s.lane b g i).inHandler
    let plain := tv.getLsbD 0 = true ∧ nested = false ∧ code ≠ cPageFault ∧ code ≠ cPoison ∧ code ≠ cLost
    let target := s.checkTarget k.core k.asid (handlerOf tv)
    let b23 := (if nested then 1 else 0) + (if tv.getLsbD 0 then 0 else 2)
    (plain → target = .ok → t = { s with blocks := t.blocks } ∧ ∀ i < (s.group b g).lanes.length,
      let l := s.lane b g i
      let r := t.lane b g i
      if lanes.getLsbD i then
        r.cause = BitVec.ofNat 8 code ∧ r.tval = tval ∧ r.epc = epc ∧ r.inHandler = true ∧ r.pc = handlerOf tv ∧
        r.rhdr = (l.headerOf epc).1 ∧ r.v = l.v ∧ r.p = l.p ∧ r.x = l.x ∧ r.kind = l.kind ∧ r.batch = l.batch
      else r = l) ∧
    ((s.group b g).stopped = false → (s.group b g).ended = false →
      (¬ plain ∨ (target ≠ .ok ∧ target ≠ .missing ∧ ∀ as, target ≠ .wait as)) →
      t.hub.held.map FqEntry.bytes = s.hub.held.map FqEntry.bytes ++
        [fqBytes epc lanes k.asid 8 (k.groupField g) k.core code (if plain then 4 else b23) k.field] ∧
      (t.group b g).stopped = true ∧ ∀ i < (s.group b g).lanes.length, t.lane b g i =
        if noHandlerCode code = true ∧ lanes.getLsbD i = true then { s.lane b g i with tval := tval, epc := epc }
        else s.lane b g i) ∧
    (plain → target = .missing → (t.group b g).pendTrap =
      some { code := BitVec.ofNat 8 code, tval := tval, epc := epc, lanes := lanes } ∧
      (t.group b g).parked = [s.nextId] ∧ ∀ i, t.lane b g i = s.lane b g i) ∧
    (∀ as, plain → target = .wait as → t = (s.askFor as).onGroup b g fun x =>
      { x with pendTrap := some { code := BitVec.ofNat 8 code, tval := tval, epc := epc, lanes := lanes } })

/-! ### Frames -/

namespace Sys2Proof.Machine

/-- The instructions that deliver a value to D, with the fields that name D and the value's bits (R102 to R121, R135). -/
def valueTo : Instr → Option (FmtA × Nat)
  | .iadd f | .isub f | .iadd64 f | .iabs f | .ineg f | .imin f | .imax f | .imul f | .imulh f => some (f, tyWidth f.ty)
  | .and f | .or f | .xor f | .not f | .shl f | .shr f | .sar f | .rot f | .brev f | .mov f => some (f, tyWidth f.ty)
  | .imad f | .fshl f | .fshr f | .bfx f | .bfi f | .prmb f | .popc f | .clz f | .ctz f => some (f, 32)
  | .fadd f | .fsub f | .fmul f | .fdivf f | .fscale f | .fmin f | .fmax f | .pkadd f | .pkmul f => some (f, 32)
  | .fclass f | .frnd f | .fgexp f | .frcp f | .frsq f | .fsqrt f | .fex2 f | .flg2 f | .fsin f | .fcos f | .ftanh f => some (f, 32)
  | .pack8 f | .split8 f => some (f, 32)
  | .imadw _ f | .lea f | .ballot f | .matchLanes f => some (f, 64)
  | .sel w64 f => some (f, if w64 then 64 else 32)
  | .ffma f | .pkfma _ f => some (f.f, 32)
  | .fcvt f | .i2f f => some (f.f, 32)
  | .f2i f => some (f.f, tyWidth f.tyd)
  | _ => none

/-- The instructions that deliver a predicate to D. -/
def predicateTo : Instr → Option FmtA
  | .icmp f | .fcmp f | .plop f | .vote f | .elect f => some f
  | _ => none

/-- Nothing of s but the group at issue, and how the issue ended, is changed in t. -/
def State.onlyGroup (s t : State) : Prop :=
  t = { s with blocks := t.blocks, cur := { s.cur with result := t.cur.result } } ∧
  (∀ b ≠ s.cur.blk, t.block b = s.block b) ∧
  t.block s.cur.blk = { s.cb with groups := (t.block s.cur.blk).groups } ∧
  (∀ g ≠ s.cur.grp, t.group s.cur.blk g = s.group s.cur.blk g) ∧
  (∀ a, t.memByte a = s.memByte a)

/-- A byte of memory reads in t as in s; one that is unspecified in s is unspecified in t. -/
def State.keepsByte (s t : State) (a : Nat) : Prop :=
  t.isDead a = s.isDead a ∧ (s.isDead a = false → t.memByte a = s.memByte a)

/-- The bytes of memory, and those of a block's local store, that an access covers. -/
def Acc.covers (x : Acc) (n a : Nat) : Prop := ∃ key, x.loc = .mem key ∧ key ≤ a ∧ a < key + n
def Acc.coversLs (x : Acc) (n b a : Nat) : Prop := ∃ off, x.loc = .ls b off ∧ off ≤ a ∧ a < off + n

/-- The state of a coherent access on the slice of its die (R244). -/
def State.heldAs (s : State) (o : Op) (key : Nat) : Nat := s.sectState (dieOf o.core) (sectorOf key)

end Sys2Proof.Machine

/-- R33, R44, R46, R71, R83, R86 and R97: an instruction that delivers a value to D and is done changes, of the whole device, only
its group: D's registers in the executing lanes, or the uniform register D, and the pc; one that delivers a predicate changes
that predicate of the executing lanes and the pc. Every byte of memory, every other register, predicate, index register,
special register, operation and agent is as before. -/
def Obligations.RegisterInstructionFrames : Prop :=
  ∀ (i : Instr) (s t : State), exec i s = .next t → t.cur.result = .done →
    let g := t.group s.cur.blk s.cur.grp
    (∀ f w, valueTo i = some (f, w) → s.onlyGroup t ∧ g = { s.cg with lanes := g.lanes, s := g.s } ∧
      (∀ n, (f.u = false ∨ n ≠ f.d.toNat) → g.ureg n = s.cg.ureg n) ∧
      ∀ j, let l := s.cg.lane j
        let r := g.lane j
        let first := destReg f l
        r = { l with v := r.v, pc := r.pc } ∧
        ∀ n, (f.u = true ∨ (s.execLanes f.guard).getLsbD j = false ∨ (n ≠ first ∧ (w = 64 → n ≠ first + 1))) →
          r.vreg n = l.vreg n) ∧
    (∀ f, predicateTo i = some f → s.onlyGroup t ∧ g = { s.cg with lanes := g.lanes } ∧
      ∀ j, let l := s.cg.lane j
        let r := g.lane j
        r = { l with p := r.p, pc := r.pc } ∧
        ∀ n, ((s.execLanes f.guard).getLsbD j = false ∨ n ≠ f.d.toNat) → r.pred n = l.pred n)

/-- R151, R153, R155, R158 and R227: while no cache holds a copy of a software-managed sector, a step that performs
accesses of an operation over local store, or over coherent memory without poison, and for a far one over pages that
no other package holds, changes no byte of memory or of any block's local store outside the bytes those accesses
cover; a load changes none; a store, a reduction or LDONE changes nothing of any lane and no uniform register, and a
load or an atomic operation nothing but its data registers in the lanes of its accesses. Log entries 1, 15, 47 and 53
give the model's choices among these. -/
def Obligations.MemoryOperationFrames : Prop :=
  ∀ (s t : State) (k : Nat) (lanes : DWord) (o : Op), s.ops.get? k = some o → s.swm = [] →
    (∀ x ∈ o.accs, x.swm = false ∧ s.meetsPoison o x = false ∧ ∀ key, x.loc = .mem key →
      keyTier key ≠ 3 ∧ (o.far = true → s.hub.spans.get? (key / 4096) = none)) →
    exec (.memoryOpComplete k lanes) s = .next t →
    let others := fun (first n : Nat) => ∀ b g,
      (t.group b g).s = (s.group b g).s ∧ ∀ i,
      t.lane b g i = { s.lane b g i with v := (t.lane b g i).v } ∧
      ∀ r, (b ≠ o.blk ∨ g ≠ o.grp ∨ (∀ x ∈ o.accs, x.lane ≠ i) ∨ r < first ∨ first + n ≤ r) →
        (t.lane b g i).vreg r = (s.lane b g i).vreg r
    let beside := fun (n : Nat) =>
      (∀ a, (∀ x ∈ o.accs, ¬ x.covers n a) → s.keepsByte t a) ∧
      ∀ b a, (∀ x ∈ o.accs, ¬ x.coversLs n b a) → t.lsByte b a = s.lsByte b a
    (o.kind = .store → beside (2 ^ o.wid) ∧ others 0 0) ∧
    (o.kind = .ldone → beside 4 ∧ others 0 0) ∧
    (∀ op sg, o.kind = .red op sg → beside (2 ^ o.wid) ∧ others 0 0) ∧
    (∀ op sg, o.kind = .atom op sg → beside (2 ^ o.wid) ∧ others o.dest (widRegs o.wid)) ∧
    (∀ sx, o.kind = .load sx → (∀ a, s.keepsByte t a) ∧ (∀ b a, t.lsByte b a = s.lsByte b a) ∧
      others o.dest (widRegs o.wid))

/-- R146, R150, R153, R155, R158 to R160, R214, R244 and R291: an access of coherent memory is performed once its die's
slice holds the sector in a state that allows it, and one of a block's local store while that block is there: a load
delivers the bytes at its address, zero-extended or sign-extended to its registers; a store writes its data's bytes in
ascending order; an atomic operation, on its slice or, if far, at a home that no slice, host or package stands before,
writes the combination of what stands there with its operand and delivers what stood there (a reduction delivers
nothing); a store or an atomic operation on local store leaves the block's other bytes, every other block and memory
as they were. One whose sector is not held, or whose block is not there, waits. Where an access of the operation meets
poison before any of them is performed, the first load, store, atomic operation or reduction that could be performed
is not: its group stops with POISON, at the lowest access that meets it (log entry 53). A load's bytes are those of its
place p among the accesses performed (log entry 14). Log entries 14, 15, 47 and 53 give the model's choices among
these. -/
def Obligations.AccessesPerformed : Prop :=
  (∀ (s : State) (p id : Nat) (o : Op) (a : Acc) (key : Nat), a.loc = .mem key → a.swm = false → s.swm = [] →
    let n := 2 ^ o.wid
    let old := ofBytes (s.memBytes key n)
    let was := ofBytes (s.bytesAt p a.loc n)
    let r := s.performAcc p id o a
    let l := s.lane o.blk o.grp a.lane
    let l' := r.1.lane o.blk o.grp a.lane
    let there := (s.blocks.get? o.blk).isSome = true ∧ a.lane < 64 ∧ a.lane < (s.group o.blk o.grp).lanes.length ∧
      l.kind = .ordinary
    let owned := s.heldAs o key = 2 ∨ s.heldAs o key = 4
    let clean := s.firstPoisoned id o = none
    let stops := fun (x : Acc) => s.firstPoisoned id o = some x → r = ((s.prepare o a).1.failOp id o cPoison x, false)
    let home := (s.holdAt a.loc).isNone = true ∧ s.someHolds (sectorOf key) (· != 0) = false ∧
      s.needsOutward (sectorOf key) = false ∧ keyTier key ≠ 3 ∧ s.hub.spans.get? (key / 4096) = none
    (∀ sx, o.kind = .load sx → s.heldAs o key ≠ 0 → clean → there → r.2 = true ∧ r.1.mem = s.mem ∧
      (o.wid ≤ 2 → l'.vreg o.dest = if sx then (BitVec.ofNat (8 * n) was).signExtend 32 else BitVec.ofNat 32 was) ∧
      (2 < o.wid → ∀ i < widRegs o.wid, l'.vreg (o.dest + i) = BitVec.ofNat 32 (was / 2 ^ (32 * i)))) ∧
    (∀ sx x, o.kind = .load sx → s.heldAs o key ≠ 0 → stops x) ∧
    (∀ x, o.kind = .store → owned → stops x) ∧
    (∀ op sg x, (o.kind = .atom op sg ∨ o.kind = .red op sg) → (o.far = false ∧ owned ∨ o.far = true ∧ home) → stops x) ∧
    (∀ sx, o.kind = .load sx → s.heldAs o key = 0 → r.2 = false ∧ r.1.mem = s.mem ∧ l' = l) ∧
    (o.kind = .store → owned → clean → r.2 = true ∧
      ∀ i < n, r.1.memByte (key + i) = BitVec.ofNat 8 (a.val.toNat / 2 ^ (8 * i)) ∧ r.1.isDead (key + i) = false) ∧
    (o.kind = .store → ¬ owned → r.2 = false ∧ r.1.mem = s.mem) ∧
    (∀ op sg, (o.kind = .atom op sg ∨ o.kind = .red op sg) → (o.far = false ∧ owned ∨ o.far = true ∧ home) → clean →
      there → r.2 = true ∧
      r.1.memBytes key n = toBytes n (combine op (8 * n) sg old (a.val.toNat % 2 ^ (8 * n)) (a.val2.toNat % 2 ^ (8 * n))) ∧
      (o.kind = .red op sg → l' = l) ∧
      (o.kind = .atom op sg →
        (o.wid ≤ 2 → l'.vreg o.dest = BitVec.ofNat 32 old) ∧
        (2 < o.wid → ∀ i < widRegs o.wid, l'.vreg (o.dest + i) = BitVec.ofNat 32 (old / 2 ^ (32 * i))))) ∧
    (∀ op sg, (o.kind = .atom op sg ∨ o.kind = .red op sg) → o.far = false → ¬ owned → r.2 = false ∧ r.1.mem = s.mem)) ∧
  (∀ (s : State) (p id : Nat) (o : Op) (a : Acc) (b off : Nat), a.loc = .ls b off →
    let n := 2 ^ o.wid
    let old := ofBytes (s.locBytes a.loc n)
    let was := ofBytes (s.bytesAt p a.loc n)
    let r := s.performAcc p id o a
    let l := s.lane o.blk o.grp a.lane
    let l' := r.1.lane o.blk o.grp a.lane
    let here := s.windowReady b = true
    let there := (s.blocks.get? o.blk).isSome = true ∧ a.lane < 64 ∧ a.lane < (s.group o.blk o.grp).lanes.length ∧
      l.kind = .ordinary
    let delivered := fun (x : Nat) => (o.wid ≤ 2 → l'.vreg o.dest = BitVec.ofNat 32 x) ∧
      (2 < o.wid → ∀ i < widRegs o.wid, l'.vreg (o.dest + i) = BitVec.ofNat 32 (x / 2 ^ (32 * i)))
    let clean := s.firstPoisoned id o = none
    let beside := r.1.mem = s.mem ∧ ∀ c e, (c ≠ b ∨ e < off ∨ off + n ≤ e) → r.1.lsByte c e = s.lsByte c e
    (∀ sx, o.kind = .load sx → here → clean → there → r.2 = true ∧ r.1.mem = s.mem ∧
      (∀ c e, r.1.lsByte c e = s.lsByte c e) ∧
      (sx = false ∨ 2 < o.wid → delivered was) ∧
      (sx = true → o.wid ≤ 2 → l'.vreg o.dest = (BitVec.ofNat (8 * n) was).signExtend 32)) ∧
    (o.kind = .store → here → clean → (s.blocks.get? b).isSome = true → r.2 = true ∧ beside ∧
      ∀ i < n, r.1.lsByte b (off + i) = BitVec.ofNat 8 (a.val.toNat / 2 ^ (8 * i))) ∧
    (∀ op sg, (o.kind = .atom op sg ∨ o.kind = .red op sg) → here → clean → there → (s.blocks.get? b).isSome = true →
      r.2 = true ∧ beside ∧
      r.1.locBytes a.loc n = toBytes n (combine op (8 * n) sg old (a.val.toNat % 2 ^ (8 * n)) (a.val2.toNat % 2 ^ (8 * n))) ∧
      (o.kind = .red op sg → l' = l) ∧ (o.kind = .atom op sg → delivered old)) ∧
    (∀ op sg, (o.kind = .store ∨ (∃ sx, o.kind = .load sx) ∨ o.kind = .atom op sg ∨ o.kind = .red op sg) → ¬ here →
      r.2 = false ∧ r.1.mem = s.mem ∧ (∀ c e, r.1.lsByte c e = s.lsByte c e) ∧ l' = l))

/-! ### Encodings, the step and what every step keeps -/

/-- R72 to R93 and R96: every well-formed instruction of program text is the one its own words decode to, whatever follows
them, and every word that decodes is the word its instruction encodes. Log entry 18 gives the model's choices among
these. -/
def Obligations.EncodingsAgree : Prop :=
  (∀ (i : Instr), i.WellFormed → i.chk.isSome = true ∨ (∃ h, i = .blockHeader h) →
    (∃ w, encode i = [w] ∧ isTwoWord w = false ∧ ∀ next, decodeWord w next = .ok i) ∨
    (∃ w v, encode i = [w, v] ∧ isTwoWord w = true ∧ decodeWord w v = .ok i)) ∧
  (∀ (w next : DWord) (i : Instr), decodeWord w next = .ok i →
    i.WellFormed ∧ (encode i = [w] ∨ (isTwoWord w = true ∧ encode i = [w, next])))

/-- R84, R90 to R93: words written out from the formats and the opcode map decode to the instructions they stand for: `IADD.s32 v3,
v1, v2`, a MOVW of a pair, a branch back by two words, a load of v4 through the pair v2, and the zero word. -/
def Obligations.SampleWordsDecode : Prop :=
  decodeWord (0x00#6 ++ 0x7F#8 ++ 3#10 ++ 1#10 ++ 2#10 ++ (3#4 ++ 0#6) ++ 0#1 ++ 0#2 ++ 0#1 ++ 0#6 : BitVec 64) 0#64 =
    .ok (.iadd { guard := 0x7F#8, d := 3#10, a := 1#10, b := 2#10, c := 0x0C0#10, bi := false, xs := 0#2, u := false }) ∧
  decodeWord (0x1F#6 ++ 0x7F#8 ++ 6#10 ++ 0#33 ++ 0#1 ++ 2#6 : BitVec 64) 0x123456789ABCDEF0#64 =
    .ok (.movw { guard := 0x7F#8, d := 6#10, u := false, imm := 0x123456789ABCDEF0#64 }) ∧
  decodeWord (0x24#6 ++ 0x05#8 ++ 0xFFFFFFFE#32 ++ 0#10 ++ 0#2 ++ 0#6 : BitVec 64) 0#64 =
    .ok (.bra { guard := 0x05#8, off := 0xFFFFFFFE#32, a := 0#10 }) ∧
  decodeWord (0x28#6 ++ 0x7F#8 ++ 4#10 ++ 2#10 ++ 1#10 ++ 0#4 ++ 0#1 ++ 0#3 ++ 0#2 ++ 2#3 ++ 0#1 ++ 0#6 : BitVec 64) 0#64 =
    .ok (.ld false { guard := 0x7F#8, d := 4#10, a := 2#10, b := 1#10, nud := 0#4, l := false, scope := 0#3, ord := 0#2
                     wid := 2#3, fs := false }) ∧
  decodeWord 0#64 0#64 = .ok .nop

namespace Sys2Proof.Machine

/-- The groups of a core in the order in which they are offered a slot (R36). -/
def State.offered (s : State) (core : Nat) : List (Nat × Nat) :=
  sortBy (s.slotBefore core) ((s.groupsOf core).filter fun k =>
    (s.group k.1 k.2).active && (s.group k.1 k.2).mayIssue && !(s.core core).issued.contains k)

/-- A path's instruction has issued: it is done, or its lanes trapped. -/
def State.hasIssued (s : State) : Prop := s.cur.result = .done ∨ s.cur.result = .trapped

end Sys2Proof.Machine

/-- R27, R28, R36, R40, R72, R75, R78 and R97: where the core has a free slot, the first group offered it has one path,
and the word at that path's pc decodes to an instruction, the step is `exec` of that instruction at the state with the
path at issue, followed by the group's counts; where it has two, both issue in the one step, path B's instruction at
the state path A's left, and where it must come after path A's accesses, its lanes wait and it has its effect once it
can, before the core's slot is given; while a candidate execution is kept (log entry 14), `exec` runs with what
registers come from noted, which is the model's own record; the word of a path in a block is what its line holds, and
outside one a header; an event runs as itself, and a tick moves the clocks. Log entries 10, 14, 26 and 68 give the
model's choices among these. -/
def Obligations.StepRunsTheDecoded : Prop :=
  (∀ (s t : State) (core b g : Nat) (rest : List Action) (ks : List (Nat × Nat)) (p : Path) (ps : List Path) (i : Instr),
    let u := ({ s with agenda := rest, tick := s.tick + 1 } : State).fillActive core
    let k := (u.group b g).retireRecon
    let v := u.setGroup b g { k with
      choice := k.paths, forceq := k.forceOrder, yielded := false, stalls := if k.choiceStands then k.stalls else [] }
    let at_ := fun (w : State) (q : Path) (isB follows : Bool) => w.startPath b g q (v.group b g) v.nextId w.nextId isB follows
    s.agenda = .slot core :: rest → (s.die (dieOf core)).hold = false → s.hub.fenced.getLsbD (dieOf core) = false →
    s.latesOf core = [] → (s.core core).issued.length < Config.issueSlots →
    u.offered core = (b, g) :: ks → (u.group b g).pendTrap = none → k.paths = p :: ps → v.prep b g p = .instr i →
    (at_ v p false false).tracked exec i = .next t →
    (ps = [] → t.hasIssued → step s = .next (t.issued b g p.lanes)) ∧
    (∀ q j t' r, ps = [q] → v.prep b g q = .instr j → t.cur.result = .done → (at_ v q true false).tracked exec j = .next t' →
      (t'.hasIssued ∨ t'.cur.result = .behind) → (at_ t q true true).tracked exec j = .next r →
      (r.hasIssued → step s = .next (r.issued b g (p.lanes ||| q.lanes))) ∧
      (r.cur.result = .behind → step s = .next (((at_ t q true true).postpone b g
        { path := q, instr := j, firstId := v.nextId, lastId := t.nextId, counted := [] }).issued b g (p.lanes ||| q.lanes))))) ∧
  (∀ (s : State) (i : Instr), s.trace = none → s.tracked exec i = exec i s) ∧
  (∀ (s t : State) (i : Instr), s.tracked exec i = .next t →
    ∃ tr u, exec i { s with trace := tr } = .next u ∧ t = { u with trace := t.trace }) ∧
  (∀ (s : State) (core b g : Nat) (rest : List Action) (l : Late),
    s.agenda = .slot core :: rest → (s.die (dieOf core)).hold = false → s.hub.fenced.getLsbD (dieOf core) = false →
    s.latesOf core = [(b, g, l)] →
    ∀ t, ({ s with agenda := rest, tick := s.tick + 1 } : State).tryLate exec b g l = .next t → step s = t.issueSlot core) ∧
  (∀ (s : State) (b g : Nat) (p : Path) (w : DWord) (i : Instr),
    let l := (s.group b g).lane (lowest p.lanes)
    p.pc.toNat % 8 = 0 → s.fetch (s.block b).core (s.block b).asid p.pc = .word w →
    (l.inBlock p.pc = true → isHeaderWord w = false →
      (isTwoWord w = false → decodeWord w 0#64 = .ok i → s.prep b g p = .instr i) ∧
      (∀ v, isTwoWord w = true → l.lastWord p.pc = false →
        s.fetch (s.block b).core (s.block b).asid (p.pc + 8#64) = .word v → decodeWord w v = .ok i →
        s.prep b g p = .instr i)) ∧
    (l.inBlock p.pc = false → isHeaderWord w = true → decodeWord w 0#64 = .ok i → s.prep b g p = .instr i)) ∧
  (∀ (s : State) (i : Instr) (rest : List Action), s.agenda = .event i :: rest → encode i = [] →
    step s = exec i { s with agenda := rest, tick := s.tick + 1 }) ∧
  (∀ (s : State) (rest : List Action), s.agenda = .tick :: rest →
    step s = .next ({ s with agenda := rest, tick := s.tick + 1 } : State).clockTick)

/-- R53, R54, R57, R255, R286, R317, R341, R354 and R358: what reset leaves where the manual gives it: the level is 0, no context and no
work is there, BANKROLE is all ones, TRAPVEC and TDMASK are 0, the mailbox and the fault queue are at 0, KRESLOCK is clear, no agent
is fenced or lost and every incarnation is 0; and the stores of the device are in their canonical form (the model's own rule). -/
def Obligations.ResetState : Prop :=
  let s := State.reset
  s.wf = true ∧ s.boot.level = 0#2 ∧ s.ctxs = [] ∧ s.blocks = [] ∧ s.launches = [] ∧ s.ops = [] ∧ s.copies = [] ∧
  (∀ c, (s.core c).bankrole = 0xFFFFFFFFFFFFFFFF#64) ∧ (∀ a, (s.ctx a).trapvec = 0#64 ∧ (s.ctx a).tdmask = 0#64) ∧
  s.hub.busy = false ∧ s.hub.code = 0#8 ∧ s.hub.marg = [0#64, 0#64, 0#64, 0#64] ∧ s.hub.result = 0#8 ∧
  s.hub.fqbase = 0#64 ∧ s.hub.fqtail = 0#64 ∧ s.hub.fqhead = 0#64 ∧ s.hub.held = [] ∧ s.hub.kresLock = false ∧
  s.hub.fenced = 0#25 ∧ s.hub.lost = 0#32 ∧ (∀ a, s.incOf a = 0#8) ∧ (∀ d k, s.sectState d k = 0)

/-- The stores of the device keep their canonical form: whatever step is taken from a state whose memory, poison, unspecified
bytes, counters and sector states are in it, they are in it after the step (the model's own invariant, log entry 2). -/
def Obligations.StepKeepsStores : Prop := ∀ (s t : State), s.wf = true → step s = .next t → t.wf = true

/-- R317: before KRESLOCK is set, no address of HBM is in a range that is enforced, and a write sets a range's base, its
length in frames, or KRESLOCK; once it is set, a write is ignored and counts one event, and no step but a reset
changes a range or KRESLOCK. (Of the register a write names, 2r is the base of range r, 2r + 1 its length, 32
KRESLOCK: log entry 62's numbers; that a range is one of HBM is log entry 21's reading.) Log entries 21 and 62 give
the model's choices among these. -/
def Obligations.KresStaysLocked : Prop :=
  ∀ s : State,
    (s.hub.kresLock = false → (∀ key, s.kresLocked key = false) ∧
      (∀ reg < 32, ∀ v, exec (.kresWrite reg v) s = .next { s with hub := { s.hub with
        kres := s.hub.kres.mapIdx fun i r =>
          if i = reg / 2 then (if reg % 2 = 0 then (v.toNat, r.2) else (r.1, v.toNat)) else r } }) ∧
      (∀ v, exec (.kresWrite 32 v) s = .next { s with hub := { s.hub with kresLock := v.getLsbD 0 } })) ∧
    (s.hub.kresLock = true →
      (∀ reg v, exec (.kresWrite reg v) s = .next (s.count hubDie 26)) ∧
      (∀ t, s.nextAction.1 ≠ .event .reset → step s = .next t → t.hub.kres = s.hub.kres ∧ t.hub.kresLock = true))
end

