-- ==== Sys2Proof/Laws/Cells.lean ====
section
/-!
SUPPORT. What sparse storage does: a read after a write, the canonical form, and tables of parts in use.
-/
namespace Sys2Proof.Machine

/-! ### Reads and writes -/

@[simp] theorem Cells.get_nil {w : Nat} (a : Nat) : Cells.get ([] : Cells w) a = 0#w := rfl

theorem Cells.get_erase {w : Nat} (m : Cells w) (a b : Nat) :
    (m.erase a).get b = if a = b then 0#w else m.get b := by
  induction m with
  | nil => simp [Cells.erase, Cells.get]
  | cons kv rest ih =>
    obtain ⟨k, v⟩ := kv
    simp only [Cells.erase, List.filter_cons] at ih ⊢
    by_cases hk : k = a
    · subst hk
      simp only [ne_eq, not_true_eq_false, decide_false, Bool.false_eq_true, if_false, ih, Cells.get]
      split <;> rfl
    · simp only [ne_eq, hk, not_false_eq_true, decide_true, if_true, Cells.get, ih]
      by_cases hb : k = b
      · subst hb; simp [Ne.symm hk]
      · simp [hb]

theorem Cells.get_insert {w : Nat} (m : Cells w) (a b : Nat) (x : BitVec w) :
    (m.insert a x).get b = if a = b then x else m.get b := by
  induction m with
  | nil => simp [Cells.insert, Cells.get]
  | cons kv rest ih =>
    obtain ⟨k, v⟩ := kv
    simp only [Cells.insert]
    split
    · simp [Cells.get]
    · split
      · next h => subst h; simp only [Cells.get]; split <;> rfl
      · next h =>
        simp only [Cells.get, ih]
        by_cases hb : k = b
        · subst hb; simp [Ne.symm h]
        · simp [hb]

/-- A read after a write: the value written at its key, the old value at every other. -/
theorem Cells.get_set {w : Nat} (m : Cells w) (a b : Nat) (x : BitVec w) :
    (m.set a x).get b = if a = b then x else m.get b := by
  unfold Cells.set
  split
  · next h => rw [Cells.get_erase, h]
  · exact Cells.get_insert m a b x

@[simp] theorem Cells.get_set_same {w : Nat} (m : Cells w) (a : Nat) (x : BitVec w) : (m.set a x).get a = x := by
  simp [Cells.get_set]

theorem Cells.get_set_other {w : Nat} (m : Cells w) {a b : Nat} (x : BitVec w) (h : a ≠ b) :
    (m.set a x).get b = m.get b := by
  simp [Cells.get_set, h]

/-! ### The canonical form -/

/-- The canonical form, above a bound, of a list with its first entry. -/
theorem Cells.wfFrom_cons {w : Nat} (lo : Option Nat) (k : Nat) (v : BitVec w) (rest : Cells w) :
    Cells.wfFrom lo ((k, v) :: rest) = true ↔
      (∀ b, lo = some b → b < k) ∧ v ≠ 0#w ∧ Cells.wfFrom (some k) rest = true := by
  cases lo <;> simp [Cells.wfFrom, and_assoc]

theorem Cells.wfFrom_mono {w : Nat} {m : Cells w} {lo lo' : Option Nat}
    (h : ∀ b, lo' = some b → ∃ c, lo = some c ∧ b ≤ c) (hm : m.wfFrom lo = true) : m.wfFrom lo' = true := by
  cases m with
  | nil => rfl
  | cons kv rest =>
    obtain ⟨k, v⟩ := kv
    rw [Cells.wfFrom_cons] at hm ⊢
    refine ⟨fun b hb => ?_, hm.2⟩
    obtain ⟨c, hc, hbc⟩ := h b hb
    exact Nat.lt_of_le_of_lt hbc (hm.1 c hc)

/-- Leaving entries out keeps the canonical form. -/
theorem Cells.wfFrom_filter {w : Nat} (p : Nat × BitVec w → Bool) (m : Cells w) (lo : Option Nat)
    (hm : m.wfFrom lo = true) : Cells.wfFrom lo (m.filter p) = true := by
  induction m generalizing lo with
  | nil => rfl
  | cons kv rest ih =>
    obtain ⟨k, v⟩ := kv
    rw [Cells.wfFrom_cons] at hm
    rw [List.filter_cons]
    split
    · rw [Cells.wfFrom_cons]; exact ⟨hm.1, hm.2.1, ih _ hm.2.2⟩
    · refine ih _ (Cells.wfFrom_mono (fun b hb => ⟨k, rfl, ?_⟩) hm.2.2)
      exact Nat.le_of_lt (hm.1 b hb)

theorem Cells.wfFrom_insert {w : Nat} (m : Cells w) (lo : Option Nat) (a : Nat) (x : BitVec w) (hx : x ≠ 0#w)
    (ha : ∀ b, lo = some b → b < a) (hm : m.wfFrom lo = true) : (m.insert a x).wfFrom lo = true := by
  induction m generalizing lo with
  | nil => rw [Cells.insert, Cells.wfFrom_cons]; exact ⟨ha, hx, rfl⟩
  | cons kv rest ih =>
    obtain ⟨k, v⟩ := kv
    rw [Cells.wfFrom_cons] at hm
    simp only [Cells.insert]
    split
    · next h =>
      rw [Cells.wfFrom_cons, Cells.wfFrom_cons]
      exact ⟨ha, hx, fun b hb => by cases hb; exact h, hm.2⟩
    · split
      · next h => rw [Cells.wfFrom_cons]; exact ⟨ha, hx, by subst h; exact hm.2.2⟩
      · next h1 h2 =>
        rw [Cells.wfFrom_cons]
        exact ⟨hm.1, hm.2.1, ih _ (fun b hb => by cases hb; omega) hm.2.2⟩

/-- A write keeps the canonical form. -/
theorem Cells.wf_set {w : Nat} (m : Cells w) (a : Nat) (x : BitVec w) (hm : m.wf = true) : (m.set a x).wf = true := by
  unfold Cells.set
  split
  · exact Cells.wfFrom_filter _ m none hm
  · next h => exact Cells.wfFrom_insert m none a x h (by simp) hm

theorem Cells.wf_filter {w : Nat} (p : Nat × BitVec w → Bool) (m : Cells w) (hm : m.wf = true) :
    Cells.wf (m.filter p) = true := Cells.wfFrom_filter p m none hm

theorem Cells.wf_clearRange {w : Nat} (m : Cells w) (a n : Nat) (hm : m.wf = true) : (m.clearRange a n).wf = true :=
  Cells.wf_filter _ m hm

theorem Cells.wf_setMany {w : Nat} (m : Cells w) (a : Nat) (xs : List (BitVec w)) (hm : m.wf = true) :
    (m.setMany a xs).wf = true := by
  induction xs generalizing m a with
  | nil => exact hm
  | cons x xs ih => exact ih _ _ (Cells.wf_set m a x hm)

theorem Memory.wf_nil : Memory.wf [] = true := rfl

theorem Memory.wf_set (m : Memory) (a : Nat) (b : Byte) (hm : m.wf = true) : (m.set a b).wf = true :=
  Cells.wf_set (w := 8) m a b hm

theorem Memory.wf_filter (p : Host.Cell → Bool) (m : Memory) (hm : m.wf = true) : Memory.wf (m.filter p) = true :=
  Cells.wf_filter (w := 8) p m hm

theorem Memory.get_set (m : Memory) (a c : Nat) (b : Byte) : (m.set a b).get c = if a = c then b else m.get c :=
  Cells.get_set (w := 8) m a c b

/-- Canonical lists that read alike at every key are equal. -/
theorem Cells.ext_of_wfFrom {w : Nat} : ∀ (m n : Cells w) (lo : Option Nat), m.wfFrom lo = true → n.wfFrom lo = true →
    (∀ a, m.get a = n.get a) → m = n
  | [], [], _, _, _, _ => rfl
  | [], (k, v) :: rest, _, _, hn, h => by
    rw [Cells.wfFrom_cons] at hn
    have := h k
    simp only [Cells.get, if_true] at this
    exact absurd this.symm hn.2.1
  | (k, v) :: rest, [], _, hm, _, h => by
    rw [Cells.wfFrom_cons] at hm
    have := h k
    simp only [Cells.get, if_true] at this
    exact absurd this hm.2.1
  | (k, v) :: r, (j, u) :: t, lo, hm, hn, h => by
    rw [Cells.wfFrom_cons] at hm hn
    have low : ∀ (x : Cells w) (b c : Nat), x.wfFrom (some b) = true → c ≤ b → x.get c = 0#w := by
      intro x
      induction x with
      | nil => intros; rfl
      | cons kv x ih =>
        obtain ⟨i, y⟩ := kv
        intro b c hx hc
        rw [Cells.wfFrom_cons] at hx
        have hi := hx.1 b rfl
        simp only [Cells.get]
        rw [if_neg (by omega)]
        exact ih i c hx.2.2 (by omega)
    have hkj : k = j := by
      rcases Nat.lt_trichotomy k j with hlt | heq | hgt
      · have := h k
        simp only [Cells.get, if_true] at this
        rw [if_neg (by omega), low t j k hn.2.2 (by omega)] at this
        exact absurd this hm.2.1
      · exact heq
      · have := h j
        simp only [Cells.get, if_true] at this
        rw [if_neg (by omega), low r k j hm.2.2 (by omega)] at this
        exact absurd this.symm hn.2.1
    subst hkj
    have hvu : v = u := by simpa [Cells.get] using h k
    subst hvu
    congr 1
    refine Cells.ext_of_wfFrom r t (some k) hm.2.2 hn.2.2 fun a => ?_
    by_cases ha : k = a
    · subst ha; rw [low r k k hm.2.2 (Nat.le_refl _), low t k k hn.2.2 (Nat.le_refl _)]
    · simpa [Cells.get, ha] using h a

/-! ### Tables -/

theorem Tbl.get?_set {α : Type} (t : Tbl α) (a b : Nat) (x : α) :
    Tbl.get? (t.set a x) b = if a = b then some x else Tbl.get? t b := by
  induction t with
  | nil => simp [Tbl.set, Tbl.get?]
  | cons kv rest ih =>
    obtain ⟨k, v⟩ := kv
    simp only [Tbl.set]
    split
    · simp [Tbl.get?]
    · split
      · next h => subst h; simp only [Tbl.get?]; split <;> rfl
      · next h =>
        simp only [Tbl.get?, ih]
        by_cases hb : k = b
        · subst hb; simp [Ne.symm h]
        · simp [hb]

theorem Tbl.get?_erase {α : Type} (t : Tbl α) (a b : Nat) :
    Tbl.get? (t.erase a) b = if a = b then none else Tbl.get? t b := by
  induction t with
  | nil => simp [Tbl.erase, Tbl.get?]
  | cons kv rest ih =>
    obtain ⟨k, v⟩ := kv
    simp only [Tbl.erase, List.filter_cons] at ih ⊢
    by_cases hk : k = a
    · subst hk
      simp only [ne_eq, not_true_eq_false, decide_false, Bool.false_eq_true, if_false, ih, Tbl.get?]
      split <;> rfl
    · simp only [ne_eq, hk, not_false_eq_true, decide_true, if_true, Tbl.get?, ih]
      by_cases hb : k = b
      · subst hb; simp [Ne.symm hk]
      · simp [hb]

theorem Tbl.get?_modify {α : Type} (t : Tbl α) (a b : Nat) (f : α → α) :
    Tbl.get? (t.modify a f) b = if a = b then (Tbl.get? t b).map f else Tbl.get? t b := by
  induction t with
  | nil => simp [Tbl.modify, Tbl.get?]
  | cons kv rest ih =>
    obtain ⟨k, v⟩ := kv
    simp only [Tbl.modify, List.map_cons] at ih ⊢
    by_cases hk : k = a
    · subst hk
      simp only [if_true, Tbl.get?, ih]
      by_cases hb : k = b <;> simp [hb]
    · simp only [hk, if_false, Tbl.get?, ih]
      by_cases hb : k = b
      · subst hb; simp [Ne.symm hk]
      · simp [hb]

@[simp] theorem Tbl.getD_set_same {α : Type} (t : Tbl α) (a : Nat) (x d : α) : Tbl.getD (t.set a x) a d = x := by
  simp [Tbl.getD, Tbl.get?_set]

theorem Tbl.getD_set_other {α : Type} (t : Tbl α) {a b : Nat} (x d : α) (h : a ≠ b) :
    Tbl.getD (t.set a x) b d = Tbl.getD t b d := by
  simp [Tbl.getD, Tbl.get?_set, h]

/-! ### Bytes of a value -/

@[simp] theorem toBytes_length (n v : Nat) : (toBytes n v).length = n := by simp [toBytes]

theorem toBytes_succ (n v : Nat) : toBytes (n + 1) v = BitVec.ofNat 8 v :: toBytes n (v / 256) := by
  simp only [toBytes, List.range_succ_eq_map, List.map_cons, List.map_map, Nat.mul_zero, Nat.shiftRight_zero]
  congr 1
  apply List.map_congr_left
  intro i _
  simp only [Function.comp, Nat.succ_eq_add_one, Nat.mul_add, Nat.mul_one, Nat.shiftRight_add]
  rw [Nat.shiftRight_eq_div_pow, Nat.shiftRight_eq_div_pow, Nat.shiftRight_eq_div_pow, Nat.div_div_eq_div_mul,
    Nat.div_div_eq_div_mul, Nat.mul_comm]

/-- The bytes of a value make it up again. -/
theorem ofBytes_toBytes (n v : Nat) : ofBytes (toBytes n v) = v % 2 ^ (8 * n) := by
  induction n generalizing v with
  | zero => simp [toBytes, ofBytes, Nat.mod_one]
  | succ n ih =>
    rw [toBytes_succ, ofBytes, ih, BitVec.toNat_ofNat, Nat.mul_add, Nat.mul_one, Nat.add_comm (8 * n) 8, Nat.pow_add,
      Nat.mod_mul]

end Sys2Proof.Machine
end

