-- ==== Sys2Proof/Laws/State.lean ====
section
/-!
SUPPORT. One lemma for each field and each update of the state: what the update leaves alone, and what it writes.
-/
namespace Sys2Proof.Machine.State

/-! ### `setCore` -/

@[simp] theorem setCore_agenda (s : State) (c : Nat) (k : Core) : (s.setCore c k).agenda = s.agenda := rfl
@[simp] theorem setCore_tick (s : State) (c : Nat) (k : Core) : (s.setCore c k).tick = s.tick := rfl
@[simp] theorem setCore_fresh (s : State) (c : Nat) (k : Core) : (s.setCore c k).fresh = s.fresh := rfl
@[simp] theorem setCore_nextId (s : State) (c : Nat) (k : Core) : (s.setCore c k).nextId = s.nextId := rfl
@[simp] theorem setCore_cur (s : State) (c : Nat) (k : Core) : (s.setCore c k).cur = s.cur := rfl
@[simp] theorem setCore_mem (s : State) (c : Nat) (k : Core) : (s.setCore c k).mem = s.mem := rfl
@[simp] theorem setCore_poison (s : State) (c : Nat) (k : Core) : (s.setCore c k).poison = s.poison := rfl
@[simp] theorem setCore_dead (s : State) (c : Nat) (k : Core) : (s.setCore c k).dead = s.dead := rfl
@[simp] theorem setCore_cores (s : State) (c : Nat) (k : Core) : (s.setCore c k).cores = s.cores.set c k := rfl
@[simp] theorem setCore_dies (s : State) (c : Nat) (k : Core) : (s.setCore c k).dies = s.dies := rfl
@[simp] theorem setCore_clusters (s : State) (c : Nat) (k : Core) : (s.setCore c k).clusters = s.clusters := rfl
@[simp] theorem setCore_blocks (s : State) (c : Nat) (k : Core) : (s.setCore c k).blocks = s.blocks := rfl
@[simp] theorem setCore_ops (s : State) (c : Nat) (k : Core) : (s.setCore c k).ops = s.ops := rfl
@[simp] theorem setCore_copies (s : State) (c : Nat) (k : Core) : (s.setCore c k).copies = s.copies := rfl
@[simp] theorem setCore_ctxs (s : State) (c : Nat) (k : Core) : (s.setCore c k).ctxs = s.ctxs := rfl
@[simp] theorem setCore_launches (s : State) (c : Nat) (k : Core) : (s.setCore c k).launches = s.launches := rfl
@[simp] theorem setCore_rings (s : State) (c : Nat) (k : Core) : (s.setCore c k).rings = s.rings := rfl
@[simp] theorem setCore_cbars (s : State) (c : Nat) (k : Core) : (s.setCore c k).cbars = s.cbars := rfl
@[simp] theorem setCore_hub (s : State) (c : Nat) (k : Core) : (s.setCore c k).hub = s.hub := rfl
@[simp] theorem setCore_mesh (s : State) (c : Nat) (k : Core) : (s.setCore c k).mesh = s.mesh := rfl
@[simp] theorem setCore_caches (s : State) (c : Nat) (k : Core) : (s.setCore c k).caches = s.caches := rfl
@[simp] theorem setCore_swm (s : State) (c : Nat) (k : Core) : (s.setCore c k).swm = s.swm := rfl
@[simp] theorem setCore_boot (s : State) (c : Nat) (k : Core) : (s.setCore c k).boot = s.boot := rfl
@[simp] theorem setCore_deadId (s : State) (c : Nat) (k : Core) : (s.setCore c k).deadId = s.deadId := rfl
@[simp] theorem setCore_trace (s : State) (c : Nat) (k : Core) : (s.setCore c k).trace = s.trace := rfl
@[simp] theorem setCore_monitors (s : State) (c : Nat) (k : Core) : (s.setCore c k).monitors = s.monitors := rfl
@[simp] theorem setCore_swmFrames (s : State) (c : Nat) (k : Core) : (s.setCore c k).swmFrames = s.swmFrames := rfl
@[simp] theorem setCore_counters (s : State) (c : Nat) (k : Core) : (s.setCore c k).counters = s.counters := rfl

/-! ### `setDie` -/

@[simp] theorem setDie_agenda (s : State) (d : Nat) (k : Die) : (s.setDie d k).agenda = s.agenda := rfl
@[simp] theorem setDie_tick (s : State) (d : Nat) (k : Die) : (s.setDie d k).tick = s.tick := rfl
@[simp] theorem setDie_fresh (s : State) (d : Nat) (k : Die) : (s.setDie d k).fresh = s.fresh := rfl
@[simp] theorem setDie_nextId (s : State) (d : Nat) (k : Die) : (s.setDie d k).nextId = s.nextId := rfl
@[simp] theorem setDie_cur (s : State) (d : Nat) (k : Die) : (s.setDie d k).cur = s.cur := rfl
@[simp] theorem setDie_mem (s : State) (d : Nat) (k : Die) : (s.setDie d k).mem = s.mem := rfl
@[simp] theorem setDie_poison (s : State) (d : Nat) (k : Die) : (s.setDie d k).poison = s.poison := rfl
@[simp] theorem setDie_dead (s : State) (d : Nat) (k : Die) : (s.setDie d k).dead = s.dead := rfl
@[simp] theorem setDie_cores (s : State) (d : Nat) (k : Die) : (s.setDie d k).cores = s.cores := rfl
@[simp] theorem setDie_dies (s : State) (d : Nat) (k : Die) : (s.setDie d k).dies = s.dies.set d k := rfl
@[simp] theorem setDie_clusters (s : State) (d : Nat) (k : Die) : (s.setDie d k).clusters = s.clusters := rfl
@[simp] theorem setDie_blocks (s : State) (d : Nat) (k : Die) : (s.setDie d k).blocks = s.blocks := rfl
@[simp] theorem setDie_ops (s : State) (d : Nat) (k : Die) : (s.setDie d k).ops = s.ops := rfl
@[simp] theorem setDie_copies (s : State) (d : Nat) (k : Die) : (s.setDie d k).copies = s.copies := rfl
@[simp] theorem setDie_ctxs (s : State) (d : Nat) (k : Die) : (s.setDie d k).ctxs = s.ctxs := rfl
@[simp] theorem setDie_launches (s : State) (d : Nat) (k : Die) : (s.setDie d k).launches = s.launches := rfl
@[simp] theorem setDie_rings (s : State) (d : Nat) (k : Die) : (s.setDie d k).rings = s.rings := rfl
@[simp] theorem setDie_cbars (s : State) (d : Nat) (k : Die) : (s.setDie d k).cbars = s.cbars := rfl
@[simp] theorem setDie_hub (s : State) (d : Nat) (k : Die) : (s.setDie d k).hub = s.hub := rfl
@[simp] theorem setDie_mesh (s : State) (d : Nat) (k : Die) : (s.setDie d k).mesh = s.mesh := rfl
@[simp] theorem setDie_caches (s : State) (d : Nat) (k : Die) : (s.setDie d k).caches = s.caches := rfl
@[simp] theorem setDie_swm (s : State) (d : Nat) (k : Die) : (s.setDie d k).swm = s.swm := rfl
@[simp] theorem setDie_boot (s : State) (d : Nat) (k : Die) : (s.setDie d k).boot = s.boot := rfl
@[simp] theorem setDie_deadId (s : State) (d : Nat) (k : Die) : (s.setDie d k).deadId = s.deadId := rfl
@[simp] theorem setDie_trace (s : State) (d : Nat) (k : Die) : (s.setDie d k).trace = s.trace := rfl
@[simp] theorem setDie_monitors (s : State) (d : Nat) (k : Die) : (s.setDie d k).monitors = s.monitors := rfl
@[simp] theorem setDie_swmFrames (s : State) (d : Nat) (k : Die) : (s.setDie d k).swmFrames = s.swmFrames := rfl
@[simp] theorem setDie_counters (s : State) (d : Nat) (k : Die) : (s.setDie d k).counters = s.counters := rfl

/-! ### `setCluster` -/

@[simp] theorem setCluster_agenda (s : State) (c : Nat) (k : Cluster) : (s.setCluster c k).agenda = s.agenda := rfl
@[simp] theorem setCluster_tick (s : State) (c : Nat) (k : Cluster) : (s.setCluster c k).tick = s.tick := rfl
@[simp] theorem setCluster_fresh (s : State) (c : Nat) (k : Cluster) : (s.setCluster c k).fresh = s.fresh := rfl
@[simp] theorem setCluster_nextId (s : State) (c : Nat) (k : Cluster) : (s.setCluster c k).nextId = s.nextId := rfl
@[simp] theorem setCluster_cur (s : State) (c : Nat) (k : Cluster) : (s.setCluster c k).cur = s.cur := rfl
@[simp] theorem setCluster_mem (s : State) (c : Nat) (k : Cluster) : (s.setCluster c k).mem = s.mem := rfl
@[simp] theorem setCluster_poison (s : State) (c : Nat) (k : Cluster) : (s.setCluster c k).poison = s.poison := rfl
@[simp] theorem setCluster_dead (s : State) (c : Nat) (k : Cluster) : (s.setCluster c k).dead = s.dead := rfl
@[simp] theorem setCluster_cores (s : State) (c : Nat) (k : Cluster) : (s.setCluster c k).cores = s.cores := rfl
@[simp] theorem setCluster_dies (s : State) (c : Nat) (k : Cluster) : (s.setCluster c k).dies = s.dies := rfl
@[simp] theorem setCluster_clusters (s : State) (c : Nat) (k : Cluster) : (s.setCluster c k).clusters = s.clusters.set c k := rfl
@[simp] theorem setCluster_blocks (s : State) (c : Nat) (k : Cluster) : (s.setCluster c k).blocks = s.blocks := rfl
@[simp] theorem setCluster_ops (s : State) (c : Nat) (k : Cluster) : (s.setCluster c k).ops = s.ops := rfl
@[simp] theorem setCluster_copies (s : State) (c : Nat) (k : Cluster) : (s.setCluster c k).copies = s.copies := rfl
@[simp] theorem setCluster_ctxs (s : State) (c : Nat) (k : Cluster) : (s.setCluster c k).ctxs = s.ctxs := rfl
@[simp] theorem setCluster_launches (s : State) (c : Nat) (k : Cluster) : (s.setCluster c k).launches = s.launches := rfl
@[simp] theorem setCluster_rings (s : State) (c : Nat) (k : Cluster) : (s.setCluster c k).rings = s.rings := rfl
@[simp] theorem setCluster_cbars (s : State) (c : Nat) (k : Cluster) : (s.setCluster c k).cbars = s.cbars := rfl
@[simp] theorem setCluster_hub (s : State) (c : Nat) (k : Cluster) : (s.setCluster c k).hub = s.hub := rfl
@[simp] theorem setCluster_mesh (s : State) (c : Nat) (k : Cluster) : (s.setCluster c k).mesh = s.mesh := rfl
@[simp] theorem setCluster_caches (s : State) (c : Nat) (k : Cluster) : (s.setCluster c k).caches = s.caches := rfl
@[simp] theorem setCluster_swm (s : State) (c : Nat) (k : Cluster) : (s.setCluster c k).swm = s.swm := rfl
@[simp] theorem setCluster_boot (s : State) (c : Nat) (k : Cluster) : (s.setCluster c k).boot = s.boot := rfl
@[simp] theorem setCluster_deadId (s : State) (c : Nat) (k : Cluster) : (s.setCluster c k).deadId = s.deadId := rfl
@[simp] theorem setCluster_trace (s : State) (c : Nat) (k : Cluster) : (s.setCluster c k).trace = s.trace := rfl
@[simp] theorem setCluster_monitors (s : State) (c : Nat) (k : Cluster) : (s.setCluster c k).monitors = s.monitors := rfl
@[simp] theorem setCluster_swmFrames (s : State) (c : Nat) (k : Cluster) : (s.setCluster c k).swmFrames = s.swmFrames := rfl
@[simp] theorem setCluster_counters (s : State) (c : Nat) (k : Cluster) : (s.setCluster c k).counters = s.counters := rfl

/-! ### `setBlock` -/

@[simp] theorem setBlock_agenda (s : State) (b : Nat) (k : Block) : (s.setBlock b k).agenda = s.agenda := rfl
@[simp] theorem setBlock_tick (s : State) (b : Nat) (k : Block) : (s.setBlock b k).tick = s.tick := rfl
@[simp] theorem setBlock_fresh (s : State) (b : Nat) (k : Block) : (s.setBlock b k).fresh = s.fresh := rfl
@[simp] theorem setBlock_nextId (s : State) (b : Nat) (k : Block) : (s.setBlock b k).nextId = s.nextId := rfl
@[simp] theorem setBlock_cur (s : State) (b : Nat) (k : Block) : (s.setBlock b k).cur = s.cur := rfl
@[simp] theorem setBlock_mem (s : State) (b : Nat) (k : Block) : (s.setBlock b k).mem = s.mem := rfl
@[simp] theorem setBlock_poison (s : State) (b : Nat) (k : Block) : (s.setBlock b k).poison = s.poison := rfl
@[simp] theorem setBlock_dead (s : State) (b : Nat) (k : Block) : (s.setBlock b k).dead = s.dead := rfl
@[simp] theorem setBlock_cores (s : State) (b : Nat) (k : Block) : (s.setBlock b k).cores = s.cores := rfl
@[simp] theorem setBlock_dies (s : State) (b : Nat) (k : Block) : (s.setBlock b k).dies = s.dies := rfl
@[simp] theorem setBlock_clusters (s : State) (b : Nat) (k : Block) : (s.setBlock b k).clusters = s.clusters := rfl
@[simp] theorem setBlock_blocks (s : State) (b : Nat) (k : Block) : (s.setBlock b k).blocks = s.blocks.set b k := rfl
@[simp] theorem setBlock_ops (s : State) (b : Nat) (k : Block) : (s.setBlock b k).ops = s.ops := rfl
@[simp] theorem setBlock_copies (s : State) (b : Nat) (k : Block) : (s.setBlock b k).copies = s.copies := rfl
@[simp] theorem setBlock_ctxs (s : State) (b : Nat) (k : Block) : (s.setBlock b k).ctxs = s.ctxs := rfl
@[simp] theorem setBlock_launches (s : State) (b : Nat) (k : Block) : (s.setBlock b k).launches = s.launches := rfl
@[simp] theorem setBlock_rings (s : State) (b : Nat) (k : Block) : (s.setBlock b k).rings = s.rings := rfl
@[simp] theorem setBlock_cbars (s : State) (b : Nat) (k : Block) : (s.setBlock b k).cbars = s.cbars := rfl
@[simp] theorem setBlock_hub (s : State) (b : Nat) (k : Block) : (s.setBlock b k).hub = s.hub := rfl
@[simp] theorem setBlock_mesh (s : State) (b : Nat) (k : Block) : (s.setBlock b k).mesh = s.mesh := rfl
@[simp] theorem setBlock_caches (s : State) (b : Nat) (k : Block) : (s.setBlock b k).caches = s.caches := rfl
@[simp] theorem setBlock_swm (s : State) (b : Nat) (k : Block) : (s.setBlock b k).swm = s.swm := rfl
@[simp] theorem setBlock_boot (s : State) (b : Nat) (k : Block) : (s.setBlock b k).boot = s.boot := rfl
@[simp] theorem setBlock_deadId (s : State) (b : Nat) (k : Block) : (s.setBlock b k).deadId = s.deadId := rfl
@[simp] theorem setBlock_trace (s : State) (b : Nat) (k : Block) : (s.setBlock b k).trace = s.trace := rfl
@[simp] theorem setBlock_monitors (s : State) (b : Nat) (k : Block) : (s.setBlock b k).monitors = s.monitors := rfl
@[simp] theorem setBlock_swmFrames (s : State) (b : Nat) (k : Block) : (s.setBlock b k).swmFrames = s.swmFrames := rfl
@[simp] theorem setBlock_counters (s : State) (b : Nat) (k : Block) : (s.setBlock b k).counters = s.counters := rfl

/-! ### `onBlock` -/

@[simp] theorem onBlock_agenda (s : State) (b : Nat) (f : Block → Block) : (s.onBlock b f).agenda = s.agenda := rfl
@[simp] theorem onBlock_tick (s : State) (b : Nat) (f : Block → Block) : (s.onBlock b f).tick = s.tick := rfl
@[simp] theorem onBlock_fresh (s : State) (b : Nat) (f : Block → Block) : (s.onBlock b f).fresh = s.fresh := rfl
@[simp] theorem onBlock_nextId (s : State) (b : Nat) (f : Block → Block) : (s.onBlock b f).nextId = s.nextId := rfl
@[simp] theorem onBlock_cur (s : State) (b : Nat) (f : Block → Block) : (s.onBlock b f).cur = s.cur := rfl
@[simp] theorem onBlock_mem (s : State) (b : Nat) (f : Block → Block) : (s.onBlock b f).mem = s.mem := rfl
@[simp] theorem onBlock_poison (s : State) (b : Nat) (f : Block → Block) : (s.onBlock b f).poison = s.poison := rfl
@[simp] theorem onBlock_dead (s : State) (b : Nat) (f : Block → Block) : (s.onBlock b f).dead = s.dead := rfl
@[simp] theorem onBlock_cores (s : State) (b : Nat) (f : Block → Block) : (s.onBlock b f).cores = s.cores := rfl
@[simp] theorem onBlock_dies (s : State) (b : Nat) (f : Block → Block) : (s.onBlock b f).dies = s.dies := rfl
@[simp] theorem onBlock_clusters (s : State) (b : Nat) (f : Block → Block) : (s.onBlock b f).clusters = s.clusters := rfl
@[simp] theorem onBlock_blocks (s : State) (b : Nat) (f : Block → Block) : (s.onBlock b f).blocks = s.blocks.modify b f := rfl
@[simp] theorem onBlock_ops (s : State) (b : Nat) (f : Block → Block) : (s.onBlock b f).ops = s.ops := rfl
@[simp] theorem onBlock_copies (s : State) (b : Nat) (f : Block → Block) : (s.onBlock b f).copies = s.copies := rfl
@[simp] theorem onBlock_ctxs (s : State) (b : Nat) (f : Block → Block) : (s.onBlock b f).ctxs = s.ctxs := rfl
@[simp] theorem onBlock_launches (s : State) (b : Nat) (f : Block → Block) : (s.onBlock b f).launches = s.launches := rfl
@[simp] theorem onBlock_rings (s : State) (b : Nat) (f : Block → Block) : (s.onBlock b f).rings = s.rings := rfl
@[simp] theorem onBlock_cbars (s : State) (b : Nat) (f : Block → Block) : (s.onBlock b f).cbars = s.cbars := rfl
@[simp] theorem onBlock_hub (s : State) (b : Nat) (f : Block → Block) : (s.onBlock b f).hub = s.hub := rfl
@[simp] theorem onBlock_mesh (s : State) (b : Nat) (f : Block → Block) : (s.onBlock b f).mesh = s.mesh := rfl
@[simp] theorem onBlock_caches (s : State) (b : Nat) (f : Block → Block) : (s.onBlock b f).caches = s.caches := rfl
@[simp] theorem onBlock_swm (s : State) (b : Nat) (f : Block → Block) : (s.onBlock b f).swm = s.swm := rfl
@[simp] theorem onBlock_boot (s : State) (b : Nat) (f : Block → Block) : (s.onBlock b f).boot = s.boot := rfl
@[simp] theorem onBlock_deadId (s : State) (b : Nat) (f : Block → Block) : (s.onBlock b f).deadId = s.deadId := rfl
@[simp] theorem onBlock_trace (s : State) (b : Nat) (f : Block → Block) : (s.onBlock b f).trace = s.trace := rfl
@[simp] theorem onBlock_monitors (s : State) (b : Nat) (f : Block → Block) : (s.onBlock b f).monitors = s.monitors := rfl
@[simp] theorem onBlock_swmFrames (s : State) (b : Nat) (f : Block → Block) : (s.onBlock b f).swmFrames = s.swmFrames := rfl
@[simp] theorem onBlock_counters (s : State) (b : Nat) (f : Block → Block) : (s.onBlock b f).counters = s.counters := rfl

/-! ### `setGroup` -/

@[simp] theorem setGroup_agenda (s : State) (b g : Nat) (k : Group) : (s.setGroup b g k).agenda = s.agenda := rfl
@[simp] theorem setGroup_tick (s : State) (b g : Nat) (k : Group) : (s.setGroup b g k).tick = s.tick := rfl
@[simp] theorem setGroup_fresh (s : State) (b g : Nat) (k : Group) : (s.setGroup b g k).fresh = s.fresh := rfl
@[simp] theorem setGroup_nextId (s : State) (b g : Nat) (k : Group) : (s.setGroup b g k).nextId = s.nextId := rfl
@[simp] theorem setGroup_cur (s : State) (b g : Nat) (k : Group) : (s.setGroup b g k).cur = s.cur := rfl
@[simp] theorem setGroup_mem (s : State) (b g : Nat) (k : Group) : (s.setGroup b g k).mem = s.mem := rfl
@[simp] theorem setGroup_poison (s : State) (b g : Nat) (k : Group) : (s.setGroup b g k).poison = s.poison := rfl
@[simp] theorem setGroup_dead (s : State) (b g : Nat) (k : Group) : (s.setGroup b g k).dead = s.dead := rfl
@[simp] theorem setGroup_cores (s : State) (b g : Nat) (k : Group) : (s.setGroup b g k).cores = s.cores := rfl
@[simp] theorem setGroup_dies (s : State) (b g : Nat) (k : Group) : (s.setGroup b g k).dies = s.dies := rfl
@[simp] theorem setGroup_clusters (s : State) (b g : Nat) (k : Group) : (s.setGroup b g k).clusters = s.clusters := rfl
@[simp] theorem setGroup_ops (s : State) (b g : Nat) (k : Group) : (s.setGroup b g k).ops = s.ops := rfl
@[simp] theorem setGroup_copies (s : State) (b g : Nat) (k : Group) : (s.setGroup b g k).copies = s.copies := rfl
@[simp] theorem setGroup_ctxs (s : State) (b g : Nat) (k : Group) : (s.setGroup b g k).ctxs = s.ctxs := rfl
@[simp] theorem setGroup_launches (s : State) (b g : Nat) (k : Group) : (s.setGroup b g k).launches = s.launches := rfl
@[simp] theorem setGroup_rings (s : State) (b g : Nat) (k : Group) : (s.setGroup b g k).rings = s.rings := rfl
@[simp] theorem setGroup_cbars (s : State) (b g : Nat) (k : Group) : (s.setGroup b g k).cbars = s.cbars := rfl
@[simp] theorem setGroup_hub (s : State) (b g : Nat) (k : Group) : (s.setGroup b g k).hub = s.hub := rfl
@[simp] theorem setGroup_mesh (s : State) (b g : Nat) (k : Group) : (s.setGroup b g k).mesh = s.mesh := rfl
@[simp] theorem setGroup_caches (s : State) (b g : Nat) (k : Group) : (s.setGroup b g k).caches = s.caches := rfl
@[simp] theorem setGroup_swm (s : State) (b g : Nat) (k : Group) : (s.setGroup b g k).swm = s.swm := rfl
@[simp] theorem setGroup_boot (s : State) (b g : Nat) (k : Group) : (s.setGroup b g k).boot = s.boot := rfl
@[simp] theorem setGroup_deadId (s : State) (b g : Nat) (k : Group) : (s.setGroup b g k).deadId = s.deadId := rfl
@[simp] theorem setGroup_trace (s : State) (b g : Nat) (k : Group) : (s.setGroup b g k).trace = s.trace := rfl
@[simp] theorem setGroup_monitors (s : State) (b g : Nat) (k : Group) : (s.setGroup b g k).monitors = s.monitors := rfl
@[simp] theorem setGroup_swmFrames (s : State) (b g : Nat) (k : Group) : (s.setGroup b g k).swmFrames = s.swmFrames := rfl
@[simp] theorem setGroup_counters (s : State) (b g : Nat) (k : Group) : (s.setGroup b g k).counters = s.counters := rfl

/-! ### `onGroup` -/

@[simp] theorem onGroup_agenda (s : State) (b g : Nat) (f : Group → Group) : (s.onGroup b g f).agenda = s.agenda := rfl
@[simp] theorem onGroup_tick (s : State) (b g : Nat) (f : Group → Group) : (s.onGroup b g f).tick = s.tick := rfl
@[simp] theorem onGroup_fresh (s : State) (b g : Nat) (f : Group → Group) : (s.onGroup b g f).fresh = s.fresh := rfl
@[simp] theorem onGroup_nextId (s : State) (b g : Nat) (f : Group → Group) : (s.onGroup b g f).nextId = s.nextId := rfl
@[simp] theorem onGroup_cur (s : State) (b g : Nat) (f : Group → Group) : (s.onGroup b g f).cur = s.cur := rfl
@[simp] theorem onGroup_mem (s : State) (b g : Nat) (f : Group → Group) : (s.onGroup b g f).mem = s.mem := rfl
@[simp] theorem onGroup_poison (s : State) (b g : Nat) (f : Group → Group) : (s.onGroup b g f).poison = s.poison := rfl
@[simp] theorem onGroup_dead (s : State) (b g : Nat) (f : Group → Group) : (s.onGroup b g f).dead = s.dead := rfl
@[simp] theorem onGroup_cores (s : State) (b g : Nat) (f : Group → Group) : (s.onGroup b g f).cores = s.cores := rfl
@[simp] theorem onGroup_dies (s : State) (b g : Nat) (f : Group → Group) : (s.onGroup b g f).dies = s.dies := rfl
@[simp] theorem onGroup_clusters (s : State) (b g : Nat) (f : Group → Group) : (s.onGroup b g f).clusters = s.clusters := rfl
@[simp] theorem onGroup_ops (s : State) (b g : Nat) (f : Group → Group) : (s.onGroup b g f).ops = s.ops := rfl
@[simp] theorem onGroup_copies (s : State) (b g : Nat) (f : Group → Group) : (s.onGroup b g f).copies = s.copies := rfl
@[simp] theorem onGroup_ctxs (s : State) (b g : Nat) (f : Group → Group) : (s.onGroup b g f).ctxs = s.ctxs := rfl
@[simp] theorem onGroup_launches (s : State) (b g : Nat) (f : Group → Group) : (s.onGroup b g f).launches = s.launches := rfl
@[simp] theorem onGroup_rings (s : State) (b g : Nat) (f : Group → Group) : (s.onGroup b g f).rings = s.rings := rfl
@[simp] theorem onGroup_cbars (s : State) (b g : Nat) (f : Group → Group) : (s.onGroup b g f).cbars = s.cbars := rfl
@[simp] theorem onGroup_hub (s : State) (b g : Nat) (f : Group → Group) : (s.onGroup b g f).hub = s.hub := rfl
@[simp] theorem onGroup_mesh (s : State) (b g : Nat) (f : Group → Group) : (s.onGroup b g f).mesh = s.mesh := rfl
@[simp] theorem onGroup_caches (s : State) (b g : Nat) (f : Group → Group) : (s.onGroup b g f).caches = s.caches := rfl
@[simp] theorem onGroup_swm (s : State) (b g : Nat) (f : Group → Group) : (s.onGroup b g f).swm = s.swm := rfl
@[simp] theorem onGroup_boot (s : State) (b g : Nat) (f : Group → Group) : (s.onGroup b g f).boot = s.boot := rfl
@[simp] theorem onGroup_deadId (s : State) (b g : Nat) (f : Group → Group) : (s.onGroup b g f).deadId = s.deadId := rfl
@[simp] theorem onGroup_trace (s : State) (b g : Nat) (f : Group → Group) : (s.onGroup b g f).trace = s.trace := rfl
@[simp] theorem onGroup_monitors (s : State) (b g : Nat) (f : Group → Group) : (s.onGroup b g f).monitors = s.monitors := rfl
@[simp] theorem onGroup_swmFrames (s : State) (b g : Nat) (f : Group → Group) : (s.onGroup b g f).swmFrames = s.swmFrames := rfl
@[simp] theorem onGroup_counters (s : State) (b g : Nat) (f : Group → Group) : (s.onGroup b g f).counters = s.counters := rfl

/-! ### `onLanes` -/

@[simp] theorem onLanes_agenda (s : State) (b g : Nat) (m : DWord) (f : Nat → Lane → Lane) : (s.onLanes b g m f).agenda = s.agenda := rfl
@[simp] theorem onLanes_tick (s : State) (b g : Nat) (m : DWord) (f : Nat → Lane → Lane) : (s.onLanes b g m f).tick = s.tick := rfl
@[simp] theorem onLanes_fresh (s : State) (b g : Nat) (m : DWord) (f : Nat → Lane → Lane) : (s.onLanes b g m f).fresh = s.fresh := rfl
@[simp] theorem onLanes_nextId (s : State) (b g : Nat) (m : DWord) (f : Nat → Lane → Lane) : (s.onLanes b g m f).nextId = s.nextId := rfl
@[simp] theorem onLanes_cur (s : State) (b g : Nat) (m : DWord) (f : Nat → Lane → Lane) : (s.onLanes b g m f).cur = s.cur := rfl
@[simp] theorem onLanes_mem (s : State) (b g : Nat) (m : DWord) (f : Nat → Lane → Lane) : (s.onLanes b g m f).mem = s.mem := rfl
@[simp] theorem onLanes_poison (s : State) (b g : Nat) (m : DWord) (f : Nat → Lane → Lane) : (s.onLanes b g m f).poison = s.poison := rfl
@[simp] theorem onLanes_dead (s : State) (b g : Nat) (m : DWord) (f : Nat → Lane → Lane) : (s.onLanes b g m f).dead = s.dead := rfl
@[simp] theorem onLanes_cores (s : State) (b g : Nat) (m : DWord) (f : Nat → Lane → Lane) : (s.onLanes b g m f).cores = s.cores := rfl
@[simp] theorem onLanes_dies (s : State) (b g : Nat) (m : DWord) (f : Nat → Lane → Lane) : (s.onLanes b g m f).dies = s.dies := rfl
@[simp] theorem onLanes_clusters (s : State) (b g : Nat) (m : DWord) (f : Nat → Lane → Lane) : (s.onLanes b g m f).clusters = s.clusters := rfl
@[simp] theorem onLanes_ops (s : State) (b g : Nat) (m : DWord) (f : Nat → Lane → Lane) : (s.onLanes b g m f).ops = s.ops := rfl
@[simp] theorem onLanes_copies (s : State) (b g : Nat) (m : DWord) (f : Nat → Lane → Lane) : (s.onLanes b g m f).copies = s.copies := rfl
@[simp] theorem onLanes_ctxs (s : State) (b g : Nat) (m : DWord) (f : Nat → Lane → Lane) : (s.onLanes b g m f).ctxs = s.ctxs := rfl
@[simp] theorem onLanes_launches (s : State) (b g : Nat) (m : DWord) (f : Nat → Lane → Lane) : (s.onLanes b g m f).launches = s.launches := rfl
@[simp] theorem onLanes_rings (s : State) (b g : Nat) (m : DWord) (f : Nat → Lane → Lane) : (s.onLanes b g m f).rings = s.rings := rfl
@[simp] theorem onLanes_cbars (s : State) (b g : Nat) (m : DWord) (f : Nat → Lane → Lane) : (s.onLanes b g m f).cbars = s.cbars := rfl
@[simp] theorem onLanes_hub (s : State) (b g : Nat) (m : DWord) (f : Nat → Lane → Lane) : (s.onLanes b g m f).hub = s.hub := rfl
@[simp] theorem onLanes_mesh (s : State) (b g : Nat) (m : DWord) (f : Nat → Lane → Lane) : (s.onLanes b g m f).mesh = s.mesh := rfl
@[simp] theorem onLanes_caches (s : State) (b g : Nat) (m : DWord) (f : Nat → Lane → Lane) : (s.onLanes b g m f).caches = s.caches := rfl
@[simp] theorem onLanes_swm (s : State) (b g : Nat) (m : DWord) (f : Nat → Lane → Lane) : (s.onLanes b g m f).swm = s.swm := rfl
@[simp] theorem onLanes_boot (s : State) (b g : Nat) (m : DWord) (f : Nat → Lane → Lane) : (s.onLanes b g m f).boot = s.boot := rfl
@[simp] theorem onLanes_deadId (s : State) (b g : Nat) (m : DWord) (f : Nat → Lane → Lane) : (s.onLanes b g m f).deadId = s.deadId := rfl
@[simp] theorem onLanes_trace (s : State) (b g : Nat) (m : DWord) (f : Nat → Lane → Lane) : (s.onLanes b g m f).trace = s.trace := rfl
@[simp] theorem onLanes_monitors (s : State) (b g : Nat) (m : DWord) (f : Nat → Lane → Lane) : (s.onLanes b g m f).monitors = s.monitors := rfl
@[simp] theorem onLanes_swmFrames (s : State) (b g : Nat) (m : DWord) (f : Nat → Lane → Lane) : (s.onLanes b g m f).swmFrames = s.swmFrames := rfl
@[simp] theorem onLanes_counters (s : State) (b g : Nat) (m : DWord) (f : Nat → Lane → Lane) : (s.onLanes b g m f).counters = s.counters := rfl

/-! ### `onExec` -/

@[simp] theorem onExec_agenda (s : State) (m : DWord) (f : Nat → Lane → Lane) : (s.onExec m f).agenda = s.agenda := rfl
@[simp] theorem onExec_tick (s : State) (m : DWord) (f : Nat → Lane → Lane) : (s.onExec m f).tick = s.tick := rfl
@[simp] theorem onExec_fresh (s : State) (m : DWord) (f : Nat → Lane → Lane) : (s.onExec m f).fresh = s.fresh := rfl
@[simp] theorem onExec_nextId (s : State) (m : DWord) (f : Nat → Lane → Lane) : (s.onExec m f).nextId = s.nextId := rfl
@[simp] theorem onExec_cur (s : State) (m : DWord) (f : Nat → Lane → Lane) : (s.onExec m f).cur = s.cur := rfl
@[simp] theorem onExec_mem (s : State) (m : DWord) (f : Nat → Lane → Lane) : (s.onExec m f).mem = s.mem := rfl
@[simp] theorem onExec_poison (s : State) (m : DWord) (f : Nat → Lane → Lane) : (s.onExec m f).poison = s.poison := rfl
@[simp] theorem onExec_dead (s : State) (m : DWord) (f : Nat → Lane → Lane) : (s.onExec m f).dead = s.dead := rfl
@[simp] theorem onExec_cores (s : State) (m : DWord) (f : Nat → Lane → Lane) : (s.onExec m f).cores = s.cores := rfl
@[simp] theorem onExec_dies (s : State) (m : DWord) (f : Nat → Lane → Lane) : (s.onExec m f).dies = s.dies := rfl
@[simp] theorem onExec_clusters (s : State) (m : DWord) (f : Nat → Lane → Lane) : (s.onExec m f).clusters = s.clusters := rfl
@[simp] theorem onExec_ops (s : State) (m : DWord) (f : Nat → Lane → Lane) : (s.onExec m f).ops = s.ops := rfl
@[simp] theorem onExec_copies (s : State) (m : DWord) (f : Nat → Lane → Lane) : (s.onExec m f).copies = s.copies := rfl
@[simp] theorem onExec_ctxs (s : State) (m : DWord) (f : Nat → Lane → Lane) : (s.onExec m f).ctxs = s.ctxs := rfl
@[simp] theorem onExec_launches (s : State) (m : DWord) (f : Nat → Lane → Lane) : (s.onExec m f).launches = s.launches := rfl
@[simp] theorem onExec_rings (s : State) (m : DWord) (f : Nat → Lane → Lane) : (s.onExec m f).rings = s.rings := rfl
@[simp] theorem onExec_cbars (s : State) (m : DWord) (f : Nat → Lane → Lane) : (s.onExec m f).cbars = s.cbars := rfl
@[simp] theorem onExec_hub (s : State) (m : DWord) (f : Nat → Lane → Lane) : (s.onExec m f).hub = s.hub := rfl
@[simp] theorem onExec_mesh (s : State) (m : DWord) (f : Nat → Lane → Lane) : (s.onExec m f).mesh = s.mesh := rfl
@[simp] theorem onExec_caches (s : State) (m : DWord) (f : Nat → Lane → Lane) : (s.onExec m f).caches = s.caches := rfl
@[simp] theorem onExec_swm (s : State) (m : DWord) (f : Nat → Lane → Lane) : (s.onExec m f).swm = s.swm := rfl
@[simp] theorem onExec_boot (s : State) (m : DWord) (f : Nat → Lane → Lane) : (s.onExec m f).boot = s.boot := rfl
@[simp] theorem onExec_deadId (s : State) (m : DWord) (f : Nat → Lane → Lane) : (s.onExec m f).deadId = s.deadId := rfl
@[simp] theorem onExec_trace (s : State) (m : DWord) (f : Nat → Lane → Lane) : (s.onExec m f).trace = s.trace := rfl
@[simp] theorem onExec_monitors (s : State) (m : DWord) (f : Nat → Lane → Lane) : (s.onExec m f).monitors = s.monitors := rfl
@[simp] theorem onExec_swmFrames (s : State) (m : DWord) (f : Nat → Lane → Lane) : (s.onExec m f).swmFrames = s.swmFrames := rfl
@[simp] theorem onExec_counters (s : State) (m : DWord) (f : Nat → Lane → Lane) : (s.onExec m f).counters = s.counters := rfl

/-! ### `advance` -/

@[simp] theorem advance_agenda (s : State) (m : DWord) (n : Nat) : (s.advance m n).agenda = s.agenda := rfl
@[simp] theorem advance_tick (s : State) (m : DWord) (n : Nat) : (s.advance m n).tick = s.tick := rfl
@[simp] theorem advance_fresh (s : State) (m : DWord) (n : Nat) : (s.advance m n).fresh = s.fresh := rfl
@[simp] theorem advance_nextId (s : State) (m : DWord) (n : Nat) : (s.advance m n).nextId = s.nextId := rfl
@[simp] theorem advance_cur (s : State) (m : DWord) (n : Nat) : (s.advance m n).cur = s.cur := rfl
@[simp] theorem advance_mem (s : State) (m : DWord) (n : Nat) : (s.advance m n).mem = s.mem := rfl
@[simp] theorem advance_poison (s : State) (m : DWord) (n : Nat) : (s.advance m n).poison = s.poison := rfl
@[simp] theorem advance_dead (s : State) (m : DWord) (n : Nat) : (s.advance m n).dead = s.dead := rfl
@[simp] theorem advance_cores (s : State) (m : DWord) (n : Nat) : (s.advance m n).cores = s.cores := rfl
@[simp] theorem advance_dies (s : State) (m : DWord) (n : Nat) : (s.advance m n).dies = s.dies := rfl
@[simp] theorem advance_clusters (s : State) (m : DWord) (n : Nat) : (s.advance m n).clusters = s.clusters := rfl
@[simp] theorem advance_ops (s : State) (m : DWord) (n : Nat) : (s.advance m n).ops = s.ops := rfl
@[simp] theorem advance_copies (s : State) (m : DWord) (n : Nat) : (s.advance m n).copies = s.copies := rfl
@[simp] theorem advance_ctxs (s : State) (m : DWord) (n : Nat) : (s.advance m n).ctxs = s.ctxs := rfl
@[simp] theorem advance_launches (s : State) (m : DWord) (n : Nat) : (s.advance m n).launches = s.launches := rfl
@[simp] theorem advance_rings (s : State) (m : DWord) (n : Nat) : (s.advance m n).rings = s.rings := rfl
@[simp] theorem advance_cbars (s : State) (m : DWord) (n : Nat) : (s.advance m n).cbars = s.cbars := rfl
@[simp] theorem advance_hub (s : State) (m : DWord) (n : Nat) : (s.advance m n).hub = s.hub := rfl
@[simp] theorem advance_mesh (s : State) (m : DWord) (n : Nat) : (s.advance m n).mesh = s.mesh := rfl
@[simp] theorem advance_caches (s : State) (m : DWord) (n : Nat) : (s.advance m n).caches = s.caches := rfl
@[simp] theorem advance_swm (s : State) (m : DWord) (n : Nat) : (s.advance m n).swm = s.swm := rfl
@[simp] theorem advance_boot (s : State) (m : DWord) (n : Nat) : (s.advance m n).boot = s.boot := rfl
@[simp] theorem advance_deadId (s : State) (m : DWord) (n : Nat) : (s.advance m n).deadId = s.deadId := rfl
@[simp] theorem advance_trace (s : State) (m : DWord) (n : Nat) : (s.advance m n).trace = s.trace := rfl
@[simp] theorem advance_monitors (s : State) (m : DWord) (n : Nat) : (s.advance m n).monitors = s.monitors := rfl
@[simp] theorem advance_swmFrames (s : State) (m : DWord) (n : Nat) : (s.advance m n).swmFrames = s.swmFrames := rfl
@[simp] theorem advance_counters (s : State) (m : DWord) (n : Nat) : (s.advance m n).counters = s.counters := rfl

/-! ### `putU` -/

@[simp] theorem putU_agenda (s : State) (r w : Nat) (x : DWord) : (s.putU r w x).agenda = s.agenda := rfl
@[simp] theorem putU_tick (s : State) (r w : Nat) (x : DWord) : (s.putU r w x).tick = s.tick := rfl
@[simp] theorem putU_fresh (s : State) (r w : Nat) (x : DWord) : (s.putU r w x).fresh = s.fresh := rfl
@[simp] theorem putU_nextId (s : State) (r w : Nat) (x : DWord) : (s.putU r w x).nextId = s.nextId := rfl
@[simp] theorem putU_cur (s : State) (r w : Nat) (x : DWord) : (s.putU r w x).cur = s.cur := rfl
@[simp] theorem putU_mem (s : State) (r w : Nat) (x : DWord) : (s.putU r w x).mem = s.mem := rfl
@[simp] theorem putU_poison (s : State) (r w : Nat) (x : DWord) : (s.putU r w x).poison = s.poison := rfl
@[simp] theorem putU_dead (s : State) (r w : Nat) (x : DWord) : (s.putU r w x).dead = s.dead := rfl
@[simp] theorem putU_cores (s : State) (r w : Nat) (x : DWord) : (s.putU r w x).cores = s.cores := rfl
@[simp] theorem putU_dies (s : State) (r w : Nat) (x : DWord) : (s.putU r w x).dies = s.dies := rfl
@[simp] theorem putU_clusters (s : State) (r w : Nat) (x : DWord) : (s.putU r w x).clusters = s.clusters := rfl
@[simp] theorem putU_ops (s : State) (r w : Nat) (x : DWord) : (s.putU r w x).ops = s.ops := rfl
@[simp] theorem putU_copies (s : State) (r w : Nat) (x : DWord) : (s.putU r w x).copies = s.copies := rfl
@[simp] theorem putU_ctxs (s : State) (r w : Nat) (x : DWord) : (s.putU r w x).ctxs = s.ctxs := rfl
@[simp] theorem putU_launches (s : State) (r w : Nat) (x : DWord) : (s.putU r w x).launches = s.launches := rfl
@[simp] theorem putU_rings (s : State) (r w : Nat) (x : DWord) : (s.putU r w x).rings = s.rings := rfl
@[simp] theorem putU_cbars (s : State) (r w : Nat) (x : DWord) : (s.putU r w x).cbars = s.cbars := rfl
@[simp] theorem putU_hub (s : State) (r w : Nat) (x : DWord) : (s.putU r w x).hub = s.hub := rfl
@[simp] theorem putU_mesh (s : State) (r w : Nat) (x : DWord) : (s.putU r w x).mesh = s.mesh := rfl
@[simp] theorem putU_caches (s : State) (r w : Nat) (x : DWord) : (s.putU r w x).caches = s.caches := rfl
@[simp] theorem putU_swm (s : State) (r w : Nat) (x : DWord) : (s.putU r w x).swm = s.swm := rfl
@[simp] theorem putU_boot (s : State) (r w : Nat) (x : DWord) : (s.putU r w x).boot = s.boot := rfl
@[simp] theorem putU_deadId (s : State) (r w : Nat) (x : DWord) : (s.putU r w x).deadId = s.deadId := rfl
@[simp] theorem putU_trace (s : State) (r w : Nat) (x : DWord) : (s.putU r w x).trace = s.trace := rfl
@[simp] theorem putU_monitors (s : State) (r w : Nat) (x : DWord) : (s.putU r w x).monitors = s.monitors := rfl
@[simp] theorem putU_swmFrames (s : State) (r w : Nat) (x : DWord) : (s.putU r w x).swmFrames = s.swmFrames := rfl
@[simp] theorem putU_counters (s : State) (r w : Nat) (x : DWord) : (s.putU r w x).counters = s.counters := rfl

/-! ### `setCtx` -/

@[simp] theorem setCtx_agenda (s : State) (a : Nat) (k : Ctx) : (s.setCtx a k).agenda = s.agenda := rfl
@[simp] theorem setCtx_tick (s : State) (a : Nat) (k : Ctx) : (s.setCtx a k).tick = s.tick := rfl
@[simp] theorem setCtx_fresh (s : State) (a : Nat) (k : Ctx) : (s.setCtx a k).fresh = s.fresh := rfl
@[simp] theorem setCtx_nextId (s : State) (a : Nat) (k : Ctx) : (s.setCtx a k).nextId = s.nextId := rfl
@[simp] theorem setCtx_cur (s : State) (a : Nat) (k : Ctx) : (s.setCtx a k).cur = s.cur := rfl
@[simp] theorem setCtx_mem (s : State) (a : Nat) (k : Ctx) : (s.setCtx a k).mem = s.mem := rfl
@[simp] theorem setCtx_poison (s : State) (a : Nat) (k : Ctx) : (s.setCtx a k).poison = s.poison := rfl
@[simp] theorem setCtx_dead (s : State) (a : Nat) (k : Ctx) : (s.setCtx a k).dead = s.dead := rfl
@[simp] theorem setCtx_cores (s : State) (a : Nat) (k : Ctx) : (s.setCtx a k).cores = s.cores := rfl
@[simp] theorem setCtx_dies (s : State) (a : Nat) (k : Ctx) : (s.setCtx a k).dies = s.dies := rfl
@[simp] theorem setCtx_clusters (s : State) (a : Nat) (k : Ctx) : (s.setCtx a k).clusters = s.clusters := rfl
@[simp] theorem setCtx_blocks (s : State) (a : Nat) (k : Ctx) : (s.setCtx a k).blocks = s.blocks := rfl
@[simp] theorem setCtx_ops (s : State) (a : Nat) (k : Ctx) : (s.setCtx a k).ops = s.ops := rfl
@[simp] theorem setCtx_copies (s : State) (a : Nat) (k : Ctx) : (s.setCtx a k).copies = s.copies := rfl
@[simp] theorem setCtx_ctxs (s : State) (a : Nat) (k : Ctx) : (s.setCtx a k).ctxs = s.ctxs.set a k := rfl
@[simp] theorem setCtx_launches (s : State) (a : Nat) (k : Ctx) : (s.setCtx a k).launches = s.launches := rfl
@[simp] theorem setCtx_rings (s : State) (a : Nat) (k : Ctx) : (s.setCtx a k).rings = s.rings := rfl
@[simp] theorem setCtx_cbars (s : State) (a : Nat) (k : Ctx) : (s.setCtx a k).cbars = s.cbars := rfl
@[simp] theorem setCtx_hub (s : State) (a : Nat) (k : Ctx) : (s.setCtx a k).hub = s.hub := rfl
@[simp] theorem setCtx_mesh (s : State) (a : Nat) (k : Ctx) : (s.setCtx a k).mesh = s.mesh := rfl
@[simp] theorem setCtx_caches (s : State) (a : Nat) (k : Ctx) : (s.setCtx a k).caches = s.caches := rfl
@[simp] theorem setCtx_swm (s : State) (a : Nat) (k : Ctx) : (s.setCtx a k).swm = s.swm := rfl
@[simp] theorem setCtx_boot (s : State) (a : Nat) (k : Ctx) : (s.setCtx a k).boot = s.boot := rfl
@[simp] theorem setCtx_deadId (s : State) (a : Nat) (k : Ctx) : (s.setCtx a k).deadId = s.deadId := rfl
@[simp] theorem setCtx_trace (s : State) (a : Nat) (k : Ctx) : (s.setCtx a k).trace = s.trace := rfl
@[simp] theorem setCtx_monitors (s : State) (a : Nat) (k : Ctx) : (s.setCtx a k).monitors = s.monitors := rfl
@[simp] theorem setCtx_swmFrames (s : State) (a : Nat) (k : Ctx) : (s.setCtx a k).swmFrames = s.swmFrames := rfl
@[simp] theorem setCtx_counters (s : State) (a : Nat) (k : Ctx) : (s.setCtx a k).counters = s.counters := rfl

/-! ### `onCtx` -/

@[simp] theorem onCtx_agenda (s : State) (a : Nat) (f : Ctx → Ctx) : (s.onCtx a f).agenda = s.agenda := rfl
@[simp] theorem onCtx_tick (s : State) (a : Nat) (f : Ctx → Ctx) : (s.onCtx a f).tick = s.tick := rfl
@[simp] theorem onCtx_fresh (s : State) (a : Nat) (f : Ctx → Ctx) : (s.onCtx a f).fresh = s.fresh := rfl
@[simp] theorem onCtx_nextId (s : State) (a : Nat) (f : Ctx → Ctx) : (s.onCtx a f).nextId = s.nextId := rfl
@[simp] theorem onCtx_cur (s : State) (a : Nat) (f : Ctx → Ctx) : (s.onCtx a f).cur = s.cur := rfl
@[simp] theorem onCtx_mem (s : State) (a : Nat) (f : Ctx → Ctx) : (s.onCtx a f).mem = s.mem := rfl
@[simp] theorem onCtx_poison (s : State) (a : Nat) (f : Ctx → Ctx) : (s.onCtx a f).poison = s.poison := rfl
@[simp] theorem onCtx_dead (s : State) (a : Nat) (f : Ctx → Ctx) : (s.onCtx a f).dead = s.dead := rfl
@[simp] theorem onCtx_cores (s : State) (a : Nat) (f : Ctx → Ctx) : (s.onCtx a f).cores = s.cores := rfl
@[simp] theorem onCtx_dies (s : State) (a : Nat) (f : Ctx → Ctx) : (s.onCtx a f).dies = s.dies := rfl
@[simp] theorem onCtx_clusters (s : State) (a : Nat) (f : Ctx → Ctx) : (s.onCtx a f).clusters = s.clusters := rfl
@[simp] theorem onCtx_blocks (s : State) (a : Nat) (f : Ctx → Ctx) : (s.onCtx a f).blocks = s.blocks := rfl
@[simp] theorem onCtx_ops (s : State) (a : Nat) (f : Ctx → Ctx) : (s.onCtx a f).ops = s.ops := rfl
@[simp] theorem onCtx_copies (s : State) (a : Nat) (f : Ctx → Ctx) : (s.onCtx a f).copies = s.copies := rfl
@[simp] theorem onCtx_ctxs (s : State) (a : Nat) (f : Ctx → Ctx) : (s.onCtx a f).ctxs = s.ctxs.modify a f := rfl
@[simp] theorem onCtx_launches (s : State) (a : Nat) (f : Ctx → Ctx) : (s.onCtx a f).launches = s.launches := rfl
@[simp] theorem onCtx_rings (s : State) (a : Nat) (f : Ctx → Ctx) : (s.onCtx a f).rings = s.rings := rfl
@[simp] theorem onCtx_cbars (s : State) (a : Nat) (f : Ctx → Ctx) : (s.onCtx a f).cbars = s.cbars := rfl
@[simp] theorem onCtx_hub (s : State) (a : Nat) (f : Ctx → Ctx) : (s.onCtx a f).hub = s.hub := rfl
@[simp] theorem onCtx_mesh (s : State) (a : Nat) (f : Ctx → Ctx) : (s.onCtx a f).mesh = s.mesh := rfl
@[simp] theorem onCtx_caches (s : State) (a : Nat) (f : Ctx → Ctx) : (s.onCtx a f).caches = s.caches := rfl
@[simp] theorem onCtx_swm (s : State) (a : Nat) (f : Ctx → Ctx) : (s.onCtx a f).swm = s.swm := rfl
@[simp] theorem onCtx_boot (s : State) (a : Nat) (f : Ctx → Ctx) : (s.onCtx a f).boot = s.boot := rfl
@[simp] theorem onCtx_deadId (s : State) (a : Nat) (f : Ctx → Ctx) : (s.onCtx a f).deadId = s.deadId := rfl
@[simp] theorem onCtx_trace (s : State) (a : Nat) (f : Ctx → Ctx) : (s.onCtx a f).trace = s.trace := rfl
@[simp] theorem onCtx_monitors (s : State) (a : Nat) (f : Ctx → Ctx) : (s.onCtx a f).monitors = s.monitors := rfl
@[simp] theorem onCtx_swmFrames (s : State) (a : Nat) (f : Ctx → Ctx) : (s.onCtx a f).swmFrames = s.swmFrames := rfl
@[simp] theorem onCtx_counters (s : State) (a : Nat) (f : Ctx → Ctx) : (s.onCtx a f).counters = s.counters := rfl

/-! ### `onLaunch` -/

@[simp] theorem onLaunch_agenda (s : State) (l : Nat) (f : Launch → Launch) : (s.onLaunch l f).agenda = s.agenda := rfl
@[simp] theorem onLaunch_tick (s : State) (l : Nat) (f : Launch → Launch) : (s.onLaunch l f).tick = s.tick := rfl
@[simp] theorem onLaunch_fresh (s : State) (l : Nat) (f : Launch → Launch) : (s.onLaunch l f).fresh = s.fresh := rfl
@[simp] theorem onLaunch_nextId (s : State) (l : Nat) (f : Launch → Launch) : (s.onLaunch l f).nextId = s.nextId := rfl
@[simp] theorem onLaunch_cur (s : State) (l : Nat) (f : Launch → Launch) : (s.onLaunch l f).cur = s.cur := rfl
@[simp] theorem onLaunch_mem (s : State) (l : Nat) (f : Launch → Launch) : (s.onLaunch l f).mem = s.mem := rfl
@[simp] theorem onLaunch_poison (s : State) (l : Nat) (f : Launch → Launch) : (s.onLaunch l f).poison = s.poison := rfl
@[simp] theorem onLaunch_dead (s : State) (l : Nat) (f : Launch → Launch) : (s.onLaunch l f).dead = s.dead := rfl
@[simp] theorem onLaunch_cores (s : State) (l : Nat) (f : Launch → Launch) : (s.onLaunch l f).cores = s.cores := rfl
@[simp] theorem onLaunch_dies (s : State) (l : Nat) (f : Launch → Launch) : (s.onLaunch l f).dies = s.dies := rfl
@[simp] theorem onLaunch_clusters (s : State) (l : Nat) (f : Launch → Launch) : (s.onLaunch l f).clusters = s.clusters := rfl
@[simp] theorem onLaunch_blocks (s : State) (l : Nat) (f : Launch → Launch) : (s.onLaunch l f).blocks = s.blocks := rfl
@[simp] theorem onLaunch_ops (s : State) (l : Nat) (f : Launch → Launch) : (s.onLaunch l f).ops = s.ops := rfl
@[simp] theorem onLaunch_copies (s : State) (l : Nat) (f : Launch → Launch) : (s.onLaunch l f).copies = s.copies := rfl
@[simp] theorem onLaunch_ctxs (s : State) (l : Nat) (f : Launch → Launch) : (s.onLaunch l f).ctxs = s.ctxs := rfl
@[simp] theorem onLaunch_launches (s : State) (l : Nat) (f : Launch → Launch) : (s.onLaunch l f).launches = s.launches.modify l f := rfl
@[simp] theorem onLaunch_rings (s : State) (l : Nat) (f : Launch → Launch) : (s.onLaunch l f).rings = s.rings := rfl
@[simp] theorem onLaunch_cbars (s : State) (l : Nat) (f : Launch → Launch) : (s.onLaunch l f).cbars = s.cbars := rfl
@[simp] theorem onLaunch_hub (s : State) (l : Nat) (f : Launch → Launch) : (s.onLaunch l f).hub = s.hub := rfl
@[simp] theorem onLaunch_mesh (s : State) (l : Nat) (f : Launch → Launch) : (s.onLaunch l f).mesh = s.mesh := rfl
@[simp] theorem onLaunch_caches (s : State) (l : Nat) (f : Launch → Launch) : (s.onLaunch l f).caches = s.caches := rfl
@[simp] theorem onLaunch_swm (s : State) (l : Nat) (f : Launch → Launch) : (s.onLaunch l f).swm = s.swm := rfl
@[simp] theorem onLaunch_boot (s : State) (l : Nat) (f : Launch → Launch) : (s.onLaunch l f).boot = s.boot := rfl
@[simp] theorem onLaunch_deadId (s : State) (l : Nat) (f : Launch → Launch) : (s.onLaunch l f).deadId = s.deadId := rfl
@[simp] theorem onLaunch_trace (s : State) (l : Nat) (f : Launch → Launch) : (s.onLaunch l f).trace = s.trace := rfl
@[simp] theorem onLaunch_monitors (s : State) (l : Nat) (f : Launch → Launch) : (s.onLaunch l f).monitors = s.monitors := rfl
@[simp] theorem onLaunch_swmFrames (s : State) (l : Nat) (f : Launch → Launch) : (s.onLaunch l f).swmFrames = s.swmFrames := rfl
@[simp] theorem onLaunch_counters (s : State) (l : Nat) (f : Launch → Launch) : (s.onLaunch l f).counters = s.counters := rfl

/-! ### `count` -/

@[simp] theorem count_agenda (s : State) (d e n : Nat) : (s.count d e n).agenda = s.agenda := rfl
@[simp] theorem count_tick (s : State) (d e n : Nat) : (s.count d e n).tick = s.tick := rfl
@[simp] theorem count_fresh (s : State) (d e n : Nat) : (s.count d e n).fresh = s.fresh := rfl
@[simp] theorem count_nextId (s : State) (d e n : Nat) : (s.count d e n).nextId = s.nextId := rfl
@[simp] theorem count_cur (s : State) (d e n : Nat) : (s.count d e n).cur = s.cur := rfl
@[simp] theorem count_mem (s : State) (d e n : Nat) : (s.count d e n).mem = s.mem := rfl
@[simp] theorem count_poison (s : State) (d e n : Nat) : (s.count d e n).poison = s.poison := rfl
@[simp] theorem count_dead (s : State) (d e n : Nat) : (s.count d e n).dead = s.dead := rfl
@[simp] theorem count_cores (s : State) (d e n : Nat) : (s.count d e n).cores = s.cores := rfl
@[simp] theorem count_dies (s : State) (d e n : Nat) : (s.count d e n).dies = s.dies := rfl
@[simp] theorem count_clusters (s : State) (d e n : Nat) : (s.count d e n).clusters = s.clusters := rfl
@[simp] theorem count_blocks (s : State) (d e n : Nat) : (s.count d e n).blocks = s.blocks := rfl
@[simp] theorem count_ops (s : State) (d e n : Nat) : (s.count d e n).ops = s.ops := rfl
@[simp] theorem count_copies (s : State) (d e n : Nat) : (s.count d e n).copies = s.copies := rfl
@[simp] theorem count_ctxs (s : State) (d e n : Nat) : (s.count d e n).ctxs = s.ctxs := rfl
@[simp] theorem count_launches (s : State) (d e n : Nat) : (s.count d e n).launches = s.launches := rfl
@[simp] theorem count_rings (s : State) (d e n : Nat) : (s.count d e n).rings = s.rings := rfl
@[simp] theorem count_cbars (s : State) (d e n : Nat) : (s.count d e n).cbars = s.cbars := rfl
@[simp] theorem count_hub (s : State) (d e n : Nat) : (s.count d e n).hub = s.hub := rfl
@[simp] theorem count_mesh (s : State) (d e n : Nat) : (s.count d e n).mesh = s.mesh := rfl
@[simp] theorem count_caches (s : State) (d e n : Nat) : (s.count d e n).caches = s.caches := rfl
@[simp] theorem count_swm (s : State) (d e n : Nat) : (s.count d e n).swm = s.swm := rfl
@[simp] theorem count_boot (s : State) (d e n : Nat) : (s.count d e n).boot = s.boot := rfl
@[simp] theorem count_deadId (s : State) (d e n : Nat) : (s.count d e n).deadId = s.deadId := rfl
@[simp] theorem count_trace (s : State) (d e n : Nat) : (s.count d e n).trace = s.trace := rfl
@[simp] theorem count_monitors (s : State) (d e n : Nat) : (s.count d e n).monitors = s.monitors := rfl
@[simp] theorem count_swmFrames (s : State) (d e n : Nat) : (s.count d e n).swmFrames = s.swmFrames := rfl
@[simp] theorem count_counters (s : State) (d e n : Nat) : (s.count d e n).counters = s.counters.set (64 * d + e) (s.counters.get (64 * d + e) + BitVec.ofNat 64 n) := rfl

/-! ### `bumpId` -/

@[simp] theorem bumpId_agenda (s : State) : (s.bumpId).agenda = s.agenda := rfl
@[simp] theorem bumpId_tick (s : State) : (s.bumpId).tick = s.tick := rfl
@[simp] theorem bumpId_fresh (s : State) : (s.bumpId).fresh = s.fresh := rfl
@[simp] theorem bumpId_nextId (s : State) : (s.bumpId).nextId = s.nextId + 1 := rfl
@[simp] theorem bumpId_cur (s : State) : (s.bumpId).cur = s.cur := rfl
@[simp] theorem bumpId_mem (s : State) : (s.bumpId).mem = s.mem := rfl
@[simp] theorem bumpId_poison (s : State) : (s.bumpId).poison = s.poison := rfl
@[simp] theorem bumpId_dead (s : State) : (s.bumpId).dead = s.dead := rfl
@[simp] theorem bumpId_cores (s : State) : (s.bumpId).cores = s.cores := rfl
@[simp] theorem bumpId_dies (s : State) : (s.bumpId).dies = s.dies := rfl
@[simp] theorem bumpId_clusters (s : State) : (s.bumpId).clusters = s.clusters := rfl
@[simp] theorem bumpId_blocks (s : State) : (s.bumpId).blocks = s.blocks := rfl
@[simp] theorem bumpId_ops (s : State) : (s.bumpId).ops = s.ops := rfl
@[simp] theorem bumpId_copies (s : State) : (s.bumpId).copies = s.copies := rfl
@[simp] theorem bumpId_ctxs (s : State) : (s.bumpId).ctxs = s.ctxs := rfl
@[simp] theorem bumpId_launches (s : State) : (s.bumpId).launches = s.launches := rfl
@[simp] theorem bumpId_rings (s : State) : (s.bumpId).rings = s.rings := rfl
@[simp] theorem bumpId_cbars (s : State) : (s.bumpId).cbars = s.cbars := rfl
@[simp] theorem bumpId_hub (s : State) : (s.bumpId).hub = s.hub := rfl
@[simp] theorem bumpId_mesh (s : State) : (s.bumpId).mesh = s.mesh := rfl
@[simp] theorem bumpId_caches (s : State) : (s.bumpId).caches = s.caches := rfl
@[simp] theorem bumpId_swm (s : State) : (s.bumpId).swm = s.swm := rfl
@[simp] theorem bumpId_boot (s : State) : (s.bumpId).boot = s.boot := rfl
@[simp] theorem bumpId_deadId (s : State) : (s.bumpId).deadId = s.deadId := rfl
@[simp] theorem bumpId_trace (s : State) : (s.bumpId).trace = s.trace := rfl
@[simp] theorem bumpId_monitors (s : State) : (s.bumpId).monitors = s.monitors := rfl
@[simp] theorem bumpId_swmFrames (s : State) : (s.bumpId).swmFrames = s.swmFrames := rfl
@[simp] theorem bumpId_counters (s : State) : (s.bumpId).counters = s.counters := rfl

/-! ### `bumpFresh` -/

@[simp] theorem bumpFresh_agenda (s : State) : (s.bumpFresh).agenda = s.agenda := rfl
@[simp] theorem bumpFresh_tick (s : State) : (s.bumpFresh).tick = s.tick := rfl
@[simp] theorem bumpFresh_fresh (s : State) : (s.bumpFresh).fresh = s.fresh + 1 := rfl
@[simp] theorem bumpFresh_nextId (s : State) : (s.bumpFresh).nextId = s.nextId := rfl
@[simp] theorem bumpFresh_cur (s : State) : (s.bumpFresh).cur = s.cur := rfl
@[simp] theorem bumpFresh_mem (s : State) : (s.bumpFresh).mem = s.mem := rfl
@[simp] theorem bumpFresh_poison (s : State) : (s.bumpFresh).poison = s.poison := rfl
@[simp] theorem bumpFresh_dead (s : State) : (s.bumpFresh).dead = s.dead := rfl
@[simp] theorem bumpFresh_cores (s : State) : (s.bumpFresh).cores = s.cores := rfl
@[simp] theorem bumpFresh_dies (s : State) : (s.bumpFresh).dies = s.dies := rfl
@[simp] theorem bumpFresh_clusters (s : State) : (s.bumpFresh).clusters = s.clusters := rfl
@[simp] theorem bumpFresh_blocks (s : State) : (s.bumpFresh).blocks = s.blocks := rfl
@[simp] theorem bumpFresh_ops (s : State) : (s.bumpFresh).ops = s.ops := rfl
@[simp] theorem bumpFresh_copies (s : State) : (s.bumpFresh).copies = s.copies := rfl
@[simp] theorem bumpFresh_ctxs (s : State) : (s.bumpFresh).ctxs = s.ctxs := rfl
@[simp] theorem bumpFresh_launches (s : State) : (s.bumpFresh).launches = s.launches := rfl
@[simp] theorem bumpFresh_rings (s : State) : (s.bumpFresh).rings = s.rings := rfl
@[simp] theorem bumpFresh_cbars (s : State) : (s.bumpFresh).cbars = s.cbars := rfl
@[simp] theorem bumpFresh_hub (s : State) : (s.bumpFresh).hub = s.hub := rfl
@[simp] theorem bumpFresh_mesh (s : State) : (s.bumpFresh).mesh = s.mesh := rfl
@[simp] theorem bumpFresh_caches (s : State) : (s.bumpFresh).caches = s.caches := rfl
@[simp] theorem bumpFresh_swm (s : State) : (s.bumpFresh).swm = s.swm := rfl
@[simp] theorem bumpFresh_boot (s : State) : (s.bumpFresh).boot = s.boot := rfl
@[simp] theorem bumpFresh_deadId (s : State) : (s.bumpFresh).deadId = s.deadId := rfl
@[simp] theorem bumpFresh_trace (s : State) : (s.bumpFresh).trace = s.trace := rfl
@[simp] theorem bumpFresh_monitors (s : State) : (s.bumpFresh).monitors = s.monitors := rfl
@[simp] theorem bumpFresh_swmFrames (s : State) : (s.bumpFresh).swmFrames = s.swmFrames := rfl
@[simp] theorem bumpFresh_counters (s : State) : (s.bumpFresh).counters = s.counters := rfl

/-! ### `later` -/

@[simp] theorem later_agenda (s : State) (a : Action) : (s.later a).agenda = s.agenda ++ [a] := rfl
@[simp] theorem later_tick (s : State) (a : Action) : (s.later a).tick = s.tick := rfl
@[simp] theorem later_fresh (s : State) (a : Action) : (s.later a).fresh = s.fresh := rfl
@[simp] theorem later_nextId (s : State) (a : Action) : (s.later a).nextId = s.nextId := rfl
@[simp] theorem later_cur (s : State) (a : Action) : (s.later a).cur = s.cur := rfl
@[simp] theorem later_mem (s : State) (a : Action) : (s.later a).mem = s.mem := rfl
@[simp] theorem later_poison (s : State) (a : Action) : (s.later a).poison = s.poison := rfl
@[simp] theorem later_dead (s : State) (a : Action) : (s.later a).dead = s.dead := rfl
@[simp] theorem later_cores (s : State) (a : Action) : (s.later a).cores = s.cores := rfl
@[simp] theorem later_dies (s : State) (a : Action) : (s.later a).dies = s.dies := rfl
@[simp] theorem later_clusters (s : State) (a : Action) : (s.later a).clusters = s.clusters := rfl
@[simp] theorem later_blocks (s : State) (a : Action) : (s.later a).blocks = s.blocks := rfl
@[simp] theorem later_ops (s : State) (a : Action) : (s.later a).ops = s.ops := rfl
@[simp] theorem later_copies (s : State) (a : Action) : (s.later a).copies = s.copies := rfl
@[simp] theorem later_ctxs (s : State) (a : Action) : (s.later a).ctxs = s.ctxs := rfl
@[simp] theorem later_launches (s : State) (a : Action) : (s.later a).launches = s.launches := rfl
@[simp] theorem later_rings (s : State) (a : Action) : (s.later a).rings = s.rings := rfl
@[simp] theorem later_cbars (s : State) (a : Action) : (s.later a).cbars = s.cbars := rfl
@[simp] theorem later_hub (s : State) (a : Action) : (s.later a).hub = s.hub := rfl
@[simp] theorem later_mesh (s : State) (a : Action) : (s.later a).mesh = s.mesh := rfl
@[simp] theorem later_caches (s : State) (a : Action) : (s.later a).caches = s.caches := rfl
@[simp] theorem later_swm (s : State) (a : Action) : (s.later a).swm = s.swm := rfl
@[simp] theorem later_boot (s : State) (a : Action) : (s.later a).boot = s.boot := rfl
@[simp] theorem later_deadId (s : State) (a : Action) : (s.later a).deadId = s.deadId := rfl
@[simp] theorem later_trace (s : State) (a : Action) : (s.later a).trace = s.trace := rfl
@[simp] theorem later_monitors (s : State) (a : Action) : (s.later a).monitors = s.monitors := rfl
@[simp] theorem later_swmFrames (s : State) (a : Action) : (s.later a).swmFrames = s.swmFrames := rfl
@[simp] theorem later_counters (s : State) (a : Action) : (s.later a).counters = s.counters := rfl

/-! ### `setMemByte` -/

@[simp] theorem setMemByte_agenda (s : State) (k : Nat) (b : Byte) : (s.setMemByte k b).agenda = s.agenda := rfl
@[simp] theorem setMemByte_tick (s : State) (k : Nat) (b : Byte) : (s.setMemByte k b).tick = s.tick := rfl
@[simp] theorem setMemByte_fresh (s : State) (k : Nat) (b : Byte) : (s.setMemByte k b).fresh = s.fresh := rfl
@[simp] theorem setMemByte_nextId (s : State) (k : Nat) (b : Byte) : (s.setMemByte k b).nextId = s.nextId := rfl
@[simp] theorem setMemByte_cur (s : State) (k : Nat) (b : Byte) : (s.setMemByte k b).cur = s.cur := rfl
@[simp] theorem setMemByte_mem (s : State) (k : Nat) (b : Byte) : (s.setMemByte k b).mem = s.mem.set k b := rfl
@[simp] theorem setMemByte_poison (s : State) (k : Nat) (b : Byte) : (s.setMemByte k b).poison = s.poison := rfl
@[simp] theorem setMemByte_cores (s : State) (k : Nat) (b : Byte) : (s.setMemByte k b).cores = s.cores := rfl
@[simp] theorem setMemByte_dies (s : State) (k : Nat) (b : Byte) : (s.setMemByte k b).dies = s.dies := rfl
@[simp] theorem setMemByte_clusters (s : State) (k : Nat) (b : Byte) : (s.setMemByte k b).clusters = s.clusters := rfl
@[simp] theorem setMemByte_blocks (s : State) (k : Nat) (b : Byte) : (s.setMemByte k b).blocks = s.blocks := rfl
@[simp] theorem setMemByte_ops (s : State) (k : Nat) (b : Byte) : (s.setMemByte k b).ops = s.ops := rfl
@[simp] theorem setMemByte_copies (s : State) (k : Nat) (b : Byte) : (s.setMemByte k b).copies = s.copies := rfl
@[simp] theorem setMemByte_ctxs (s : State) (k : Nat) (b : Byte) : (s.setMemByte k b).ctxs = s.ctxs := rfl
@[simp] theorem setMemByte_launches (s : State) (k : Nat) (b : Byte) : (s.setMemByte k b).launches = s.launches := rfl
@[simp] theorem setMemByte_rings (s : State) (k : Nat) (b : Byte) : (s.setMemByte k b).rings = s.rings := rfl
@[simp] theorem setMemByte_cbars (s : State) (k : Nat) (b : Byte) : (s.setMemByte k b).cbars = s.cbars := rfl
@[simp] theorem setMemByte_hub (s : State) (k : Nat) (b : Byte) : (s.setMemByte k b).hub = s.hub := rfl
@[simp] theorem setMemByte_mesh (s : State) (k : Nat) (b : Byte) : (s.setMemByte k b).mesh = s.mesh := rfl
@[simp] theorem setMemByte_caches (s : State) (k : Nat) (b : Byte) : (s.setMemByte k b).caches = s.caches := rfl
@[simp] theorem setMemByte_swm (s : State) (k : Nat) (b : Byte) : (s.setMemByte k b).swm = s.swm := rfl
@[simp] theorem setMemByte_boot (s : State) (k : Nat) (b : Byte) : (s.setMemByte k b).boot = s.boot := rfl
@[simp] theorem setMemByte_deadId (s : State) (k : Nat) (b : Byte) : (s.setMemByte k b).deadId = s.deadId := rfl
@[simp] theorem setMemByte_trace (s : State) (k : Nat) (b : Byte) : (s.setMemByte k b).trace = s.trace := rfl
@[simp] theorem setMemByte_monitors (s : State) (k : Nat) (b : Byte) : (s.setMemByte k b).monitors = reached (2 * (k / 64)) s.monitors := rfl
@[simp] theorem setMemByte_swmFrames (s : State) (k : Nat) (b : Byte) : (s.setMemByte k b).swmFrames = s.swmFrames := rfl
@[simp] theorem setMemByte_counters (s : State) (k : Nat) (b : Byte) : (s.setMemByte k b).counters = s.counters := rfl

/-! ### `killSector` -/

@[simp] theorem killSector_agenda (s : State) (k : Nat) : (s.killSector k).agenda = s.agenda := rfl
@[simp] theorem killSector_tick (s : State) (k : Nat) : (s.killSector k).tick = s.tick := rfl
@[simp] theorem killSector_fresh (s : State) (k : Nat) : (s.killSector k).fresh = s.fresh + 1 := rfl
@[simp] theorem killSector_nextId (s : State) (k : Nat) : (s.killSector k).nextId = s.nextId := rfl
@[simp] theorem killSector_cur (s : State) (k : Nat) : (s.killSector k).cur = s.cur := rfl
@[simp] theorem killSector_mem (s : State) (k : Nat) : (s.killSector k).mem = s.mem := rfl
@[simp] theorem killSector_poison (s : State) (k : Nat) : (s.killSector k).poison = s.poison := rfl
@[simp] theorem killSector_dead (s : State) (k : Nat) : (s.killSector k).dead = s.dead.set k (BitVec.allOnes 64) := rfl
@[simp] theorem killSector_cores (s : State) (k : Nat) : (s.killSector k).cores = s.cores := rfl
@[simp] theorem killSector_dies (s : State) (k : Nat) : (s.killSector k).dies = s.dies := rfl
@[simp] theorem killSector_clusters (s : State) (k : Nat) : (s.killSector k).clusters = s.clusters := rfl
@[simp] theorem killSector_blocks (s : State) (k : Nat) : (s.killSector k).blocks = s.blocks := rfl
@[simp] theorem killSector_ops (s : State) (k : Nat) : (s.killSector k).ops = s.ops := rfl
@[simp] theorem killSector_copies (s : State) (k : Nat) : (s.killSector k).copies = s.copies := rfl
@[simp] theorem killSector_ctxs (s : State) (k : Nat) : (s.killSector k).ctxs = s.ctxs := rfl
@[simp] theorem killSector_launches (s : State) (k : Nat) : (s.killSector k).launches = s.launches := rfl
@[simp] theorem killSector_rings (s : State) (k : Nat) : (s.killSector k).rings = s.rings := rfl
@[simp] theorem killSector_cbars (s : State) (k : Nat) : (s.killSector k).cbars = s.cbars := rfl
@[simp] theorem killSector_hub (s : State) (k : Nat) : (s.killSector k).hub = s.hub := rfl
@[simp] theorem killSector_mesh (s : State) (k : Nat) : (s.killSector k).mesh = s.mesh := rfl
@[simp] theorem killSector_caches (s : State) (k : Nat) : (s.killSector k).caches = s.caches := rfl
@[simp] theorem killSector_swm (s : State) (k : Nat) : (s.killSector k).swm = s.swm := rfl
@[simp] theorem killSector_boot (s : State) (k : Nat) : (s.killSector k).boot = s.boot := rfl
@[simp] theorem killSector_deadId (s : State) (k : Nat) : (s.killSector k).deadId = s.deadId.set k s.fresh := rfl
@[simp] theorem killSector_trace (s : State) (k : Nat) :
    (s.killSector k).trace = (s.record (.mem (64 * k)) 64).trace := rfl
@[simp] theorem killSector_monitors (s : State) (k : Nat) : (s.killSector k).monitors = reached (2 * k) s.monitors := rfl
@[simp] theorem killSector_swmFrames (s : State) (k : Nat) : (s.killSector k).swmFrames = s.swmFrames := rfl
@[simp] theorem killSector_counters (s : State) (k : Nat) : (s.killSector k).counters = s.counters := rfl

/-! ### `setPoison` -/

@[simp] theorem setPoison_agenda (s : State) (k : Nat) (b : Bool) : (s.setPoison k b).agenda = s.agenda := rfl
@[simp] theorem setPoison_tick (s : State) (k : Nat) (b : Bool) : (s.setPoison k b).tick = s.tick := rfl
@[simp] theorem setPoison_fresh (s : State) (k : Nat) (b : Bool) : (s.setPoison k b).fresh = s.fresh := rfl
@[simp] theorem setPoison_nextId (s : State) (k : Nat) (b : Bool) : (s.setPoison k b).nextId = s.nextId := rfl
@[simp] theorem setPoison_cur (s : State) (k : Nat) (b : Bool) : (s.setPoison k b).cur = s.cur := rfl
@[simp] theorem setPoison_mem (s : State) (k : Nat) (b : Bool) : (s.setPoison k b).mem = s.mem := rfl
@[simp] theorem setPoison_dead (s : State) (k : Nat) (b : Bool) : (s.setPoison k b).dead = s.dead := rfl
@[simp] theorem setPoison_cores (s : State) (k : Nat) (b : Bool) : (s.setPoison k b).cores = s.cores := rfl
@[simp] theorem setPoison_dies (s : State) (k : Nat) (b : Bool) : (s.setPoison k b).dies = s.dies := rfl
@[simp] theorem setPoison_clusters (s : State) (k : Nat) (b : Bool) : (s.setPoison k b).clusters = s.clusters := rfl
@[simp] theorem setPoison_blocks (s : State) (k : Nat) (b : Bool) : (s.setPoison k b).blocks = s.blocks := rfl
@[simp] theorem setPoison_ops (s : State) (k : Nat) (b : Bool) : (s.setPoison k b).ops = s.ops := rfl
@[simp] theorem setPoison_copies (s : State) (k : Nat) (b : Bool) : (s.setPoison k b).copies = s.copies := rfl
@[simp] theorem setPoison_ctxs (s : State) (k : Nat) (b : Bool) : (s.setPoison k b).ctxs = s.ctxs := rfl
@[simp] theorem setPoison_launches (s : State) (k : Nat) (b : Bool) : (s.setPoison k b).launches = s.launches := rfl
@[simp] theorem setPoison_rings (s : State) (k : Nat) (b : Bool) : (s.setPoison k b).rings = s.rings := rfl
@[simp] theorem setPoison_cbars (s : State) (k : Nat) (b : Bool) : (s.setPoison k b).cbars = s.cbars := rfl
@[simp] theorem setPoison_hub (s : State) (k : Nat) (b : Bool) : (s.setPoison k b).hub = s.hub := rfl
@[simp] theorem setPoison_mesh (s : State) (k : Nat) (b : Bool) : (s.setPoison k b).mesh = s.mesh := rfl
@[simp] theorem setPoison_caches (s : State) (k : Nat) (b : Bool) : (s.setPoison k b).caches = s.caches := rfl
@[simp] theorem setPoison_swm (s : State) (k : Nat) (b : Bool) : (s.setPoison k b).swm = s.swm := rfl
@[simp] theorem setPoison_boot (s : State) (k : Nat) (b : Bool) : (s.setPoison k b).boot = s.boot := rfl
@[simp] theorem setPoison_deadId (s : State) (k : Nat) (b : Bool) : (s.setPoison k b).deadId = s.deadId := rfl
@[simp] theorem setPoison_trace (s : State) (k : Nat) (b : Bool) : (s.setPoison k b).trace = s.trace := rfl
@[simp] theorem setPoison_monitors (s : State) (k : Nat) (b : Bool) : (s.setPoison k b).monitors = s.monitors := rfl
@[simp] theorem setPoison_swmFrames (s : State) (k : Nat) (b : Bool) : (s.setPoison k b).swmFrames = s.swmFrames := rfl
@[simp] theorem setPoison_counters (s : State) (k : Nat) (b : Bool) : (s.setPoison k b).counters = s.counters := rfl

/-! ### `result` -/

@[simp] theorem result_agenda (s : State) (r : Result) : (s.result r).agenda = s.agenda := rfl
@[simp] theorem result_tick (s : State) (r : Result) : (s.result r).tick = s.tick := rfl
@[simp] theorem result_fresh (s : State) (r : Result) : (s.result r).fresh = s.fresh := rfl
@[simp] theorem result_nextId (s : State) (r : Result) : (s.result r).nextId = s.nextId := rfl
@[simp] theorem result_cur (s : State) (r : Result) : (s.result r).cur = { s.cur with result := r } := rfl
@[simp] theorem result_mem (s : State) (r : Result) : (s.result r).mem = s.mem := rfl
@[simp] theorem result_poison (s : State) (r : Result) : (s.result r).poison = s.poison := rfl
@[simp] theorem result_dead (s : State) (r : Result) : (s.result r).dead = s.dead := rfl
@[simp] theorem result_cores (s : State) (r : Result) : (s.result r).cores = s.cores := rfl
@[simp] theorem result_dies (s : State) (r : Result) : (s.result r).dies = s.dies := rfl
@[simp] theorem result_clusters (s : State) (r : Result) : (s.result r).clusters = s.clusters := rfl
@[simp] theorem result_blocks (s : State) (r : Result) : (s.result r).blocks = s.blocks := rfl
@[simp] theorem result_ops (s : State) (r : Result) : (s.result r).ops = s.ops := rfl
@[simp] theorem result_copies (s : State) (r : Result) : (s.result r).copies = s.copies := rfl
@[simp] theorem result_ctxs (s : State) (r : Result) : (s.result r).ctxs = s.ctxs := rfl
@[simp] theorem result_launches (s : State) (r : Result) : (s.result r).launches = s.launches := rfl
@[simp] theorem result_rings (s : State) (r : Result) : (s.result r).rings = s.rings := rfl
@[simp] theorem result_cbars (s : State) (r : Result) : (s.result r).cbars = s.cbars := rfl
@[simp] theorem result_hub (s : State) (r : Result) : (s.result r).hub = s.hub := rfl
@[simp] theorem result_mesh (s : State) (r : Result) : (s.result r).mesh = s.mesh := rfl
@[simp] theorem result_caches (s : State) (r : Result) : (s.result r).caches = s.caches := rfl
@[simp] theorem result_swm (s : State) (r : Result) : (s.result r).swm = s.swm := rfl
@[simp] theorem result_boot (s : State) (r : Result) : (s.result r).boot = s.boot := rfl
@[simp] theorem result_deadId (s : State) (r : Result) : (s.result r).deadId = s.deadId := rfl
@[simp] theorem result_trace (s : State) (r : Result) : (s.result r).trace = s.trace := rfl
@[simp] theorem result_monitors (s : State) (r : Result) : (s.result r).monitors = s.monitors := rfl
@[simp] theorem result_swmFrames (s : State) (r : Result) : (s.result r).swmFrames = s.swmFrames := rfl
@[simp] theorem result_counters (s : State) (r : Result) : (s.result r).counters = s.counters := rfl

/-! ### `post` -/

@[simp] theorem post_agenda (s : State) (bs : List Byte) : (s.post bs).agenda = s.agenda := rfl
@[simp] theorem post_tick (s : State) (bs : List Byte) : (s.post bs).tick = s.tick := rfl
@[simp] theorem post_fresh (s : State) (bs : List Byte) : (s.post bs).fresh = s.fresh := rfl
@[simp] theorem post_nextId (s : State) (bs : List Byte) : (s.post bs).nextId = s.nextId + 1 := rfl
@[simp] theorem post_cur (s : State) (bs : List Byte) : (s.post bs).cur = s.cur := rfl
@[simp] theorem post_mem (s : State) (bs : List Byte) : (s.post bs).mem = s.mem := rfl
@[simp] theorem post_poison (s : State) (bs : List Byte) : (s.post bs).poison = s.poison := rfl
@[simp] theorem post_dead (s : State) (bs : List Byte) : (s.post bs).dead = s.dead := rfl
@[simp] theorem post_cores (s : State) (bs : List Byte) : (s.post bs).cores = s.cores := rfl
@[simp] theorem post_dies (s : State) (bs : List Byte) : (s.post bs).dies = s.dies := rfl
@[simp] theorem post_clusters (s : State) (bs : List Byte) : (s.post bs).clusters = s.clusters := rfl
@[simp] theorem post_blocks (s : State) (bs : List Byte) : (s.post bs).blocks = s.blocks := rfl
@[simp] theorem post_ops (s : State) (bs : List Byte) : (s.post bs).ops = s.ops := rfl
@[simp] theorem post_copies (s : State) (bs : List Byte) : (s.post bs).copies = s.copies := rfl
@[simp] theorem post_ctxs (s : State) (bs : List Byte) : (s.post bs).ctxs = s.ctxs := rfl
@[simp] theorem post_launches (s : State) (bs : List Byte) : (s.post bs).launches = s.launches := rfl
@[simp] theorem post_rings (s : State) (bs : List Byte) : (s.post bs).rings = s.rings := rfl
@[simp] theorem post_cbars (s : State) (bs : List Byte) : (s.post bs).cbars = s.cbars := rfl
@[simp] theorem post_mesh (s : State) (bs : List Byte) : (s.post bs).mesh = s.mesh := rfl
@[simp] theorem post_caches (s : State) (bs : List Byte) : (s.post bs).caches = s.caches := rfl
@[simp] theorem post_swm (s : State) (bs : List Byte) : (s.post bs).swm = s.swm := rfl
@[simp] theorem post_boot (s : State) (bs : List Byte) : (s.post bs).boot = s.boot := rfl
@[simp] theorem post_deadId (s : State) (bs : List Byte) : (s.post bs).deadId = s.deadId := rfl
@[simp] theorem post_trace (s : State) (bs : List Byte) : (s.post bs).trace = s.trace := rfl
@[simp] theorem post_monitors (s : State) (bs : List Byte) : (s.post bs).monitors = s.monitors := rfl
@[simp] theorem post_swmFrames (s : State) (bs : List Byte) : (s.post bs).swmFrames = s.swmFrames := rfl
@[simp] theorem post_counters (s : State) (bs : List Byte) : (s.post bs).counters = s.counters := rfl

/-! ### `setRing`, `setMemBytes` -/

@[simp] theorem setRing_agenda (s : State) (k : Nat) (r : Ring) : (s.setRing k r).agenda = s.agenda := by
  unfold setRing; split <;> rfl
@[simp] theorem setRing_tick (s : State) (k : Nat) (r : Ring) : (s.setRing k r).tick = s.tick := by
  unfold setRing; split <;> rfl
@[simp] theorem setRing_fresh (s : State) (k : Nat) (r : Ring) : (s.setRing k r).fresh = s.fresh := by
  unfold setRing; split <;> rfl
@[simp] theorem setRing_nextId (s : State) (k : Nat) (r : Ring) : (s.setRing k r).nextId = s.nextId := by
  unfold setRing; split <;> rfl
@[simp] theorem setRing_cur (s : State) (k : Nat) (r : Ring) : (s.setRing k r).cur = s.cur := by
  unfold setRing; split <;> rfl
@[simp] theorem setRing_mem (s : State) (k : Nat) (r : Ring) : (s.setRing k r).mem = s.mem := by
  unfold setRing; split <;> rfl
@[simp] theorem setRing_poison (s : State) (k : Nat) (r : Ring) : (s.setRing k r).poison = s.poison := by
  unfold setRing; split <;> rfl
@[simp] theorem setRing_dead (s : State) (k : Nat) (r : Ring) : (s.setRing k r).dead = s.dead := by
  unfold setRing; split <;> rfl
@[simp] theorem setRing_cores (s : State) (k : Nat) (r : Ring) : (s.setRing k r).cores = s.cores := by
  unfold setRing; split <;> rfl
@[simp] theorem setRing_dies (s : State) (k : Nat) (r : Ring) : (s.setRing k r).dies = s.dies := by
  unfold setRing; split <;> rfl
@[simp] theorem setRing_clusters (s : State) (k : Nat) (r : Ring) : (s.setRing k r).clusters = s.clusters := by
  unfold setRing; split <;> rfl
@[simp] theorem setRing_blocks (s : State) (k : Nat) (r : Ring) : (s.setRing k r).blocks = s.blocks := by
  unfold setRing; split <;> rfl
@[simp] theorem setRing_ops (s : State) (k : Nat) (r : Ring) : (s.setRing k r).ops = s.ops := by
  unfold setRing; split <;> rfl
@[simp] theorem setRing_copies (s : State) (k : Nat) (r : Ring) : (s.setRing k r).copies = s.copies := by
  unfold setRing; split <;> rfl
@[simp] theorem setRing_ctxs (s : State) (k : Nat) (r : Ring) : (s.setRing k r).ctxs = s.ctxs := by
  unfold setRing; split <;> rfl
@[simp] theorem setRing_launches (s : State) (k : Nat) (r : Ring) : (s.setRing k r).launches = s.launches := by
  unfold setRing; split <;> rfl
@[simp] theorem setRing_cbars (s : State) (k : Nat) (r : Ring) : (s.setRing k r).cbars = s.cbars := by
  unfold setRing; split <;> rfl
@[simp] theorem setRing_hub (s : State) (k : Nat) (r : Ring) : (s.setRing k r).hub = s.hub := by
  unfold setRing; split <;> rfl
@[simp] theorem setRing_mesh (s : State) (k : Nat) (r : Ring) : (s.setRing k r).mesh = s.mesh := by
  unfold setRing; split <;> rfl
@[simp] theorem setRing_caches (s : State) (k : Nat) (r : Ring) : (s.setRing k r).caches = s.caches := by
  unfold setRing; split <;> rfl
@[simp] theorem setRing_swm (s : State) (k : Nat) (r : Ring) : (s.setRing k r).swm = s.swm := by
  unfold setRing; split <;> rfl
@[simp] theorem setRing_boot (s : State) (k : Nat) (r : Ring) : (s.setRing k r).boot = s.boot := by
  unfold setRing; split <;> rfl
@[simp] theorem setRing_counters (s : State) (k : Nat) (r : Ring) : (s.setRing k r).counters = s.counters := by
  unfold setRing; split <;> rfl
@[simp] theorem setRing_deadId (s : State) (k : Nat) (r : Ring) : (s.setRing k r).deadId = s.deadId := by
  unfold setRing; split <;> rfl
@[simp] theorem setRing_trace (s : State) (k : Nat) (r : Ring) : (s.setRing k r).trace = s.trace := by
  unfold setRing; split <;> rfl
@[simp] theorem setRing_monitors (s : State) (k : Nat) (r : Ring) : (s.setRing k r).monitors = s.monitors := by
  unfold setRing; split <;> rfl
@[simp] theorem setRing_swmFrames (s : State) (k : Nat) (r : Ring) : (s.setRing k r).swmFrames = s.swmFrames := by
  unfold setRing; split <;> rfl

/-! ### `record`, `putMemBytes` and `setMemBytes` -/

@[simp] theorem record_agenda (s : State) (l : Loc) (n : Nat) : (s.record l n).agenda = s.agenda := rfl
@[simp] theorem record_tick (s : State) (l : Loc) (n : Nat) : (s.record l n).tick = s.tick := rfl
@[simp] theorem record_fresh (s : State) (l : Loc) (n : Nat) : (s.record l n).fresh = s.fresh := rfl
@[simp] theorem record_nextId (s : State) (l : Loc) (n : Nat) : (s.record l n).nextId = s.nextId := rfl
@[simp] theorem record_cur (s : State) (l : Loc) (n : Nat) : (s.record l n).cur = s.cur := rfl
@[simp] theorem record_mem (s : State) (l : Loc) (n : Nat) : (s.record l n).mem = s.mem := rfl
@[simp] theorem record_poison (s : State) (l : Loc) (n : Nat) : (s.record l n).poison = s.poison := rfl
@[simp] theorem record_dead (s : State) (l : Loc) (n : Nat) : (s.record l n).dead = s.dead := rfl
@[simp] theorem record_deadId (s : State) (l : Loc) (n : Nat) : (s.record l n).deadId = s.deadId := rfl
@[simp] theorem record_cores (s : State) (l : Loc) (n : Nat) : (s.record l n).cores = s.cores := rfl
@[simp] theorem record_dies (s : State) (l : Loc) (n : Nat) : (s.record l n).dies = s.dies := rfl
@[simp] theorem record_clusters (s : State) (l : Loc) (n : Nat) : (s.record l n).clusters = s.clusters := rfl
@[simp] theorem record_blocks (s : State) (l : Loc) (n : Nat) : (s.record l n).blocks = s.blocks := rfl
@[simp] theorem record_ops (s : State) (l : Loc) (n : Nat) : (s.record l n).ops = s.ops := rfl
@[simp] theorem record_monitors (s : State) (l : Loc) (n : Nat) : (s.record l n).monitors = s.monitors := rfl
@[simp] theorem record_copies (s : State) (l : Loc) (n : Nat) : (s.record l n).copies = s.copies := rfl
@[simp] theorem record_ctxs (s : State) (l : Loc) (n : Nat) : (s.record l n).ctxs = s.ctxs := rfl
@[simp] theorem record_launches (s : State) (l : Loc) (n : Nat) : (s.record l n).launches = s.launches := rfl
@[simp] theorem record_rings (s : State) (l : Loc) (n : Nat) : (s.record l n).rings = s.rings := rfl
@[simp] theorem record_cbars (s : State) (l : Loc) (n : Nat) : (s.record l n).cbars = s.cbars := rfl
@[simp] theorem record_hub (s : State) (l : Loc) (n : Nat) : (s.record l n).hub = s.hub := rfl
@[simp] theorem record_mesh (s : State) (l : Loc) (n : Nat) : (s.record l n).mesh = s.mesh := rfl
@[simp] theorem record_caches (s : State) (l : Loc) (n : Nat) : (s.record l n).caches = s.caches := rfl
@[simp] theorem record_swm (s : State) (l : Loc) (n : Nat) : (s.record l n).swm = s.swm := rfl
@[simp] theorem record_swmFrames (s : State) (l : Loc) (n : Nat) : (s.record l n).swmFrames = s.swmFrames := rfl
@[simp] theorem record_boot (s : State) (l : Loc) (n : Nat) : (s.record l n).boot = s.boot := rfl
@[simp] theorem record_counters (s : State) (l : Loc) (n : Nat) : (s.record l n).counters = s.counters := rfl

/-- Nothing is noted where no candidate execution is kept. -/
theorem record_of_none {s : State} (h : s.trace = none) (l : Loc) (n : Nat) : s.record l n = s := by
  cases s; simp_all [record]

@[simp] theorem putMemBytes_agenda (s : State) (k : Nat) (bs : List Byte) : (s.putMemBytes k bs).agenda = s.agenda := by
  induction bs generalizing s k with
  | nil => rfl
  | cons b bs ih => exact ih _ _
@[simp] theorem setMemBytes_agenda (s : State) (k : Nat) (bs : List Byte) : (s.setMemBytes k bs).agenda = s.agenda :=
  putMemBytes_agenda _ _ _
@[simp] theorem putMemBytes_tick (s : State) (k : Nat) (bs : List Byte) : (s.putMemBytes k bs).tick = s.tick := by
  induction bs generalizing s k with
  | nil => rfl
  | cons b bs ih => exact ih _ _
@[simp] theorem setMemBytes_tick (s : State) (k : Nat) (bs : List Byte) : (s.setMemBytes k bs).tick = s.tick :=
  putMemBytes_tick _ _ _
@[simp] theorem putMemBytes_fresh (s : State) (k : Nat) (bs : List Byte) : (s.putMemBytes k bs).fresh = s.fresh := by
  induction bs generalizing s k with
  | nil => rfl
  | cons b bs ih => exact ih _ _
@[simp] theorem setMemBytes_fresh (s : State) (k : Nat) (bs : List Byte) : (s.setMemBytes k bs).fresh = s.fresh :=
  putMemBytes_fresh _ _ _
@[simp] theorem putMemBytes_nextId (s : State) (k : Nat) (bs : List Byte) : (s.putMemBytes k bs).nextId = s.nextId := by
  induction bs generalizing s k with
  | nil => rfl
  | cons b bs ih => exact ih _ _
@[simp] theorem setMemBytes_nextId (s : State) (k : Nat) (bs : List Byte) : (s.setMemBytes k bs).nextId = s.nextId :=
  putMemBytes_nextId _ _ _
@[simp] theorem putMemBytes_cur (s : State) (k : Nat) (bs : List Byte) : (s.putMemBytes k bs).cur = s.cur := by
  induction bs generalizing s k with
  | nil => rfl
  | cons b bs ih => exact ih _ _
@[simp] theorem setMemBytes_cur (s : State) (k : Nat) (bs : List Byte) : (s.setMemBytes k bs).cur = s.cur :=
  putMemBytes_cur _ _ _
@[simp] theorem putMemBytes_poison (s : State) (k : Nat) (bs : List Byte) : (s.putMemBytes k bs).poison = s.poison := by
  induction bs generalizing s k with
  | nil => rfl
  | cons b bs ih => exact ih _ _
@[simp] theorem setMemBytes_poison (s : State) (k : Nat) (bs : List Byte) : (s.setMemBytes k bs).poison = s.poison :=
  putMemBytes_poison _ _ _
@[simp] theorem putMemBytes_cores (s : State) (k : Nat) (bs : List Byte) : (s.putMemBytes k bs).cores = s.cores := by
  induction bs generalizing s k with
  | nil => rfl
  | cons b bs ih => exact ih _ _
@[simp] theorem setMemBytes_cores (s : State) (k : Nat) (bs : List Byte) : (s.setMemBytes k bs).cores = s.cores :=
  putMemBytes_cores _ _ _
@[simp] theorem putMemBytes_dies (s : State) (k : Nat) (bs : List Byte) : (s.putMemBytes k bs).dies = s.dies := by
  induction bs generalizing s k with
  | nil => rfl
  | cons b bs ih => exact ih _ _
@[simp] theorem setMemBytes_dies (s : State) (k : Nat) (bs : List Byte) : (s.setMemBytes k bs).dies = s.dies :=
  putMemBytes_dies _ _ _
@[simp] theorem putMemBytes_clusters (s : State) (k : Nat) (bs : List Byte) : (s.putMemBytes k bs).clusters = s.clusters := by
  induction bs generalizing s k with
  | nil => rfl
  | cons b bs ih => exact ih _ _
@[simp] theorem setMemBytes_clusters (s : State) (k : Nat) (bs : List Byte) : (s.setMemBytes k bs).clusters = s.clusters :=
  putMemBytes_clusters _ _ _
@[simp] theorem putMemBytes_blocks (s : State) (k : Nat) (bs : List Byte) : (s.putMemBytes k bs).blocks = s.blocks := by
  induction bs generalizing s k with
  | nil => rfl
  | cons b bs ih => exact ih _ _
@[simp] theorem setMemBytes_blocks (s : State) (k : Nat) (bs : List Byte) : (s.setMemBytes k bs).blocks = s.blocks :=
  putMemBytes_blocks _ _ _
@[simp] theorem putMemBytes_ops (s : State) (k : Nat) (bs : List Byte) : (s.putMemBytes k bs).ops = s.ops := by
  induction bs generalizing s k with
  | nil => rfl
  | cons b bs ih => exact ih _ _
@[simp] theorem setMemBytes_ops (s : State) (k : Nat) (bs : List Byte) : (s.setMemBytes k bs).ops = s.ops :=
  putMemBytes_ops _ _ _
@[simp] theorem putMemBytes_copies (s : State) (k : Nat) (bs : List Byte) : (s.putMemBytes k bs).copies = s.copies := by
  induction bs generalizing s k with
  | nil => rfl
  | cons b bs ih => exact ih _ _
@[simp] theorem setMemBytes_copies (s : State) (k : Nat) (bs : List Byte) : (s.setMemBytes k bs).copies = s.copies :=
  putMemBytes_copies _ _ _
@[simp] theorem putMemBytes_ctxs (s : State) (k : Nat) (bs : List Byte) : (s.putMemBytes k bs).ctxs = s.ctxs := by
  induction bs generalizing s k with
  | nil => rfl
  | cons b bs ih => exact ih _ _
@[simp] theorem setMemBytes_ctxs (s : State) (k : Nat) (bs : List Byte) : (s.setMemBytes k bs).ctxs = s.ctxs :=
  putMemBytes_ctxs _ _ _
@[simp] theorem putMemBytes_launches (s : State) (k : Nat) (bs : List Byte) : (s.putMemBytes k bs).launches = s.launches := by
  induction bs generalizing s k with
  | nil => rfl
  | cons b bs ih => exact ih _ _
@[simp] theorem setMemBytes_launches (s : State) (k : Nat) (bs : List Byte) : (s.setMemBytes k bs).launches = s.launches :=
  putMemBytes_launches _ _ _
@[simp] theorem putMemBytes_rings (s : State) (k : Nat) (bs : List Byte) : (s.putMemBytes k bs).rings = s.rings := by
  induction bs generalizing s k with
  | nil => rfl
  | cons b bs ih => exact ih _ _
@[simp] theorem setMemBytes_rings (s : State) (k : Nat) (bs : List Byte) : (s.setMemBytes k bs).rings = s.rings :=
  putMemBytes_rings _ _ _
@[simp] theorem putMemBytes_cbars (s : State) (k : Nat) (bs : List Byte) : (s.putMemBytes k bs).cbars = s.cbars := by
  induction bs generalizing s k with
  | nil => rfl
  | cons b bs ih => exact ih _ _
@[simp] theorem setMemBytes_cbars (s : State) (k : Nat) (bs : List Byte) : (s.setMemBytes k bs).cbars = s.cbars :=
  putMemBytes_cbars _ _ _
@[simp] theorem putMemBytes_hub (s : State) (k : Nat) (bs : List Byte) : (s.putMemBytes k bs).hub = s.hub := by
  induction bs generalizing s k with
  | nil => rfl
  | cons b bs ih => exact ih _ _
@[simp] theorem setMemBytes_hub (s : State) (k : Nat) (bs : List Byte) : (s.setMemBytes k bs).hub = s.hub :=
  putMemBytes_hub _ _ _
@[simp] theorem putMemBytes_mesh (s : State) (k : Nat) (bs : List Byte) : (s.putMemBytes k bs).mesh = s.mesh := by
  induction bs generalizing s k with
  | nil => rfl
  | cons b bs ih => exact ih _ _
@[simp] theorem setMemBytes_mesh (s : State) (k : Nat) (bs : List Byte) : (s.setMemBytes k bs).mesh = s.mesh :=
  putMemBytes_mesh _ _ _
@[simp] theorem putMemBytes_caches (s : State) (k : Nat) (bs : List Byte) : (s.putMemBytes k bs).caches = s.caches := by
  induction bs generalizing s k with
  | nil => rfl
  | cons b bs ih => exact ih _ _
@[simp] theorem setMemBytes_caches (s : State) (k : Nat) (bs : List Byte) : (s.setMemBytes k bs).caches = s.caches :=
  putMemBytes_caches _ _ _
@[simp] theorem putMemBytes_swm (s : State) (k : Nat) (bs : List Byte) : (s.putMemBytes k bs).swm = s.swm := by
  induction bs generalizing s k with
  | nil => rfl
  | cons b bs ih => exact ih _ _
@[simp] theorem setMemBytes_swm (s : State) (k : Nat) (bs : List Byte) : (s.setMemBytes k bs).swm = s.swm :=
  putMemBytes_swm _ _ _
@[simp] theorem putMemBytes_boot (s : State) (k : Nat) (bs : List Byte) : (s.putMemBytes k bs).boot = s.boot := by
  induction bs generalizing s k with
  | nil => rfl
  | cons b bs ih => exact ih _ _
@[simp] theorem setMemBytes_boot (s : State) (k : Nat) (bs : List Byte) : (s.setMemBytes k bs).boot = s.boot :=
  putMemBytes_boot _ _ _
@[simp] theorem putMemBytes_counters (s : State) (k : Nat) (bs : List Byte) : (s.putMemBytes k bs).counters = s.counters := by
  induction bs generalizing s k with
  | nil => rfl
  | cons b bs ih => exact ih _ _
@[simp] theorem setMemBytes_counters (s : State) (k : Nat) (bs : List Byte) : (s.setMemBytes k bs).counters = s.counters :=
  putMemBytes_counters _ _ _
@[simp] theorem putMemBytes_deadId (s : State) (k : Nat) (bs : List Byte) : (s.putMemBytes k bs).deadId = s.deadId := by
  induction bs generalizing s k with
  | nil => rfl
  | cons b bs ih => exact ih _ _
@[simp] theorem setMemBytes_deadId (s : State) (k : Nat) (bs : List Byte) : (s.setMemBytes k bs).deadId = s.deadId :=
  putMemBytes_deadId _ _ _
@[simp] theorem putMemBytes_trace (s : State) (k : Nat) (bs : List Byte) : (s.putMemBytes k bs).trace = s.trace := by
  induction bs generalizing s k with
  | nil => rfl
  | cons b bs ih => exact ih _ _
@[simp] theorem setMemBytes_trace (s : State) (k : Nat) (bs : List Byte) :
    (s.setMemBytes k bs).trace = (s.record (.mem k) bs.length).trace := putMemBytes_trace _ _ _
@[simp] theorem putMemBytes_swmFrames (s : State) (k : Nat) (bs : List Byte) : (s.putMemBytes k bs).swmFrames = s.swmFrames := by
  induction bs generalizing s k with
  | nil => rfl
  | cons b bs ih => exact ih _ _
@[simp] theorem setMemBytes_swmFrames (s : State) (k : Nat) (bs : List Byte) : (s.setMemBytes k bs).swmFrames = s.swmFrames :=
  putMemBytes_swmFrames _ _ _

/-! ### `reach` -/

@[simp] theorem reach_agenda (s : State) (k : Nat) : (s.reach k).agenda = s.agenda := rfl
@[simp] theorem reach_tick (s : State) (k : Nat) : (s.reach k).tick = s.tick := rfl
@[simp] theorem reach_fresh (s : State) (k : Nat) : (s.reach k).fresh = s.fresh := rfl
@[simp] theorem reach_nextId (s : State) (k : Nat) : (s.reach k).nextId = s.nextId := rfl
@[simp] theorem reach_cur (s : State) (k : Nat) : (s.reach k).cur = s.cur := rfl
@[simp] theorem reach_mem (s : State) (k : Nat) : (s.reach k).mem = s.mem := rfl
@[simp] theorem reach_poison (s : State) (k : Nat) : (s.reach k).poison = s.poison := rfl
@[simp] theorem reach_dead (s : State) (k : Nat) : (s.reach k).dead = s.dead := rfl
@[simp] theorem reach_deadId (s : State) (k : Nat) : (s.reach k).deadId = s.deadId := rfl
@[simp] theorem reach_cores (s : State) (k : Nat) : (s.reach k).cores = s.cores := rfl
@[simp] theorem reach_dies (s : State) (k : Nat) : (s.reach k).dies = s.dies := rfl
@[simp] theorem reach_clusters (s : State) (k : Nat) : (s.reach k).clusters = s.clusters := rfl
@[simp] theorem reach_blocks (s : State) (k : Nat) : (s.reach k).blocks = s.blocks := rfl
@[simp] theorem reach_ops (s : State) (k : Nat) : (s.reach k).ops = s.ops := rfl
@[simp] theorem reach_trace (s : State) (k : Nat) : (s.reach k).trace = s.trace := rfl
@[simp] theorem reach_monitors (s : State) (k : Nat) : (s.reach k).monitors = reached k s.monitors := rfl
@[simp] theorem reach_copies (s : State) (k : Nat) : (s.reach k).copies = s.copies := rfl
@[simp] theorem reach_ctxs (s : State) (k : Nat) : (s.reach k).ctxs = s.ctxs := rfl
@[simp] theorem reach_launches (s : State) (k : Nat) : (s.reach k).launches = s.launches := rfl
@[simp] theorem reach_rings (s : State) (k : Nat) : (s.reach k).rings = s.rings := rfl
@[simp] theorem reach_cbars (s : State) (k : Nat) : (s.reach k).cbars = s.cbars := rfl
@[simp] theorem reach_hub (s : State) (k : Nat) : (s.reach k).hub = s.hub := rfl
@[simp] theorem reach_mesh (s : State) (k : Nat) : (s.reach k).mesh = s.mesh := rfl
@[simp] theorem reach_caches (s : State) (k : Nat) : (s.reach k).caches = s.caches := rfl
@[simp] theorem reach_swm (s : State) (k : Nat) : (s.reach k).swm = s.swm := rfl
@[simp] theorem reach_swmFrames (s : State) (k : Nat) : (s.reach k).swmFrames = s.swmFrames := rfl
@[simp] theorem reach_boot (s : State) (k : Nat) : (s.reach k).boot = s.boot := rfl
@[simp] theorem reach_counters (s : State) (k : Nat) : (s.reach k).counters = s.counters := rfl

/-! ### `setSpan` -/

@[simp] theorem setSpan_agenda (s : State) (k : Nat) (p : Span) : (s.setSpan k p).agenda = s.agenda := rfl
@[simp] theorem setSpan_tick (s : State) (k : Nat) (p : Span) : (s.setSpan k p).tick = s.tick := rfl
@[simp] theorem setSpan_fresh (s : State) (k : Nat) (p : Span) : (s.setSpan k p).fresh = s.fresh := rfl
@[simp] theorem setSpan_nextId (s : State) (k : Nat) (p : Span) : (s.setSpan k p).nextId = s.nextId := rfl
@[simp] theorem setSpan_cur (s : State) (k : Nat) (p : Span) : (s.setSpan k p).cur = s.cur := rfl
@[simp] theorem setSpan_mem (s : State) (k : Nat) (p : Span) : (s.setSpan k p).mem = s.mem := rfl
@[simp] theorem setSpan_poison (s : State) (k : Nat) (p : Span) : (s.setSpan k p).poison = s.poison := rfl
@[simp] theorem setSpan_dead (s : State) (k : Nat) (p : Span) : (s.setSpan k p).dead = s.dead := rfl
@[simp] theorem setSpan_deadId (s : State) (k : Nat) (p : Span) : (s.setSpan k p).deadId = s.deadId := rfl
@[simp] theorem setSpan_cores (s : State) (k : Nat) (p : Span) : (s.setSpan k p).cores = s.cores := rfl
@[simp] theorem setSpan_dies (s : State) (k : Nat) (p : Span) : (s.setSpan k p).dies = s.dies := rfl
@[simp] theorem setSpan_clusters (s : State) (k : Nat) (p : Span) : (s.setSpan k p).clusters = s.clusters := rfl
@[simp] theorem setSpan_blocks (s : State) (k : Nat) (p : Span) : (s.setSpan k p).blocks = s.blocks := rfl
@[simp] theorem setSpan_ops (s : State) (k : Nat) (p : Span) : (s.setSpan k p).ops = s.ops := rfl
@[simp] theorem setSpan_trace (s : State) (k : Nat) (p : Span) : (s.setSpan k p).trace = s.trace := rfl
@[simp] theorem setSpan_monitors (s : State) (k : Nat) (p : Span) : (s.setSpan k p).monitors = s.monitors := rfl
@[simp] theorem setSpan_copies (s : State) (k : Nat) (p : Span) : (s.setSpan k p).copies = s.copies := rfl
@[simp] theorem setSpan_ctxs (s : State) (k : Nat) (p : Span) : (s.setSpan k p).ctxs = s.ctxs := rfl
@[simp] theorem setSpan_launches (s : State) (k : Nat) (p : Span) : (s.setSpan k p).launches = s.launches := rfl
@[simp] theorem setSpan_rings (s : State) (k : Nat) (p : Span) : (s.setSpan k p).rings = s.rings := rfl
@[simp] theorem setSpan_cbars (s : State) (k : Nat) (p : Span) : (s.setSpan k p).cbars = s.cbars := rfl
@[simp] theorem setSpan_hub (s : State) (k : Nat) (p : Span) : (s.setSpan k p).hub = { s.hub with spans := s.hub.spans.set (k / 4096) p } := rfl
@[simp] theorem setSpan_mesh (s : State) (k : Nat) (p : Span) : (s.setSpan k p).mesh = s.mesh := rfl
@[simp] theorem setSpan_caches (s : State) (k : Nat) (p : Span) : (s.setSpan k p).caches = s.caches := rfl
@[simp] theorem setSpan_swm (s : State) (k : Nat) (p : Span) : (s.setSpan k p).swm = s.swm := rfl
@[simp] theorem setSpan_swmFrames (s : State) (k : Nat) (p : Span) : (s.setSpan k p).swmFrames = s.swmFrames := rfl
@[simp] theorem setSpan_boot (s : State) (k : Nat) (p : Span) : (s.setSpan k p).boot = s.boot := rfl
@[simp] theorem setSpan_counters (s : State) (k : Nat) (p : Span) : (s.setSpan k p).counters = s.counters := rfl

end Sys2Proof.Machine.State
end

