-- ==== Sys2Proof/Laws/Issue.lean ====
section
/-!
SUPPORT. What the frame of every instruction does (R97): an instruction that passes its checks runs its body, one that
fails a check traps or waits, and a group's lanes read back as they were written.
-/
namespace Sys2Proof.Machine

/-! ### Lanes and groups -/

theorem Tbl.getD_eq {α : Type} (t : Tbl α) (a : Nat) (d : α) : Tbl.getD t a d = (Tbl.get? t a).getD d := rfl

theorem State.block_onBlock_same (s : State) (b : Nat) (f : Block → Block) (h : (s.blocks.get? b).isSome = true) :
    (s.onBlock b f).block b = f (s.block b) := by
  obtain ⟨k, hk⟩ := Option.isSome_iff_exists.mp h
  simp [State.block, State.onBlock, Tbl.getD, Tbl.get?_modify, hk]

theorem State.block_onBlock_other (s : State) {b c : Nat} (f : Block → Block) (h : b ≠ c) :
    (s.onBlock b f).block c = s.block c := by
  simp [State.block, State.onBlock, Tbl.getD, Tbl.get?_modify, h]

theorem State.group_setGroup_same (s : State) (b g : Nat) (k : Group) (h : (s.blocks.get? b).isSome = true) :
    (s.setGroup b g k).group b g = k := by
  simp [State.group, State.setGroup, State.block_onBlock_same s b _ h]

theorem State.group_setGroup_other (s : State) {b g c j : Nat} (k : Group) (h : b ≠ c ∨ g ≠ j) :
    (s.setGroup b g k).group c j = s.group c j := by
  by_cases hb : b = c
  · subst hb
    have hg : g ≠ j := by rcases h with h | h <;> simp_all
    cases hs : s.blocks.get? b with
    | none => simp [State.group, State.setGroup, State.block, State.onBlock, Tbl.getD, Tbl.get?_modify, hs]
    | some k' =>
      rw [State.group, State.setGroup, State.block_onBlock_same s b _ (by simp [hs])]
      simp [State.group, Tbl.getD_set_other _ _ _ hg]
  · simp [State.group, State.setGroup, State.block_onBlock_other s _ hb]

/-- A lane after a change of the lanes of a mask. -/
theorem State.lane_onLanes_same (s : State) (b g : Nat) (m : DWord) (f : Nat → Lane → Lane) (i : Nat)
    (h : (s.blocks.get? b).isSome = true) (hi : i < (s.group b g).lanes.length) :
    (s.onLanes b g m f).lane b g i = if m.getLsbD i then f i (s.lane b g i) else s.lane b g i := by
  simp only [State.lane, State.onLanes, State.onGroup, State.group_setGroup_same s b g _ h]
  simp [List.getD, hi]

/-- A lane no change of the lanes of a mask reaches. -/
theorem State.lane_onLanes_other (s : State) {b g c j : Nat} (m : DWord) (f : Nat → Lane → Lane) (i : Nat)
    (h : b ≠ c ∨ g ≠ j) : (s.onLanes b g m f).lane c j i = s.lane c j i := by
  simp only [State.lane, State.onLanes, State.onGroup, State.group_setGroup_other s _ h]

/-! ### The checks of R97 -/

/-- An instruction that passes its checks runs its body over the executing lanes. -/
theorem run_of_mayRun {i : Instr} {s : State} (h : MayRun i s) (body : DWord → Res) :
    run i s body = finish s (wordsOf i) (body (s.execLanes i.guard)) := by
  simp [run, h.legal, h.some, h.quiet, h.indexed, h.whole]

/-- An instruction whose guard holds in no lane of its path has no effect but to be passed (R45). -/
theorem run_of_guard {i : Instr} {s : State} (hl : s.illegalHere i = false) (hm : s.execLanes i.guard = 0#64)
    (body : DWord → Res) : run i s body = .next (s.pastWords s (wordsOf i) 0#64) := by
  simp [run, hl, hm, finish, State.pastWords]

/-- An instruction that names a register outside the reservation, or stands where it may not, traps in its path (R43,
R77, R126). -/
theorem run_of_illegal {i : Instr} {s : State} (h : s.illegalHere i = true) (body : DWord → Res) :
    run i s body = .next ((s.takeTrap s.cur.blk s.cur.grp s.cur.lanes cIllegal 0#64 s.cur.pc).result .trapped) := by
  simp [run, h, finish]

theorem finish_ok (s t : State) (words : Nat) (moved : DWord) :
    finish s words (.ok t moved) = .next (s.pastWords t words moved) := rfl

theorem finish_trap (s : State) (words : Nat) (lanes : DWord) (code : Nat) (tval : DWord) :
    finish s words (.trap lanes code tval) =
      .next ((s.takeTrap s.cur.blk s.cur.grp lanes code tval s.cur.pc).result .trapped) := rfl

/-! ### The candidate execution and a teardown -/

/-- While no candidate execution is kept, an instruction is performed as it is (R230). -/
theorem State.tracked_of_none {s : State} (h : s.trace = none) (ex : Instr → State → Host.Outcome State Fault Refusal) (i : Instr) :
    s.tracked ex i = ex i s := by
  simp [State.tracked, h]

/-- A group whose context is not being torn down goes on after an issue (R338). -/
theorem State.atBoundary_of_live {s : State} {b : Nat} (h : (s.ctx (s.block b).asid).tearing = none) (g : Nat) :
    s.atBoundary b g = s := by
  simp [State.atBoundary, h]

/-- While no candidate execution is kept, no mark is made (R240). -/
theorem State.mark_of_none {s : State} (h : s.trace = none) (m : Nat → Mark) : s.mark m = s := by
  cases s; simp_all [State.mark]

end Sys2Proof.Machine
end

