-- ==== Sys2Proof/Laws/Access.lean ====
section
/-!
SUPPORT. What the checks of R150 do: an instruction whose every touch leads somewhere goes on, one with a refused touch
traps, one with a missing translation parks.
-/
namespace Sys2Proof.Machine

theorem Touch.reaches_not_protection {t : Touch} (h : t.reaches) : t.tr ≠ .protection := by
  obtain ⟨_, _, _, h, _⟩ := h; simp [h]

/-- A touch that leads to a page that is not being pulled changes nothing when it is first touched. -/
theorem State.pullTouch_of_reaches (s : State) {t : Touch} (h : t.reaches) : s.pullTouch t = (s, t) := by
  obtain ⟨loc, leaf, level, h, hm⟩ := h
  unfold State.pullTouch
  rw [h]
  cases loc with
  | mem k => simp only [hm ⟨k, rfl⟩]; rfl
  | ls b o => rfl

theorem judgeEarly_of_reaches (m : DWord) (k : Nat) {ts : List Touch} (h : ∀ t ∈ ts, t.reaches) :
    judgeEarly m k ts = none := by
  have h1 : (ts.findSome? fun t => match t.tr with
      | .protection => some (cProtection, t.va)
      | .kernelReserved => some (cKernel, t.va)
      | _ => none) = none := by
    rw [List.findSome?_eq_none_iff]
    intro t ht
    obtain ⟨_, _, _, h, _⟩ := h t ht
    simp [h]
  have h2 : (ts.filter fun t => t.tr == Tr.missing) = [] := by
    rw [List.filter_eq_nil_iff]
    intro t ht
    obtain ⟨_, _, _, h, _⟩ := h t ht
    simp [h]
  unfold judgeEarly
  split
  · next x hx => exact absurd (h1.symm.trans hx) (by simp)
  · simp [h2]

theorem judgeLate_of_reaches (s : State) (m : DWord) {ts : List Touch} (h : ∀ t ∈ ts, t.reaches) :
    judgeLate s m ts = none := by
  have h1 : findTouch ts (· == Tr.lost) = none := by
    rw [findTouch, List.find?_eq_none]
    intro t ht
    obtain ⟨_, _, _, h, _⟩ := h t ht
    simp [h]
  have h2 : findTouch ts (· == Tr.poison) = none := by
    rw [findTouch, List.find?_eq_none]
    intro t ht
    obtain ⟨_, _, _, h, _⟩ := h t ht
    simp [h]
  simp only [judgeLate, h1, h2, List.findSome?_eq_none_iff]
  intro t ht
  obtain ⟨_, _, _, h, _⟩ := h t ht
  simp [h]

theorem foldl_pullTouch_of_reaches {ts : List Touch} (h : ∀ t ∈ ts, t.reaches) (s : State) (acc : List Touch) :
    ts.foldl (fun (a : State × List Touch) t => let q := a.1.pullTouch t; (q.1, a.2 ++ [q.2])) (s, acc) =
      (s, acc ++ ts) := by
  induction ts generalizing acc with
  | nil => simp
  | cons t ts ih =>
    simp only [List.foldl_cons, State.pullTouch_of_reaches s (h t (by simp))]
    rw [ih (fun u hu => h u (by simp [hu]))]
    simp

/-- Where no touch waits, the instruction goes on. -/
theorem unlessWaits_none (s : State) {ts : List Touch} (h : ∀ t ∈ ts, t.waits = false) (go : Res) :
    unlessWaits s ts go = go := by
  have e : ts.any Touch.waits = false := by simpa using h
  simp [unlessWaits, e]

theorem Touch.reaches_not_waits {t : Touch} (h : t.reaches) : t.waits = false := by
  obtain ⟨_, _, _, h, _⟩ := h; simp [Touch.waits, h]

/-- The checks pass when every touch leads somewhere and nothing is being pulled. -/
theorem serveTouches_of_reaches (s : State) (m : DWord) (k : Nat) {ts : List Touch} (h : ∀ t ∈ ts, t.reaches)
    (go : State → List Touch → Res) :
    serveTouches s m k ts go = go (s.noteTouches ts).1 (s.noteTouches ts).2 := by
  have w : ∀ t ∈ ts, t.waits = false := fun t ht => Touch.reaches_not_waits (h t ht)
  simp only [serveTouches, judgeEarly_of_reaches m k h, pullTouches]
  rw [foldl_pullTouch_of_reaches h s [], unlessWaits_none s w]
  simp [judgeLate_of_reaches s m h, unlessWaits_none s w]

/-! ### Refusals -/

/-- A touch that step 2 of R150 lets through. -/
def Touch.allowed (t : Touch) : Prop := t.tr ≠ .protection ∧ t.tr ≠ .kernelReserved

/-- What step 2 of R150 answers of one touch. -/
def Touch.refusal (t : Touch) : Option (Nat × DWord) :=
  match t.tr with
  | .protection => some (cProtection, t.va)
  | .kernelReserved => some (cKernel, t.va)
  | _ => none

theorem Touch.refusal_of_allowed {t : Touch} (h : t.allowed) : t.refusal = none := by
  unfold Touch.refusal
  split
  · next e => exact absurd e h.1
  · next e => exact absurd e h.2
  · rfl

theorem judgeEarly_eq (m : DWord) (k : Nat) (ts : List Touch) : judgeEarly m k ts =
    match ts.findSome? Touch.refusal with
    | some (c, v) => some (.trap m c v)
    | none =>
      let misses := (ts.filter fun t => t.tr == Tr.missing).map fun t => (t.lane, t.va)
      if misses ≠ [] then some (.park m (pageEntries k misses)) else none := rfl

/-- Step 2 of R150: the first refused touch traps. -/
theorem serveTouches_refused (s : State) (m : DWord) (k : Nat) (go : State → List Touch → Res) {before after : List Touch}
    {t : Touch} {c : Nat} (hw : ∀ u ∈ before ++ t :: after, u.waits = false) (hb : ∀ u ∈ before, u.allowed)
    (ht : t.refusal = some (c, t.va)) : serveTouches s m k (before ++ t :: after) go = .trap m c t.va := by
  have h : (before ++ t :: after).findSome? Touch.refusal = some (c, t.va) := by
    rw [List.findSome?_append, List.findSome?_eq_none_iff.mpr fun u hu => Touch.refusal_of_allowed (hb u hu)]
    simp [ht]
  simp only [serveTouches, unlessWaits_none s hw, judgeEarly_eq, h]

theorem judgeEarly_allowed (m : DWord) (k : Nat) {ts : List Touch} (h : ∀ u ∈ ts, u.allowed) : judgeEarly m k ts =
    let misses := (ts.filter fun t => t.tr == Tr.missing).map fun t => (t.lane, t.va)
    if misses ≠ [] then some (.park m (pageEntries k misses)) else none := by
  rw [judgeEarly_eq, List.findSome?_eq_none_iff.mpr fun u hu => Touch.refusal_of_allowed (h u hu)]

/-- Step 3 of R150: a missing translation parks. -/
theorem serveTouches_missing (s : State) (m : DWord) (k : Nat) (go : State → List Touch → Res) {ts : List Touch}
    (hw : ∀ u ∈ ts, u.waits = false) (h : ∀ u ∈ ts, u.allowed) (hm : ∃ u ∈ ts, u.tr = .missing) : serveTouches s m k ts go =
      .park m (pageEntries k ((ts.filter fun t => t.tr == Tr.missing).map fun t => (t.lane, t.va))) := by
  obtain ⟨u, hu, e⟩ := hm
  have hne : (ts.filter fun t => t.tr == Tr.missing).map (fun t => (t.lane, t.va)) ≠ [] := by
    simp only [ne_eq, List.map_eq_nil_iff, List.filter_eq_nil_iff, not_forall]
    exact ⟨u, hu, by simp [e]⟩
  simp only [serveTouches, unlessWaits_none s hw, judgeEarly_allowed m k h, if_pos hne]

/-- Where no touch is refused or missing, the late checks decide. -/
theorem serveTouches_late (s : State) (m : DWord) (k : Nat) (go : State → List Touch → Res) {ts : List Touch}
    (hw : ∀ u ∈ ts, u.waits = false) (h : ∀ u ∈ ts, u.allowed ∧ u.tr ≠ .missing)
    (hp : ∀ u ∈ (pullTouches s ts).2, u.waits = false) {r : Res}
    (hr : judgeLate (pullTouches s ts).1 m (pullTouches s ts).2 = some r) : serveTouches s m k ts go = r := by
  have hn : (ts.filter fun t => t.tr == Tr.missing) = [] := by
    rw [List.filter_eq_nil_iff]
    exact fun u hu => by simp [(h u hu).2]
  simp only [serveTouches, unlessWaits_none s hw, judgeEarly_allowed m k fun u hu => (h u hu).1, hn, List.map_nil, ne_eq,
    not_true, if_false, unlessWaits_none _ hp, hr]

/-- Step 4 of R150: the first lost touch traps. -/
theorem judgeLate_lost (s : State) (m : DWord) {before after : List Touch} {t : Touch} (ht : t.tr = .lost)
    (hb : ∀ u ∈ before, u.tr ≠ .lost) : judgeLate s m (before ++ t :: after) = some (.trapWith s m cLost t.va) := by
  have h : findTouch (before ++ t :: after) (· == Tr.lost) = some t := by
    rw [findTouch, List.find?_append, List.find?_eq_none.mpr fun u hu => by simp [hb u hu]]
    simp [ht]
  simp [judgeLate, h]

/-- Step 5 of R150: where no touch is lost, the first poisoned one traps. -/
theorem judgeLate_poison (s : State) (m : DWord) {before after : List Touch} {t : Touch} (ht : t.tr = .poison)
    (hl : ∀ u ∈ before ++ t :: after, u.tr ≠ .lost) (hb : ∀ u ∈ before, u.tr ≠ .poison) :
    judgeLate s m (before ++ t :: after) = some (.trapWith s m cPoison t.va) := by
  have h1 : findTouch (before ++ t :: after) (· == Tr.lost) = none := by
    rw [findTouch, List.find?_eq_none]
    exact fun u hu => by simp [hl u hu]
  have h2 : findTouch (before ++ t :: after) (· == Tr.poison) = some t := by
    rw [findTouch, List.find?_append, List.find?_eq_none.mpr fun u hu => by simp [hb u hu]]
    simp [ht]
  simp [judgeLate, h1, h2]

/-! ### The order of accesses while no candidate execution is kept (R230, R240) -/

theorem State.admits_of_none {s : State} (h : s.trace = none) (zs : List Ev) : s.admits zs = true := by
  simp [State.admits, h]

theorem State.places_of_none {s : State} (h : s.trace = none) (z : Ev) : s.places z = [0] := by
  have e : s.traceLen = 0 := by simp [State.traceLen, h]
  unfold State.places
  simp only [e, State.admits_of_none h]
  split <;> rfl

/-- An access has its turn once what comes before it in its lane's order is performed. -/
theorem State.turn_of_none {s : State} (h : s.trace = none) (y : Ordered) (after : Option (Nat × Nat)) :
    s.turn y after = if s.mayGo y after then .now [0] else .wait := by
  simp only [State.turn, State.places_of_none h]
  cases s.mayGo y after <;> simp

/-- Of one place it takes that one. -/
theorem State.pick_one (s : State) (p : Nat) : s.pick (.now [p]) = p := by simp [State.pick, Nat.mod_one]

/-- A read finds what memory holds. -/
theorem State.bytesAt_of_none {s : State} (h : s.trace = none) (p : Nat) (l : Loc) (n : Nat) : s.bytesAt p l n = s.locBytes l n := by
  simp [State.bytesAt, h]

/-- Nothing is noted of an access. -/
theorem State.took_of_none {s : State} (h : s.trace = none) (since : Nat) (z : Ev) (p : Nat) : s.took since z p = s := by
  cases s; simp_all [State.took]

/-! ### Reads at issue -/

/-- No candidate execution is kept, and a lane of the path at issue, which is path A, has nothing outstanding. -/
structure State.Quiet (s : State) (lane : Nat) : Prop where
  alone : s.cur.pathB = false
  free : s.trace = none
  none_before : s.earlier s.cur.blk s.cur.grp lane s.cur.firstId = []

/-- A read of such a lane is in its order. -/
theorem State.Quiet.turn {s : State} {lane : Nat} (h : s.Quiet lane) (loc : Loc) (n : Nat) (leaf : LeafBits) :
    s.issueTurn lane loc n leaf = .now [0] := by
  have e := h.none_before
  simp [State.issueTurn, State.turn_of_none h.free, State.issueRead, State.mayGo, State.afterDone, State.partner, plainOrdered,
    holdsBack, h.alone, h.free, e]

/-- It leaves no trace of its turn. -/
theorem State.Quiet.took {s : State} {lane : Nat} (h : s.Quiet lane) (loc : Loc) (n : Nat) (leaf : LeafBits) :
    s.issueTook lane loc n leaf = s := State.took_of_none h.free _ _ _

/-- Reads of such lanes are neither held back nor behind path A. -/
theorem State.Quiet.reads {s : State} {reads : Reads} (h : ∀ r ∈ reads, s.Quiet r.1) :
    s.readBehind reads = false ∧ s.readHeld reads = false := by
  have key : ∀ p ∈ readPieces reads, s.Quiet p.1 := by
    intro p hp
    simp only [readPieces, List.mem_flatMap, List.mem_map] at hp
    obtain ⟨r, hr, q, _, rfl⟩ := hp
    exact h r hr
  constructor
  · simp only [State.readBehind, List.any_eq_false]
    exact fun p hp => by simp [State.issueBehind, (key p hp).alone]
  · simp only [State.readHeld, List.any_eq_false]
    exact fun p hp => by simp [(key p hp).turn]

end Sys2Proof.Machine
end

