-- ==== Sys2Proof/Laws/Exec.lean ====
section
/-!
SUPPORT. `exec` of each constructor is its meaning.
-/
namespace Sys2Proof.Machine

@[simp] theorem exec_blockHeader (h : Header) (s : State) : exec (.blockHeader h) s = execBlockHeader h s := rfl
@[simp] theorem exec_nop (s : State) : exec (.nop) s = execNop s := rfl
@[simp] theorem exec_iadd (f : FmtA) (s : State) : exec (.iadd f) s = execIadd f s := rfl
@[simp] theorem exec_isub (f : FmtA) (s : State) : exec (.isub f) s = execIsub f s := rfl
@[simp] theorem exec_iaddc (f : FmtA) (s : State) : exec (.iaddc f) s = execIaddc f s := rfl
@[simp] theorem exec_isubb (f : FmtA) (s : State) : exec (.isubb f) s = execIsubb f s := rfl
@[simp] theorem exec_iabs (f : FmtA) (s : State) : exec (.iabs f) s = execIabs f s := rfl
@[simp] theorem exec_ineg (f : FmtA) (s : State) : exec (.ineg f) s = execIneg f s := rfl
@[simp] theorem exec_imin (f : FmtA) (s : State) : exec (.imin f) s = execImin f s := rfl
@[simp] theorem exec_imax (f : FmtA) (s : State) : exec (.imax f) s = execImax f s := rfl
@[simp] theorem exec_iadd64 (f : FmtA) (s : State) : exec (.iadd64 f) s = execIadd64 f s := rfl
@[simp] theorem exec_imul (f : FmtA) (s : State) : exec (.imul f) s = execImul f s := rfl
@[simp] theorem exec_imulh (f : FmtA) (s : State) : exec (.imulh f) s = execImulh f s := rfl
@[simp] theorem exec_imad (f : FmtA) (s : State) : exec (.imad f) s = execImad f s := rfl
@[simp] theorem exec_imadw (signed : Bool) (f : FmtA) (s : State) : exec (.imadw signed f) s = execImadw signed f s := rfl
@[simp] theorem exec_icmp (f : FmtA) (s : State) : exec (.icmp f) s = execIcmp f s := rfl
@[simp] theorem exec_sel (w64 : Bool) (f : FmtA) (s : State) : exec (.sel w64 f) s = execSel w64 f s := rfl
@[simp] theorem exec_and (f : FmtA) (s : State) : exec (.and f) s = execAnd f s := rfl
@[simp] theorem exec_or (f : FmtA) (s : State) : exec (.or f) s = execOr f s := rfl
@[simp] theorem exec_xor (f : FmtA) (s : State) : exec (.xor f) s = execXor f s := rfl
@[simp] theorem exec_not (f : FmtA) (s : State) : exec (.not f) s = execNot f s := rfl
@[simp] theorem exec_tern (f : FmtL) (s : State) : exec (.tern f) s = execTern f s := rfl
@[simp] theorem exec_shl (f : FmtA) (s : State) : exec (.shl f) s = execShl f s := rfl
@[simp] theorem exec_shr (f : FmtA) (s : State) : exec (.shr f) s = execShr f s := rfl
@[simp] theorem exec_sar (f : FmtA) (s : State) : exec (.sar f) s = execSar f s := rfl
@[simp] theorem exec_rot (f : FmtA) (s : State) : exec (.rot f) s = execRot f s := rfl
@[simp] theorem exec_fshl (f : FmtA) (s : State) : exec (.fshl f) s = execFshl f s := rfl
@[simp] theorem exec_fshr (f : FmtA) (s : State) : exec (.fshr f) s = execFshr f s := rfl
@[simp] theorem exec_popc (f : FmtA) (s : State) : exec (.popc f) s = execPopc f s := rfl
@[simp] theorem exec_clz (f : FmtA) (s : State) : exec (.clz f) s = execClz f s := rfl
@[simp] theorem exec_ctz (f : FmtA) (s : State) : exec (.ctz f) s = execCtz f s := rfl
@[simp] theorem exec_brev (f : FmtA) (s : State) : exec (.brev f) s = execBrev f s := rfl
@[simp] theorem exec_bfx (f : FmtA) (s : State) : exec (.bfx f) s = execBfx f s := rfl
@[simp] theorem exec_bfi (f : FmtA) (s : State) : exec (.bfi f) s = execBfi f s := rfl
@[simp] theorem exec_prmb (f : FmtA) (s : State) : exec (.prmb f) s = execPrmb f s := rfl
@[simp] theorem exec_lea (f : FmtA) (s : State) : exec (.lea f) s = execLea f s := rfl
@[simp] theorem exec_fadd (f : FmtA) (s : State) : exec (.fadd f) s = execFadd f s := rfl
@[simp] theorem exec_fsub (f : FmtA) (s : State) : exec (.fsub f) s = execFsub f s := rfl
@[simp] theorem exec_fmul (f : FmtA) (s : State) : exec (.fmul f) s = execFmul f s := rfl
@[simp] theorem exec_fmin (f : FmtA) (s : State) : exec (.fmin f) s = execFmin f s := rfl
@[simp] theorem exec_fmax (f : FmtA) (s : State) : exec (.fmax f) s = execFmax f s := rfl
@[simp] theorem exec_fcmp (f : FmtA) (s : State) : exec (.fcmp f) s = execFcmp f s := rfl
@[simp] theorem exec_fscale (f : FmtA) (s : State) : exec (.fscale f) s = execFscale f s := rfl
@[simp] theorem exec_fdivf (f : FmtA) (s : State) : exec (.fdivf f) s = execFdivf f s := rfl
@[simp] theorem exec_pkadd (f : FmtA) (s : State) : exec (.pkadd f) s = execPkadd f s := rfl
@[simp] theorem exec_pkmul (f : FmtA) (s : State) : exec (.pkmul f) s = execPkmul f s := rfl
@[simp] theorem exec_ffma (f : FmtT) (s : State) : exec (.ffma f) s = execFfma f s := rfl
@[simp] theorem exec_pkfma (bh : Bool) (f : FmtT) (s : State) : exec (.pkfma bh f) s = execPkfma bh f s := rfl
@[simp] theorem exec_fclass (f : FmtA) (s : State) : exec (.fclass f) s = execFclass f s := rfl
@[simp] theorem exec_frnd (f : FmtA) (s : State) : exec (.frnd f) s = execFrnd f s := rfl
@[simp] theorem exec_fgexp (f : FmtA) (s : State) : exec (.fgexp f) s = execFgexp f s := rfl
@[simp] theorem exec_frcp (f : FmtA) (s : State) : exec (.frcp f) s = execFrcp f s := rfl
@[simp] theorem exec_frsq (f : FmtA) (s : State) : exec (.frsq f) s = execFrsq f s := rfl
@[simp] theorem exec_fsqrt (f : FmtA) (s : State) : exec (.fsqrt f) s = execFsqrt f s := rfl
@[simp] theorem exec_fex2 (f : FmtA) (s : State) : exec (.fex2 f) s = execFex2 f s := rfl
@[simp] theorem exec_flg2 (f : FmtA) (s : State) : exec (.flg2 f) s = execFlg2 f s := rfl
@[simp] theorem exec_fsin (f : FmtA) (s : State) : exec (.fsin f) s = execFsin f s := rfl
@[simp] theorem exec_fcos (f : FmtA) (s : State) : exec (.fcos f) s = execFcos f s := rfl
@[simp] theorem exec_ftanh (f : FmtA) (s : State) : exec (.ftanh f) s = execFtanh f s := rfl
@[simp] theorem exec_fcvt (f : FmtC) (s : State) : exec (.fcvt f) s = execFcvt f s := rfl
@[simp] theorem exec_f2i (f : FmtC) (s : State) : exec (.f2i f) s = execF2i f s := rfl
@[simp] theorem exec_i2f (f : FmtC) (s : State) : exec (.i2f f) s = execI2f f s := rfl
@[simp] theorem exec_qblk (f : FmtA) (s : State) : exec (.qblk f) s = execQblk f s := rfl
@[simp] theorem exec_dqblk (f : FmtA) (s : State) : exec (.dqblk f) s = execDqblk f s := rfl
@[simp] theorem exec_pack8 (f : FmtA) (s : State) : exec (.pack8 f) s = execPack8 f s := rfl
@[simp] theorem exec_split8 (f : FmtA) (s : State) : exec (.split8 f) s = execSplit8 f s := rfl
@[simp] theorem exec_plop (f : FmtA) (s : State) : exec (.plop f) s = execPlop f s := rfl
@[simp] theorem exec_pmov (f : FmtA) (s : State) : exec (.pmov f) s = execPmov f s := rfl
@[simp] theorem exec_xset (f : FmtA) (s : State) : exec (.xset f) s = execXset f s := rfl
@[simp] theorem exec_xidx (f : FmtA) (s : State) : exec (.xidx f) s = execXidx f s := rfl
@[simp] theorem exec_xadd (f : FmtA) (s : State) : exec (.xadd f) s = execXadd f s := rfl
@[simp] theorem exec_vtos (f : FmtA) (s : State) : exec (.vtos f) s = execVtos f s := rfl
@[simp] theorem exec_stov (f : FmtA) (s : State) : exec (.stov f) s = execStov f s := rfl
@[simp] theorem exec_mov (f : FmtA) (s : State) : exec (.mov f) s = execMov f s := rfl
@[simp] theorem exec_movi (f : FmtI) (s : State) : exec (.movi f) s = execMovi f s := rfl
@[simp] theorem exec_movw (f : FmtW) (s : State) : exec (.movw f) s = execMovw f s := rfl
@[simp] theorem exec_movSpecial (f : FmtA) (s : State) : exec (.movSpecial f) s = execMovSpecial f s := rfl
@[simp] theorem exec_movIndex (f : FmtA) (s : State) : exec (.movIndex f) s = execMovIndex f s := rfl
@[simp] theorem exec_qswap (f : FmtA) (s : State) : exec (.qswap f) s = execQswap f s := rfl
@[simp] theorem exec_qbcast (f : FmtA) (s : State) : exec (.qbcast f) s = execQbcast f s := rfl
@[simp] theorem exec_gshfl (f : FmtA) (s : State) : exec (.gshfl f) s = execGshfl f s := rfl
@[simp] theorem exec_vote (f : FmtA) (s : State) : exec (.vote f) s = execVote f s := rfl
@[simp] theorem exec_ballot (f : FmtA) (s : State) : exec (.ballot f) s = execBallot f s := rfl
@[simp] theorem exec_matchLanes (f : FmtA) (s : State) : exec (.matchLanes f) s = execMatchLanes f s := rfl
@[simp] theorem exec_redux (f : FmtA) (s : State) : exec (.redux f) s = execRedux f s := rfl
@[simp] theorem exec_elect (f : FmtA) (s : State) : exec (.elect f) s = execElect f s := rfl
@[simp] theorem exec_bra (f : FmtB) (s : State) : exec (.bra f) s = execBra f s := rfl
@[simp] theorem exec_brx (f : FmtB) (s : State) : exec (.brx f) s = execBrx f s := rfl
@[simp] theorem exec_call (f : FmtB) (s : State) : exec (.call f) s = execCall f s := rfl
@[simp] theorem exec_callx (f : FmtB) (s : State) : exec (.callx f) s = execCallx f s := rfl
@[simp] theorem exec_ret (f : FmtB) (s : State) : exec (.ret f) s = execRet f s := rfl
@[simp] theorem exec_exitLanes (f : FmtB) (s : State) : exec (.exitLanes f) s = execExitLanes f s := rfl
@[simp] theorem exec_yieldGroup (f : FmtB) (s : State) : exec (.yieldGroup f) s = execYieldGroup f s := rfl
@[simp] theorem exec_bar (f : FmtA) (s : State) : exec (.bar f) s = execBar f s := rfl
@[simp] theorem exec_cbar (f : FmtA) (s : State) : exec (.cbar f) s = execCbar f s := rfl
@[simp] theorem exec_waitc (f : FmtA) (s : State) : exec (.waitc f) s = execWaitc f s := rfl
@[simp] theorem exec_sleep (f : FmtA) (s : State) : exec (.sleep f) s = execSleep f s := rfl
@[simp] theorem exec_ld (sx : Bool) (f : FmtM) (s : State) : exec (.ld sx f) s = execLd sx f s := rfl
@[simp] theorem exec_st (f : FmtM) (s : State) : exec (.st f) s = execSt f s := rfl
@[simp] theorem exec_ldv (f : FmtM) (s : State) : exec (.ldv f) s = execLdv f s := rfl
@[simp] theorem exec_stv (f : FmtM) (s : State) : exec (.stv f) s = execStv f s := rfl
@[simp] theorem exec_sld (sx : Bool) (f : FmtM) (s : State) : exec (.sld sx f) s = execSld sx f s := rfl
@[simp] theorem exec_sst (f : FmtM) (s : State) : exec (.sst f) s = execSst f s := rfl
@[simp] theorem exec_atom (far : Bool) (op : BitVec 5) (f : FmtM) (s : State) : exec (.atom far op f) s = execAtom far op f s := rfl
@[simp] theorem exec_red (far : Bool) (op : BitVec 5) (f : FmtM) (s : State) : exec (.red far op f) s = execRed far op f s := rfl
@[simp] theorem exec_pref (f : FmtM) (s : State) : exec (.pref f) s = execPref f s := rfl
@[simp] theorem exec_cwb (f : FmtM) (s : State) : exec (.cwb f) s = execCwb f s := rfl
@[simp] theorem exec_cinv (f : FmtM) (s : State) : exec (.cinv f) s = execCinv f s := rfl
@[simp] theorem exec_cdisc (f : FmtM) (s : State) : exec (.cdisc f) s = execCdisc f s := rfl
@[simp] theorem exec_ipf (f : FmtM) (s : State) : exec (.ipf f) s = execIpf f s := rfl
@[simp] theorem exec_ipin (f : FmtM) (s : State) : exec (.ipin f) s = execIpin f s := rfl
@[simp] theorem exec_iunpin (f : FmtM) (s : State) : exec (.iunpin f) s = execIunpin f s := rfl
@[simp] theorem exec_fence (f : FmtM) (s : State) : exec (.fence f) s = execFence f s := rfl
@[simp] theorem exec_tcfg (f : FmtA) (s : State) : exec (.tcfg f) s = execTcfg f s := rfl
@[simp] theorem exec_omclaim (f : FmtA) (s : State) : exec (.omclaim f) s = execOmclaim f s := rfl
@[simp] theorem exec_omrel (f : FmtA) (s : State) : exec (.omrel f) s = execOmrel f s := rfl
@[simp] theorem exec_omld (isB : Bool) (f : FmtA) (s : State) : exec (.omld isB f) s = execOmld isB f s := rfl
@[simp] theorem exec_omst (isB : Bool) (f : FmtA) (s : State) : exec (.omst isB f) s = execOmst isB f s := rfl
@[simp] theorem exec_mma (f : FmtA) (s : State) : exec (.mma f) s = execMma f s := rfl
@[simp] theorem exec_acz (f : FmtA) (s : State) : exec (.acz f) s = execAcz f s := rfl
@[simp] theorem exec_acld (f : FmtA) (s : State) : exec (.acld f) s = execAcld f s := rfl
@[simp] theorem exec_acst (f : FmtA) (s : State) : exec (.acst f) s = execAcst f s := rfl
@[simp] theorem exec_acrd (f : FmtA) (s : State) : exec (.acrd f) s = execAcrd f s := rfl
@[simp] theorem exec_msave (f : FmtA) (s : State) : exec (.msave f) s = execMsave f s := rfl
@[simp] theorem exec_mres (f : FmtA) (s : State) : exec (.mres f) s = execMres f s := rfl
@[simp] theorem exec_cpy (f : FmtA) (s : State) : exec (.cpy f) s = execCpy f s := rfl
@[simp] theorem exec_cpyt (f : FmtA) (s : State) : exec (.cpyt f) s = execCpyt f s := rfl
@[simp] theorem exec_cseal (f : FmtA) (s : State) : exec (.cseal f) s = execCseal f s := rfl
@[simp] theorem exec_cwait (f : FmtA) (s : State) : exec (.cwait f) s = execCwait f s := rfl
@[simp] theorem exec_xred (f : FmtA) (s : State) : exec (.xred f) s = execXred f s := rfl
@[simp] theorem exec_spred (f : FmtA) (s : State) : exec (.spred f) s = execSpred f s := rfl
@[simp] theorem exec_esave (f : FmtA) (s : State) : exec (.esave f) s = execEsave f s := rfl
@[simp] theorem exec_eres (f : FmtA) (s : State) : exec (.eres f) s = execEres f s := rfl
@[simp] theorem exec_esc (f : FmtA) (s : State) : exec (.esc f) s = execEsc f s := rfl
@[simp] theorem exec_ldone (f : FmtA) (s : State) : exec (.ldone f) s = execLdone f s := rfl
@[simp] theorem exec_lqry (f : FmtA) (s : State) : exec (.lqry f) s = execLqry f s := rfl
@[simp] theorem exec_ldrain (f : FmtA) (s : State) : exec (.ldrain f) s = execLdrain f s := rfl
@[simp] theorem exec_trap (f : FmtI) (s : State) : exec (.trap f) s = execTrap f s := rfl
@[simp] theorem exec_bkpt (f : FmtI) (s : State) : exec (.bkpt f) s = execBkpt f s := rfl
@[simp] theorem exec_sysr (f : FmtI) (s : State) : exec (.sysr f) s = execSysr f s := rfl
@[simp] theorem exec_sysw (f : FmtI) (s : State) : exec (.sysw f) s = execSysw f s := rfl
@[simp] theorem exec_launch (f : FmtA) (s : State) : exec (.launch f) s = execLaunch f s := rfl
@[simp] theorem exec_lstat (f : FmtA) (s : State) : exec (.lstat f) s = execLstat f s := rfl
@[simp] theorem exec_rte (f : FmtA) (s : State) : exec (.rte f) s = execRte f s := rfl
@[simp] theorem exec_memoryOpComplete (op : Nat) (lanes : DWord) (s : State) : exec (.memoryOpComplete op lanes) s = execMemoryOpComplete op lanes s := rfl
@[simp] theorem exec_matrixOpBegin (core op : Nat) (s : State) : exec (.matrixOpBegin core op) s = execMatrixOpBegin core op s := rfl
@[simp] theorem exec_matrixOpComplete (core op rows : Nat) (s : State) : exec (.matrixOpComplete core op rows) s = execMatrixOpComplete core op rows s := rfl
@[simp] theorem exec_leaveGrant (die : Nat) (s : State) : exec (.leaveGrant die) s = execLeaveGrant die s := rfl
@[simp] theorem exec_copyComplete (copy n : Nat) (s : State) : exec (.copyComplete copy n) s = execCopyComplete copy n s := rfl
@[simp] theorem exec_copyFault (copy : Nat) (s : State) : exec (.copyFault copy) s = execCopyFault copy s := rfl
@[simp] theorem exec_copyFail (copy : Nat) (s : State) : exec (.copyFail copy) s = execCopyFail copy s := rfl
@[simp] theorem exec_barrierPhaseComplete (cohort : Bool) (blk bar : Nat) (s : State) : exec (.barrierPhaseComplete cohort blk bar) s = execBarrierPhaseComplete cohort blk bar s := rfl
@[simp] theorem exec_waitcTrigger (sector : Nat) (s : State) : exec (.waitcTrigger sector) s = execWaitcTrigger sector s := rfl
@[simp] theorem exec_waitcPoll (blk grp lane : Nat) (s : State) : exec (.waitcPoll blk grp lane) s = execWaitcPoll blk grp lane s := rfl
@[simp] theorem exec_sleepExpire (blk grp lane : Nat) (s : State) : exec (.sleepExpire blk grp lane) s = execSleepExpire blk grp lane s := rfl
@[simp] theorem exec_quantumExpire (blk grp : Nat) (s : State) : exec (.quantumExpire blk grp) s = execQuantumExpire blk grp s := rfl
@[simp] theorem exec_groupSwap (blk grp : Nat) (s : State) : exec (.groupSwap blk grp) s = execGroupSwap blk grp s := rfl
@[simp] theorem exec_icacheFill (blk grp : Nat) (s : State) : exec (.icacheFill blk grp) s = execIcacheFill blk grp s := rfl
@[simp] theorem exec_ringHoldExpire (core launch rung : Nat) (s : State) : exec (.ringHoldExpire core launch rung) s = execRingHoldExpire core launch rung s := rfl
@[simp] theorem exec_packedGroupStart (core launch rung : Nat) (s : State) : exec (.packedGroupStart core launch rung) s = execPackedGroupStart core launch rung s := rfl
@[simp] theorem exec_ladderDoneWrite (launch : Nat) (s : State) : exec (.ladderDoneWrite launch) s = execLadderDoneWrite launch s := rfl
@[simp] theorem exec_ownerIdleExpire (cache owner : Nat) (s : State) : exec (.ownerIdleExpire cache owner) s = execOwnerIdleExpire cache owner s := rfl
@[simp] theorem exec_launchRecord (asid queue : Nat) (s : State) : exec (.launchRecord asid queue) s = execLaunchRecord asid queue s := rfl
@[simp] theorem exec_dependenceMet (launch : Nat) (s : State) : exec (.dependenceMet launch) s = execDependenceMet launch s := rfl
@[simp] theorem exec_cohortPlace (launch : Nat) (cores : List Nat) (s : State) : exec (.cohortPlace launch cores) s = execCohortPlace launch cores s := rfl
@[simp] theorem exec_blockStart (blk : Nat) (s : State) : exec (.blockStart blk) s = execBlockStart blk s := rfl
@[simp] theorem exec_priorityAge (launch : Nat) (s : State) : exec (.priorityAge launch) s = execPriorityAge launch s := rfl
@[simp] theorem exec_blockPreempt (blk : Nat) (s : State) : exec (.blockPreempt blk) s = execBlockPreempt blk s := rfl
@[simp] theorem exec_blockRestore (blk core : Nat) (s : State) : exec (.blockRestore blk core) s = execBlockRestore blk core s := rfl
@[simp] theorem exec_blockEnd (blk : Nat) (s : State) : exec (.blockEnd blk) s = execBlockEnd blk s := rfl
@[simp] theorem exec_launchComplete (launch : Nat) (s : State) : exec (.launchComplete launch) s = execLaunchComplete launch s := rfl
@[simp] theorem exec_teardownReport (asid : Nat) (s : State) : exec (.teardownReport asid) s = execTeardownReport asid s := rfl
@[simp] theorem exec_faultEntryAppend (s : State) : exec (.faultEntryAppend) s = execFaultEntryAppend s := rfl
@[simp] theorem exec_resolveRecord (rslv : DWord) (s : State) : exec (.resolveRecord rslv) s = execResolveRecord rslv s := rfl
@[simp] theorem exec_fqheadWrite (head : DWord) (s : State) : exec (.fqheadWrite head) s = execFqheadWrite head s := rfl
@[simp] theorem exec_tinvPage (tinv : DWord) (s : State) : exec (.tinvPage tinv) s = execTinvPage tinv s := rfl
@[simp] theorem exec_tinvAsid (tinv : DWord) (s : State) : exec (.tinvAsid tinv) s = execTinvAsid tinv s := rfl
@[simp] theorem exec_tinvAll (tinv : DWord) (s : State) : exec (.tinvAll tinv) s = execTinvAll tinv s := rfl
@[simp] theorem exec_migrationActivate (n : Nat) (s : State) : exec (.migrationActivate n) s = execMigrationActivate n s := rfl
@[simp] theorem exec_migrationPull (n line : Nat) (s : State) : exec (.migrationPull n line) s = execMigrationPull n line s := rfl
@[simp] theorem exec_kresWrite (reg : Nat) (v : DWord) (s : State) : exec (.kresWrite reg v) s = execKresWrite reg v s := rfl
@[simp] theorem exec_counterClear (die ev : Nat) (s : State) : exec (.counterClear die ev) s = execCounterClear die ev s := rfl
@[simp] theorem exec_registerWrite (off : Nat) (v : DWord) (s : State) : exec (.registerWrite off v) s = execRegisterWrite off v s := rfl
@[simp] theorem exec_fenceout (agent : DWord) (s : State) : exec (.fenceout agent) s = execFenceout agent s := rfl
@[simp] theorem exec_readmit (agent : DWord) (s : State) : exec (.readmit agent) s = execReadmit agent s := rfl
@[simp] theorem exec_poollose (dom : DWord) (s : State) : exec (.poollose dom) s = execPoollose dom s := rfl
@[simp] theorem exec_poolset (range base size dom : DWord) (s : State) : exec (.poolset range base size dom) s = execPoolset range base size dom s := rfl
@[simp] theorem exec_halt (die : DWord) (s : State) : exec (.halt die) s = execHalt die s := rfl
@[simp] theorem exec_resume (die : DWord) (s : State) : exec (.resume die) s = execResume die s := rfl
@[simp] theorem exec_fidset (fid : DWord) (s : State) : exec (.fidset fid) s = execFidset fid s := rfl
@[simp] theorem exec_routeset (fid mask : DWord) (s : State) : exec (.routeset fid mask) s = execRouteset fid mask s := rfl
@[simp] theorem exec_winset (win desc : DWord) (s : State) : exec (.winset win desc) s = execWinset win desc s := rfl
@[simp] theorem exec_regset (region entry : DWord) (s : State) : exec (.regset region entry) s = execRegset region entry s := rfl
@[simp] theorem exec_revoke (region cword : DWord) (s : State) : exec (.revoke region cword) s = execRevoke region cword s := rfl
@[simp] theorem exec_scrub (base len : DWord) (s : State) : exec (.scrub base len) s = execScrub base len s := rfl
@[simp] theorem exec_tclimit (x y on : DWord) (s : State) : exec (.tclimit x y on) s = execTclimit x y on s := rfl
@[simp] theorem exec_regtable (rbase rcount cbase ccount : DWord) (s : State) : exec (.regtable rbase rcount cbase ccount) s = execRegtable rbase rcount cbase ccount s := rfl
@[simp] theorem exec_ctxcreate (desc : DWord) (s : State) : exec (.ctxcreate desc) s = execCtxcreate desc s := rfl
@[simp] theorem exec_ctxtear (asid report : DWord) (s : State) : exec (.ctxtear asid report) s = execCtxtear asid report s := rfl
@[simp] theorem exec_attest (nonce out : DWord) (s : State) : exec (.attest nonce out) s = execAttest nonce out s := rfl
@[simp] theorem exec_rd (m : Nat) (s : State) : exec (.rd m) s = execRd m s := rfl
@[simp] theorem exec_own (m : Nat) (s : State) : exec (.own m) s = execOwn m s := rfl
@[simp] theorem exec_data (m : Nat) (s : State) : exec (.data m) s = execData m s := rfl
@[simp] theorem exec_nh (m : Nat) (s : State) : exec (.nh m) s = execNh m s := rfl
@[simp] theorem exec_inv (m : Nat) (s : State) : exec (.inv m) s = execInv m s := rfl
@[simp] theorem exec_ack (m : Nat) (s : State) : exec (.ack m) s = execAck m s := rfl
@[simp] theorem exec_prune (m : Nat) (s : State) : exec (.prune m) s = execPrune m s := rfl
@[simp] theorem exec_pack (m : Nat) (s : State) : exec (.pack m) s = execPack m s := rfl
@[simp] theorem exec_unlink (m : Nat) (s : State) : exec (.unlink m) s = execUnlink m s := rfl
@[simp] theorem exec_wb (m : Nat) (s : State) : exec (.wb m) s = execWb m s := rfl
@[simp] theorem exec_wba (m : Nat) (s : State) : exec (.wba m) s = execWba m s := rfl
@[simp] theorem exec_refuse (m : Nat) (s : State) : exec (.refuse m) s = execRefuse m s := rfl
@[simp] theorem exec_malformedMessage (typ : BitVec 5) (x y : Nat) (s : State) : exec (.malformedMessage typ x y) s = execMalformedMessage typ x y s := rfl
@[simp] theorem exec_cxlSnoop (k : Snoop) (sectors : List Nat) (s : State) : exec (.cxlSnoop k sectors) s = execCxlSnoop k sectors s := rfl
@[simp] theorem exec_sliceRetention (die slice : Nat) (s : State) : exec (.sliceRetention die slice) s = execSliceRetention die slice s := rfl
@[simp] theorem exec_agentSilent (req : Nat) (s : State) : exec (.agentSilent req) s = execAgentSilent req s := rfl
@[simp] theorem exec_poolSilent (req : Nat) (s : State) : exec (.poolSilent req) s = execPoolSilent req s := rfl
@[simp] theorem exec_poolPortLoss (c : PoolLoss) (s : State) : exec (.poolPortLoss c) s = execPoolPortLoss c s := rfl
@[simp] theorem exec_linkDown (link : Nat) (s : State) : exec (.linkDown link) s = execLinkDown link s := rfl
@[simp] theorem exec_linkUp (link : Nat) (s : State) : exec (.linkUp link) s = execLinkUp link s := rfl
@[simp] theorem exec_prawellPacket (p : Packet) (s : State) : exec (.prawellPacket p) s = execPrawellPacket p s := rfl
@[simp] theorem exec_contributionApply (c : Nat) (s : State) : exec (.contributionApply c) s = execContributionApply c s := rfl
@[simp] theorem exec_remoteMessage (m : RemoteMsg) (s : State) : exec (.remoteMessage m) s = execRemoteMessage m s := rfl
@[simp] theorem exec_remoteWriteTimeout (conn seq : Nat) (s : State) : exec (.remoteWriteTimeout conn seq) s = execRemoteWriteTimeout conn seq s := rfl
@[simp] theorem exec_reset (s : State) : exec (.reset) s = execReset s := rfl
@[simp] theorem exec_dieBringupDone (agent : Nat) (passed : Bool) (s : State) : exec (.dieBringupDone agent passed) s = execDieBringupDone agent passed s := rfl
@[simp] theorem exec_channelTrained (ch : Nat) (full ok : Bool) (s : State) : exec (.channelTrained ch full ok) s = execChannelTrained ch full ok s := rfl
@[simp] theorem exec_serviceLevelStep (s : State) : exec (.serviceLevelStep) s = execServiceLevelStep s := rfl
@[simp] theorem exec_eccCorrected (die : Nat) (s : State) : exec (.eccCorrected die) s = execEccCorrected die s := rfl
@[simp] theorem exec_eccUncorrectable (at_ : EccPlace) (s : State) : exec (.eccUncorrectable at_) s = execEccUncorrectable at_ s := rfl
@[simp] theorem exec_ideKeyExchange (pool : Bool) (key : DWord) (s : State) : exec (.ideKeyExchange pool key) s = execIdeKeyExchange pool key s := rfl
@[simp] theorem exec_cxlMemAccess (pa : Nat) (write : Option (List Byte)) (n : Nat) (s : State) : exec (.cxlMemAccess pa write n) s = execCxlMemAccess pa write n s := rfl
@[simp] theorem exec_cxlResponse (req : Nat) (exclusive poisoned : Bool) (data : List Byte) (s : State) : exec (.cxlResponse req exclusive poisoned data) s = execCxlResponse req exclusive poisoned data s := rfl
@[simp] theorem exec_remoteMessageFinish (id : Nat) (s : State) : exec (.remoteMessageFinish id) s = execRemoteMessageFinish id s := rfl
@[simp] theorem exec_flitCrcFail (link : Nat) (s : State) : exec (.flitCrcFail link) s = execFlitCrcFail link s := rfl

/-! ### The guard of each instruction word (R45) -/

@[simp] theorem guard_iadd (f : FmtA) : (Instr.iadd f).guard = f.guard := rfl
@[simp] theorem guard_isub (f : FmtA) : (Instr.isub f).guard = f.guard := rfl
@[simp] theorem guard_iaddc (f : FmtA) : (Instr.iaddc f).guard = f.guard := rfl
@[simp] theorem guard_isubb (f : FmtA) : (Instr.isubb f).guard = f.guard := rfl
@[simp] theorem guard_iabs (f : FmtA) : (Instr.iabs f).guard = f.guard := rfl
@[simp] theorem guard_ineg (f : FmtA) : (Instr.ineg f).guard = f.guard := rfl
@[simp] theorem guard_imin (f : FmtA) : (Instr.imin f).guard = f.guard := rfl
@[simp] theorem guard_imax (f : FmtA) : (Instr.imax f).guard = f.guard := rfl
@[simp] theorem guard_iadd64 (f : FmtA) : (Instr.iadd64 f).guard = f.guard := rfl
@[simp] theorem guard_imul (f : FmtA) : (Instr.imul f).guard = f.guard := rfl
@[simp] theorem guard_imulh (f : FmtA) : (Instr.imulh f).guard = f.guard := rfl
@[simp] theorem guard_imad (f : FmtA) : (Instr.imad f).guard = f.guard := rfl
@[simp] theorem guard_imadw (signed : Bool) (f : FmtA) : (Instr.imadw signed f).guard = f.guard := rfl
@[simp] theorem guard_icmp (f : FmtA) : (Instr.icmp f).guard = f.guard := rfl
@[simp] theorem guard_sel (w64 : Bool) (f : FmtA) : (Instr.sel w64 f).guard = f.guard := rfl
@[simp] theorem guard_and (f : FmtA) : (Instr.and f).guard = f.guard := rfl
@[simp] theorem guard_or (f : FmtA) : (Instr.or f).guard = f.guard := rfl
@[simp] theorem guard_xor (f : FmtA) : (Instr.xor f).guard = f.guard := rfl
@[simp] theorem guard_not (f : FmtA) : (Instr.not f).guard = f.guard := rfl
@[simp] theorem guard_tern (f : FmtL) : (Instr.tern f).guard = f.guard := rfl
@[simp] theorem guard_shl (f : FmtA) : (Instr.shl f).guard = f.guard := rfl
@[simp] theorem guard_shr (f : FmtA) : (Instr.shr f).guard = f.guard := rfl
@[simp] theorem guard_sar (f : FmtA) : (Instr.sar f).guard = f.guard := rfl
@[simp] theorem guard_rot (f : FmtA) : (Instr.rot f).guard = f.guard := rfl
@[simp] theorem guard_fshl (f : FmtA) : (Instr.fshl f).guard = f.guard := rfl
@[simp] theorem guard_fshr (f : FmtA) : (Instr.fshr f).guard = f.guard := rfl
@[simp] theorem guard_popc (f : FmtA) : (Instr.popc f).guard = f.guard := rfl
@[simp] theorem guard_clz (f : FmtA) : (Instr.clz f).guard = f.guard := rfl
@[simp] theorem guard_ctz (f : FmtA) : (Instr.ctz f).guard = f.guard := rfl
@[simp] theorem guard_brev (f : FmtA) : (Instr.brev f).guard = f.guard := rfl
@[simp] theorem guard_bfx (f : FmtA) : (Instr.bfx f).guard = f.guard := rfl
@[simp] theorem guard_bfi (f : FmtA) : (Instr.bfi f).guard = f.guard := rfl
@[simp] theorem guard_prmb (f : FmtA) : (Instr.prmb f).guard = f.guard := rfl
@[simp] theorem guard_lea (f : FmtA) : (Instr.lea f).guard = f.guard := rfl
@[simp] theorem guard_fadd (f : FmtA) : (Instr.fadd f).guard = f.guard := rfl
@[simp] theorem guard_fsub (f : FmtA) : (Instr.fsub f).guard = f.guard := rfl
@[simp] theorem guard_fmul (f : FmtA) : (Instr.fmul f).guard = f.guard := rfl
@[simp] theorem guard_fmin (f : FmtA) : (Instr.fmin f).guard = f.guard := rfl
@[simp] theorem guard_fmax (f : FmtA) : (Instr.fmax f).guard = f.guard := rfl
@[simp] theorem guard_fcmp (f : FmtA) : (Instr.fcmp f).guard = f.guard := rfl
@[simp] theorem guard_fscale (f : FmtA) : (Instr.fscale f).guard = f.guard := rfl
@[simp] theorem guard_fdivf (f : FmtA) : (Instr.fdivf f).guard = f.guard := rfl
@[simp] theorem guard_pkadd (f : FmtA) : (Instr.pkadd f).guard = f.guard := rfl
@[simp] theorem guard_pkmul (f : FmtA) : (Instr.pkmul f).guard = f.guard := rfl
@[simp] theorem guard_ffma (f : FmtT) : (Instr.ffma f).guard = f.f.guard := rfl
@[simp] theorem guard_pkfma (bh : Bool) (f : FmtT) : (Instr.pkfma bh f).guard = f.f.guard := rfl
@[simp] theorem guard_fclass (f : FmtA) : (Instr.fclass f).guard = f.guard := rfl
@[simp] theorem guard_frnd (f : FmtA) : (Instr.frnd f).guard = f.guard := rfl
@[simp] theorem guard_fgexp (f : FmtA) : (Instr.fgexp f).guard = f.guard := rfl
@[simp] theorem guard_frcp (f : FmtA) : (Instr.frcp f).guard = f.guard := rfl
@[simp] theorem guard_frsq (f : FmtA) : (Instr.frsq f).guard = f.guard := rfl
@[simp] theorem guard_fsqrt (f : FmtA) : (Instr.fsqrt f).guard = f.guard := rfl
@[simp] theorem guard_fex2 (f : FmtA) : (Instr.fex2 f).guard = f.guard := rfl
@[simp] theorem guard_flg2 (f : FmtA) : (Instr.flg2 f).guard = f.guard := rfl
@[simp] theorem guard_fsin (f : FmtA) : (Instr.fsin f).guard = f.guard := rfl
@[simp] theorem guard_fcos (f : FmtA) : (Instr.fcos f).guard = f.guard := rfl
@[simp] theorem guard_ftanh (f : FmtA) : (Instr.ftanh f).guard = f.guard := rfl
@[simp] theorem guard_fcvt (f : FmtC) : (Instr.fcvt f).guard = f.f.guard := rfl
@[simp] theorem guard_f2i (f : FmtC) : (Instr.f2i f).guard = f.f.guard := rfl
@[simp] theorem guard_i2f (f : FmtC) : (Instr.i2f f).guard = f.f.guard := rfl
@[simp] theorem guard_qblk (f : FmtA) : (Instr.qblk f).guard = f.guard := rfl
@[simp] theorem guard_dqblk (f : FmtA) : (Instr.dqblk f).guard = f.guard := rfl
@[simp] theorem guard_pack8 (f : FmtA) : (Instr.pack8 f).guard = f.guard := rfl
@[simp] theorem guard_split8 (f : FmtA) : (Instr.split8 f).guard = f.guard := rfl
@[simp] theorem guard_plop (f : FmtA) : (Instr.plop f).guard = f.guard := rfl
@[simp] theorem guard_pmov (f : FmtA) : (Instr.pmov f).guard = f.guard := rfl
@[simp] theorem guard_xset (f : FmtA) : (Instr.xset f).guard = f.guard := rfl
@[simp] theorem guard_xidx (f : FmtA) : (Instr.xidx f).guard = f.guard := rfl
@[simp] theorem guard_xadd (f : FmtA) : (Instr.xadd f).guard = f.guard := rfl
@[simp] theorem guard_vtos (f : FmtA) : (Instr.vtos f).guard = f.guard := rfl
@[simp] theorem guard_stov (f : FmtA) : (Instr.stov f).guard = f.guard := rfl
@[simp] theorem guard_mov (f : FmtA) : (Instr.mov f).guard = f.guard := rfl
@[simp] theorem guard_movi (f : FmtI) : (Instr.movi f).guard = f.guard := rfl
@[simp] theorem guard_movw (f : FmtW) : (Instr.movw f).guard = f.guard := rfl
@[simp] theorem guard_movSpecial (f : FmtA) : (Instr.movSpecial f).guard = f.guard := rfl
@[simp] theorem guard_movIndex (f : FmtA) : (Instr.movIndex f).guard = f.guard := rfl
@[simp] theorem guard_qswap (f : FmtA) : (Instr.qswap f).guard = f.guard := rfl
@[simp] theorem guard_qbcast (f : FmtA) : (Instr.qbcast f).guard = f.guard := rfl
@[simp] theorem guard_gshfl (f : FmtA) : (Instr.gshfl f).guard = f.guard := rfl
@[simp] theorem guard_vote (f : FmtA) : (Instr.vote f).guard = f.guard := rfl
@[simp] theorem guard_ballot (f : FmtA) : (Instr.ballot f).guard = f.guard := rfl
@[simp] theorem guard_matchLanes (f : FmtA) : (Instr.matchLanes f).guard = f.guard := rfl
@[simp] theorem guard_redux (f : FmtA) : (Instr.redux f).guard = f.guard := rfl
@[simp] theorem guard_elect (f : FmtA) : (Instr.elect f).guard = f.guard := rfl
@[simp] theorem guard_bra (f : FmtB) : (Instr.bra f).guard = f.guard := rfl
@[simp] theorem guard_brx (f : FmtB) : (Instr.brx f).guard = f.guard := rfl
@[simp] theorem guard_call (f : FmtB) : (Instr.call f).guard = f.guard := rfl
@[simp] theorem guard_callx (f : FmtB) : (Instr.callx f).guard = f.guard := rfl
@[simp] theorem guard_ret (f : FmtB) : (Instr.ret f).guard = f.guard := rfl
@[simp] theorem guard_exitLanes (f : FmtB) : (Instr.exitLanes f).guard = f.guard := rfl
@[simp] theorem guard_yieldGroup (f : FmtB) : (Instr.yieldGroup f).guard = f.guard := rfl
@[simp] theorem guard_bar (f : FmtA) : (Instr.bar f).guard = f.guard := rfl
@[simp] theorem guard_cbar (f : FmtA) : (Instr.cbar f).guard = f.guard := rfl
@[simp] theorem guard_waitc (f : FmtA) : (Instr.waitc f).guard = f.guard := rfl
@[simp] theorem guard_sleep (f : FmtA) : (Instr.sleep f).guard = f.guard := rfl
@[simp] theorem guard_ld (sx : Bool) (f : FmtM) : (Instr.ld sx f).guard = f.guard := rfl
@[simp] theorem guard_st (f : FmtM) : (Instr.st f).guard = f.guard := rfl
@[simp] theorem guard_ldv (f : FmtM) : (Instr.ldv f).guard = f.guard := rfl
@[simp] theorem guard_stv (f : FmtM) : (Instr.stv f).guard = f.guard := rfl
@[simp] theorem guard_sld (sx : Bool) (f : FmtM) : (Instr.sld sx f).guard = f.guard := rfl
@[simp] theorem guard_sst (f : FmtM) : (Instr.sst f).guard = f.guard := rfl
@[simp] theorem guard_atom (far : Bool) (op : BitVec 5) (f : FmtM) : (Instr.atom far op f).guard = f.guard := rfl
@[simp] theorem guard_red (far : Bool) (op : BitVec 5) (f : FmtM) : (Instr.red far op f).guard = f.guard := rfl
@[simp] theorem guard_pref (f : FmtM) : (Instr.pref f).guard = f.guard := rfl
@[simp] theorem guard_cwb (f : FmtM) : (Instr.cwb f).guard = f.guard := rfl
@[simp] theorem guard_cinv (f : FmtM) : (Instr.cinv f).guard = f.guard := rfl
@[simp] theorem guard_cdisc (f : FmtM) : (Instr.cdisc f).guard = f.guard := rfl
@[simp] theorem guard_ipf (f : FmtM) : (Instr.ipf f).guard = f.guard := rfl
@[simp] theorem guard_ipin (f : FmtM) : (Instr.ipin f).guard = f.guard := rfl
@[simp] theorem guard_iunpin (f : FmtM) : (Instr.iunpin f).guard = f.guard := rfl
@[simp] theorem guard_fence (f : FmtM) : (Instr.fence f).guard = f.guard := rfl
@[simp] theorem guard_tcfg (f : FmtA) : (Instr.tcfg f).guard = f.guard := rfl
@[simp] theorem guard_omclaim (f : FmtA) : (Instr.omclaim f).guard = f.guard := rfl
@[simp] theorem guard_omrel (f : FmtA) : (Instr.omrel f).guard = f.guard := rfl
@[simp] theorem guard_omld (isB : Bool) (f : FmtA) : (Instr.omld isB f).guard = f.guard := rfl
@[simp] theorem guard_omst (isB : Bool) (f : FmtA) : (Instr.omst isB f).guard = f.guard := rfl
@[simp] theorem guard_mma (f : FmtA) : (Instr.mma f).guard = f.guard := rfl
@[simp] theorem guard_acz (f : FmtA) : (Instr.acz f).guard = f.guard := rfl
@[simp] theorem guard_acld (f : FmtA) : (Instr.acld f).guard = f.guard := rfl
@[simp] theorem guard_acst (f : FmtA) : (Instr.acst f).guard = f.guard := rfl
@[simp] theorem guard_acrd (f : FmtA) : (Instr.acrd f).guard = f.guard := rfl
@[simp] theorem guard_msave (f : FmtA) : (Instr.msave f).guard = f.guard := rfl
@[simp] theorem guard_mres (f : FmtA) : (Instr.mres f).guard = f.guard := rfl
@[simp] theorem guard_cpy (f : FmtA) : (Instr.cpy f).guard = f.guard := rfl
@[simp] theorem guard_cpyt (f : FmtA) : (Instr.cpyt f).guard = f.guard := rfl
@[simp] theorem guard_cseal (f : FmtA) : (Instr.cseal f).guard = f.guard := rfl
@[simp] theorem guard_cwait (f : FmtA) : (Instr.cwait f).guard = f.guard := rfl
@[simp] theorem guard_xred (f : FmtA) : (Instr.xred f).guard = f.guard := rfl
@[simp] theorem guard_spred (f : FmtA) : (Instr.spred f).guard = f.guard := rfl
@[simp] theorem guard_esave (f : FmtA) : (Instr.esave f).guard = f.guard := rfl
@[simp] theorem guard_eres (f : FmtA) : (Instr.eres f).guard = f.guard := rfl
@[simp] theorem guard_esc (f : FmtA) : (Instr.esc f).guard = f.guard := rfl
@[simp] theorem guard_ldone (f : FmtA) : (Instr.ldone f).guard = f.guard := rfl
@[simp] theorem guard_lqry (f : FmtA) : (Instr.lqry f).guard = f.guard := rfl
@[simp] theorem guard_ldrain (f : FmtA) : (Instr.ldrain f).guard = f.guard := rfl
@[simp] theorem guard_trap (f : FmtI) : (Instr.trap f).guard = f.guard := rfl
@[simp] theorem guard_bkpt (f : FmtI) : (Instr.bkpt f).guard = f.guard := rfl
@[simp] theorem guard_sysr (f : FmtI) : (Instr.sysr f).guard = f.guard := rfl
@[simp] theorem guard_sysw (f : FmtI) : (Instr.sysw f).guard = f.guard := rfl
@[simp] theorem guard_launch (f : FmtA) : (Instr.launch f).guard = f.guard := rfl
@[simp] theorem guard_lstat (f : FmtA) : (Instr.lstat f).guard = f.guard := rfl
@[simp] theorem guard_rte (f : FmtA) : (Instr.rte f).guard = f.guard := rfl

end Sys2Proof.Machine
end

