-- ==== Sys2Proof/Laws/Memory.lean ====
section
/-!
SUPPORT. What the operations over memory do: each keeps the canonical form of the stores; a byte reads as it was last
written; a write leaves every other byte as it was.
-/
namespace Sys2Proof.Machine

theorem State.wf_iff (s : State) : s.wf = true ↔
    s.mem.wf = true ∧ Cells.wf s.poison = true ∧ Cells.wf s.dead = true ∧ Cells.wf s.counters = true ∧
      Cells.wf s.mesh.sect = true := by
  simp [State.wf, and_assoc]

theorem State.reset_wf : State.reset.wf = true := by decide

/-- A state that agrees on the stores is in the canonical form if the other is. -/
theorem State.wf_congr {s t : State} (hs : s.wf = true) (h1 : t.mem = s.mem) (h2 : t.poison = s.poison)
    (h3 : t.dead = s.dead) (h4 : t.counters = s.counters) (h5 : t.mesh.sect = s.mesh.sect) : t.wf = true := by
  rw [State.wf_iff] at *
  rw [h1, h2, h3, h4, h5]
  exact hs

theorem State.wf_setMemByte {s : State} (key : Nat) (b : Byte) (h : s.wf = true) : (s.setMemByte key b).wf = true := by
  rw [State.wf_iff] at *
  exact ⟨Memory.wf_set _ _ _ h.1, h.2.1, Cells.wf_set _ _ _ h.2.2.1, h.2.2.2⟩

theorem State.wf_record {s : State} (l : Loc) (n : Nat) (h : s.wf = true) : (s.record l n).wf = true :=
  State.wf_congr h rfl rfl rfl rfl rfl

theorem State.wf_putMemBytes {s : State} (key : Nat) (bs : List Byte) (h : s.wf = true) :
    (s.putMemBytes key bs).wf = true := by
  induction bs generalizing s key with
  | nil => exact h
  | cons b bs ih => exact ih (key + 1) (State.wf_setMemByte key b h)

theorem State.wf_setMemBytes {s : State} (key : Nat) (bs : List Byte) (h : s.wf = true) :
    (s.setMemBytes key bs).wf = true := State.wf_putMemBytes key bs (State.wf_record (.mem key) bs.length h)

theorem State.wf_killSector {s : State} (sector : Nat) (h : s.wf = true) : (s.killSector sector).wf = true := by
  rw [State.wf_iff] at *
  exact ⟨h.1, h.2.1, Cells.wf_set s.dead sector (BitVec.allOnes 64) h.2.2.1, h.2.2.2⟩

theorem State.wf_setPoison {s : State} (sector : Nat) (b : Bool) (h : s.wf = true) : (s.setPoison sector b).wf = true := by
  rw [State.wf_iff] at *
  exact ⟨h.1, Cells.wf_set _ _ _ h.2.1, h.2.2⟩

theorem State.wf_count {s : State} (die ev n : Nat) (h : s.wf = true) : (s.count die ev n).wf = true := by
  rw [State.wf_iff] at *
  exact ⟨h.1, h.2.1, h.2.2.1, Cells.wf_set _ _ _ h.2.2.2.1, h.2.2.2.2⟩

theorem State.wf_setSect {s : State} (die sector st : Nat) (h : s.wf = true) : (s.setSect die sector st).wf = true := by
  rw [State.wf_iff] at *
  exact ⟨h.1, h.2.1, h.2.2.1, h.2.2.2.1, Cells.wf_set _ _ _ h.2.2.2.2⟩

/-- Parts of the device that hold no store may change freely. -/
theorem State.wf_onBlock {s : State} (b : Nat) (f : Block → Block) (h : s.wf = true) : (s.onBlock b f).wf = true :=
  State.wf_congr h rfl rfl rfl rfl rfl

theorem State.wf_reach {s : State} (k : Nat) (h : s.wf = true) : (s.reach k).wf = true :=
  State.wf_congr h rfl rfl rfl rfl rfl

theorem State.wf_foldl_reach (f : Nat → Nat) (ks : List Nat) {s : State} (h : s.wf = true) :
    (ks.foldl (fun t i => t.reach (f i)) s).wf = true := by
  induction ks generalizing s with
  | nil => exact h
  | cons k ks ih => exact ih (State.wf_reach (f k) h)

theorem State.wf_setLoc {s : State} (l : Loc) (bs : List Byte) (h : s.wf = true) : (s.setLoc l bs).wf = true := by
  cases l with
  | mem k => exact State.wf_setMemBytes k bs h
  | ls b o => exact State.wf_foldl_reach _ _ (State.wf_onBlock b _ (State.wf_record _ _ h))

/-! ### Reading after writing -/

theorem State.isDead_setMemByte (s : State) (key a : Nat) (b : Byte) :
    (s.setMemByte key b).isDead a = (decide (a ≠ key) && s.isDead a) := by
  unfold State.isDead State.setMemByte sectorOf
  simp only [Cells.get_set]
  by_cases hq : key / 64 = a / 64
  · rw [if_pos hq, hq]
    by_cases ha : a = key
    · subst ha
      have : a % 64 < 64 := Nat.mod_lt _ (by decide)
      simp [this]
    · have h1 : a % 64 < 64 := Nat.mod_lt _ (by decide)
      have h2 : a % 64 ≠ key % 64 := by omega
      by_cases h3 : a % 64 < key % 64
      · simp [ha, h1, h3]
      · have h4 : a % 64 - key % 64 ≠ 0 := by omega
        simp [ha, h1, h3, h4]
  · have ha : a ≠ key := by rintro rfl; exact hq rfl
    simp [hq, ha]

/-- R146, R156: a byte reads as it was written, and the write leaves every other byte as it was. -/
theorem State.memByte_setMemByte (s : State) (key a : Nat) (b : Byte) :
    (s.setMemByte key b).memByte a = if a = key then b else s.memByte a := by
  unfold State.memByte
  rw [State.isDead_setMemByte]
  by_cases h : a = key
  · subst h
    simp [State.setMemByte, Memory.get_set]
  · have h' : ¬ key = a := fun e => h e.symm
    simp [h, h', State.setMemByte, Memory.get_set]

theorem State.memByte_putMemBytes_other (s : State) (key a : Nat) (bs : List Byte)
    (h : a < key ∨ key + bs.length ≤ a) : (s.putMemBytes key bs).memByte a = s.memByte a := by
  induction bs generalizing s key with
  | nil => rfl
  | cons b bs ih =>
    simp only [List.length_cons] at h
    rw [State.putMemBytes, ih _ _ (by omega), State.memByte_setMemByte, if_neg (by omega)]

theorem State.memByte_putMemBytes (s : State) (key i : Nat) (bs : List Byte) (h : i < bs.length) :
    (s.putMemBytes key bs).memByte (key + i) = bs[i] := by
  induction bs generalizing s key i with
  | nil => simp at h
  | cons b bs ih =>
    cases i with
    | zero =>
      rw [State.putMemBytes, State.memByte_putMemBytes_other _ _ _ _ (by omega), State.memByte_setMemByte]
      simp
    | succ i =>
      have := ih (s.setMemByte key b) (key + 1) i (by simpa using h)
      rw [State.putMemBytes]
      simpa [Nat.add_assoc, Nat.add_comm 1 i] using this

theorem State.isDead_putMemBytes_other (s : State) (key a : Nat) (bs : List Byte)
    (h : a < key ∨ key + bs.length ≤ a) : (s.putMemBytes key bs).isDead a = s.isDead a := by
  induction bs generalizing s key with
  | nil => rfl
  | cons b bs ih =>
    simp only [List.length_cons] at h
    have : a ≠ key := by omega
    rw [State.putMemBytes, ih _ _ (by omega), State.isDead_setMemByte]
    simp [this]

/-! What is noted of a write changes no byte. -/

theorem State.memByte_record (s : State) (l : Loc) (n a : Nat) : (s.record l n).memByte a = s.memByte a := rfl

theorem State.memByte_setMemBytes_other (s : State) (key a : Nat) (bs : List Byte)
    (h : a < key ∨ key + bs.length ≤ a) : (s.setMemBytes key bs).memByte a = s.memByte a :=
  State.memByte_putMemBytes_other _ key a bs h

theorem State.memByte_setMemBytes (s : State) (key i : Nat) (bs : List Byte) (h : i < bs.length) :
    (s.setMemBytes key bs).memByte (key + i) = bs[i] := State.memByte_putMemBytes _ key i bs h

theorem State.isDead_setMemBytes_other (s : State) (key a : Nat) (bs : List Byte)
    (h : a < key ∨ key + bs.length ≤ a) : (s.setMemBytes key bs).isDead a = s.isDead a :=
  State.isDead_putMemBytes_other _ key a bs h

end Sys2Proof.Machine
end

