-- ==== Sys2Proof/Tests/Slice0.lean ====
section
/-!
SUPPORT. Tests: words written out from the formats decode to their instructions, each check of the decoder refuses an
ill-formed term, single steps give the values the manual's rules give by hand, and for every statement about the
device a state and operands meet its hypotheses.
-/
namespace Sys2Proof.Tests

open Sys2Proof Sys2Proof.Machine

/- One theorem after the other: a kernel evaluation waits for those before it, and each one that waits takes a thread. -/
set_option Elab.async false

/-! ### Small terms and states -/

/-- MD with a type, and what stands below it (R87). -/
def md (ty : Nat) (rm : Nat := 0) (low : Nat := 0) : Fld := BitVec.ofNat 10 (64 * ty + 8 * rm + low)

/-- A Format A instruction without a guard. -/
def fa (d a b : Nat) (c : Fld) (bi : Bool := false) (u : Bool := false) (xs : Nat := 0) : FmtA :=
  { guard := 0x7F#8, d := BitVec.ofNat 10 d, a := BitVec.ofNat 10 a, b := BitVec.ofNat 10 b, c := c, bi := bi
    xs := BitVec.ofNat 2 xs, u := u }

def ft (d a b c rm : Nat) : FmtT := { f := fa d a b (BitVec.ofNat 10 c), ftz := false, rm := BitVec.ofNat 3 rm }
def fl (d a b c lut : Nat) : FmtL :=
  { guard := 0x7F#8, d := BitVec.ofNat 10 d, a := BitVec.ofNat 10 a, b := BitVec.ofNat 10 b, c := BitVec.ofNat 10 c
    lut := BitVec.ofNat 8 lut, u := false }
def fc (d a tyd src rm : Nat) : FmtC := { f := fa d a 0 (BitVec.ofNat 10 (32 * tyd + 4 * rm)), src := BitVec.ofNat 5 src }
def fi (d imm : Nat) (u : Bool := false) : FmtI :=
  { guard := 0x7F#8, d := BitVec.ofNat 10 d, imm := BitVec.ofNat 32 imm, u := u }
def fw (d : Nat) (imm : DWord) : FmtW := { guard := 0x7F#8, d := BitVec.ofNat 10 d, u := false, imm := imm }
def fb (off a : Nat) : FmtB := { guard := 0x7F#8, off := BitVec.ofNat 32 off, a := BitVec.ofNat 10 a }
def fm (d a b : Nat) (wid : Nat := 2) (ord scope nud : Nat := 0) (l : Bool := false) : FmtM :=
  { guard := 0x7F#8, d := BitVec.ofNat 10 d, a := BitVec.ofNat 10 a, b := BitVec.ofNat 10 b, nud := BitVec.ofNat 4 nud
    l := l, scope := BitVec.ofNat 3 scope, ord := BitVec.ofNat 2 ord, wid := BitVec.ofNat 3 wid, fs := false }

/-- A lane inside the block at 0x1000, with registers and predicates. -/
def lane (v : List (Nat × Word)) (p : BitVec 96 := 0#96) : Lane :=
  { Lane.init with
    kind := .ordinary, pc := 0x1008#64, v := v, p := p
    pos := some { hdr := 0x1000#64, len := 4, seta := 15#4, setb := 15#4 } }

/-- A page table of three levels at the foot of HBM (the bytes that are not zero). Its leaves of 1 GiB: the identity, readable,
writable and executable; at 0x40000000 one with no permission; at 0x80000000 a readable one that is the kernel's; nothing at
0xC0000000. At 0x1010, a header of four words. -/
def table : Memory :=
  [(0x1017, 0xF8#8), (0x2000, 0x01#8), (0x2001, 0x30#8), (0x3000, 0x01#8), (0x3001, 0x40#8), (0x4000, 0xB9#8), (0x4008, 0x81#8), (0x4010, 0x89#8), (0x4017, 0x80#8)]

/-- The key of the block of these tests. -/
def bk : Nat := blockKey 1 0

/-- One group of one block of core 0 at the word 0x1008, with an instruction in hand. -/
def core0 (ls : List Lane) (u : List (Nat × DWord) := []) : State :=
  let g : Group := { Group.init with lanes := ls, s := u, active := true }
  { State.reset with
    cur := { Cursor.init with
      blk := bk, lanes := maskOf fun i => decide (i < ls.length), pc := 0x1008#64, before := g, firstId := 1 }
    mem := table
    ctxs := [(0, { Ctx.init with root := 0x2000 })]
    launches := [(1, { Launch.init with lanes := 64, regs := 64, lstore := 4096, oslots := 8, st := .running, nextCohort := 1 })]
    blocks := [(bk,
      { Block.init with
        launch := 1, resident := true, started := true, regs := 64, lanes := 64, lstore := 4096, oslots := 8
        groups := [(0, g)] })]
    hub := { Hub.init with hbmFrames := 2 ^ 24 }
    boot := { Boot.init with level := 3#2, passed := BitVec.allOnes 25, ideHost := some 0#64 } }

/-- Two lanes: v0, v1 = 7, −2 and 5, 3; a pair v2:v3 = 0x5000 in both; predicate 1 true in lane 0. -/
def two : State :=
  core0 [lane [(0, 7#32), (1, 0xFFFFFFFE#32), (2, 0x5000#32)] 2#96, lane [(0, 5#32), (1, 3#32), (2, 0x5000#32)]]
    [(1, 0x5000#64)]

/-- One lane of the same kind. -/
def one : State := core0 [lane [(0, 7#32), (1, 0xFFFFFFFE#32), (2, 0x5000#32)] 2#96] [(1, 0x5000#64)]

/-- The state an instruction leads to, if it answers one. -/
def after (i : Instr) (s : State) : State := match exec i s with | .next t => t | _ => s

/-- A register of a lane of the group of these tests. -/
def reg (s : State) (l n : Nat) : Word := (s.lane bk 0 l).vreg n
def ureg (s : State) (n : Nat) : DWord := (s.group bk 0).ureg n
def pred (s : State) (l n : Nat) : Bool := (s.lane bk 0 l).pred n

/-- What `MayRun` asks, as a test. -/
def may (i : Instr) (s : State) : Bool :=
  !s.illegalHere i && s.execLanes i.guard != 0#64 && !s.hazard i (s.execLanes i.guard) &&
  (s.badIndex i (s.execLanes i.guard)).isNone && !(uniformRule i && s.splitUniform (s.execLanes i.guard))

theorem may_run {i : Instr} {s : State} (h : may i s = true) : MayRun i s := by
  simp only [may, Bool.and_eq_true, Bool.not_eq_true', bne_iff_ne, Option.isNone_iff_eq_none] at h
  exact ⟨h.1.1.1.1, h.1.1.1.2, h.1.1.2, h.1.2, h.2⟩

/-- Each instruction is well formed and passes its checks. -/
def all (is : List Instr) (s : State) : Bool := is.all fun i => i.legal && may i s

theorem all_run {is : List Instr} {s : State} (h : all is s = true) : ∀ i ∈ is, i.WellFormed ∧ MayRun i s := by
  simp only [all, List.all_eq_true, Bool.and_eq_true] at h
  exact fun i hi => ⟨(h i hi).1, may_run (h i hi).2⟩

/-! ### Witnesses: the instructions that compute -/

theorem witness_IntegerAddSubMinMax : ∀ i ∈ ([.iadd (fa 4 0 1 (md 3)), .isub (fa 4 0 1 (md 3)), .iadd64 (fa 4 0 2 (md 4)),
    .iabs (fa 4 0 0 (md 3)), .ineg (fa 4 0 0 (md 3)), .imin (fa 4 0 1 (md 3)), .imax (fa 4 0 1 (md 3))] : List Instr),
    i.WellFormed ∧ MayRun i two := all_run (by decide +kernel)

theorem witness_CarryChains : ∀ i ∈ ([.iaddc (fa 4 0 1 1#10), .isubb (fa 4 0 1 1#10)] : List Instr),
    i.WellFormed ∧ MayRun i two := all_run (by decide +kernel)

theorem witness_Multiplies : ∀ i ∈ ([.imul (fa 4 0 1 (md 3)), .imulh (fa 4 0 1 (md 3)), .imad (fa 4 0 1 0#10),
    .imadw true (fa 4 0 1 2#10), .imadw false (fa 4 0 1 2#10)] : List Instr), i.WellFormed ∧ MayRun i two := all_run (by decide +kernel)

theorem witness_CompareAndSelect : ∀ i ∈ ([.icmp (fa 4 0 1 (md 3 2)), .sel false (fa 4 0 1 0x201#10),
    .sel true (fa 4 0 2 0x201#10)] : List Instr), i.WellFormed ∧ MayRun i two := all_run (by decide +kernel)

theorem witness_LogicAndTernary : ∀ i ∈ ([.and (fa 4 0 1 (md 9)), .or (fa 4 0 1 (md 9)), .xor (fa 4 0 1 (md 9)),
    .not (fa 4 0 0 (md 9)), .tern (fl 4 0 1 2 0x96)] : List Instr), i.WellFormed ∧ MayRun i two := all_run (by decide +kernel)

theorem witness_Shifts : ∀ i ∈ ([.shl (fa 4 0 1 (md 9)), .shr (fa 4 0 1 (md 9)), .sar (fa 4 0 1 (md 9)),
    .rot (fa 4 0 1 (md 9)), .fshl (fa 4 0 1 2#10), .fshr (fa 4 0 1 2#10)] : List Instr),
    i.WellFormed ∧ MayRun i two := all_run (by decide +kernel)

theorem witness_BitFieldsAndAddresses : ∀ i ∈ ([.popc (fa 4 0 0 (md 9)), .clz (fa 4 0 0 (md 9)), .ctz (fa 4 0 0 (md 9)),
    .brev (fa 4 0 0 (md 9)), .bfx (fa 4 0 1 (md 7)), .bfi (fa 4 0 1 2#10), .prmb (fa 4 0 1 2#10),
    .lea (fa 4 2 0 (md 3 7))] : List Instr), i.WellFormed ∧ MayRun i two := all_run (by decide +kernel)

theorem witness_FloatArithmetic : ∀ i ∈ ([.fadd (fa 4 0 1 (md 11)), .fsub (fa 4 0 1 (md 11)), .fmul (fa 4 0 1 (md 11)),
    .fdivf (fa 4 0 1 (md 11)), .fscale (fa 4 0 1 (md 11)), .pkadd (fa 4 0 1 (md 14)), .pkmul (fa 4 0 1 (md 15)),
    .ffma (ft 4 0 1 2 0), .pkfma false (ft 4 0 1 2 0), .pkfma true (ft 4 0 1 2 3)] : List Instr),
    i.WellFormed ∧ MayRun i two := all_run (by decide +kernel)

theorem witness_FloatMinMaxCompare : ∀ i ∈ ([.fmin (fa 4 0 1 (md 11)), .fmax (fa 4 0 1 (md 12)),
    .fcmp (fa 4 0 1 (md 13 7))] : List Instr), i.WellFormed ∧ MayRun i two := all_run (by decide +kernel)

theorem witness_FloatFunctions : ∀ i ∈ ([.fclass (fa 4 0 0 (md 11)), .frnd (fa 4 0 0 (md 11 3)), .fgexp (fa 4 0 0 (md 11)),
    .frcp (fa 4 0 0 (md 11)), .frsq (fa 4 0 0 (md 11)), .fsqrt (fa 4 0 0 (md 11)), .fex2 (fa 4 0 0 (md 11)),
    .flg2 (fa 4 0 0 (md 11)), .fsin (fa 4 0 0 (md 11)), .fcos (fa 4 0 0 (md 11)), .ftanh (fa 4 0 0 (md 11))] : List Instr),
    i.WellFormed ∧ MayRun i two := all_run (by decide +kernel)

theorem witness_Conversions : ∀ i ∈ ([.fcvt (fc 4 0 12 11 0), .f2i (fc 4 0 3 11 1), .i2f (fc 4 0 11 3 0)] : List Instr),
    i.WellFormed ∧ MayRun i two := all_run (by decide +kernel)

theorem witness_BlocksAndPacking : ∀ i ∈ ([.qblk (fa 8 16 0 (md 2)), .dqblk (fa 16 8 0 (md 1)), .pack8 (fa 4 0 1 (md 1)),
    .split8 (fa 4 0 1 (md 2))] : List Instr), i.WellFormed ∧ MayRun i two := all_run (by decide +kernel)

theorem witness_RegisterMoves : ∀ i ∈ ([.mov (fa 4 0 0 (md 9)), .movi (fi 4 9), .movi (fi 4 9 true), .movw (fw 4 9#64),
    .movSpecial (fa 4 3 0 (md 9)), .movSpecial (fa 4 3 0 (md 10) false true), .movIndex (fa 4 3 0 (md 9)),
    .movIndex (fa 4 3 0 (md 10) false true)] : List Instr), i.WellFormed ∧ MayRun i two := all_run (by decide +kernel)

theorem witness_PredicateUniformAndIndexMoves : ∀ i ∈ ([.plop (fa 4 1 2 8#10), .pmov (fa 4 0 0 3#10), .pmov (fa 4 0 0 2#10),
    .vtos (fa 4 0 0 (md 9)), .stov (fa 4 1 0 (md 9)), .xset (fa 3 0 1 0#10), .xset (fa 3 0 8 0#10 true),
    .xidx (fa 3 0 5 0#10 true), .xadd (fa 3 0 0 0#10)] : List Instr), i.WellFormed ∧ MayRun i two := all_run (by decide +kernel)

theorem witness_LaneExchanges : ∀ i ∈ ([.qswap (fa 4 0 1 (md 9) true), .qbcast (fa 4 0 3 (md 9) true),
    .gshfl (fa 4 0 1 (md 9)), .gshfl (fa 4 0 63 (md 9) true)] : List Instr), i.WellFormed ∧ MayRun i two := all_run (by decide +kernel)

theorem witness_VotesAndReductions : ∀ i ∈ ([.vote (fa 4 1 0 (md 0 2)), .ballot (fa 4 1 0 0#10),
    .matchLanes (fa 4 0 0 (md 9)), .elect (fa 4 0 0 0#10), .redux (fa 4 0 0 (md 3)), .redux (fa 4 0 0 (md 9 5 4))] :
    List Instr), i.WellFormed ∧ MayRun i two := all_run (by decide +kernel)

/-! ### Witnesses: control and memory -/

/-- A touch leads to a location through a leaf that is not being pulled, as a test. -/
def leads (t : Touch) : Bool :=
  match t.tr with
  | .ok (.mem _) leaf level => !(level == 1 && leaf.getLsbD 61)
  | .ok (.ls _ _) _ _ => true
  | _ => false

theorem leads_reaches {t : Touch} (h : leads t = true) : t.reaches := by
  unfold leads at h
  split at h
  · next k leaf level ht => exact ⟨_, _, _, ht, fun _ => by simpa only [Bool.not_eq_true'] using h⟩
  · next b o leaf level ht => exact ⟨_, _, _, ht, fun ⟨_, e⟩ => by cases e⟩
  · cases h

/-- One lane whose pair v2:v3 holds an address. -/
def at_ (a : Word) : State := core0 [lane [(0, 7#32), (1, 0xFFFFFFFE#32), (2, a), (4, 64#32)] 2#96] [(1, 0x5000#64)]

/-- A header of one word. -/
def hd (reconv : Nat) (wait : Nat := 0) (len : Nat := 1) : Header :=
  { len := BitVec.ofNat 8 len, wait := BitVec.ofNat 12 wait, seta := 15#4, setb := 15#4
    reconv := BitVec.ofNat 16 reconv, live := 0#7, pf := 0#3, uni := false }

/-- The group of `one` waits at its own word, or has its first flag set. -/
def waiting : State := one.onGroup bk 0 fun g => { g with recon := [{ target := 0x1008#64, members := 1#64 }] }
def flagged : State := { one with cur := { one.cur with before := { one.cg with flags := [1] } } }

/-- The path stands two words before a page that has no translation. -/
def edge : State := { one with cur := { one.cur with pc := 0xBFFFFFF8#64 } }

/-- The word of `one` is the last of its block; the pair v2:v3 holds the header's address. -/
def last : State :=
  core0 [{ lane [(2, 0x1010#32)] with pos := some { hdr := 0x1000#64, len := 1, seta := 15#4, setb := 15#4 } }]

/-- Such a word whose pair holds another address. -/
def jump (a : Word) : State :=
  core0 [{ lane [(2, a)] with pos := some { hdr := 0x1000#64, len := 1, seta := 15#4, setb := 15#4 } }]

/-- A last word two words before a page that has no translation. -/
def edgeLast : State :=
  { core0 [{ lane [] with pos := some { hdr := 0xBFFFFFF0#64, len := 1, seta := 15#4, setb := 15#4 } }] with
    cur := { one.cur with pc := 0xBFFFFFF8#64 } }

/-- A whole group. -/
def full : State := core0 (List.replicate 64 (lane []))

/-- The slice of die 0 holds the sector of 0x5000 shared. -/
def shared : State := one.setSect 0 (0x5000 / 64) 1

/-- An access of lane 0 to a word of a page like that of 0x5000, and an operation of group 0 with it. -/
def acc (va key : Nat) : Acc :=
  { lane := 0, va := BitVec.ofNat 64 va, loc := .mem key, leaf := 0#7, fresh := true, val := 0#128, val2 := 0#64, done := false
    counted := [] }
def op (kind : OpKind) (dest : Nat) (accs : List Acc) : Op :=
  { blk := bk, grp := 0, core := 0, asid := 0, kind := kind, wid := 2, dest := dest, nud := 0, acq := false, rel := false
    scope := 3, last := false, far := false, flag := none, pc := 0x1008#64, clock := 0#32, after := none, accs := accs }

/-- A store of lane 0 to 0x5000 is outstanding. -/
def storing : State := { one with ops := [(1, op .store 0 [acc 0x5000 0x5000])], nextId := 2 }

/-- No memory die is in service: every walk of a table waits. -/
def unready (s : State) : State := { s with boot := { s.boot with passed := 0#25 } }

/-- A check of a target waits. -/
def isWait : Target → Bool
  | .wait _ => true
  | _ => false

theorem witness_HeaderIssue_waits : (unready one).goingOn ≠ 0#64 ∧ (hd 1).legal = true ∧ (hd 1).reconv ≠ 0#16 ∧
    (unready one).cur.before.waitsOn (hd 1).wait = false ∧
    isWait ((unready one).checkTarget 0 0 (reconPoint (unready one).cur.pc (hd 1))) = true := by
  decide +kernel

theorem witness_HeaderIssue :
    waiting.goingOn = 0#64 ∧
    (one.goingOn ≠ 0#64 ∧ (hd 0 0 0).legal = false) ∧
    (flagged.goingOn ≠ 0#64 ∧ (hd 0 1).legal = true ∧ flagged.cur.before.waitsOn (hd 0 1).wait = true) ∧
    ((hd 0).legal = true ∧ one.cur.before.waitsOn (hd 0).wait = false ∧ (hd 0).reconv = 0#16) ∧
    ((hd 1).legal = true ∧ one.checkTarget one.cb.core one.cb.asid (reconPoint one.cur.pc (hd 1)) = .ok) ∧
    ((hd 2).reconv ≠ 0#16 ∧
      one.checkTarget one.cb.core one.cb.asid (reconPoint one.cur.pc (hd 2)) = .trap cBadTarget 0#64) ∧
    (edge.goingOn ≠ 0#64 ∧ edge.checkTarget edge.cb.core edge.cb.asid (reconPoint edge.cur.pc (hd 1)) = .missing) := by
  decide +kernel

theorem witness_BranchesAndCalls :
    all [.bra (fb 1 0), .bra (fb 2 0), .brx (fb 0 2), .ret (fb 0 2)] one = true ∧
    all [.call (fb 1 2), .call (fb 2 2), .callx (fb 0 2)] last = true ∧
    (∀ s ∈ [one, last], s.checkTarget s.cb.core s.cb.asid (s.cur.pc + 8#64) = .ok ∧
      s.checkTarget s.cb.core s.cb.asid (s.cur.pc + 16#64) = .trap cBadTarget 0#64) ∧
    (all [.brx (fb 0 2), .ret (fb 0 2)] last = true ∧
      ∀ i ∈ lanesOf (last.execLanes 0x7F#8), last.checkTarget last.cb.core last.cb.asid ((last.cg.lane i).vpair 2) = .ok) ∧
    (all [.bra (fb 1 0)] edge && all [.call (fb 1 2)] edgeLast) = true ∧
    (∀ s ∈ [edge, edgeLast], s.checkTarget s.cb.core s.cb.asid (s.cur.pc + 8#64) = .missing) ∧
    (∀ s ∈ [jump 0x5000#32, jump 0xC0000000#32], all [.brx (fb 0 2), .ret (fb 0 2), .callx (fb 0 2)] s = true ∧
      lanesOf (s.execLanes 0x7F#8) = [0]) ∧
    (jump 0x5000#32).checkTarget 0 0 (((jump 0x5000#32).cg.lane 0).vpair 2) = .trap cBadTarget 0#64 ∧
    (jump 0xC0000000#32).checkTarget 0 0 (((jump 0xC0000000#32).cg.lane 0).vpair 2) = .missing := by
  decide +kernel

theorem witness_BranchesAndCalls_waits :
    all [.bra (fb 1 0), .brx (fb 0 2), .ret (fb 0 2)] (unready one) = true ∧
    all [.call (fb 1 2), .callx (fb 0 2)] (unready last) = true ∧
    (∀ s ∈ [unready one, unready last], isWait (s.checkTarget 0 0 (s.cur.pc + 8#64)) = true ∧
      (lanesOf (s.execLanes 0x7F#8)).any (fun i => isWait (s.checkTarget 0 0 ((s.cg.lane i).vpair 2))) = true) ∧
    ∀ s ∈ [last, jump 0x5000#32, jump 0xC0000000#32], ∀ i ∈ lanesOf (s.execLanes 0x7F#8),
      (match s.checkTarget 0 0 ((s.cg.lane i).vpair 2) with | .wait _ => false | .noFrame _ => false | _ => true) = true := by
  decide +kernel

theorem witness_NopExitYield :
    all [.nop, .exitLanes (fb 0 0), .yieldGroup (fb 0 0)] full = true ∧
    ((full.blocks.get? full.cur.blk).isSome = true ∧ (full.cb.groups.get? full.cur.grp).isSome = true) ∧
    full.cg.ordinary &&& ~~~(full.execLanes 0x7F#8) = 0#64 ∧ full.cg.lanes.length = 64 ∧
    (full.launch full.cb.launch).ladder.isSome = false := by
  decide +kernel

theorem witness_BarriersAndSleep : ∀ i ∈ ([.bar (fa 0 0 15 0#10 true), .cbar (fa 0 0 3 0#10 true),
    .sleep (fa 0 0 0 0#10)] : List Instr), i.WellFormed ∧ MayRun i two := all_run (by decide +kernel)

theorem witness_WaitcInstruction :
    let f := fa 6 2 0 (md 3)
    let m := one.execLanes f.guard
    let ts := (lanesOf m).map fun i => one.touch needR i ((one.cg.lane i).vpair 2) 4
    let w : Watch := watchOf f one.cg (one.cg.lane 0) 0x5000#64 1 none
    (all [.waitc f] one = true ∧ (∀ i ∈ lanesOf m, ((one.cg.lane i).vpair 2).toNat % 4 = 0) ∧ ts.all leads = true) ∧
    (all [.waitc (fa 6 0 0 (md 3))] one = true ∧
      (lanesOf m).find? (fun i => ((one.cg.lane i).vpair 0).toNat % 4 ≠ 0) = some 0) ∧
    (∀ s ∈ [one, shared],
      let r := s.readAtSlice (s.block bk).core (s.block bk).asid (.mem 0x5000) false false w.width
      s.waitTurn bk 0 0 { w with loc := .mem 0x5000 } (.mem 0x5000) false = .now [0] ∧
      (s.blocks.get? bk).isSome = true ∧ 0 < (s.group bk 0).lanes.length ∧
      (r.1.blocks.get? bk).isSome = true ∧ 0 < (r.1.group bk 0).lanes.length) ∧
    storing.waitTurn bk 0 0 { w with loc := .mem 0x5000, id := 10 } (.mem 0x5000) false = .wait ∧
    ((one.readAtSlice 0 0 (.mem 0x5000) false false w.width).2 = none) ∧
    ((shared.readAtSlice 0 0 (.mem 0x5000) false false w.width).2 = some 0#64 ∧
      compareInt w.cc (toInteger (8 * w.width) w.signed 0#64) (toInteger (8 * w.width) w.signed w.cmp) = false) ∧
    (shared.readAtSlice 0 0 (.mem 0x5000) false false w.width).1.waitValue w (.mem 0x5000) false 0#64 0 = 0#64 ∧
    compareInt 0 (toInteger 32 true 0#64) (toInteger 32 true 0#64) = true := by
  decide +kernel

theorem witness_LoadsStoresAtomicsIssue :
    all [.ld true (fm 6 2 0 0), .st (fm 0 2 0), .ldv (fm 6 1 0), .stv (fm 0 1 0), .atom false 0#5 (fm 6 2 0),
      .atom true 10#5 (fm 8 2 0 4 0 3), .red false 0#5 (fm 0 2 0)] one = true ∧
    (∀ f ∈ [fm 6 2 0 0, fm 0 2 0, fm 8 2 0 4 0 3], ∀ i ∈ lanesOf (one.execLanes f.guard),
      ((one.cg.lane i).vpair 2).toNat % accBytes f = 0) ∧
    (∀ f ∈ [fm 6 1 0], ∀ i ∈ lanesOf (one.execLanes f.guard),
      (one.cg.ureg 1 + BitVec.ofInt 64 ((f.b.toInt + i) * accBytes f)).toNat % accBytes f = 0) ∧
    (∀ need ∈ [needR, needW, needRW], (one.touches (fm 6 2 0) need fun i => (one.cg.lane i).vpair 2).all leads = true) ∧
    (one.touches (fm 8 2 0 4 0 3) needRW fun i => (one.cg.lane i).vpair 2).all leads = true ∧
    (∀ need ∈ [needR, needW], (one.touches (fm 6 1 0) need fun _ => one.cg.ureg 1).all leads = true) := by
  decide +kernel

/-- The page of 0x5000 is of a lost domain, or its sector is poisoned. -/
def lostPage : State := { at_ 0x5000#32 with hub := { (at_ 0x5000#32).hub with lost := 0xFF0000#32 } }
def poisonedPage : State := (at_ 0x5000#32).setPoison (0x5000 / 64) true

theorem witness_AccessTraps :
    let is : List Instr := [.ld false (fm 6 2 0), .st (fm 0 2 0), .atom false 0#5 (fm 6 2 0), .red false 0#5 (fm 0 2 0)]
    let trs := fun (s : State) (need : Need) => (s.touches (fm 6 2 0) need fun i => (s.cg.lane i).vpair 2).map Touch.tr
    ([0x5000#32, 0x5001#32, 0x40000000#32, 0x80000000#32, 0xC0000000#32].all fun a => all is (at_ a)) = true ∧
    (all is lostPage && all is poisonedPage && all [.ldv (fm 6 1 0), .stv (fm 0 1 0)] one) = true ∧
    (lanesOf ((at_ 0x5001#32).execLanes 0x7F#8)).find? (fun i => (((at_ 0x5001#32).cg.lane i).vpair 2).toNat % 4 ≠ 0) = some 0 ∧
    (∀ need ∈ [needR, needW, needRW],
      trs (at_ 0x40000000#32) need = [.protection] ∧ trs (at_ 0xC0000000#32) need = [.missing] ∧
      trs lostPage need = [.lost] ∧ trs poisonedPage need = [.poison]) ∧
    trs (at_ 0x80000000#32) needR = [.kernelReserved] := by
  decide +kernel

/-- The states in which a range of n bytes at the pair v2:v3 may not be reached, with how. -/
def barred : List (State × Tr) :=
  [(at_ 0x40000000#32, .protection), (at_ 0x80000000#32, .kernelReserved), (at_ 0xC0000000#32, .missing),
    (lostPage, .lost), (poisonedPage, .poison)]

/-- The touches of a range at that pair. -/
def rangeAt (s : State) (need : Need) (n : Nat) : List Touch :=
  (pageChunks ((s.cg.lane 0).vpair 2) n).map fun c => s.touch need 0 c.1 c.2

/-- How the first page of such a range answers, where nothing of it waits. -/
def answers (s : State) (need : Need) (n : Nat) : Option Tr :=
  let ts := rangeAt s need n
  if ts.any Touch.waits || (pullTouches s ts).2.any Touch.waits then none else (ts.map Touch.tr).head?

/-- A page table of five levels, whose leaves are of one page: page 2 by frame 2, pages 3 to 38 by frame 0. -/
def pages : Memory :=
  [(0x2000, 0x01#8), (0x2001, 0x30#8), (0x3000, 0x01#8), (0x3001, 0x40#8), (0x4000, 0x01#8), (0x4001, 0xA0#8),
    (0xA000, 0x01#8), (0xA001, 0xB0#8)] ++
  [(0xB010, 0xB9#8), (0xB011, 0x20#8), (0xB018, 0xB9#8), (0xB020, 0xB9#8), (0xB028, 0xB9#8), (0xB030, 0xB9#8),
    (0xB038, 0xB9#8), (0xB040, 0xB9#8), (0xB048, 0xB9#8), (0xB050, 0xB9#8), (0xB058, 0xB9#8), (0xB060, 0xB9#8),
    (0xB068, 0xB9#8), (0xB070, 0xB9#8), (0xB078, 0xB9#8), (0xB080, 0xB9#8), (0xB088, 0xB9#8), (0xB090, 0xB9#8),
    (0xB098, 0xB9#8), (0xB0A0, 0xB9#8), (0xB0A8, 0xB9#8), (0xB0B0, 0xB9#8), (0xB0B8, 0xB9#8), (0xB0C0, 0xB9#8),
    (0xB0C8, 0xB9#8), (0xB0D0, 0xB9#8), (0xB0D8, 0xB9#8), (0xB0E0, 0xB9#8), (0xB0E8, 0xB9#8), (0xB0F0, 0xB9#8),
    (0xB0F8, 0xB9#8), (0xB100, 0xB9#8), (0xB108, 0xB9#8), (0xB110, 0xB9#8), (0xB118, 0xB9#8), (0xB120, 0xB9#8),
    (0xB128, 0xB9#8), (0xB130, 0xB9#8)]

/-- Page 2 is being moved from frame 5, whose first sector a slice holds: its pull waits. -/
def pulling : State :=
  let s := (({ at_ 0x2000#32 with mem := pages } : State).setMemBytes 0xB017 [0x20#8]).setSect 0 (0x5000 / 64) 1
  { s with hub := { s.hub with mig := [(0, 0x5000#64), (1, 0x2000#64), (3, BitVec.ofNat 64 (2 ^ 24))] } }

/-- Instructions may run in a state whose walks wait and in one whose pull does, over a range at the pair v2:v3. -/
def heldUp (is : List Instr) (f : State → State) (need : Need) (n : Nat) : Bool :=
  let s := f (unready (at_ 0x5000#32))
  let t := f pulling
  let ts := rangeAt t need n
  all is s && all is t && (rangeAt s need n).any Touch.waits &&
  ts.all (fun u => !u.waits && u.tr != .protection && u.tr != .kernelReserved && u.tr != .missing) &&
  (pullTouches t ts).2.any Touch.waits

theorem witness_WaitcInstruction_refused : (barred.all fun r =>
    all [.waitc (fa 6 2 0 (md 3))] r.1 && ((r.1.cg.lane 0).vpair 2).toNat % 4 == 0 && answers r.1 needR 4 == some r.2) = true ∧
    heldUp [.waitc (fa 6 2 0 (md 3))] id needR 4 = true := by
  decide +kernel

theorem witness_CacheRangesAndFences_refused : ((barred.filter fun r => r.2 != .kernelReserved).all fun r =>
    all [.cdisc (fm 0 2 4 0 0 3)] r.1 && ((r.1.cg.lane 0).vpair 2).toNat % 64 == 0 &&
    ((r.1.cg.lane 0).vreg 4).toNat % 64 == 0 && answers r.1 needW 64 == some r.2) = true ∧
    heldUp [.cdisc (fm 0 2 4 0 0 3)] id needW 64 = true := by
  decide +kernel

theorem witness_AccessTraps_waits : ∀ need ∈ [needR, needW, needRW], heldUp [.ld false (fm 6 2 0), .st (fm 0 2 0),
    .atom false 0#5 (fm 6 2 0), .red false 0#5 (fm 0 2 0)] id need 4 = true := by
  decide +kernel

theorem witness_CacheRangesAndFences_waits :
    let lines := fun (s : State) => [s.touch needR 0 (sectorRange ((s.cg.lane 0).vpair 2) 1).1 64]
    let outer := fun (s : State) => rangeTouches s 1#64 needRange fun l => sectorRange (l.vpair 2) (l.vreg 4).toNat
    let s := unready (at_ 0x5000#32)
    (all [.pref (fm 1 2 0 0 0 3), .cwb (fm 0 2 4 0 0 3), .cinv (fm 0 2 4 0 0 3)] s && all [.pref (fm 1 2 0 0 0 3)] pulling) = true ∧
    ((lines s).any Touch.waits && (outer s).any Touch.waits && !(lines pulling).any Touch.waits &&
      (pullTouches pulling (lines pulling)).2.any Touch.waits) = true ∧
    (!(lines (at_ 0x5000#32)).any Touch.waits && !(outer (at_ 0x5000#32)).any Touch.waits &&
      !(pullTouches (at_ 0x5000#32) (lines (at_ 0x5000#32))).2.any Touch.waits) = true := by
  decide +kernel

theorem witness_LocalStoreIssue :
    all [.sld true (fm 6 3 0 0), .sld true (fm 6 0 0 0), .sld true (fm 6 2 0 0), .sst (fm 0 3 0), .sst (fm 0 0 0), .sst (fm 0 2 0)] one = true ∧
    (((one.cg.lane 0).vreg 3).toNat % 4 = 0 ∧ ((one.cg.lane 0).vreg 3).toNat + 4 ≤ one.cb.lstore) ∧
    ((one.cg.lane 0).vreg 0).toNat % 4 ≠ 0 ∧
    (((one.cg.lane 0).vreg 2).toNat % 4 = 0 ∧ one.cb.lstore < ((one.cg.lane 0).vreg 2).toNat + 4) := by
  decide +kernel

theorem witness_CacheRangesAndFences :
    let s := at_ 0x5000#32
    let range := fun (l : Lane) => (l.vpair 2, (l.vreg 4).toNat)
    all [.pref (fm 1 2 0 0 0 3), .cwb (fm 0 2 4 0 0 3), .cinv (fm 0 2 4 0 0 3), .cdisc (fm 0 2 4 0 0 3),
      .cdisc (fm 0 0 4 0 0 3), .ipf (fm 0 2 4 0 0 3), .ipin (fm 0 2 4 0 0 3), .iunpin (fm 0 2 4 0 0 3),
      .fence (fm 0 0 0 0 3 4)] s = true ∧
    (∀ i ∈ lanesOf (s.execLanes 0x7F#8), (range (s.cg.lane i)).1.toNat % 64 = 0 ∧ (range (s.cg.lane i)).2 % 64 = 0) ∧
    (rangeTouches s (s.execLanes 0x7F#8) needW range).all leads = true ∧
    ((s.cg.lane 0).vpair 0).toNat % 64 ≠ 0 := by
  decide +kernel

/-! ### Witnesses: matrix unit, engines, ladder, system -/

/-- An operation in the matrix queue of core 0. -/
def mop (kind : MKind) (begun : Bool := false) : MOp :=
  { id := 0, kind := kind, blk := bk, grp := 0, lane := 0, flag := none, tcb := 0#64, pc := 0x1008#64, addr := 0#64, spans := []
    nud := 0
    clock := 0#32, prog := 0, begun := begun, leave := true, asked := false, after := none, counted := [] }

/-- Slot 0 is claimed and the block configured; a parameter block of one K-step stands at 0 of its local store. -/
def matrix : State :=
  (({ one with cores := [(0, Core.init)] } : State).onBlock bk fun b => { b with mconf := true, claimed := 1#64 }).setLoc
    (.ls bk 0) ([0#8, 0#8, 0#8, 0#8, 1#8] ++ List.replicate 27 0#8)

/-- A parameter block of no K-step. -/
def badPb : State := matrix.setLoc (.ls bk 4) [0#8]

/-- An earlier store of the lane to the block is outstanding. -/
def storingPb : State :=
  { matrix with
    ops := [(0, op .store 0 [{ acc 0 0 with loc := .ls bk 0 }])] }

/-- Path B is at issue, beside a matrix operation of path A that stores n bytes. -/
def beside (s : State) (loc : Loc) (n : Nat) : State :=
  { s.setCore 0 { s.core 0 with mq := [{ mop (.omst false 0) with id := 1, lane := 1, spans := [(loc, n, 0#7)] }] } with
    cur := { s.cur with pathB := true, firstId := 1, lastId := 2 }, nextId := 2 }

/-- Core 0 has n operations of the block in its queue. -/
def queued (n : Nat) : State := matrix.setCore 0 { Core.init with mq := List.replicate n (mop .tcfg) }

/-- A copy of lane 0, in a batch. -/
def copy (batch : Nat) (st : CopyState := .pending) : Copy :=
  { tensor := false, desc := [], src := 0x5000#64, dst := 0x6000#64, len := 64, ctl := 0#32, post := false, caddr := 0#64
    cval := 0#64, prog := 0, tup := 0#64, st := st, blk := bk, grp := 0, lane := 0, core := 0, asid := 0
    batch := BitVec.ofNat 32 batch, wraps := 0, flag := none, leave := false, asked := false, saved := false, reported := false
    after := none, counted := [], clock := 0#32 }

/-- The state with copies. -/
def engine (cs : List Copy) : State := { one with copies := cs.mapIdx fun i c => (i + 1, c) }

/-- The slice of die 0 holds the sectors of some frames shared. -/
def holding (s : State) (frames : List Nat) : State :=
  { s with mesh := { s.mesh with sect := frames.flatMap fun n => (List.range 64).map fun i => (16 * (64 * n + i), 1#3) } }

/-- At 0x6000, a tensor descriptor of one element; at 0x2FC0, an engine save record of one copy, its entry in the next page; a
launch descriptor. -/
def desc : State := holding ((at_ 0x6000#32).setMemBytes 0x6010 [1#8, 0#8, 1#8, 0#8, 1#8, 0#8, 1#8, 0#8]) [6]
def saved : State := holding (({ at_ 0x2FC0#32 with mem := pages }.setMemBytes 0x2FC0 [1#8]).setMemBytes 0 [1#8, 1#8]) [0, 2]
def descriptor : State :=
  holding ((core0 [lane []] [(4, 0x6000#64), (7, 0x5000#64)]).setMemBytes 0x6000
    ([0#8, 0x10#8] ++ List.replicate 30 0#8 ++ [1#8, 0#8, 0#8, 0#8, 64#8, 0#8, 8#8, 0#8, 0#8, 0#8, 0#8, 0#8, 1#8])) [5, 6]

/-- A lane with an access outstanding. -/
def loading : State := { descriptor with ops := [(0, op (.load false) 8 [acc 0x5000 0x5000])], nextId := 5 }

/-- The launch is a ladder's, with two rungs above the base; its record area is at 0x5000. -/
def rung (k : Nat) : Rung := { entry := 0x1010#64, frame := k, regs := 8, hold := 100, ring := 64 }
def ladder : Ladder :=
  { items := 1, rbase := 0x5000#64, rstride := 16, doneAddr := 0x6000#64, doneVal := 1#64, rungs := [rung 0, rung 2, rung 2] }
def climbing : State := one.onLaunch 1 fun l => { l with ladder := some ladder }

/-- The ring of rung 1 is full; the lane has delivered its item. -/
def fullRing : State :=
  climbing.setRing (ringKey 0 1 1)
    { Ring.init with frames := List.replicate 64 { item := 0#32, words := [1#32, 2#32], stamp := 0#64, froms := [] } }
def delivered : State := climbing.onLanes bk 0 1#64 fun _ l => { l with done := true }

/-- The lane is in its handler. -/
def handling : State :=
  core0 [{ lane [] with inHandler := true, epc := 0x1010#64, rhdr := 0x1000#64 }]

/-- Nothing keeps reads at issue back, as a test; and what they answer. -/
def mayNow (s : State) (reads : Reads) : Bool :=
  !s.readBehind reads && !s.readHeld reads && (s.readReady 0 reads).2 && ((s.readReady 0 reads).1.readBytes 0 reads).isSome
def readNow (s : State) (reads : Reads) : State × List (List Byte) :=
  ((s.readReady 0 reads).1.readBytes 0 reads).getD (s, [])

theorem reads_now {s : State} {reads : Reads} (h : mayNow s reads = true) : s.readsAs 0 reads (readNow s reads) := by
  simp only [mayNow, Bool.and_eq_true, Bool.not_eq_true', Option.isSome_iff_exists] at h
  obtain ⟨⟨⟨hb, hh⟩, hr⟩, q, hq⟩ := h
  exact ⟨hb, hh, hr, by rw [readNow, hq, Option.getD_some]⟩

theorem witness_MatrixConfigAndSlots :
    all [.tcfg (fa 0 0 0 0#10), .tcfg (fa 0 1 0 0#10), .omclaim (fa 0 0 8 0#10 true), .omclaim (fa 0 0 9 0#10 true),
      .omrel (fa 0 0 1 0#10 true)] one = true ∧
    all [.tcfg (fa 0 0 0 0#10), .omclaim (fa 0 0 8 0#10 true), .omrel (fa 0 0 1 0#10 true)] matrix = true ∧
    all [.tcfg (fa 0 0 0 0#10), .omclaim (fa 1 0 2 0#10 true), .omrel (fa 0 0 1 0#10 true)] (queued 8) = true ∧
    (one.cb.oslots = 8 ∧ tcfgOk one (one.cg.ureg 0) = true ∧ queueRoom one .tcfg = true ∧
      tcfgOk one (one.cg.ureg 1) = false) ∧
    (one.cb.claimed &&& slotMask 0 8 = 0#64 ∧ queueRoom one (.omclaim 0 8) = true ∧
      matrix.cb.claimed &&& slotMask 0 8 ≠ 0#64) ∧
    (matrix.cb.claimed &&& slotMask 0 1 = slotMask 0 1 ∧ queueRoom matrix (.omrel 0 1) = true ∧
      one.cb.claimed &&& slotMask 0 1 ≠ slotMask 0 1) ∧
    (queueRoom (queued 8) .tcfg = false ∧ queueRoom (queued 8) (.omclaim 1 2) = false ∧
      queueRoom (queued 8) (.omrel 0 1) = false ∧
      (queued 8).cb.claimed &&& slotMask 1 2 = 0#64 ∧ (queued 8).cb.claimed &&& slotMask 0 1 = slotMask 0 1) := by
  decide +kernel

theorem witness_MatrixMemoryIssue :
    all [.omld true (fa 0 2 0 32#10), .omld false (fa 1 2 0 0#10), .omst false (fa 0 2 0 0#10), .omst true (fa 0 0 0 0#10),
      .acld (fa 7 2 0 0#10), .acst (fa 7 2 0 0#10), .acst (fa 7 0 0 0#10), .msave (fa 0 2 0 0#10)] matrix = true ∧
    (matrix.cb.oslots ≠ 0 ∧ matrix.cb.mconf = true ∧ matrix.cb.claimed.getLsbD 0 = true ∧
      matrix.cb.claimed.getLsbD 1 = false) ∧
    (((matrix.cg.lane 0).vpair 2).toNat % 256 = 0 ∧ ((matrix.cg.lane 0).vpair 0).toNat % 256 ≠ 0) ∧
    ([imageBytes (tcbNow matrix) true, imageBytes (tcbNow matrix) false, tileBytes (tcbNow matrix), 131328].all fun n =>
      (matrix.piecesOf (fa 0 2 0 0#10) needW 0x5000#64 n).all leads &&
        (matrix.piecesOf (fa 0 2 0 0#10) needR 0x5000#64 n).all leads) = true ∧
    ([.omld true 0 true, .omst false 0, .acld 7 false, .acst 7, .msave].all (queueRoom matrix)) = true := by
  decide +kernel

/-- A configured matrix block with slot 0 claimed, of a state. -/
def conf (s : State) : State :=
  { s with cores := [(0, Core.init)] }.onBlock bk fun b => { b with mconf := true, claimed := 1#64 }

theorem witness_MatrixMemoryIssue_refused :
    all [.omld true (fa 0 0 0 0#10), .omst true (fa 1 2 0 0#10), .acld (fa 7 0 0 0#10), .msave (fa 0 0 0 0#10)] matrix = true ∧
    all [.omst true (fa 0 2 0 0#10), .acld (fa 7 2 0 0#10), .acst (fa 7 2 0 0#10), .msave (fa 0 2 0 0#10)] one = true ∧
    (matrix.matrixBlock ∧ ¬ one.matrixBlock) ∧
    (barred.all fun r => all [.omld true (fa 0 2 0 0#10), .acld (fa 7 2 0 0#10), .omst true (fa 0 2 0 0#10),
      .acst (fa 7 2 0 0#10), .msave (fa 0 2 0 0#10)] (conf r.1) && ((r.1.cg.lane 0).vpair 2).toNat % 256 == 0 &&
      answers (conf r.1) needR 2048 == some r.2 && (r.2 == .kernelReserved || answers (conf r.1) needW 131328 == some r.2)) = true ∧
    (heldUp [.omld true (fa 0 2 0 0#10), .acld (fa 7 2 0 0#10)] conf needR 2048 &&
      heldUp [.omst true (fa 0 2 0 0#10), .acst (fa 7 2 0 0#10), .msave (fa 0 2 0 0#10)] conf needW 131328) = true ∧
    ((queued 8).matrixBlock ∧ ([.omld true 0 true, .omst false 0, .acld 7 false, .acst 7, .msave].all fun k =>
      !queueRoom (queued 8) k) = true ∧ all [.acld (fa 7 2 0 0#10)] (queued 8) = true) := by
  unfold State.matrixBlock
  decide +kernel

theorem witness_MatrixMathIssue :
    all [.mma (fa 0 3 3 0#10), .mma (fa 0 3 0 0#10), .mma (fa 0 0 3 0#10), .mma (fa 0 2 3 0#10), .acz (fa 7 0 0 0#10),
      .acrd (fa 4 7 63 0#10 true)] matrix = true ∧
    all [.mma (fa 0 3 3 0#10)] badPb = true ∧
    (bits ((matrix.cg.lane 0).vreg 3) 10 22 = 0 ∧ bits ((matrix.cg.lane 0).vreg 3) 0 10 = bits (tcbNow matrix) 0 10 ∧
      bits ((matrix.cg.lane 0).vreg 0) 0 10 ≠ bits (tcbNow matrix) 0 10) ∧
    (((matrix.cg.lane 0).vreg 0).toNat % 32 ≠ 0 ∧ matrix.cb.lstore < ((matrix.cg.lane 0).vreg 2).toNat + 32) ∧
    (pbOk matrix.cb.claimed 0 (matrix.locBytes (.ls bk 0) 32) = true ∧
      pbOk badPb.cb.claimed 0 (badPb.locBytes (.ls bk 0) 32) = false) ∧
    (matrix.issueTurn 0 (.ls bk 0) 32 0#7 = .now [0] ∧ badPb.issueTurn 0 (.ls bk 0) 32 0#7 = .now [0] ∧
      storingPb.issueTurn 0 (.ls bk 0) 32 0#7 = .wait ∧
      matrix.issueBehind (.ls bk 0) 32 = false ∧ storingPb.issueBehind (.ls bk 0) 32 = false ∧
      all [.mma (fa 0 3 3 0#10)] storingPb = true) ∧
    (all [.mma (fa 0 3 3 0#10)] (beside matrix (.ls bk 0) 32) = true ∧
      (beside matrix (.ls bk 0) 32).issueBehind (.ls bk 0) 32 = true) ∧
    ([.mma (matrix.locBytes (.ls bk 0) 32), .acz 7, .acrd 7 4 [(0, 63)]].all (queueRoom matrix)) = true ∧
    (all [.mma (fa 0 0 0 0#10)] two = true ∧ (two.cg.lane 0).vreg 0 ≠ (two.cg.lane 1).vreg 0) := by
  decide +kernel

/-- The queue of the core is full of another block's operations. -/
def fullMath : State := matrix.setCore 0 { Core.init with mq := List.replicate 8 { mop .tcfg with blk := bk + 1 } }

theorem witness_MatrixMathIssue_refused :
    ([one, fullMath].all (all [.mma (fa 0 3 3 0#10), .acz (fa 7 0 0 0#10), .acrd (fa 4 7 63 0#10 true)])) = true ∧
    (one.cb.mconf = false ∧ fullMath.cb.mconf = true) ∧
    ([.mma (fullMath.locBytes (.ls bk 0) 32), .acz 7, .acrd 7 4 [(0, 63)]].all fun k => !queueRoom fullMath k) = true ∧
    pbOk fullMath.cb.claimed 0 (fullMath.locBytes (.ls bk 0) 32) = true ∧
    fullMath.issueTurn 0 (.ls bk 0) 32 0#7 = .now [0] := by
  decide +kernel

/-- A configured matrix block whose local store begins with a save record, zero before its tiles; v2:v3 is the record's
address in the block's window. -/
def record : State :=
  (((core0 [lane [(3, 0x01E00000#32)]]).onBlock bk fun b => { b with mconf := true, lstore := 131584 }).onLaunch 1 fun l =>
    { l with lstore := 131584 }).setLoc (.ls bk 0) (List.replicate 256 0#8)

/-- One whose count is five. -/
def noRecord : State := record.setLoc (.ls bk 16) [5#8]

/-- The queue of the core is full of another block's operations. -/
def fullQueue : State :=
  record.setCore 0 { Core.init with mq := List.replicate 8 { mop .tcfg with blk := bk + 1 } }

/-- The pieces of the record, and what is read of it. -/
def recordNoted (s : State) : State × List Touch := s.noteTouches (s.piecesOf (fa 0 2 0 0#10) needR 0x01E0000000000000#64 131328)
def recordReads (s : State) : Reads := [(0, 0x01E0000000000000#64, spansOf (recordNoted s).2)]
theorem witness_MatrixRestore_checks :
    ([record, noRecord, queued 1, fullQueue].all fun s => all [.mres (fa 0 2 0 0#10)] s && s.cb.oslots != 0) = true ∧
    ([record, noRecord, queued 1, fullQueue].all fun s => ((s.cg.lane 0).vpair 2).toNat % 256 == 0 &&
      (s.piecesOf (fa 0 2 0 0#10) needR ((s.cg.lane 0).vpair 2) 131328).all leads) = true ∧
    ((queued 1).core 0).mq.any (fun o => o.blk == bk && decide (o.id < (queued 1).cur.firstId)) = true := by
  decide +kernel

/-- Reads of a quiet lane of local stores leave the state as it is and find the stores' bytes. -/
theorem readBytes_local {s : State} {lane nud : Nat} (a : DWord) (sp : List (Loc × Nat × LeafBits)) (h : s.Quiet lane)
    (hl : ∀ p ∈ spanPieces a sp, ∃ b o, p.2.1 = .ls b o) :
    s.readBytes nud [(lane, a, sp)] = some (s, [(spanPieces a sp).flatMap fun p =>
      (s.locBytes p.2.1 (2 ^ (s.issueLoad lane nud p).1.wid)).take p.2.2.1]) := by
  have key : ∀ (ps : List (DWord × Loc × Nat × LeafBits)) (acc : List Byte), (∀ p ∈ ps, ∃ b o, p.2.1 = .ls b o) →
      ps.foldl (State.readPiece nud lane) (some (s, acc)) =
        some (s, acc ++ ps.flatMap fun p => (s.locBytes p.2.1 (2 ^ (s.issueLoad lane nud p).1.wid)).take p.2.2.1) := by
    intro ps
    induction ps with
    | nil => intro acc _; simp
    | cons p ps ih =>
      intro acc hp
      obtain ⟨b, o, e⟩ := hp p (by simp)
      have l : (s.issueLoad lane nud p).2.loc = p.2.1 := rfl
      have hpiece : State.readPiece nud lane (some (s, acc)) p =
          some (s, acc ++ (s.locBytes p.2.1 (2 ^ (s.issueLoad lane nud p).1.wid)).take p.2.2.1) := by
        have hw : (s.issueTurn lane p.2.1 p.2.2.1 p.2.2.2 == Turn.wait) = false := by rw [h.turn]; rfl
        have hc : s.touchCaches (s.issueLoad lane nud p).1 (s.issueLoad lane nud p).2 = s := by
          simp only [State.touchCaches, l, e]
        have hb : ∀ n, s.accBytes n (s.issueLoad lane nud p).1 (s.issueLoad lane nud p).2 =
            s.locBytes p.2.1 (2 ^ (s.issueLoad lane nud p).1.wid) := by
          intro n
          simp only [State.accBytes, State.accBytesNow, l, e, State.bytesAt_of_none h.free, ite_self]
        simp only [State.readPiece, Option.bind_some, hw, h.took, hc, hb]
        rfl
      rw [List.foldl_cons, hpiece, ih _ fun q hq => hp q (by simp [hq]), List.flatMap_cons, List.append_assoc]
  simp only [State.readBytes, List.foldl_cons, List.foldl_nil, Option.bind_some, key _ [] hl, Option.map_some, List.nil_append]

/-- Memory has such pieces at once where their stores' blocks are there; it notes their domains. -/
theorem issueReady_local {lane nud : Nat} {ps : List (DWord × Loc × Nat × LeafBits)} {s : State}
    (h : ∀ p ∈ ps, ∃ b o, p.2.1 = .ls b o ∧ s.windowReady b = true) :
    ∃ cs, s.issueReady lane nud ps = ({ s with ctxs := cs }, true) := by
  suffices ∀ cs, ∃ ds, ps.foldl (fun (r : State × Bool) p =>
      let x := s.issueLoad lane nud p
      let q := r.1.prepare x.1 x.2
      (q.1, r.2 && q.2)) ({ s with ctxs := cs }, true) = ({ s with ctxs := ds }, true) from this s.ctxs
  induction ps with
  | nil => exact fun cs => ⟨cs, rfl⟩
  | cons p ps ih =>
    intro cs
    obtain ⟨b, o, e, w⟩ := h p (by simp)
    have l : (s.issueLoad lane nud p).2.loc = .ls b o := e
    have w' : ({ s with ctxs := cs } : State).windowReady b = true := w
    simp only [List.foldl_cons, State.prepare, l, w', if_true, Bool.and_true]
    exact ih (fun q hq => h q (by simp [hq])) _

/-- The pieces of the record; its bytes. -/
def recordPieces (s : State) : List (DWord × Loc × Nat × LeafBits) :=
  spanPieces 0x01E0000000000000#64 (spansOf (recordNoted s).2)
def recordBytesOf (s : State) : List Byte :=
  (recordPieces s).flatMap fun p =>
    ((recordNoted s).1.locBytes p.2.1 (2 ^ ((recordNoted s).1.issueLoad 0 0 p).1.wid)).take p.2.2.1

/-- The lane is quiet, and the record stands in local stores that are there. -/
def answersAll (s : State) : Bool :=
  let v := (recordNoted s).1
  !v.cur.pathB && v.trace.isNone && v.earlier v.cur.blk v.cur.grp 0 v.cur.firstId == [] &&
  (recordPieces s).all fun p => match p.2.1 with | .ls b _ => v.windowReady b | .mem _ => false

theorem answersAll_reads {s : State} (h : answersAll s = true) :
    ∃ t, (recordNoted s).1.readsAs 0 (recordReads s) (t, [recordBytesOf s]) := by
  simp only [answersAll, Bool.and_eq_true, Bool.not_eq_true', Option.isNone_iff_eq_none, beq_iff_eq, List.all_eq_true] at h
  obtain ⟨⟨⟨a1, a2⟩, a3⟩, hl⟩ := h
  have q : (recordNoted s).1.Quiet 0 := ⟨a1, a2, a3⟩
  have reads := State.Quiet.reads (s := (recordNoted s).1) (reads := recordReads s)
    fun r hr => by rw [List.mem_singleton.mp hr]; exact q
  have hw : ∀ p ∈ recordPieces s, ∃ b o, p.2.1 = .ls b o ∧ (recordNoted s).1.windowReady b = true := by
    intro p hp
    have := hl p hp
    split at this
    · next b o e => exact ⟨b, o, e, this⟩
    · cases this
  obtain ⟨cs, hr⟩ := issueReady_local (lane := 0) (nud := 0) hw
  have hr' : (recordNoted s).1.readReady 0 (recordReads s) = ({ (recordNoted s).1 with ctxs := cs }, true) := by
    simp only [State.readReady, recordReads, List.foldl_cons, List.foldl_nil]
    rw [show spanPieces _ _ = recordPieces s from rfl, hr]
    rfl
  refine ⟨{ (recordNoted s).1 with ctxs := cs }, reads.1, reads.2, by rw [hr'], ?_⟩
  rw [hr']
  exact readBytes_local (s := { (recordNoted s).1 with ctxs := cs }) (nud := 0) _ _ ⟨a1, a2, a3⟩ fun p hp => by
    obtain ⟨b, o, e, _⟩ := hw p hp
    exact ⟨b, o, e⟩

theorem answers_record : answersAll record = true := by decide +kernel
theorem answers_noRecord : answersAll noRecord = true := by decide +kernel
theorem answers_fullQueue : answersAll fullQueue = true := by decide +kernel

theorem witness_MatrixRestore_ready : ∀ s ∈ [record, noRecord, fullQueue],
    ∃ t, (recordNoted s).1.readsAs 0 (recordReads s) (t, [recordBytesOf s]) := by
  simp only [List.forall_mem_cons, List.not_mem_nil, false_imp_iff, implies_true, and_true]
  exact ⟨answersAll_reads answers_record, answersAll_reads answers_noRecord, answersAll_reads answers_fullQueue⟩

theorem witness_MatrixRestore_record :
    let r := fun (s : State) => MRecord.ofBytes (recordBytesOf s)
    let room := fun (s : State) => (s.core s.cb.core).mq.length + (r s).pbs.length < 8
    (r record).ok 0#64 = true ∧ (r noRecord).ok 0#64 = false ∧ room record ∧ ¬ room fullQueue := by
  decide +kernel

/-- A store of the lane to the record is outstanding. -/
def heldRecord : State := { record with ops := [(0, op .store 0 [{ acc 0 0 with loc := .ls bk 64 }])] }

/-- The block has no slot. -/
def slotless : State := one.onBlock bk fun b => { b with oslots := 0 }

theorem witness_MatrixRestore_refused :
    ([one, slotless, heldRecord, conf (at_ 0x5000#32)].all (all [.mres (fa 0 2 0 0#10), .mres (fa 0 0 0 0#10)])) = true ∧
    (slotless.cb.oslots = 0 ∧ ((one.cg.lane 0).vpair 0).toNat % 256 ≠ 0) ∧
    (barred.all fun r => all [.mres (fa 0 2 0 0#10)] r.1 && r.1.cb.oslots != 0 &&
      ((r.1.cg.lane 0).vpair 2).toNat % 256 == 0 && answers r.1 needR 131328 == some r.2) = true ∧
    heldUp [.mres (fa 0 2 0 0#10)] id needR 131328 = true := by
  decide +kernel

theorem held_record : (recordNoted heldRecord).1.cur.pathB = false ∧
    (recordNoted heldRecord).1.readBehind (recordReads heldRecord) = false ∧
    (recordNoted heldRecord).1.readHeld (recordReads heldRecord) = true := by
  decide +kernel

theorem witness_MatrixRestore_held : all [.mres (fa 0 2 0 0#10)] heldRecord = true ∧
    (recordNoted heldRecord).1.readBehind (recordReads heldRecord) = false ∧
    (recordNoted heldRecord).1.readHeld (recordReads heldRecord) = true :=
  ⟨by decide +kernel, held_record.2⟩

/-- Beside path A's store to the record. -/
def besideRecord : State := beside record (.ls bk 0) 64

theorem witness_MatrixRestore_behind :
    (recordNoted besideRecord).1.readBehind (recordReads besideRecord) = true ∧ all [.mres (fa 0 2 0 0#10)] besideRecord = true ∧
    (besideRecord.core 0).mq.any (fun o => o.blk == bk && decide (o.id < besideRecord.cur.firstId)) = false ∧
    (besideRecord.piecesOf (fa 0 2 0 0#10) needR 0x01E0000000000000#64 131328).all leads = true := by
  decide +kernel

/-- The record's block has not started. -/
def farRecord : State := record.onBlock bk fun b => { b with started := false }

theorem witness_MatrixRestore_waits :
    let u := (recordNoted farRecord).1
    all [.mres (fa 0 2 0 0#10)] farRecord = true ∧
    (farRecord.piecesOf (fa 0 2 0 0#10) needR 0x01E0000000000000#64 131328).all leads = true ∧
    u.readBehind (recordReads farRecord) = false ∧ u.readHeld (recordReads farRecord) = false ∧
    (u.readReady 0 (recordReads farRecord)).2 = false := by
  decide +kernel

theorem witness_CopiesIssue :
    let win := core0 [lane [(3, 0x01E000FF#32), (4, 64#32)]]
    let busy := engine (List.replicate 256 (copy 1))
    let ts := [desc.touch needR 0 0x6000#64 128]
    all [.cpy (fa 2 2 4 0#10), .cpy (fa 2 2 0 0#10), .cpyt (fa 0 2 6 0#10), .cpyt (fa 0 0 6 0#10)] desc = true ∧
    all [.cpy (fa 2 2 4 0#10)] win = true ∧ all [.cpy (fa 2 2 4 0#10)] busy = true ∧
    (bits ((desc.cg.lane 0).vreg 5) 9 23 = 0 ∧ bits ((desc.cg.lane 0).vreg 6) 9 23 = 0 ∧
      badWindow desc [(0x6000#64, 64), (0x6000#64, 64)] = none ∧ desc.engineCount 0 0 + countLanes 1#64 ≤ 256) ∧
    (let b := beside desc (.mem 0x6000) 64;
      let noted := b.noteTouches [b.touch needR 0 0x6000#64 128]
      all [.cpyt (fa 0 2 6 0#10)] b = true ∧ [b.touch needR 0 0x6000#64 128].all leads = true ∧
      noted.1.readBehind [(0, 0x6000#64, spansOf noted.2)] = true) ∧
    (let noted := desc.noteTouches ts
      let reads := [(0, 0x6000#64, spansOf noted.2)]
      ts.all leads = true ∧ mayNow noted.1 reads = true ∧ (readNow noted.1 reads).2.all descOk = true) ∧
    badCtl desc 1#64 (fun x => x.vreg 1) = some 0xFFFFFFFE#32 ∧
    (badCtl desc 1#64 (fun x => x.vreg 6) = none ∧ ((desc.cg.lane 0).vpair 0).toNat % 64 ≠ 0) ∧
    badWindow win [((win.cg.lane 0).vpair 2, 64), ((win.cg.lane 0).vpair 2, 64)] = some 0x01E000FF00000000#64 ∧
    ¬ busy.engineCount 0 0 + countLanes 1#64 ≤ 256 := by
  decide +kernel

/-- A descriptor whose read the lane's own store holds back, one that memory does not have ready, and a bad one. -/
def heldDesc : State := { desc with ops := [(0, op .store 0 [acc 0x6000 0x6000])] }
def farDesc : State := at_ 0x6000#32
def badDesc : State := holding (at_ 0x6000#32) [6]

theorem witness_CopiesIssue_refused :
    let f := fa 0 2 6 0#10
    let busy := { desc with copies := (engine (List.replicate 256 (copy 1))).copies }
    let g := fa 0 2 6 0#10 true
    let noted := fun (s : State) => s.noteTouches [s.touch needR 0 0x6000#64 128]
    let reads := fun (s : State) => [(0, 0x6000#64, spansOf (noted s).2)]
    let parts := fun (s : State) => (noted s).1
    let ready := fun (s : State) => mayNow (noted s).1 (reads s)
    let descs := fun (s : State) => (readNow (noted s).1 (reads s)).2
    ([desc, heldDesc, farDesc, badDesc, busy].all fun s => all [.cpyt f, .cpyt (fa 0 2 1 0#10)] s &&
      [s.touch needR 0 0x6000#64 128].all leads) = true ∧
    all [.cpy { fa 2 2 4 0#10 true with c := 0#10 }, .cpyt g] desc = true ∧
    (badCtl desc 1#64 (fun x => x.vreg 1) = some 0xFFFFFFFE#32 ∧ badCtl desc 1#64 (fun x => x.vreg 5) = none ∧
      badPost desc 1#64 (fa 2 2 4 0#10 true) = some 0xFFFFFFFE00000007#64 ∧
      badPost desc 1#64 g = some 0xFFFFFFFE00000007#64 ∧ badPost busy 1#64 f = none) ∧
    (barred.all fun r => all [.cpyt f] r.1 && badCtl r.1 1#64 (fun x => x.vreg 6) == none &&
      ((r.1.cg.lane 0).vpair 2).toNat % 64 == 0 && answers r.1 needR 128 == some r.2) = true ∧
    heldUp [.cpyt f] id needR 128 = true ∧
    ((parts heldDesc).readBehind (reads heldDesc) = false ∧ (parts heldDesc).readHeld (reads heldDesc) = true ∧
      (parts farDesc).readBehind (reads farDesc) = false ∧ (parts farDesc).readHeld (reads farDesc) = false ∧
      ((parts farDesc).readReady 0 (reads farDesc)).2 = false) ∧
    (ready badDesc = true ∧ (descs badDesc).any (fun d => !descOk d) = true) ∧
    (ready busy = true ∧ (descs busy).all descOk = true ∧ ¬ busy.engineCount 0 0 + countLanes 1#64 ≤ 256) := by
  decide +kernel

theorem witness_CopyBatches :
    let sixteen := engine ((List.range 17).map copy)
    let waits := engine [copy 1]
    let failed := engine [copy 1 (.failed 9#8 0x5000#64)]
    ([one, sixteen, waits, failed].all (all [.cseal (fa 0 0 0 0#10), .cwait (fa 0 0 8 0#10 true)])) = true ∧
    (sealPasses one 0 = false ∧ sealPasses sixteen 0 = true) ∧
    (coveredBatches one 0 8#32 = [] ∧ coveredBatches waits 0 8#32 = [(0, 1)] ∧ coveredBatches failed 0 8#32 = [(0, 1)]) ∧
    (batchFailed waits 0 (0, 1) = false ∧ batchFailed failed 0 (0, 1) = true) := by
  decide +kernel

/-- A lane with a load outstanding, and a handle of another package to which a link is up. -/
def linked : State :=
  let s := core0 [lane [(2, 0x100000#32)]]
  { s with ops := loading.ops, nextId := 5, hub := { s.hub with routes := [(1, 1#8)], linkUp := 1#8 } }

theorem witness_Contributions :
    all [.xred (fa 1 0 5 (md 3) true), .xred (fa 0 1 5 (md 3)), .spred (fa 1 0 4 (md 3))] one = true ∧
    (handleOk one ((one.cg.lane 0).vreg 0) = true ∧ contribWaits one ((one.cg.lane 0).vreg 0) 0 = false) ∧
    handleOk one ((one.cg.lane 0).vreg 1) = false ∧
    all [.spred (fa 1 1 4 (md 3))] one = true ∧
    (all [.xred (fa 1 2 5 (md 3) true), .spred (fa 1 2 4 (md 3))] linked = true ∧
      handleOk linked ((linked.cg.lane 0).vreg 2) = true ∧ contribWaits linked ((linked.cg.lane 0).vreg 2) 0 = true) := by
  decide +kernel

theorem witness_EngineRecords :
    let hs := fun (s : State) a => s.piecesOf (fa 0 2 0 0#10) needR a 64
    let hn := fun (s : State) a => s.noteTouches (hs s a)
    let reads := fun (s : State) a => [(0, a, spansOf (hn s a).2)]
    let h := fun (s : State) a => readNow (hn s a).1 (reads s a)
    let hd := fun (s : State) a => (h s a).2.headD []
    let none_ := holding one [5]
    let bad := holding (at_ 0x2000#32) [2]
    all [.esave (fa 0 2 0 0#10), .esave (fa 0 0 0 0#10), .eres (fa 0 2 0 0#10)] none_ = true ∧
    (all [.eres (fa 0 2 0 0#10)] saved = true ∧ all [.eres (fa 0 2 0 0#10)] bad = true) ∧
    ((none_.piecesOf (fa 0 2 0 0#10) needW 0x5000#64 (none_.engineRecord bk).length).all leads = true ∧
      ((none_.cg.lane 0).vpair 0).toNat % 64 ≠ 0) ∧
    (((none_, 0x5000#64) :: (saved, 0x2FC0#64) :: [(bad, 0x2000#64)]).all fun s =>
      (hs s.1 s.2).all leads && mayNow (hn s.1 s.2).1 (reads s.1 s.2)) = true ∧
    (wordAt (hd none_ 0x5000#64) 0 8 = 0 ∧ wordAt (hd none_ 0x5000#64) 8 8 = (none_.blockId none_.cb).toNat ∧
      allZero ((hd none_ 0x5000#64).drop 16) = true) ∧
    (wordAt (hd saved 0x2FC0#64) 0 8 = 1 ∧ wordAt (hd saved 0x2FC0#64) 8 8 = (saved.blockId saved.cb).toNat ∧
      allZero ((hd saved 0x2FC0#64).drop 16) = true ∧ saved.engineCount 0 0 + 1 ≤ 256) ∧
    (let en := (h saved 0x2FC0#64).1.noteTouches [(h saved 0x2FC0#64).1.touch needR 0 0x3000#64 64]
      let er := [(0, 0x3000#64, spansOf en.2)]
      ([(h saved 0x2FC0#64).1.touch needR 0 0x3000#64 64].all leads = true) ∧ mayNow en.1 er = true ∧ entryOk saved (((readNow en.1 er).2.headD []).take 64) = true) ∧
    256 < wordAt (hd bad 0x2000#64) 0 8 := by
  decide +kernel

theorem witness_EngineRecords_refused :
    let f := fa 0 2 0 0#10
    let noted := fun (s : State) a => s.noteTouches [s.touch needR 0 a 64]
    let reads := fun (s : State) a => [(0, a, spansOf (noted s a).2)]
    let parts := fun (s : State) a => (noted s a).1
    let held := { at_ 0x5000#32 with ops := [(0, op .store 0 [acc 0x5000 0x5000])] }
    let far := at_ 0x5000#32
    ([held, far, one].all (all [.eres f, .eres (fa 0 0 0 0#10)])) = true ∧
    ((one.cg.lane 0).vpair 0).toNat % 64 ≠ 0 ∧
    (barred.all fun r => all [.eres f, .esave f] r.1 && ((r.1.cg.lane 0).vpair 2).toNat % 64 == 0 &&
      answers r.1 needR 64 == some r.2 &&
      (r.2 == .kernelReserved || answers r.1 needW (r.1.engineRecord bk).length == some r.2)) = true ∧
    (heldUp [.eres f] id needR 64 && heldUp [.esave f] id needW (one.engineRecord bk).length) = true ∧
    (let b := beside (at_ 0x5000#32) (.mem 0x5000) 64;
      all [.eres f] b = true ∧ [b.touch needR 0 0x5000#64 64].all leads = true ∧
      (parts b 0x5000#64).readBehind (reads b 0x5000#64) = true) ∧
    ((parts held 0x5000#64).readBehind (reads held 0x5000#64) = false ∧ (parts held 0x5000#64).readHeld (reads held 0x5000#64) = true ∧
      (parts far 0x5000#64).readBehind (reads far 0x5000#64) = false ∧
      (parts far 0x5000#64).readHeld (reads far 0x5000#64) = false ∧
      ((parts far 0x5000#64).readReady 0 (reads far 0x5000#64)).2 = false) := by
  decide +kernel

/-- The header of `saved`, with how its entry's page answers: no translation, not ready, held back, or a bad entry. -/
def entries (s : State) : State × Tr :=
  let hn := s.noteTouches [s.touch needR 0 0x2FC0#64 64]
  let h := (readNow hn.1 [(0, 0x2FC0#64, spansOf hn.2)]).1
  (h, (h.touch needR 0 0x3000#64 64).tr)
def savedHeader (s : State) : Bool :=
  let hn := s.noteTouches [s.touch needR 0 0x2FC0#64 64]
  let reads := [(0, 0x2FC0#64, spansOf hn.2)]
  let hd := (readNow hn.1 reads).2.headD []
  all [.eres (fa 0 2 0 0#10)] s && mayNow hn.1 reads && wordAt hd 0 8 == 1 &&
  wordAt hd 8 8 == (s.blockId s.cb).toNat && allZero ((hd.drop 16).take 48) && decide (s.engineCount s.cb.core 0 + 1 ≤ 256)
def entryReads (s : State) : Bool × Bool × Bool × List (List Byte) :=
  let h := (entries s).1
  let en := h.noteTouches [h.touch needR 0 0x3000#64 64]
  let reads := [(0, 0x3000#64, spansOf en.2)]
  let u := en.1
  (u.readBehind reads, u.readHeld reads, (u.readReady 0 reads).2, (readNow en.1 reads).2)

/-- `saved` with another leaf for page 3, without the entry's sector in the slice, with a store to the entry outstanding, and with
an entry of no kind. -/
def leaf3 (lo : Byte) : State := saved.setMemBytes 0xB018 [lo]
def farEntry : State := { saved with mesh := { saved.mesh with sect := (holding saved [2]).mesh.sect } }
def heldEntry : State := { saved with ops := [(0, op .store 0 [acc 0x3000 0])] }
def badEntry : State := saved.setMemBytes 0 [3#8]

theorem witness_EngineRecords_entries :
    ([leaf3 0#8, leaf3 0x81#8, leaf3 0x89#8, saved.setPoison 0 true, farEntry, heldEntry, badEntry].all savedHeader) = true ∧
    ((entries (leaf3 0#8)).2 = .missing ∧ (entries (leaf3 0x81#8)).2 = .protection ∧
      (entries (saved.setPoison 0 true)).2 = .poison) ∧
    ((entryReads heldEntry).1 = false ∧ (entryReads heldEntry).2.1 = true ∧ (entryReads farEntry).1 = false ∧
      (entryReads farEntry).2.1 = false ∧ (entryReads farEntry).2.2.1 = false) ∧
    ((entryReads badEntry).1 = false ∧ (entryReads badEntry).2.1 = false ∧ (entryReads badEntry).2.2.1 = true ∧
      entryOk badEntry (((entryReads badEntry).2.2.2.headD []).take 64) = false) := by
  decide +kernel

/-- `saved` beside path A's store to the entry; with the entry's page being moved; and with its header at the end of the first 2 MiB,
the next table being in host memory. -/
def behindEntry : State := beside saved (.mem 0) 64
def pulledEntry : State :=
  let s := (saved.setMemBytes 0xB01F [0x20#8]).setSect 0 (0x5000 / 64) 1
  { s with hub := { s.hub with mig := [(0, 0x5000#64), (3, BitVec.ofNat 64 (2 ^ 24))] } }
def edgeEntry : State :=
  let s := ({ at_ 0x1FFFC0#32 with mem := pages }.setMemBytes 0x2FC0 [1#8]).setMemBytes 0xBFF8 [0xB9#8, 0x20#8]
  holding (s.setMemBytes 0xA008 [1#8, 0x30#8, 0#8, 0#8, 0#8, 0#8, 0#8, 4#8]) [0, 2]

theorem witness_EngineRecords_entriesWait :
    (savedHeader behindEntry && savedHeader pulledEntry && (entryReads behindEntry).1) = true ∧
    (let h := (entries pulledEntry).1
      let t := h.touch needR 0 0x3000#64 64
      (!t.waits && (pullTouches h [t]).2.any Touch.waits) = true) ∧
    (let hn := edgeEntry.noteTouches [edgeEntry.touch needR 0 0x1FFFC0#64 64]
      let reads := [(0, 0x1FFFC0#64, spansOf hn.2)]
      let h := readNow hn.1 reads
      let hd := h.2.headD []
      all [.eres (fa 0 2 0 0#10)] edgeEntry = true ∧ mayNow hn.1 reads = true ∧ wordAt hd 0 8 = 1 ∧
      wordAt hd 8 8 = (edgeEntry.blockId edgeEntry.cb).toNat ∧ allZero ((hd.drop 16).take 48) = true ∧
      (h.1.touch needR 0 0x200000#64 64).waits = true) := by
  decide +kernel

theorem witness_LadderInstructions :
    let ts := (pageChunks (recordAddr ladder (climbing.cg.lane 0)) 16).map fun c => climbing.touch needW 0 c.1 c.2
    ([climbing, fullRing, delivered].all (all [.esc (fa 0 0 1 0#10 true), .ldone (fa 0 0 0 0#10), .lqry (fa 6 0 2 0#10 true),
      .lqry (fa 6 0 3 0#10 true), .ldrain (fa 0 0 2 0#10 true), .ldrain (fa 0 0 0 0#10 true)])) = true ∧
    all [.esc (fa 0 0 1 0#10 true)] one = true ∧
    (ladderNow climbing = some ladder ∧ ladderNow fullRing = some ladder ∧ ladderNow delivered = some ladder ∧
      ladderNow one = none) ∧
    (climbing.cg.rung = 0 ∧ ladder.rungs[1]? = some (rung 2) ∧ 0 + (rung 2).frame ≤ climbing.cb.regs ∧
      0 + ladder.rstride / 4 ≤ climbing.cb.regs) ∧
    ((climbing.cg.lane 0).done = false ∧ (delivered.cg.lane 0).done = true ∧ (fullRing.cg.lane 0).done = false) ∧
    ([climbing, fullRing].all fun s => !runPending s 1#64 0 2 && !runPending s 1#64 0 4 && s.laneQuiet bk 0 0) = true ∧
    ((lanesOf 1#64).take (64 - (climbing.ring (ringKey 0 1 1)).frames.length) = [0] ∧
      (lanesOf 1#64).take (64 - (fullRing.ring (ringKey 0 1 1)).frames.length) = [] ∧ fullRing.cur.follows = false) ∧
    (all [.esc (fa 0 0 1 0#10 true)] { fullRing with cur := { fullRing.cur with follows := true } } = true) ∧
    ts.all leads = true := by
  decide +kernel

/-- A ladder's launch with the record area at the pair v2:v3; one whose lane waits for its first registers; and one whose
records are longer than the lane's registers. -/
def recordsAt (s : State) : State := s.onLaunch 1 fun l => { l with ladder := some { ladder with rbase := (s.cg.lane 0).vpair 2 } }
def loadingRun : State := { climbing with ops := [(0, op (.load false) 1 [acc 0x5000 0x5000])], nextId := 5 }

theorem witness_LadderInstructions_refused :
    let is : List Instr := [.esc (fa 0 0 1 0#10 true), .ldone (fa 0 0 0 0#10), .lqry (fa 6 0 2 0#10 true), .ldrain (fa 0 0 2 0#10 true)]
    (all is one && all is loadingRun && all [.esc (fa 0 0 3 0#10 true), .esc (fa 0 63 1 0#10 true), .ldone (fa 0 62 0 0#10),
      .ldrain (fa 0 0 3 0#10 true)] climbing) = true ∧
    (climbing.cb.regs = 64 ∧ ladder.rungs.length = 3) ∧
    (runPending loadingRun 1#64 0 2 = true ∧ runPending loadingRun 1#64 0 4 = true ∧ ladderNow loadingRun = some ladder) ∧
    ((barred.filter fun r => r.2 != .kernelReserved).all fun r => all [.ldone (fa 0 0 0 0#10)] (recordsAt r.1) &&
      ((recordsAt r.1).launch 1).ladder.isSome && answers (recordsAt r.1) needW 16 == some r.2 &&
      !runPending (recordsAt r.1) 1#64 0 4) = true ∧
    heldUp [.ldone (fa 0 0 0 0#10)] recordsAt needW 16 = true := by
  decide +kernel

theorem witness_TrapsAndSystemRegisters :
    let s := core0 [lane []] [(2, 0x5000#64), (4, 6#64)]
    all [.trap (fi 0 5), .bkpt (fi 0 0), .sysr (fi 6 0x21), .sysw (fi 2 1), .sysw (fi 4 1), .sysw (fi 2 0)] s = true ∧
    (bits (s.cg.ureg 2) 57 7 = 0 ∧ bits (s.cg.ureg 2) 1 2 = 0 ∧ bits (s.cg.ureg 4) 1 2 ≠ 0) := by
  decide +kernel

/-- What the check of a device launch looks at. -/
def check_ (s : State) (desc caddr : DWord) (body : Option (List Byte)) : LCheck :=
  { desc := desc, body := body, caddr := caddr, deps := [], ndep := 0, clean := true, full := decide (256 ≤ s.deviceQueued 0) }

theorem witness_DeviceLaunches :
    let check := fun (s : State) (a : Nat) (body : Option (List Byte)) => checkLaunch s 0
      { desc := s.cg.ureg a, body := body, caddr := s.cg.ureg (a + 1), deps := [], ndep := 0, clean := true
        full := decide (256 ≤ s.deviceQueued 0) }
    let look := descriptor.virtLook 0 0 needR (descriptor.cg.ureg 4) 64
    ([descriptor, loading].all (all [.launch (fa 10 4 1 0#10), .launch (fa 10 7 1 0#10), .launch (fa 10 0 1 0#10),
      .lstat (fa 10 0 2 0#10 true)])) = true ∧
    (descriptor.laneQuiet bk 0 0 = true ∧ loading.laneQuiet bk 0 0 = false) ∧
    (match look.2 with
      | some ts => let reads := [(0, descriptor.cg.ureg 4, spansOf ts)]
          mayNow look.1 reads && (descriptor.virtWaits 0 0 needR (descriptor.cg.ureg 4) 64).isNone &&
            ((readNow look.1 reads).1.launchWaits 0 (check_ (readNow look.1 reads).1 0x6000#64 0#64 (readNow look.1 reads).2.head?)).isNone &&
            (match check look.1 4 (readNow look.1 reads).2.head? with | .ok l => l.cohorts == 1 && l.lanes == 64 | .error _ => false)
      | none => false) = true ∧
    (let far := { descriptor with mesh := State.reset.mesh }
      let q := far.virtLook 0 0 needR 0x6000#64 64
      all [.launch (fa 10 4 1 0#10)] far = true ∧ far.laneQuiet bk 0 0 = true ∧ far.cg.ureg 4 = 0x6000#64 ∧
      (q.2.any fun ts => !q.1.readBehind [(0, 0x6000#64, spansOf ts)] && !q.1.readHeld [(0, 0x6000#64, spansOf ts)] &&
        !(q.1.readReady 0 [(0, 0x6000#64, spansOf ts)]).2) = true) ∧
    (match check descriptor 7 (some (List.replicate 64 0#8)) with | .ok _ => false | .error n => n == 3) = true := by
  decide +kernel

/-- A launch whose completion word is mapped by a table in host memory; a lane whose launch descriptor a lane
of another group has yet to write, before a barrier that both have passed. -/
def farWord : State :=
  holding (((core0 [lane []] [(4, 0x6000#64), (5, 0x8000000000#64)]).setMemBytes 0x6000
    ([0#8, 0x10#8] ++ List.replicate 30 0#8 ++ [1#8, 0#8, 0#8, 0#8, 64#8, 0#8, 8#8, 0#8, 0#8, 0#8, 0#8, 0#8, 1#8])).setMemBytes 0x3008
      [1#8, 0x70#8, 0#8, 0#8, 0#8, 0#8, 0#8, 4#8]) [5, 6]
def heldLaunch : State :=
  let s := descriptor.onBlock bk fun b => { b with groups := b.groups.set 1 Group.init }
  { s with
    nextId := 6, ops := [(0, { op .store 0 [acc 0x6000 0x6000] with grp := 1 })]
    trace := some { s.newTrace with marks := [{ State.noMark with froms := [(bk, 1, 1#64)], upto := 1, tos := [(bk, 0, 1#64)] }] } }

theorem witness_DeviceLaunches_waits :
    (all [.launch (fa 10 4 1 0#10)] (unready descriptor) = true ∧ (unready descriptor).laneQuiet bk 0 0 = true ∧
      ((unready descriptor).virtWaits 0 0 needR 0x6000#64 64).isSome = true) ∧
    (let look := farWord.virtLook 0 0 needR 0x6000#64 64;
      all [.launch (fa 10 4 1 0#10)] farWord = true ∧ farWord.laneQuiet bk 0 0 = true ∧
      farWord.virtWaits 0 0 needR 0x6000#64 64 = none ∧
      (match look.2 with
        | some ts => let reads := [(0, 0x6000#64, spansOf ts)]
            let t := readNow look.1 reads
            mayNow look.1 reads && (t.1.launchWaits 0 (check_ t.1 0x6000#64 0x8000000000#64 t.2.head?)).isSome
        | none => false) = true) ∧
    (let s := (beside descriptor (.mem 0x6000) 64);
      let look := s.virtLook 0 0 needR 0x6000#64 64;
      all [.launch (fa 10 4 1 0#10)] s = true ∧ s.laneQuiet bk 0 0 = true ∧ s.virtWaits 0 0 needR 0x6000#64 64 = none ∧
      (look.2.any fun ts => look.1.readBehind [(0, 0x6000#64, spansOf ts)]) = true) ∧
    (let look := heldLaunch.virtLook 0 0 needR 0x6000#64 64;
      all [.launch (fa 10 4 1 0#10)] heldLaunch = true ∧ heldLaunch.laneQuiet bk 0 0 = true ∧
      heldLaunch.virtWaits 0 0 needR 0x6000#64 64 = none ∧
      (look.2.any fun ts => !look.1.readBehind [(0, 0x6000#64, spansOf ts)] && look.1.readHeld [(0, 0x6000#64, spansOf ts)]) = true) := by
  decide +kernel

theorem witness_ReturnFromTrap_waits :
    all [.rte (fa 0 0 1 0#10 true)] (unready handling) = true ∧
    ((lanesOf ((unready handling).execLanes 0x7F#8)).findSome? fun i =>
      wordWaitsAt (unready handling) ((unready handling).cg.lane i).epc).isSome = true ∧
    ((lanesOf (handling.execLanes 0x7F#8)).findSome? fun i => wordWaitsAt handling (handling.cg.lane i).epc) = none := by
  decide +kernel

theorem witness_ReturnFromTrap :
    all [.rte (fa 0 0 1 0#10 true)] handling = true ∧ all [.rte (fa 0 0 0 0#10 true)] one = true ∧
    ((handling.blocks.get? bk).isSome = true ∧ (handling.cb.groups.get? 0).isSome = true) ∧
    (∀ i ∈ lanesOf (handling.execLanes 0x7F#8), (handling.cg.lane i).inHandler = true) ∧
    one.execLanes 0x7F#8 &&& maskOf (fun i => !(one.cg.lane i).inHandler) ≠ 0#64 := by
  decide +kernel

/-! ### Witnesses: the steps of the other agents -/

/-- A state at a hub cycle. -/
def since (n : Nat) (s : State) : State := { s with hub := { s.hub with cycle := n } }

/-- The lane waits. -/
def waits (w : Wait) (s : State) : State := s.onLanes bk 0 1#64 fun _ l => { l with wait := w }

/-- A watch without a monitor, read in the first cycle. -/
def watch : Watch := { watchOf (fa 6 2 0 (md 3)) one.cg (one.cg.lane 0) 0x5000#64 1 none with readAt := some 0#64 }

/-- Two groups over a line of zero words, one active and at the end of its quantum, one pending. -/
def pair : State :=
  let s := one.onBlock bk fun b =>
    { b with groups := [(0, { b.groups.getD 0 Group.init with quantum := 64 }),
      (1, { b.groups.getD 0 Group.init with active := false })] }
  s.setCluster 0 { Cluster.init with
    icache := [{ asid := 0, va := 0x1000#64, global := false, level := 1, line := 0x10, words := [0#64, 0#64, 0#64], bad := 0#4, pins := [] }] }
def cold (s : State) : State := s.onGroup bk 0 fun g => { g with frozen := some 0x1000#64 }
def pendingOnly : State := one.onGroup bk 0 fun g => { g with active := false }

/-- A load from host memory whose bytes have not come. -/
def outward : Op := op (.load false) 8 [acc 0x5000 (memKey 1 0x5000)]
def asked : State := { one with ops := [(0, outward)], nextId := 5 }

theorem witness_CoreEvents_waits :
    asked.ops.get? 0 = some outward ∧
    (((asked.seeOutward 0 outward outward.accs).ops.get? 0).any fun q => q.accs.any (State.unseen q)) = true ∧
    (let o := op (.load false) 8 [acc 0x5000 0x5000];
      o.accs.any (State.unseen o) = false ∧
      ((loading.seeOutward 0 o o.accs).ops.get? 0).any (fun q => !q.accs.any (State.unseen q)) = true) := by
  decide +kernel

theorem witness_CoreEvents :
    let barred := waits (.bar 15) one
    let gathered := waits (.cbar 3) one
    loading.ops.get? 0 = some (op (.load false) 8 [acc 0x5000 0x5000]) ∧
    (one.monitorOf (.lane bk 0 0) = none ∧ 256 ≤ ((since 512 (waits (.waitc watch) one)).clock 0 - 0#64).toNat ∧
      ((since 512 (waits (.waitc watch) one)).lane bk 0 0).wait = .waitc watch) ∧
    (barred.barDue bk 15 = true ∧ gathered.cbarDue bk 3 = true) ∧
    (((waits (.sleep 5#64) one).lane bk 0 0).wait = .sleep 5#64 ∧ (one.block bk).resident = true ∧
      0 ≤ ((since 10 (waits (.sleep 5#64) one)).clock 0 - 5#64).toInt ∧
      ((since 8 (waits (.sleep 5#64) one)).clock 0 - 5#64).toInt < 0) ∧
    (pair.inActiveSet bk 0 = true ∧ pair.readyPending 0 = [(bk, 1)] ∧ Config.quantum ≤ (pair.group bk 0).quantum) ∧
    ((cold pair).inActiveSet bk 0 = true ∧ (cold pair).readyPending 0 = [(bk, 1)] ∧ (cold pair).ready bk 0 = false) ∧
    (((cold one).group bk 0).frozen = some 0x1000#64 ∧ (pendingOnly.group bk 0).frozen = none ∧
      pendingOnly.pendingMiss bk 0 = some 0x1000#64) := by
  decide +kernel

/-- An operation alone in the queue of core 0. -/
def alone (kind : MKind) (begun : Bool) : State := matrix.setCore 0 { Core.init with mq := [mop kind begun] }

/-- A parameter block of n K-steps. -/
def steps (n : Nat) : List Byte := [0#8, 0#8, 0#8, 0#8, BitVec.ofNat 8 n] ++ List.replicate 27 0#8

/-- A request for leave on die 0, whose record gives it two tokens. -/
def asking (engine : Bool) : State :=
  let s := alone (.mma (steps 17)) true
  (s.setDie 0 { Die.init with queue := [{ core := 0, engine := engine, id := 0, at_ := 0 }], taken := 1 }).bumpId |> fun t =>
    { t with boot := { t.boot with record := some (List.replicate 19 0#8 ++ [2#8]) } }

theorem witness_MatrixEvents :
    ([.mma (steps 17), .mma (steps 16), .msave, .tcfg].all fun k =>
      (alone k false).mop 0 0 == some (mop k false) && mayBegin ((alone k false).core 0).mq 0) = true ∧
    (pbHeavy (steps 17) = true ∧ pbHeavy (steps 16) = false) ∧
    ([.tcfg, .omclaim 0 8, .omrel 0 8, .acz 7, .acrd 7 4 [(0, 63)], .mres [], .omld true 0 true, .omst false 0, .acld 7 true, .acst 7,
      .msave, .mma (steps 17), .mma (steps 16)].all fun k => (alone k true).mop 0 0 == some (mop k true)) = true ∧
    ((mop (.mma (steps 17)) true).leave = true ∧
      (mop (.mma (steps 17)) true).prog < pbSteps (steps 17) * tcbM (mop (.mma (steps 17)) true).tcb) ∧
    ([true, false].all fun e => ((asking e).die 0).queue == [{ core := 0, engine := e, id := 0, at_ := 0 }] &&
      decide (((asking e).die 0).taken < (asking e).leaveTokens) && decide (0 < (since 1 (asking e)).hub.cycle)) = true := by
  decide +kernel

/-- A copy from an address. -/
def copyFrom (a : DWord) : Copy := { copy 0 with src := a }

theorem witness_CopyEvents :
    let none_ := engine [copy 0]
    let lost : State := { none_ with hub := { none_.hub with lost := 0xFFFFFFFF#32 } }
    let poison := none_.setPoison (0x5000 / 64) true
    ([copy 0, { copy 0 with tensor := true }, { copy 0 with tensor := true, desc := List.replicate 128 0#8 }].all fun c =>
      (engine [c]).copies.get? 1 == some c && (engine [c]).copyRuns c) = true ∧
    ((engine [copyFrom 0xC0000000#64]).copyBlocked (copyFrom 0xC0000000#64) = some (0xC0000000#64, false, .missing) ∧
      (engine [copyFrom 0x40000000#64]).copyBlocked (copyFrom 0x40000000#64) = some (0x40000000#64, false, .protection) ∧
      (engine [copyFrom 0x80000000#64]).copyBlocked (copyFrom 0x80000000#64) = some (0x80000000#64, false, .kernelReserved)) ∧
    (lost.copyRuns (copy 0) = true ∧ lost.copyBlocked (copy 0) = some (0x5000#64, false, .lost)) ∧
    (let c := { copy 0 with counted := [23] };
      let s := { engine [c] with hub := lost.hub };
      s.copies.get? 1 = some c ∧ s.copyRuns c = true ∧ s.copyBlocked c = some (0x5000#64, false, .lost)) ∧
    (poison.copyRuns (copy 0) = true ∧ poison.copyBlocked (copy 0) = some (0x5000#64, false, .poison)) := by
  decide +kernel

/-- Every item of the ladder is done; an owner of a cache has been idle. -/
def allDone : State := climbing.onLaunch 1 fun l => { l with doneCount := 1 }
def idle : State :=
  one.setCache 5 { Cache.init with owners := [{ owner := 3, seen := 0#32, idle := 65536, asid := 0 }] }

theorem witness_LadderEvents :
    let s := since 200 fullRing
    ((s.rings.get? (ringKey 0 1 1)).isSome = true ∧ ((s.launch 1).ladder.map Ladder.rungs) = some ladder.rungs ∧
      (s.ring (ringKey 0 1 1)).frames ≠ [] ∧ ladder.rungs[1]? = some (rung 2) ∧ (rung 2).hold ≤ (s.clock 0 - 0#64).toNat ∧
      (s.die 0).hold = false) ∧
    (s.trigger 0 1 1 = some 17 ∧ ((s.packed 0 1 1 (rung 2)).coreUse 0).fits = true ∧
      ∀ x ∈ s.firingRings 0, x = (1, 1) ∨ s.startsBefore x (1, 1) = false) ∧
    ((allDone.launch 1).ladder = some ladder ∧ (allDone.launch 1).ladderDone = false ∧ (allDone.launch 1).st = .running ∧
      ladder.items ≤ (allDone.launch 1).doneCount ∧ (allDone.ctx 0).tearing = none ∧
      allDone.virtWaits hubCore 0 needW 0x6000#64 8 = none ∧
      ((unready allDone).virtWaits hubCore 0 needW 0x6000#64 8).isSome = true) ∧
    ((idle.cache 5).ownerEnt 3 = some { owner := 3, seen := 0#32, idle := 65536, asid := 0 }) := by
  decide +kernel

/-- The context has a launch queue, with a record that the command processor has not taken. -/
def queue : State := (one.onCtx 0 fun c => { c with queues := [(0x8000, 3, 0#64)] }).setMemBytes 0x8000 [1#8]

/-- Launch 2, of one block: it waits for a word, or is ready. -/
def second (st : LState) (eff : Nat := 1) : Launch :=
  { Launch.init with lanes := 64, regs := 64, st := st, eff := eff, deps := [(0x5000#64, 1#64)], roomFrom := some 0 }
def launched (l : Launch) (s : State) : State :=
  { s with launches := s.launches.set 2 l, boot := { s.boot with passed := 0x1FFFFFF#25 } }

/-- The block of `one` with save frames in its context, and alone on its core, as something else needs the room. -/
def savable (s : State) : State := s.onCtx 0 fun c => { c with saveBase := 0x400000, saveSlots := 4 }
def leaving : State := (savable one).onBlock bk fun b => { b with leaving := true }
def away : State :=
  launched { Launch.init with st := .done } (one.onBlock bk fun b => { b with resident := false, frame := some (0, 0), oslots := 0 })
def endedBlock : State := one.onGroup bk 0 fun g => { g with ended := true }
def finished : State := { one with blocks := [] }
def tearing (s : State) : State := s.onCtx 0 fun c => { c with tearing := some (0x8000, []) }
def torn : State := { tearing one with blocks := [] }

/-- A launch of higher priority has found no room for 2^16 hub cycles: no die is in service. -/
def crowded : State :=
  let s := unready (savable one)
  since (2 ^ 16) { s with launches := s.launches.set 2 (second .ready 5) }

/-- The memory die of page 9 is not in service. -/
def nineAway (s : State) : State :=
  { s with boot := { s.boot with passed := 0x1FDFFFF#25 }, hub := { s.hub with interleave := [(9, 0x9000#16)] } }

/-- A table for the addresses from 2^39 on lies in host memory. -/
def farTable (s : State) : State := s.setMemBytes 0x3008 [1#8, 0x70#8, 0#8, 0#8, 0#8, 0#8, 0#8, 4#8]

/-- The queue's record lies in page 9; it names a descriptor beyond 2^39; its queue. -/
def queueAt (base : Nat) (s : State) : State :=
  (s.onCtx 0 fun c => { c with queues := [(base, 0, 0#64)] }).setMemBytes base [1#8]
def farRecordQueue : State := (farTable (queueAt 0x8000 one)).setMemBytes 0x8080 [0#8, 0#8, 0#8, 0#8, 0x80#8]

theorem witness_LaunchEvents_waits :
    (queue.homeAsks (memKey 0 0x8000) 8 = [] ∧ queue.homeAsks (memKey 0 0x8080) 128 = [] ∧
      queue.recordWaits 0 (queue.hubRead (memKey 0 0x8080) 128) = none) ∧
    ((unready queue).homeAsks (memKey 0 0x8000) 8 ≠ [] ∧ (unready queue).queueHeld 0 0 = false) ∧
    (let s := nineAway (queueAt 0x8F80 one);
      s.queueHeld 0 0 = false ∧ s.homeAsks (memKey 0 0x8F80) 8 = [] ∧ s.memDWord (memKey 0 0x8F80) ≠ 0#64 ∧
      s.homeAsks (memKey 0 0x9000) 128 ≠ []) ∧
    (farRecordQueue.queueHeld 0 0 = false ∧ farRecordQueue.homeAsks (memKey 0 0x8000) 8 = [] ∧
      farRecordQueue.homeAsks (memKey 0 0x8080) 128 = [] ∧
      (farRecordQueue.recordWaits 0 (farRecordQueue.hubRead (memKey 0 0x8080) 128)).isSome = true) ∧
    ((second .waiting).deps.filter (fun d => !(launched (second .waiting) one).depMet 0 d) ≠ []) ∧
    (∀ j ∈ away.savedShare bk, away.frameAsks j = []) ∧
    (finished.wordWaits 0 0#64 = none ∧
      (let s := farTable (finished.onLaunch 1 fun l => { l with caddr := 0x8000000000#64 });
        s.liveCtx 0 = true ∧ (s.launch 1).st = .running ∧ s.launchOver 1 = true ∧ s.ladderFirst 1 = false ∧
        (s.wordWaits 0 (s.launch 1).caddr).isSome = true)) := by
  decide +kernel

theorem witness_LaunchEvents :
    ((queue.ctxs.get? 0).map Ctx.queues = some [(0x8000, 3, 0#64)] ∧ (queue.ctx 0).tearing = none ∧
      queue.queueHeld 0 0 = false ∧ queue.memDWord (memKey 0 0x8000) ≠ 0#64) ∧
    (((launched (second .waiting) one).launch 2).st = .waiting ∧
      ((launched (second .waiting) one).launches.get? 2).isSome = true) ∧
    (let s := launched (second .ready) one;
      s.hub.placeHalt = false ∧ s.toPlace 2 = true ∧ (s.launch 2).blocks = 1 ∧ s.inService 0 = true ∧ s.spreadOk 2 0 = true ∧
      s.hasTurn 2 0 = true ∧ (s.putCohort 2 [1]).isSome = true) ∧
    (let s := launched { Launch.init with st := .done } (one.onBlock bk fun b => { b with started := false });
      (s.block bk).resident = true ∧ (s.block bk).started = false ∧ (s.block bk).leaving = false ∧
      (s.group bk 0).stopped = false ∧ s.inService 0 = true) ∧
    (let s := since (2 ^ 20) (launched (second .ready 6) one);
      (s.launch 2).nextCohort < (s.launch 2).cohorts ∧ (s.launch 2).eff < 7 ∧ 2 ^ 20 ≤ s.hub.cycle - (s.launch 2).ageFrom) ∧
    ((crowded.block bk).leaving = false ∧ crowded.preemptDue bk = true) ∧
    ((leaving.block bk).leaving = true ∧ ([bk].all leaving.saveQuiet) = true ∧ leaving.shareOf bk = [bk] ∧
      1 ≤ (leaving.freeFrames 0).length) ∧
    ((away.block bk).frame.isSome = true ∧ (away.block bk).resident = false ∧ clusterOf 7 = (away.block bk).cluster ∧
      away.inService (dieOf 7) = true ∧ away.liveCtx 0 = true ∧ away.hasTurn 1 0 = true ∧ away.hasFrames 7 1 = false ∧
      away.engineTakes 7 (away.savedShare bk) = true ∧ (away.putShare 7 (away.savedShare bk)).isSome = true) ∧
    ((endedBlock.blocks.get? bk).isSome = true ∧ endedBlock.blockOver bk = true) ∧
    (finished.liveCtx 0 = true ∧ (finished.launch 1).st = .running ∧ finished.launchOver 1 = true ∧
      finished.ladderFirst 1 = false) ∧
    ((torn.ctx 0).tearing = some (0x8000, []) ∧ torn.blocks = [] ∧ torn.ops = []) ∧
    (let s := tearing one; (s.ctx 0).tearing.isSome = true ∧ (s.blocks.map fun kb => kb.2.asid) = [0]) ∧
    ((second .waiting).device = none) := by
  decide +kernel

theorem witness_LaunchEvents_empty :
    let s := one.onCtx 0 fun c => { c with queues := [(0x8000, 3, 0#64)] }
    (s.ctxs.get? 0).map Ctx.queues = some [(0x8000, 3, 0#64)] ∧ s.queueHeld 0 0 = false ∧ s.memDWord (memKey 0 0x8000) = 0#64 := by
  decide +kernel

/-- The host port without keys. -/
def unkeyed : State := { one with boot := { one.boot with ideHost := none } }


/-- The hub holds an entry whose ring has room; two copies wait for the same page. -/
def answering : State :=
  { one with hub := { one.hub with
      held := [{ id := 7, bytes := [] }], fqbase := 7#64
      outst := [{ id := 3, asid := 0, va := 0x5000#64, seq := some 4#32, waiter := .copy 1 },
        { id := 4, asid := 0, va := 0x5008#64, seq := some 5#32, waiter := .copy 2 }] } }

/-- A migration entry: state, lines pulled; it moves the page at 0x5000 to 0x6000, its leaf being at 0x4000. -/
def migrating (st pulled : Nat) : State :=
  { one with hub := { one.hub with
      mig := [(0, 0x5000#64), (1, 0x6000#64), (2, 0x4000#64), (3, BitVec.ofNat 64 (st * 2 ^ 24 + pulled))] } }

theorem witness_FaultAndTranslationEvents :
    (answering.hub.held = [{ id := 7, bytes := [] }] ∧ answering.fqLog = some 7 ∧ answering.fqFull 7 = false ∧
      answering.mayServe answering.hub.waiting (memKey 1 0) (.bytes (toBytes 4 answering.hub.seq.toNat)) = true) ∧
    (answering.coveredBy 4#32 ≠ [] ∧ answering.coveredBy 9#32 = []) ∧
    ([0, 1, 2].all fun k =>
      let v := BitVec.ofNat 64 (2 ^ 63 + k * 2 ^ 61);
      v.getLsbD 63 && bits v 56 5 == 0 && !one.tinvBusy && bits v 61 2 == k &&
        !(v &&& 0x7FFFFFFFFFFFFFFF#64).getLsbD 63 && bits (v &&& 0x7FFFFFFFFFFFFFFF#64) 56 5 == 0 &&
        bits (v &&& 0x7FFFFFFFFFFFFFFF#64) 61 2 == k) = true ∧
    ((migrating 0 0).migState 0 = 0 ∧ (migrating 0 0).migRefused 0 = false ∧ (migrating 0 0).leafServes 0 = true ∧
      (unready (migrating 0 0)).leafServes 0 = false ∧ (unready (migrating 0 0)).migState 0 = 0 ∧
      (unready (migrating 0 0)).boot.ideHost.isSome = true) ∧
    ((migrating 1 0).pullAsks 0 0 = [] ∧ (migrating 1 0).pullQuiet 0 0 = true ∧
      ((migrating 1 0).setSect 0 (0x5000 / 64) 1).pullAsks 0 0 ≠ [] ∧
      ((migrating 1 0).setSect 0 (0x5000 / 64) 1).nextPull 0 = some 0) ∧
    ((migrating 1 0).migState 0 = 1 ∧ (migrating 1 0).nextPull 0 = some 0 ∧
      (migrating 1 0).isLost ((migrating 1 0).migOld 0) = false) ∧
    (migrating 1 0xFFFF).nextPull 0 = none ∧
    (BitVec.getLsbD 0x4000000000000000#64 63 = false ∧ bits 0x8100000000000000#64 56 5 ≠ 0 ∧
      unkeyed.boot.ideHost.isSome = false) := by
  decide +kernel

/-- The hub with a context, and with none. -/
def noCtx : State := { one with ctxs := [] }
def hubIs (f : Hub → Hub) (s : State) : State := { s with hub := f s.hub }
def fencedHub (more : BitVec 25 := 0#25) : State := hubIs (fun h => { h with fenced := 1#25 <<< 23, requalified := more }) one

/-- At 0x6000: a window, a region, a context descriptor. -/
def windowAt : State := one.setMemBytes 0x6010 [1#8, 0#8, 0#8, 0#8, 0#8, 3#8, 0#8, 0#8, 1#8]
def contextAt : State := one.setMemBytes 0x6000
  (List.replicate 8 0#8 ++ [5#8] ++ List.replicate 43 0#8 ++ [1#8] ++ List.replicate 11 0#8 ++ [1#8])
def regionIn (st : Nat) : State :=
  hubIs (fun h => { h with regions := [(1, { base := 0, len := 64, key := 0#32, perm := 0#8, st := st, inflight := 0 })] })
    one

theorem witness_MailboxCommands_waits :
    ([one, windowAt, contextAt].all fun s => !s.awaits 0x6000 128 && !s.awaits 0x6000 64 && !s.awaits 0x6000 32) = true ∧
    (let s := unready one;
      s.hub.busy = false ∧ s.boot.level ≠ 0#2 ∧ s.hub.regtable = none ∧ s.hbmRange 0x6000 128 = true ∧ s.hbmRange 0x6000 64 = true ∧
      s.hbmRange 0x6000 32 = true ∧ s.awaits 0x6000 128 = true ∧ s.awaits 0x6000 64 = true ∧ s.awaits 0x6000 32 = true) := by
  decide +kernel

theorem witness_MailboxCommands :
    (one.hub.busy = false ∧ one.boot.level ≠ 0#2 ∧ noCtx.ctxs = [] ∧ noCtx.hub.busy = false ∧ noCtx.boot.level ≠ 0#2) ∧
    (one.hub.fenced.getLsbD 23 = false ∧ (fencedHub (1#25 <<< 23)).hub.fenced.getLsbD 23 = true ∧
      (fencedHub (1#25 <<< 23)).hub.requalified.getLsbD 23 = true) ∧
    one.removesLive 4095 0xFF#8 = false ∧
    (windowAt.hbmRange 0x6000 64 = true ∧ windowOk (windowAt.hubRead (memKey 0 0x6000) 64) = true ∧
      windowAt.receiving 255 = false) ∧
    (one.hub.regtable = none ∧ one.hbmRange 0x6000 32 = true ∧ regionOk (one.hubRead (memKey 0 0x6000) 32) = true ∧
      one.regionState 4095 = 0) ∧
    ((regionIn 1).regionState 1 = 1 ∧ (regionIn 1).hbmRange 0x6000 8 = true) ∧
    (one.hbmRange 0x6000 128 = true ∧ one.hub.regions = []) ∧
    (ctxOk (contextAt.hubRead (memKey 0 0x6000) 128) = true ∧
      contextAt.ctxs.get? (wordAt (contextAt.hubRead (memKey 0 0x6000) 128) 8 2) = none) ∧
    (one.liveCtx 0 = true ∧ one.hub.kresLock = false ∧ one.hub.kres.length = 16) := by
  decide +kernel

/-- The hub runs a command; the level is 0. -/
def running : State := hubIs (fun h => { h with busy := true }) one
def asleep : State := { one with boot := { one.boot with level := 0#2 } }

theorem witness_MailboxRefusals :
    running.hub.busy = true ∧ (asleep.hub.busy = false ∧ asleep.boot.level = 0#2) ∧
    (one.hub.busy = false ∧ one.boot.level ≠ 0#2) ∧ (fencedHub.hub.fenced.getLsbD 23 = true) ∧
    (one.hub.fenced.getLsbD 23 = false) ∧ one.ctxs ≠ [] ∧ (1#64).toNat % 64 ≠ 0 := by
  decide +kernel

/-- A live route, a window that has received, a table of regions. -/
def routed : State := hubIs (fun h => { h with routes := h.routes.set 4 3#8 }) one
def received : State := hubIs (fun h => { h with windows := [(255,
  { base := 0, out := 0, count := 1, op := 0, ty := 3, expect := 2, doneAddr := 0, doneVal := 0#64, received := 1
    discarded := 0, done := false })] }) windowAt
def tabled : State := hubIs (fun h => { h with regtable := some (0x10000, 4096, 0x20000, 512) }) one

theorem witness_MailboxRefusals_checks :
    (unkeyed.boot.ideHost.isSome = false ∧ (fencedHub).hub.requalified.getLsbD 23 = false ∧ one.boot.ideHost.isSome = true) ∧
    (routed.ctxs ≠ [] ∧ routed.removesLive 4 1#8 = true ∧ routed.hub.busy = false ∧ routed.boot.level ≠ 0#2) ∧
    (windowOk (one.hubRead (memKey 0 0x6000) 64) = false ∧ one.hbmRange 0x10000000000 64 = false ∧ received.receiving 255 = true ∧
      windowOk (received.hubRead (memKey 0 0x6000) 64) = true ∧ received.hbmRange 0x6000 64 = true) ∧
    ([one, received, contextAt, regionIn 2, tabled, (one.setMemBytes 0x6000 [1#8])].all fun s =>
      !s.awaits 0x6000 128 && !s.awaits 0x6000 64 && !s.awaits 0x6000 32) = true ∧
    (tabled.hub.regtable = some (0x10000, 4096, 0x20000, 512) ∧ (one.setMemBytes 0x6000 [1#8]).hubRead (memKey 0 0x6000) 32 ≠ [] ∧
      regionOk ((one.setMemBytes 0x6000 [1#8]).hubRead (memKey 0 0x6000) 32) = false ∧ regionOk (one.hubRead (memKey 0 0x6000) 32) = true ∧
      (regionIn 2).regionState 1 = 2 ∧ (regionIn 2).hub.regtable = none ∧ one.hub.regtable = none ∧ one.regionState 1 ≠ 1 ∧
      (regionIn 1).anyRegion = true) ∧
    (ctxOk (one.hubRead (memKey 0 0x6000) 128) = false ∧
      (let s : State := { contextAt with ctxs := [(5, Ctx.init)] };
        ctxOk (s.hubRead (memKey 0 0x6000) 128) = true ∧
          (s.ctxs.get? (wordAt (s.hubRead (memKey 0 0x6000) 128) 8 2)).isSome = true) ∧
      one.liveCtx 2047 = false ∧ one.hbmRange 0x6000 64 = true) ∧
    (BitVec.getLsbD 0x800000000000000F#64 63 = true ∧ bits 0x800000000000000F#64 8 55 = 0 ∧
      BitVec.extractLsb' 0 8 0x800000000000000F#64 = 0xF#8) := by
  decide +kernel

/-- A coherence message at a stop, on its way to another; a state that holds it as message 7, with tree entries. -/
def message (typ : MsgType) (trail : List (Nat × BitVec 5 × Nat) := []) (local_ : Bool := false) (pruned : Bool := false)
    (tx : Nat := 3) : Msg :=
  { typ := typ, line := 80, smask := 1#4, die := 0, req := 1, inc := 0#8, agent := 0, grant := 1#3, pers := false, need := false
    pruned := pruned, dir := 2, x := 3, y := 2, tx := tx, ty := 2, trail := trail, via := none, rooted := false
    uncounted := false, exempt := none, noted := false, atLocal := local_, caught := 0 }
def entry : TreeEnt :=
  { x := 3, y := 2, line := 80, links := 3#5, up := 1, root := false, transient := [], evicting := false, awaiting := 0#5
    dirty := 0#4, awaitReq := 0, asker := 0, doomed := false, stamp := 0, way := 0, origin := false }
def request : Req :=
  { die := 0, line := 80, smask := 1#4, own := true, need := false, whole := false, held := false, tag := 0#12, refusals := 0, pers := false, core := 0, asid := 0
    clock := 0#64, agent := 16, reported := false, outward := none, outAt := 0, outReported := false, noGrant := false
    snoop := false, swm := false, want := { cls := 0, clock := 0#32, owner := 0 } }
def mesh (m : Msg) (trees : List TreeEnt := []) (inc : Cells 8 := []) : State :=
  { one with
    boot := { one.boot with passed := 0x1FFFFFF#25 }
    mesh := { Mesh.init with trees := trees, msgs := [(7, m)], reqs := [(1, request)], inc := inc } }

/-- A router of the trail: its stop, the links tried there, and the direction in which the read came. -/
def tried (stop : Nat) (links : BitVec 5) : Nat × BitVec 5 × Nat := (stop, links, 2)

theorem witness_CoherenceMessages_read :
    ((mesh (message .rd) [] [(0, 1#8)]).msg 7 = some (message .rd) ∧
      ((message .rd).inc - (mesh (message .rd) [] [(0, 1#8)]).incOf 0).toInt < 0) ∧
    ([message .rd, message .rd [] true, message .rd [tried (stopNo 3 2) 0#5], message .rd [tried (stopNo 4 2) 1#5], message .nh,
      message .data [tried 43 1#5, tried 63 2#5], message .data [] false false 3, message .refuse,
      message .refuse [tried 43 1#5, tried 63 2#5], message .own, message .own [] false false 5, message .inv, message .ack,
      message .ack [] false true, message .prune, message .pack, message .unlink, message .wb, message .wb [] false false 5,
      message .wba, message .wba [] false false 5].all
      fun m => [entry, { entry with evicting := true }].all fun e =>
        (mesh m [e]).msg 7 == some m && !(mesh m [e]).dropsMsg m && !(mesh m [e]).isBehind 7 m &&
        (mesh m [e]).ent 3 2 80 == some e && (mesh m).ent 3 2 80 == none && !(mesh m).isBehind 7 m && !(mesh m).dropsMsg m) = true ∧
    ((message .rd [tried (stopNo 3 2) 0#5]).trail.any (fun q => q.1 == stopNo 3 2) = true ∧
      (message .rd [tried (stopNo 4 2) 1#5]).trail.any (fun q => q.1 == stopNo 3 2) = false) ∧
    ((mesh (message .own)).goingAway entry = false ∧ (mesh (message .own)).goingAway { entry with evicting := true } = true ∧
      (mesh (message .own)).goingAway { entry with doomed := true } = true) := by
  decide +kernel

theorem witness_CoherenceMessages_way :
    (match State.wayBack (State.passVia (message .data [tried 43 1#5, tried 63 2#5])) with | .back p => p == (3, 3) | _ => false) =
      true ∧
    ([message .data, message .refuse, message .data [] false false 5, message .refuse [] false false 5].all fun m =>
      match State.wayBack (State.passVia m) with | .on d => d == (if m.tx = 3 then 0 else 2) | _ => false) = true ∧
    ((message .data).grant ≠ 3#3 ∧
      ((mesh (message .data)).graft 3 2 80 0 (opposite 2) ((mesh (message .data)).homeStop 80 == (3, 2)) false).2 = true) ∧
    (¬ (3 = (message .own [] false false 5).tx ∧ 2 = (message .own [] false false 5).ty)) ∧
    (3 = (message .own).tx ∧ 2 = (message .own).ty ∧ (mesh (message .own)).mesh.reqs.get? 1 = some request ∧
      (match (mesh (message .own)).meetHome 7 (message .own) with | .go _ => true | _ => false) = true) ∧
    (routeXY 3 2 5 2 ≠ 0 ∧ routeXY 3 2 3 2 = 0) := by
  decide +kernel

/-- The types of a message; another message of the line before it at its stop. -/
def types : List MsgType := [.rd, .own, .data, .nh, .inv, .ack, .prune, .pack, .unlink, .wb, .wba, .refuse]
def behind (m : Msg) : State :=
  let s := mesh m [entry]
  { s with mesh := { s.mesh with msgs := [(6, message .inv), (7, m)] } }

theorem witness_CoherenceMessages_order :
    (types.all fun y => (mesh (message y) [] [(0, 1#8)]).msg 7 == some (message y) &&
      decide (((message y).inc - (mesh (message y) [] [(0, 1#8)]).incOf 0).toInt < 0)) = true ∧
    ([MsgType.inv, .prune].all fun y => (behind (message y)).isBehind 7 (message y) && !(behind (message y)).dropsMsg (message y) &&
      (behind (message y)).msg 7 == some (message y)) = true ∧
    ([(2#5, 1, false, []), (2#5, 9, false, []), (0#5, 1, true, []), (0#5, 9, true, []), (0#5, 1, false, [3])].all fun x =>
      let e := { entry with awaiting := x.1, awaitReq := x.2.1, evicting := x.2.2.1, transient := x.2.2.2 };
      (mesh (message .inv) [e]).ent 3 2 80 == some e && !(mesh (message .inv) [e]).isBehind 7 (message .inv)) = true ∧
    ((message .nh).trail.length < 2 ∧ (mesh (message .nh)).ent 3 2 80 = none) ∧
    (let e := { entry with awaiting := 2#5, awaitReq := 1 };
      (mesh (message .inv) [e]).ent 3 2 80 = some e ∧ (mesh (message .inv) [e]).isBehind 7 (message .inv) = false ∧
        e.awaitReq = (message .inv).req ∧ e.evicting = false) ∧
    (let e := { entry with evicting := true, awaiting := 1#5 };
      ((mesh (message .wba) [e]).dropMsg 7).ent 3 2 80 = some e ∧ e.awaiting.getLsbD 0 = true) ∧
    (let e := { entry with evicting := true };
      ((mesh (message .wba) [e]).dropMsg 7).ent 3 2 80 = some e ∧ e.awaiting.getLsbD 0 = false) := by
  decide +kernel

/-- A request for ownership at its home in every outcome: served, early, behind a persistent one, without a request. -/
def askingHome (level : Nat) (persist : List (Nat × Nat)) (reqs : Tbl Req) : State :=
  let s := mesh (message .own) [entry]
  { s with
    boot := { s.boot with level := BitVec.ofNat 2 level }
    mesh := { s.mesh with persist := persist, reqs := reqs } }

theorem witness_CoherenceMessages_home :
    ([(3, [], 0), (0, [], 1), (3, [(stopNo 0 0, 2)], 2)].all fun x =>
      let s := askingHome x.1 x.2.1 [(1, request), (2, request)];
      s.msg 7 == some (message .own) && !s.dropsMsg (message .own) && s.mesh.reqs.get? 1 == some request &&
        (match s.meetHome 7 (message .own) with | .go _ => x.2.2 == 0 | .wait _ => x.2.2 == 1 | .refuse _ => x.2.2 == 2)) = true ∧
    (askingHome 3 [] []).mesh.reqs.get? 1 = none ∧
    (let k := { message .data with grant := 3#3, x := 0, y := 0, tx := 0, ty := 0 };
      ((mesh k).homeStop 80 == (k.x, k.y)) = true ∧ (mesh k).msg 7 = some k ∧ (mesh k).dropsMsg k = false ∧ (match State.wayBack (State.passVia k) with | .on d => d == 0 | _ => false) = true) := by
  decide +kernel

/-- Requests that have waited long, outward; keys of both ports; a link that is down. -/
def outwards : Req := { request with line := 2 * 2 ^ 44 + 80, outward := some (message .own) }
def outside : State :=
  { one with
    hub := { one.hub with cycle := 2 ^ 27, linkUp := 0xFE#8 }
    boot := { one.boot with ideHost := some 5#64, idePool := some 6#64 }
    mesh := { Mesh.init with reqs := [(1, request), (2, outwards)] } }

theorem witness_PortAndErrorEvents :
    (12 < BitVec.toNat 13#5 ∧ 1 ≤ BitVec.toNat 12#5 ∧ BitVec.toNat 12#5 ≤ 12) ∧
    (outside.portOpen false = true ∧ outside.portOpen true = true ∧ keyTier (64 * (2 ^ 47)) = 2 ∧ keyTier (64 * 2 ^ 46) = 1) ∧
    (one.sliceIdle 15 383 = true ∧ (15, 383) ∉ one.mesh.retained) ∧
    (outside.mesh.reqs.get? 1 = some request ∧ outside.timerHeld request = false ∧
      2 ^ 26 ≤ (outside.clock request.core - request.clock).toNat) ∧
    (outside.mesh.reqs.get? 2 = some outwards ∧ outwards.outward.isSome = true ∧ outwards.line / 2 ^ 44 = 2 ∧
      2 ^ 27 ≤ outside.hub.cycle - outwards.outAt ∧ outwards.own = true) ∧
    (let q := { request with own := false, noGrant := true, outward := some (message .rd) };
      let s := { outside with mesh := { outside.mesh with reqs := [(3, q)] } };
      s.mesh.reqs.get? 3 = some q ∧ s.portOpen (q.line / 2 ^ 44 == 2) = true) ∧
    (outside.hub.linkUp.getLsbD 7 = true ∧ outside.mesh.msgs = [] ∧ outwards.swm = false) ∧
    (outside.hbmRange 0x5000 1 = true ∧ outside.isLost (memKey 0 0x5000) = false ∧
      (State.rangeOf (memKey 0 0x5000) 1).all (fun k => !outside.isServing (k / 4) && !outside.someHolds k (· != 0)) = true) := by
  decide +kernel

theorem witness_PortAndErrorEvents_host :
    ([HubWrite.host [1#8], HubWrite.share 1].all fun w => one.portOpen false && one.hbmRange 0x5000 1 && !one.isLost (memKey 0 0x5000) &&
      one.mayServe one.hub.waiting (memKey 0 0x5000) w &&
      !(unready one).mayServe (unready one).hub.waiting (memKey 0 0x5000) w && (unready one).portOpen false &&
      (unready one).hbmRange 0x5000 1 && !(unready one).isLost (memKey 0 0x5000)) = true := by
  decide +kernel

/-- Packets, contributions and remote messages on their way. -/
def packet (seq count : Nat) : Packet := { fid := 2, msg := 5, seq := seq, count := count, payload := .write 0x5000 [1#8] }
def arrived : State := one.setInbound { fid := 2, msg := 5, count := 2, got := [0], writes := [], counts := [] }
def applied (s : State) : State := (s.setInbound ((s.inboundOf (packet 1 2)).add (packet 1 2))).applyPacket (packet 1 2)
def window (done : Bool) : Window :=
  { base := 0x6000, out := 0, count := 4, op := 0, ty := 3, expect := 1, doneAddr := 0x7000, doneVal := 1#64, received := 0
    discarded := 0, done := done }
def contrib : Contrib := { id := 1, fid := 0, win := 7, elem := 3, op := 0, ty := 3, value := 5#128, count := 1, lane := none, launch := none, msg := none, held := false }
def contributing (w : Option Window) : State :=
  hubIs (fun h => { h with contribs := [contrib], windows := match w with | some x => [(7, x)] | none => [] }) one
def remoteMsg (packet : Nat) : RemoteMsg :=
  { conn := 3, seq := 1, region := 1, key := 0#32, offset := 0, length := 64, write := true, packet := packet, packets := 2
    at_ := 0, bytes := [1#8] }
def remote (refused : Option Refuse) (got : List Nat) : Remote :=
  { id := 4, conn := 3, seq := 1, region := 1, base := 0x5000, length := 64, write := true, packets := 2, got := got
    bytes := [], lastAt := 0, refused := refused }
def remotes (r : Remote) : State :=
  since (2 ^ 27) (hubIs (fun h => { h with remotes := [r], conns := [(3, 1)] }) (regionIn 1))

theorem witness_InboundEvents :
    ((arrived.inboundOf (packet 0 2)).got.contains 0 = true ∧ (one.inboundOf (packet 2 2)).count ≤ 2) ∧
    ((one.inboundOf (packet 1 2)).got.contains 1 = false ∧ 1 < (one.inboundOf (packet 1 2)).count ∧
      ((applied one).inboundOf (packet 1 2)).got.length < (one.inboundOf (packet 1 2)).count) ∧
    ((arrived.inboundOf (packet 1 2)).got.contains 1 = false ∧ 1 < (arrived.inboundOf (packet 1 2)).count ∧
      (arrived.inboundOf (packet 1 2)).count ≤ ((applied arrived).inboundOf (packet 1 2)).got.length) ∧
    ([none, some (window true), some (window false)].all fun w =>
      (contributing w).hub.contribs.find? (fun x => x.id == 1) == some contrib &&
        (contributing w).hub.windows.get? 7 == w) = true ∧
    ((contributing none).contribBad (window false) contrib = false ∧
      (contributing none).contribBad { window false with count := 3 } contrib = true ∧ contrib.msg = none ∧
      (contributing (some (window false))).contribTurn contrib ≠ .wait ∧
      (contributing (some (window false))).homesServe (memKey 0 (State.elemPa (window false) 3)) (elemSize 3) = true ∧
      ((contributing none).callHome [sectorOf (memKey 0 (State.elemPa (window false) 3))]).isNone = true) ∧
    ((regionIn 1).remotePassed (remoteMsg 0) = false ∧
      (regionIn 1).hub.remotes.find? (fun x => x.conn == 3 && x.seq == 1) = none) ∧
    ((remotes (remote none [0])).remotePassed (remoteMsg 1) = false ∧
      (remotes (remote none [0])).hub.remotes.find? (fun x => x.conn == 3 && x.seq == 1) = some (remote none [0]) ∧
      [0].length < (remote none [0]).packets ∧ 2 ^ 27 ≤ (remotes (remote none [0])).hub.cycle - 0) ∧
    ([remote none [0, 1], remote (some .key) []].all fun r => (remotes r).hub.remotes.find? (fun x => x.id == 4) == some r &&
      (remotes r).connAt 3 == some r.seq) = true ∧
    (State.remoteWhole (remote none [0, 1]) = true ∧ (remotes (remote none [0, 1])).homeAsks (memKey 0 0x5000) 64 = [] ∧
      ((remotes (remote none [0, 1])).callHome (State.rangeOf (memKey 0 0x5000) 64)).isNone = true) := by
  decide +kernel

/-- A slice holds a sector of the window's element, and of a message's range. -/
def sliceHolds (k : Nat) (s : State) : State := s.setSect 0 k 1

/-- A contribution of lane 0, whose store to its element is not performed; a home that is not in service. -/
def ofLane : Contrib := { contrib with lane := some (bk, 0, 0) }
def behindStore : State :=
  { hubIs (fun h => { h with contribs := [ofLane], windows := [(7, window false)] }) one with
    ops := [(0, op .store 0 [acc 0x600C 0x600C])] }

theorem witness_InboundEvents_homes :
    (behindStore.hub.contribs.find? (fun x => x.id == 1) = some ofLane ∧ behindStore.hub.windows.get? 7 = some (window false) ∧
      behindStore.contribBad (window false) ofLane = false ∧ behindStore.contribTurn ofLane = .wait) ∧
    (let s := unready (contributing (some (window false)));
      s.hub.contribs.find? (fun x => x.id == 1) = some contrib ∧ s.hub.windows.get? 7 = some (window false) ∧
        s.contribBad (window false) contrib = false ∧ s.contribTurn contrib ≠ .wait ∧
        s.homesServe (memKey 0 (State.elemPa (window false) 3)) (elemSize 3) = false) ∧
    (let s := unready (remotes (remote none [0, 1]));
      s.hub.remotes.find? (fun x => x.id == 4) = some (remote none [0, 1]) ∧ s.connAt 3 = some 1 ∧
        s.homeAsks (memKey 0 0x5000) 64 ≠ []) := by
  decide +kernel

theorem witness_InboundEvents_waits :
    (let s := sliceHolds (sectorOf (memKey 0 (State.elemPa (window false) 3))) (contributing (some (window false)));
      s.hub.contribs.find? (fun x => x.id == 1) = some contrib ∧ s.hub.windows.get? 7 = some (window false) ∧
        s.contribBad (window false) contrib = false ∧ s.contribTurn contrib ≠ .wait ∧
        s.homesServe (memKey 0 (State.elemPa (window false) 3)) (elemSize 3) = true ∧
        (s.callHome [sectorOf (memKey 0 (State.elemPa (window false) 3))]).isSome = true) ∧
    ((hubIs (fun h => { h with conns := [(3, 2)] }) one).remotePassed (remoteMsg 0) = true) ∧
    ((remotes (remote (some .key) [0])).hub.remotes.find? (fun x => x.conn == 3 && x.seq == 1) = some (remote (some .key) [0])) ∧
    (let s := sliceHolds (0x5000 / 64) (remotes (remote none [0, 1]));
      s.hub.remotes.find? (fun x => x.id == 4) = some (remote none [0, 1]) ∧ s.connAt 3 = some 1 ∧ s.homeAsks (memKey 0 0x5000) 64 = [] ∧
        (s.callHome (State.rangeOf (memKey 0 0x5000) 64)).isSome = true) ∧
    (let r := { remote none [0, 1] with seq := 2 };
      (remotes r).hub.remotes.find? (fun x => x.id == 4) = some r ∧ (remotes r).connAt 3 ≠ some r.seq) ∧
    (State.remoteWhole (remote none [0]) = false ∧
      (remotes (remote none [0])).hub.remotes.find? (fun x => x.id == 4) = some (remote none [0])) := by
  decide +kernel

/-- A window that has all it expects, and one that writes OUT, whose elements' home is not in service. -/
def fullWindow_ : Window := { window false with received := 1 }
def resultWindow : Window := { fullWindow_ with op := 10, out := 0x8000, count := 4, ty := 11 }

theorem witness_InboundEvents_windows :
    ((contributing (some fullWindow_)).hub.contribs.find? (fun x => x.id == 1) = some contrib ∧
      State.fullWindow fullWindow_ = true ∧ State.fullWindow (window false) = false) ∧
    ((window false).received < (window false).expect ∧ fullWindow_.expect ≤ fullWindow_.received ∧
      one.resultDies fullWindow_ = [] ∧ (unready one).resultDies resultWindow ≠ [] ∧
      resultWindow.expect ≤ resultWindow.received) := by
  decide +kernel

/-- A record of 288 bytes that admits every agent. -/
def bootRecord_ : List Byte := List.replicate 12 0#8 ++ List.replicate 8 0xFF#8 ++ List.replicate 492 0#8
def booting (level : Nat) (passed failed : BitVec 25) (half : List Nat) : State :=
  { State.reset with
    boot := { Boot.init with
      level := BitVec.ofNat 2 level, record := some bootRecord_, passed := passed, failed := failed, half := half } }

theorem witness_BootEvents :
    let all_ := recordAgents bootRecord_
    ([0, 23, hubDie].all fun a => (booting 0 0#25 0#25 []).admitted.getLsbD a && !(booting 0 0#25 0#25 []).decided a) = true ∧
    ((fencedHub).hub.fenced.getLsbD 23 = true ∧
      ({ fencedHub with boot := (booting 0 0#25 0#25 []).boot } : State).admitted.getLsbD 23 = true) ∧
    ((booting 0 0#25 0#25 []).admitted.getLsbD (16 + 511 / 64) = true ∧ 511 ∉ (booting 0 0#25 0#25 []).boot.half ∧
      511 ∈ (booting 0 0#25 0#25 [511]).boot.half ∧ 511 ∉ (booting 0 0#25 0#25 [511]).boot.full ∧
      511 ∉ (booting 0 0#25 0#25 [511]).boot.stuck) ∧
    ((booting 0 0#25 0#25 []).hub.cmd = .nothing ∧ (booting 0 0#25 0#25 []).hub.waiting = [] ∧ fencedHub.hub.cmd = .nothing ∧
      (booting 0 0#25 0#25 []).hub.fenced = 0#25) ∧
    ((booting 0 0#25 0#25 []).bootRecord = none) ∧
    ((booting 0 (all_ ||| (1#25 <<< hubDie)) 0#25 ((List.range 8).map (64 * ·))).mayClimb = true ∧
      (booting 0 0#25 0#25 []).mayClimb = false) := by
  decide +kernel

/-! ### Witnesses: the rules of every instruction, frames, the step -/

/-- A read of a register that an outstanding load is to deliver. -/
def hazardous : State :=
  { one with ops := [(1, op (.load false) 8 [acc 0x5000 0x5000])], cur := { one.cur with firstId := 2 } }

theorem witness_InstructionChecks :
    one.illegalHere (.iadd (fa 64 0 1 (md 3))) = true ∧
    (one.illegalHere (.iadd { fa 4 0 1 (md 3) with guard := 0#8 }) = false ∧ one.execLanes 0#8 = 0#64) ∧
    (hazardous.illegalHere (.iadd (fa 4 8 1 (md 3))) = false ∧ hazardous.execLanes 0x7F#8 ≠ 0#64 ∧
      hazardous.hazard (.iadd (fa 4 8 1 (md 3))) 1#64 = true) ∧
    (one.hazard (.iadd (fa 4 8 1 (md 3) false false 1)) 1#64 = false ∧
      (one.badIndex (.iadd (fa 4 8 1 (md 3) false false 1)) 1#64).isSome = true) ∧
    (let i : Instr := .iadd { fa 4 0 1 (md 3) false true with guard := 1#8 };
      uniformRule i = true ∧ two.illegalHere i = false ∧ two.execLanes i.guard = 1#64 ∧ two.hazard i 1#64 = false ∧
        two.badIndex i 1#64 = none ∧ two.cur.lanes = 3#64) := by
  decide +kernel

/-- A context with a handler whose header is there, and with one whose page is missing. -/
def handled (tv : DWord) : State := one.onCtx 0 fun c => { c with trapvec := tv }

theorem witness_TrapEntry :
    (one.blocks.get? bk).isSome = true ∧
    ((handled 0x1011#64).checkTarget 0 0 (handlerOf 0x1011#64) = .ok ∧ (one.lane bk 0 0).inHandler = false) ∧
    ((handled 0x1009#64).checkTarget 0 0 (handlerOf 0x1009#64) = .trap cBadTarget 0#64) ∧
    ((handled 0xC0000001#64).checkTarget 0 0 (handlerOf 0xC0000001#64) = .missing) ∧
    isWait ((unready (handled 0x1011#64)).checkTarget 0 0 (handlerOf 0x1011#64)) = true ∧
    ((one.ctx 0).trapvec.getLsbD 0 = false ∧ (one.group bk 0).stopped = false ∧ (one.group bk 0).ended = false) := by
  decide +kernel

theorem witness_RegisterInstructionFrames :
    (after (.iadd (fa 4 0 1 (md 3))) two).cur.result = .done ∧ (after (.iadd (fa 4 1 1 (md 3) true true)) two).cur.result = .done ∧
    (after (.icmp (fa 95 0 1 (md 3 2))) two).cur.result = .done := by
  decide +kernel

/-- An outstanding operation over the sector of 0x5000, in a state of the slice of die 0. -/
def memory (kind : OpKind) (st : Nat) : State :=
  { one.setSect 0 (0x5000 / 64) st with ops := [(1, op kind 8 [{ acc 0x5000 0x5000 with val := 9#128 }])] }

/-- The same over local store, while the block is at its core or away. -/
def localStore (kind : OpKind) (here : Bool := true) : State :=
  ({ one with ops := [(1, op kind 8 [{ acc 0 0 with loc := .ls bk 4, val := 9#128 }])] } : State).onBlock bk fun b => { b with resident := here }

theorem witness_LocalStoreAccesses :
    [OpKind.store, .red 0 false, .atom 0 false, .load false, .ldone].all (fun k =>
      (localStore k).ops.get? 1 == some (op k 8 [{ acc 0 0 with loc := .ls bk 4, val := 9#128 }]) && (localStore k).swm == [] &&
      !(localStore k).meetsPoison (op k 8 []) { acc 0 0 with loc := .ls bk 4, val := 9#128 } &&
      (k == .load false || match exec (.memoryOpComplete 1 1#64) (localStore k) with | .next t => t.ops == [] | _ => false)) = true ∧
    ((localStore .store).windowReady bk = true ∧ ((localStore .store).blocks.get? bk).isSome = true ∧
      (localStore .store false).windowReady bk = false) := by
  decide +kernel

theorem witness_MemoryOperationFrames :
    [OpKind.store, .red 0 false, .atom 0 false, .load false, .ldone].all (fun k =>
      (memory k 4).ops.get? 1 == some (op k 8 [{ acc 0x5000 0x5000 with val := 9#128 }]) && (memory k 4).swm == [] &&
      !(memory k 4).meetsPoison (op k 8 []) { acc 0x5000 0x5000 with val := 9#128 } && !({ acc 0x5000 0x5000 with val := 9#128 } : Acc).swm &&
      keyTier 0x5000 != 3 && (memory k 4).hub.spans.get? (0x5000 / 4096) == none) = true ∧
    (match exec (.memoryOpComplete 1 1#64) (memory .store 4) with | .next t => t.ops == [] | _ => false) = true := by
  decide +kernel

theorem witness_AccessesPerformed :
    ((memory (.load true) 1).heldAs (op (.load true) 8 []) 0x5000 ≠ 0 ∧ one.heldAs (op (.load true) 8 []) 0x5000 = 0) ∧
    ((memory .store 2).heldAs (op .store 0 []) 0x5000 = 2 ∧ (memory .store 4).heldAs (op .store 0 []) 0x5000 = 4 ∧
      (memory .store 3).heldAs (op .store 0 []) 0x5000 = 3) ∧
    ((one.blocks.get? bk).isSome = true ∧ 0 < (one.group bk 0).lanes.length ∧ (one.lane bk 0 0).kind = .ordinary ∧
      one.swm = [] ∧ one.meetsPoison (op (.load true) 8 []) (acc 0x5000 0x5000) = false ∧
      (acc 0x5000 0x5000).swm = false) ∧
    ((memory (.load true) 1).setPoison (0x5000 / 64) true).meetsPoison (op (.load true) 8 []) (acc 0x5000 0x5000) = true ∧
    (let s := { one with boot := { one.boot with passed := 0x1FFFFFF#25 } };
      (s.holdAt (.mem 0x5000)).isNone = true ∧ s.someHolds (sectorOf 0x5000) (· != 0) = false ∧ s.needsOutward (sectorOf 0x5000) = false ∧
        s.hub.spans.get? (0x5000 / 4096) = none ∧ s.meetsPoison { op (.atom 0 false) 8 [] with far := true } (acc 0x5000 0x5000) = false) ∧
    ((memory (.atom 0 false) 1).heldAs (op (.atom 0 false) 8 []) 0x5000 = 1) := by
  decide +kernel

theorem witness_AccessesPerformed_poison : ([OpKind.load true, .store, .red 0 false, .atom 0 false].all fun k =>
    let s := (memory k 4).setPoison (0x5000 / 64) true
    let o := op k 8 [{ acc 0x5000 0x5000 with val := 9#128 }]
    s.ops.get? 1 == some o && s.heldAs o 0x5000 == 4 && s.swm == [] && (s.firstPoisoned 1 o).isSome &&
      (memory k 4).firstPoisoned 1 o == none) = true := by
  decide +kernel

/-- A group at its slot: `NOP` stands in the line; the same with a second lane, at the line's next word. -/
def slotted : State := { pair with agenda := [.slot 0] }
def forked : State :=
  slotted.onGroup bk 0 fun g => { g with lanes := [lane [], { lane [] with pc := 0x1010#64 }] }
def path0 : Path := { pc := 0x1008#64, lanes := 1#64, forced := false }
def path1 : Path := { pc := 0x1010#64, lanes := 2#64, forced := false }

theorem witness_StepRunsTheDecoded : ([(slotted, [path0]), (forked, [path0, path1])].all fun x =>
    let s := x.1
    let u := ({ s with agenda := [], tick := 1 } : State).fillActive 0
    let k := (u.group bk 0).retireRecon
    let v := u.setGroup bk 0 { k with
      choice := k.paths, forceq := k.forceOrder, yielded := false, stalls := if k.choiceStands then k.stalls else [] }
    let t := after .nop (v.startPath bk 0 path0 (v.group bk 0) v.nextId v.nextId false false)
    s.trace.isNone && s.latesOf 0 == [] && !(s.die 0).hold && !s.hub.fenced.getLsbD 0 && decide ((s.core 0).issued.length < Config.issueSlots) &&
    (u.offered 0).head? == some (bk, 0) && (u.group bk 0).pendTrap.isNone && k.paths == x.2 &&
    v.prep bk 0 path0 == .instr .nop && t.cur.result == .done &&
    (x.2.length == 1 || (v.prep bk 0 path1 == .instr .nop &&
      (after .nop (v.startPath bk 0 path1 (v.group bk 0) v.nextId v.nextId true false)).cur.result == .done &&
      (after .nop (t.startPath bk 0 path1 (v.group bk 0) v.nextId t.nextId true true)).cur.result == .done))) = true := by
  decide +kernel

/-- Path A stores from the matrix unit, through the block's window, what path B reads as it issues. -/
def crossed : State :=
  let w := (encode (.omst false (fa 0 2 0 0#10))).getD 0 0#64
  let x := (encode (.mma (fa 0 3 3 0#10))).getD 0 0#64
  let s := ((core0 [lane [(3, 0x1E00000#32)], { lane [] with pc := 0x1010#64 }]).setLoc (.ls bk 0)
    ([0#8, 0#8, 0#8, 0#8, 1#8] ++ List.replicate 27 0#8)).setCluster 0 { Cluster.init with
      icache := [{ asid := 0, va := 0x1000#64, global := false, level := 1, line := 0x10, words := [0#64, w, x], bad := 0#4, pins := [] }] }
  ({ s with agenda := [.slot 0], cores := [(0, Core.init)] } : State).onBlock bk fun b => { b with mconf := true, claimed := 1#64 }

theorem witness_StepRunsTheDecoded_behind :
    let s := crossed
    let i : Instr := .omst false (fa 0 2 0 0#10)
    let j : Instr := .mma (fa 0 3 3 0#10)
    let u := ({ s with agenda := [], tick := 1 } : State).fillActive 0
    let k := (u.group bk 0).retireRecon
    let v := u.setGroup bk 0 { k with
      choice := k.paths, forceq := k.forceOrder, yielded := false, stalls := if k.choiceStands then k.stalls else [] }
    let t := after i (v.startPath bk 0 path0 (v.group bk 0) v.nextId v.nextId false false)
    (s.trace.isSome || s.latesOf 0 != [] || (s.die 0).hold || s.hub.fenced.getLsbD 0 || decide (Config.issueSlots ≤ (s.core 0).issued.length) ||
      (u.offered 0).head? != some (bk, 0) || (u.group bk 0).pendTrap.isSome || k.paths != [path0, path1] ||
      v.prep bk 0 path0 != .instr i || v.prep bk 0 path1 != .instr j) = false ∧
    t.cur.result = .done ∧ (after j (v.startPath bk 0 path1 (v.group bk 0) v.nextId v.nextId true false)).cur.result = .done ∧
      (after j (t.startPath bk 0 path1 (v.group bk 0) v.nextId t.nextId true true)).cur.result = .behind := by
  decide +kernel

/-- The next step after that: path B's instruction waits for path A's. -/
def postponed : State := match step crossed with | .next t => { t with agenda := [.slot 0] } | _ => crossed

theorem witness_StepRunsTheDecoded_late :
    let s := postponed
    (match s.latesOf 0 with
      | [(b, g, l)] => b == bk && g == 0 && l.instr == .mma (fa 0 3 3 0#10) && !(s.die 0).hold && !s.hub.fenced.getLsbD 0 &&
          (match ({ s with agenda := [], tick := s.tick + 1 } : State).tryLate exec b g l with | .next _ => true | _ => false)
      | _ => false) = true := by
  decide +kernel

theorem witness_StepRunsTheDecoded_words :
    (pair.fetch 0 0 0x1008#64 = .word 0#64 ∧ (pair.lane bk 0 0).inBlock 0x1008#64 = true ∧ isHeaderWord 0#64 = false ∧
      isTwoWord 0#64 = false ∧ decodeWord 0#64 0#64 = .ok .nop) ∧
    (let w := Enc.ofW (fw 4 9#64);
      let s := pair.setCluster 0 { Cluster.init with
        icache := [{ asid := 0, va := 0x1000#64, global := false, level := 1, line := 0x10, words := [0#64, w, 9#64], bad := 0#4, pins := [] }] };
      s.fetch 0 0 0x1008#64 = .word w ∧ isTwoWord w = true ∧ (s.lane bk 0 0).lastWord 0x1008#64 = false ∧
      s.fetch 0 0 0x1010#64 = .word 9#64 ∧ decodeWord w 9#64 = .ok (.movw (fw 4 9#64))) ∧
    (pair.lane bk 0 0).inBlock 0x1000#64 = false ∧ isHeaderWord (Enc.ofHeader (hd 1)) = true := by
  decide +kernel

theorem witness_StepKeepsStores : (match step slotted with | .next _ => slotted.wf | _ => false) = true := by decide +kernel

/-- The machine with its KRES ranges locked. -/
def locked : State := hubIs (fun h => { h with kresLock := true }) slotted

theorem witness_KresStaysLocked : one.hub.kresLock = false ∧ locked.hub.kresLock = true ∧ locked.nextAction.1 ≠ .event .reset ∧
    (match step locked with | .next _ => true | _ => false) = true := by
  decide +kernel

/-- A well-formed instruction of one word, and one of two. -/
theorem witness_EncodingsAgree : (Instr.iadd (fa 4 0 1 (md 3))).legal = true ∧ (Instr.movw (fw 4 9#64)).legal = true ∧
    (Instr.blockHeader (hd 1)).legal = true ∧ decodeWord (Enc.ofHeader (hd 1)) 0#64 = .ok (.blockHeader (hd 1)) := by
  decide +kernel

/-! ### Words written out from the formats of R84 and R89 to R92 -/

/-- A Format A word from its fields: major and function, D, A, B, C, then BI, XS and bit [6]. -/
def wordA (maj fn d a b c : Nat) (bi xs u : Nat := 0) : DWord :=
  BitVec.ofNat 64 (maj * 2 ^ 58 + 0x7F * 2 ^ 50 + d * 2 ^ 40 + a * 2 ^ 30 + b * 2 ^ 20 + c * 2 ^ 10 + bi * 2 ^ 9 + xs * 2 ^ 7 +
    u * 2 ^ 6 + fn)

/-- A Format I word, a Format B word, and a Format M word. -/
def wordI (maj fn d imm : Nat) (u : Nat := 0) : DWord :=
  BitVec.ofNat 64 (maj * 2 ^ 58 + 0x7F * 2 ^ 50 + d * 2 ^ 40 + imm * 2 ^ 8 + u * 2 ^ 6 + fn)
def wordB (fn off a : Nat) : DWord := BitVec.ofNat 64 (0x24 * 2 ^ 58 + 0x7F * 2 ^ 50 + off * 2 ^ 18 + a * 2 ^ 8 + fn)
def wordM (maj fn d a b : Nat) (wid ord scope nud l : Nat := 0) : DWord :=
  BitVec.ofNat 64 (maj * 2 ^ 58 + 0x7F * 2 ^ 50 + d * 2 ^ 40 + a * 2 ^ 30 + b * 2 ^ 20 + nud * 2 ^ 16 + l * 2 ^ 15 +
    scope * 2 ^ 12 + ord * 2 ^ 10 + wid * 2 ^ 7 + fn)

/-- Each word decodes to its instruction. -/
def decodes (ps : List (DWord × Instr)) : Bool := ps.all fun p => decodeWord p.1 0#64 == .ok p.2

/-- Each instruction is refused as ill formed, and so are its words. -/
def refuses (is : List Instr) : Bool :=
  is.all fun i => !i.legal && (match decodeWords (encode i) with | .ok _ => false | .error _ => true)

/-- R93, majors 0x00 to 0x02. -/
theorem test_decode_arithmetic : decodes
    [(0#64, .nop), (wordA 0 0 4 1 2 0x0C0, .iadd (fa 4 1 2 0x0C0#10)), (wordA 0 1 4 1 2 0x1C2, .isub (fa 4 1 2 0x1C2#10)),
      (wordA 0 2 4 1 2 95, .iaddc (fa 4 1 2 95#10)), (wordA 0 3 4 1 0x3FF 95 1, .isubb (fa 4 1 1023 95#10 true)),
      (wordA 0 4 4 1 0 0x0C0, .iabs (fa 4 1 0 0x0C0#10)), (wordA 0 5 4 1 0 0x0C2, .ineg (fa 4 1 0 0x0C2#10)),
      (wordA 0 6 4 1 2 0x1C0 0 3, .imin (fa 4 1 2 0x1C0#10 false false 3)),
      (wordA 0 7 4 1 2 0x1C0 0 0 1, .imax (fa 4 1 2 0x1C0#10 false true)), (wordA 0 8 4 2 6 0x100, .iadd64 (fa 4 2 6 0x100#10)),
      (wordA 1 0 4 1 2 0x0C0, .imul (fa 4 1 2 0x0C0#10)), (wordA 1 1 4 1 2 0x1C0, .imulh (fa 4 1 2 0x1C0#10)),
      (wordA 1 2 4 1 2 3, .imad (fa 4 1 2 3#10)), (wordA 1 3 4 1 2 6, .imadw true (fa 4 1 2 6#10)),
      (wordA 1 4 4 1 2 6, .imadw false (fa 4 1 2 6#10)), (wordA 2 0 95 1 2 0x0E8, .icmp (fa 95 1 2 0x0E8#10)),
      (wordA 2 1 4 1 2 0x25F, .sel false (fa 4 1 2 0x25F#10)), (wordA 2 2 4 2 6 5, .sel true (fa 4 2 6 5#10))] = true := by
  decide +kernel

/-- R93, majors 0x03 to 0x0E. -/
theorem test_decode_bits : decodes
    [(wordA 3 0 4 1 2 0x240, .and (fa 4 1 2 0x240#10)), (wordA 3 1 4 1 2 0x240, .or (fa 4 1 2 0x240#10)),
      (wordA 3 2 4 1 2 0x240, .xor (fa 4 1 2 0x240#10)), (wordA 3 3 4 2 0 0x280, .not (fa 4 2 0 0x280#10)),
      (wordA 4 0 4 1 31 0x240 1, .shl (fa 4 1 31 0x240#10 true)), (wordA 4 1 4 1 2 0x240, .shr (fa 4 1 2 0x240#10)),
      (wordA 4 2 4 2 3 0x280, .sar (fa 4 2 3 0x280#10)), (wordA 4 3 4 1 2 0x240, .rot (fa 4 1 2 0x240#10)),
      (wordA 4 4 4 1 2 3, .fshl (fa 4 1 2 3#10)), (wordA 4 5 4 1 2 3, .fshr (fa 4 1 2 3#10)),
      (wordA 5 0 4 1 0 0x240, .popc (fa 4 1 0 0x240#10)), (wordA 5 1 4 1 0 0x240, .clz (fa 4 1 0 0x240#10)),
      (wordA 5 2 4 1 0 0x240, .ctz (fa 4 1 0 0x240#10)), (wordA 5 3 4 1 0 0x240, .brev (fa 4 1 0 0x240#10)),
      (wordA 5 4 4 1 2 0x0C0, .bfx (fa 4 1 2 0x0C0#10)), (wordA 5 5 4 1 2 3, .bfi (fa 4 1 2 3#10)),
      (wordA 5 6 4 1 2 3, .prmb (fa 4 1 2 3#10)), (wordA 6 0 4 2 1 0x0F8, .lea (fa 4 2 1 0x0F8#10)),
      (BitVec.ofNat 64 (0x0E * 2 ^ 58 + 0x7F * 2 ^ 50 + 4 * 2 ^ 40 + 1 * 2 ^ 30 + 2 * 2 ^ 20 + 3 * 2 ^ 10 + 4 * 2 ^ 7 +
        0x16 * 2 ^ 1), .tern (fl 4 1 2 3 0x96))] = true := by
  decide +kernel

/-- R93, majors 0x10 to 0x1B; R89. -/
theorem test_decode_float : decodes
    [(wordA 0x10 0 4 1 2 0x2C4, .fadd (fa 4 1 2 0x2C4#10)), (wordA 0x10 1 4 1 2 0x2D8, .fsub (fa 4 1 2 0x2D8#10)),
      (wordA 0x10 2 4 1 2 0x302, .fmul (fa 4 1 2 0x302#10)), (wordA 0x10 3 4 1 2 0x2C0, .fmin (fa 4 1 2 0x2C0#10)),
      (wordA 0x10 4 4 1 2 0x340, .fmax (fa 4 1 2 0x340#10)), (wordA 0x10 5 4 1 2 0x2F8, .fcmp (fa 4 1 2 0x2F8#10)),
      (wordA 0x10 6 4 1 0x3FF 0x2C0 1, .fscale (fa 4 1 1023 0x2C0#10 true)), (wordA 0x10 7 4 1 2 0x2C0, .fdivf (fa 4 1 2 0x2C0#10)),
      (wordA 0x10 8 4 1 2 0x380, .pkadd (fa 4 1 2 0x380#10)), (wordA 0x10 9 4 1 2 0x3C0, .pkmul (fa 4 1 2 0x3C0#10)),
      (wordA 0x11 0x2C 4 1 2 3, .ffma { ft 4 1 2 3 3 with ftz := true }), (wordA 0x11 1 4 1 2 3, .pkfma false (ft 4 1 2 3 0)),
      (wordA 0x11 6 4 1 2 3, .pkfma true (ft 4 1 2 3 1)), (wordA 0x12 0 4 1 0 0x2C0, .fclass (fa 4 1 0 0x2C0#10)),
      (wordA 0x12 1 4 1 0 0x2D8, .frnd (fa 4 1 0 0x2D8#10)), (wordA 0x12 2 4 1 0 0x300, .fgexp (fa 4 1 0 0x300#10)),
      (wordA 0x12 3 4 1 0 0x2C0, .frcp (fa 4 1 0 0x2C0#10)), (wordA 0x12 4 4 1 0 0x2C0, .frsq (fa 4 1 0 0x2C0#10)),
      (wordA 0x12 5 4 1 0 0x2C0, .fsqrt (fa 4 1 0 0x2C0#10)), (wordA 0x12 6 4 1 0 0x2C0, .fex2 (fa 4 1 0 0x2C0#10)),
      (wordA 0x12 7 4 1 0 0x2C0, .flg2 (fa 4 1 0 0x2C0#10)), (wordA 0x12 8 4 1 0 0x2C0, .fsin (fa 4 1 0 0x2C0#10)),
      (wordA 0x12 9 4 1 0 0x2C0, .fcos (fa 4 1 0 0x2C0#10)), (wordA 0x12 10 4 1 0 0x2C0, .ftanh (fa 4 1 0 0x2C0#10)),
      (wordA 0x18 11 4 1 0 0x184, .fcvt { f := fa 4 1 0 0x184#10, src := 11#5 }),
      (wordA 0x19 16 4 1 0 0x064, .f2i { f := fa 4 1 0 0x064#10, src := 16#5 }),
      (wordA 0x1A 8 4 2 5 0x170, .i2f { f := fa 4 2 5 0x170#10, src := 8#5 }), (wordA 0x1B 0 8 16 0 0x080, .qblk (fa 8 16 0 0x080#10)),
      (wordA 0x1B 1 16 8 0 0x040, .dqblk (fa 16 8 0 0x040#10)), (wordA 0x1B 2 4 1 3 0x040 1, .pack8 (fa 4 1 3 0x040#10 true)),
      (wordA 0x1B 3 4 1 7 0x080 1, .split8 (fa 4 1 7 0x080#10 true))] = true := by
  decide +kernel

/-- R93, majors 0x1C to 0x26; R90, R91. -/
theorem test_decode_control : decodes
    [(wordA 0x1C 0 4 1 2 8, .plop (fa 4 1 2 8#10)), (wordA 0x1C 1 4 1 0 0x3F, .pmov (fa 4 1 0 0x3F#10)),
      (wordA 0x1D 0 7 1 8 0 1, .xset (fa 7 1 8 0#10 true)), (wordA 0x1D 1 7 0 5 0 1, .xidx (fa 7 0 5 0#10 true)),
      (wordA 0x1D 2 7 1 0 0, .xadd (fa 7 1 0 0#10)), (wordA 0x1E 0 127 1 0 0x242, .vtos (fa 127 1 0 0x242#10)),
      (wordA 0x1E 1 4 127 0 0x240, .stov (fa 4 127 0 0x240#10)), (wordA 0x1F 0 4 1 0 0x240, .mov (fa 4 1 0 0x240#10)),
      (wordI 0x1F 1 4 0xFFFFFFFF, .movi (fi 4 0xFFFFFFFF)), (wordA 0x1F 3 4 14 0 0x240, .movSpecial (fa 4 14 0 0x240#10)),
      (wordA 0x1F 4 4 7 0 0x240, .movIndex (fa 4 7 0 0x240#10)), (wordA 0x20 0 4 1 3 0x240 1, .qswap (fa 4 1 3 0x240#10 true)),
      (wordA 0x20 1 4 1 2 0x240 1, .qbcast (fa 4 1 2 0x240#10 true)), (wordA 0x21 0 4 1 2 0x240, .gshfl (fa 4 1 2 0x240#10)),
      (wordA 0x22 0 4 1 0 0x010, .vote (fa 4 1 0 0x010#10)), (wordA 0x22 1 4 1 0 0, .ballot (fa 4 1 0 0#10)),
      (wordA 0x22 2 4 1 0 0x240, .matchLanes (fa 4 1 0 0x240#10)), (wordA 0x22 3 4 1 0 0x26C, .redux (fa 4 1 0 0x26C#10)),
      (wordA 0x22 4 4 0 0 0, .elect (fa 4 0 0 0#10)), (wordB 0 0xFFFFFFFE 0, .bra (fb 0xFFFFFFFE 0)), (wordB 1 0 6, .brx (fb 0 6)),
      (wordB 2 5 6, .call (fb 5 6)), (wordB 3 0 6, .callx (fb 0 6)), (wordB 4 0 6, .ret (fb 0 6)), (wordB 5 0 0, .exitLanes (fb 0 0)),
      (wordB 6 0 0, .yieldGroup (fb 0 0)), (wordA 0x25 0 0 0 15 0 1, .bar (fa 0 0 15 0#10 true)),
      (wordA 0x25 1 0 0 3 0 1, .cbar (fa 0 0 3 0#10 true)), (wordA 0x26 0 4 2 1 0x0EE, .waitc (fa 4 2 1 0x0EE#10)),
      (wordA 0x26 1 0 0 100 0 1, .sleep (fa 0 0 100 0#10 true))] = true ∧
    decodeWord (wordI 0x1F 2 6 0) 0x123456789ABCDEF0#64 = .ok (.movw (fw 6 0x123456789ABCDEF0#64)) ∧
    decodeWord (BitVec.ofNat 64 (0x3E * 2 ^ 58 + 200 * 2 ^ 50 + 0x801 * 2 ^ 38 + 11 * 2 ^ 34 + 15 * 2 ^ 30 + 0xFFFE * 2 ^ 14 +
      127 * 2 ^ 7 + 4 * 2 ^ 4 + 8)) 0#64 = .ok (.blockHeader
        { len := 200#8, wait := 0x801#12, seta := 11#4, setb := 15#4, reconv := 0xFFFE#16, live := 127#7, pf := 4#3, uni := true }) := by
  decide +kernel

/-- R93, majors 0x28 to 0x2F; R92, R94. -/
theorem test_decode_memory : decodes
    [(wordM 0x28 0 8 2 0x3FF 4 1 4 15 1, .ld false (fm 8 2 1023 4 1 4 15 true)), (wordM 0x28 1 4 2 1 1, .ld true (fm 4 2 1 1)),
      (wordM 0x29 0 4 2 1 3 2 2, .st (fm 4 2 1 3 2 2)), (wordM 0x2A 0 4 127 1 2, .ldv (fm 4 127 1 2)),
      (wordM 0x2A 1 4 127 1 2, .stv (fm 4 127 1 2)), (wordM 0x2B 0 4 1 2 2, .sld false (fm 4 1 2 2)),
      (wordM 0x2B 1 4 1 2 0, .sld true (fm 4 1 2 0)), (wordM 0x2B 2 4 1 2 2, .sst (fm 4 1 2 2)),
      (wordM 0x2C 7 4 2 6 2 3 4 5, .atom false 7#5 (fm 4 2 6 2 3 4 5)), (wordM 0x2C 0x28 4 2 6 3 0 3, .atom true 8#5 (fm 4 2 6 3 0 3)),
      (wordM 0x2D 1 4 2 1 2 2 3 0 1, .red false 1#5 (fm 4 2 1 2 2 3 0 true)), (wordM 0x2D 0x2A 5 2 1 4 0 4, .red true 10#5 (fm 5 2 1 4 0 4)),
      (wordM 0x2E 0 1 2 0 0 0 3 9, .pref (fm 1 2 0 0 0 3 9)), (wordM 0x2E 1 0 2 4 0 0 3, .cwb (fm 0 2 4 0 0 3)),
      (wordM 0x2E 2 0 2 4 0 0 3, .cinv (fm 0 2 4 0 0 3)), (wordM 0x2E 3 0 2 4 0 0 3, .cdisc (fm 0 2 4 0 0 3)),
      (wordM 0x2F 0 0 2 4 0 0 3, .ipf (fm 0 2 4 0 0 3)), (wordM 0x2F 1 0 2 4 0 0 3, .ipin (fm 0 2 4 0 0 3)),
      (wordM 0x2F 2 0 2 4 0 0 3, .iunpin (fm 0 2 4 0 0 3)), (wordM 0x2F 3 0 0 0 0 3 4, .fence (fm 0 0 0 0 3 4))] = true := by
  decide +kernel

/-- R93, majors 0x30 to 0x37. -/
theorem test_decode_units : decodes
    [(wordA 0x30 0 0 127 0 0, .tcfg (fa 0 127 0 0#10)), (wordA 0x30 1 0 0 64 0 1, .omclaim (fa 0 0 64 0#10 true)),
      (wordA 0x30 2 63 0 1 0 1 0 1, .omrel (fa 63 0 1 0#10 true true)), (wordA 0x31 0 5 2 0 0x3E0, .omld false (fa 5 2 0 0x3E0#10)),
      (wordA 0x31 1 5 2 0 0, .omld true (fa 5 2 0 0#10)), (wordA 0x31 2 5 2 0 0x040, .omst false (fa 5 2 0 0x040#10)),
      (wordA 0x31 3 5 2 0 0, .omst true (fa 5 2 0 0#10)), (wordA 0x32 0 0 1 2 0, .mma (fa 0 1 2 0#10)),
      (wordA 0x33 0 7 0 0 0, .acz (fa 7 0 0 0#10)), (wordA 0x33 1 7 2 0 0x020, .acld (fa 7 2 0 0x020#10)),
      (wordA 0x33 2 7 2 0 0, .acst (fa 7 2 0 0#10)), (wordA 0x33 3 4 7 63 0 1, .acrd (fa 4 7 63 0#10 true)),
      (wordA 0x33 4 0 2 0 0, .msave (fa 0 2 0 0#10)), (wordA 0x33 5 0 2 0 0, .mres (fa 0 2 0 0#10)),
      (wordA 0x34 0 4 2 6 8 1, .cpy (fa 4 2 6 8#10 true)), (wordA 0x34 1 0 2 6 0, .cpyt (fa 0 2 6 0#10)),
      (wordA 0x34 2 0 0 0 0, .cseal (fa 0 0 0 0#10)), (wordA 0x34 3 0 0 0x1FF 0 1, .cwait (fa 0 0 511 0#10 true)),
      (wordA 0x35 0 4 1 5 0x0C0 1, .xred (fa 4 1 5 0x0C0#10 true)), (wordA 0x35 1 4 1 5 0x2E8, .spred (fa 4 1 5 0x2E8#10)),
      (wordA 0x35 2 0 2 0 0, .esave (fa 0 2 0 0#10)), (wordA 0x35 3 0 2 0 0, .eres (fa 0 2 0 0#10)),
      (wordA 0x36 0 0 1 3 0 1, .esc (fa 0 1 3 0#10 true)), (wordA 0x36 1 0 1 0 0, .ldone (fa 0 1 0 0#10)),
      (wordA 0x36 2 4 0 3 0 1, .lqry (fa 4 0 3 0#10 true)), (wordA 0x36 3 0 0 3 0 1, .ldrain (fa 0 0 3 0#10 true)),
      (wordI 0x37 0 0 0xDEADBEEF, .trap (fi 0 0xDEADBEEF)), (wordI 0x37 1 0 0, .bkpt (fi 0 0)),
      (wordI 0x37 2 4 0x021, .sysr (fi 4 0x021)), (wordI 0x37 3 4 0x001, .sysw (fi 4 0x001)),
      (wordA 0x37 4 4 6 95 0, .launch (fa 4 6 95 0#10)), (wordA 0x37 5 4 0 2 0 1, .lstat (fa 4 0 2 0#10 true)),
      (wordA 0x37 6 0 0 1 0 1, .rte (fa 0 0 1 0#10 true))] = true := by
  decide +kernel

/-! ### Ill-formed terms (R43 to R45, R74, R83 to R92, R96) -/

theorem test_refuse_guard : refuses [.iadd { fa 4 1 2 (md 3) with guard := 96#8 }, .iadd { fa 4 1 2 (md 3) with guard := 0xFF#8 }] =
    true := by decide +kernel

theorem test_refuse_register : refuses [.iadd64 (fa 5 2 6 (md 4)), .ld false (fm 6 2 0 4), .tern { fl 4 1 2 3 0 with
    d := 128#10, u := true }, .stov (fa 4 128 0 (md 9)), .icmp (fa 96 1 2 (md 3)), .acz (fa 8 0 0 0#10),
    .omld false (fa 64 2 0 0#10), .dqblk (fa 1000 8 0 (md 1)), .launch (fa 4 126 1 0#10), .movSpecial (fa 4 15 0 (md 9)),
    .sysr (fi 4 0x004)] = true := by decide +kernel

theorem test_refuse_modifier : refuses [.iadd (fa 4 1 2 (md 4)), .iadd (fa 4 1 2 (md 3 1)), .imin (fa 4 1 2 (md 3 0 2)),
    .iadd (fa 4 1 2 (md 3 0 1)), .fadd (fa 4 1 2 (md 12 0 4)), .fadd (fa 4 1 2 (md 11 4)), .ffma (ft 4 1 2 3 4),
    .fcvt (fc 4 1 11 3 0), .icmp (fa 4 1 2 (md 3 6))] = true := by decide +kernel

theorem test_refuse_form : refuses [.fadd (fa 4 1 2 (md 11) true), .bar (fa 0 0 1 0#10), .plop (fa 4 1 2 8#10 false true),
    .iadd (fa 4 1 2 (md 3) true false 2), .iadd (fa 4 1 2 (md 3) false true 1), .qblk (fa 8 16 0 (md 1) false false 1),
    .iabs (fa 4 1 2 (md 3)), .ret (fb 1 6), .ld true (fm 4 2 0 2), .ld false (fm 4 2 0 2 2), .st { fm 4 2 0 2 with scope := 5#3 },
    .sld false (fm 4 2 0 2 0 0 1), .atom false 11#5 (fm 4 2 6 2), .red false 6#5 (fm 4 2 0 2), .omclaim (fa 1 0 64 0#10 true),
    .blockHeader (hd 0 0 0), .blockHeader { hd 0 with seta := 12#4 }, .blockHeader { hd 0 with pf := 5#3 }] = true := by
  decide +kernel

/-- Reserved functions, majors and bits are listed nowhere. -/
theorem test_refuse_words : ([wordA 0 9 4 1 2 0x0C0, wordA 7 0 4 1 2 0, wordA 0x3F 0 0 0 0 0, wordA 0x11 3 4 1 2 3,
    wordA 0x0E 1 4 1 2 3, wordI 0x1F 1 4 5 + 0x80#64, wordB 0 4 0 + 0x40#64, wordI 0x1F 2 6 1, wordA 0x18 0x2B 4 1 0 0x184].all
    fun w => decodeWord w 0#64 == .error .notListed) = true := by decide +kernel

/-! ### Single steps: values worked out by hand from the rules -/

/-- Register n of lane 0, and of lane 1, after an instruction of `two`. -/
def r (i : Instr) (n : Nat := 4) : Word × Word := (reg (after i two) 0 n, reg (after i two) 1 n)

/-- R102: 7 + (−2) = 5 and 5 + 3 = 8; 7 − (−2) = 9 and 5 − 3 = 2. -/
theorem test_iadd : r (.iadd (fa 4 0 1 (md 3))) = (5#32, 8#32) := by decide +kernel
theorem test_isub : r (.isub (fa 4 0 1 (md 3))) = (9#32, 2#32) := by decide +kernel
/-- R102: unsigned saturation of 7 + 0xFFFFFFFE. -/
theorem test_iadd_sat : r (.iadd (fa 4 0 1 (md 7 0 2))) = (0xFFFFFFFF#32, 8#32) := by decide +kernel
/-- R84: the immediate −1. -/
theorem test_iadd_imm : r (.iadd (fa 4 0 1023 (md 3) true)) = (6#32, 4#32) := by decide +kernel
/-- R103: predicate 1 holds in lane 0 alone. -/
theorem test_iaddc : r (.iaddc (fa 4 0 1 1#10)) = (6#32, 8#32) ∧ pred (after (.iaddc (fa 4 0 1 1#10)) two) 0 1 = true ∧
    pred (after (.iaddc (fa 4 0 1 1#10)) two) 1 1 = false := by decide +kernel
theorem test_isubb : r (.isubb (fa 4 0 1 1#10)) = (8#32, 2#32) ∧ pred (after (.isubb (fa 4 0 1 1#10)) two) 0 1 = true := by
  decide +kernel
theorem test_iabs_ineg : r (.iabs (fa 4 1 0 (md 3))) = (2#32, 3#32) ∧ r (.ineg (fa 4 0 0 (md 3))) = (0xFFFFFFF9#32, 0xFFFFFFFB#32) := by
  decide +kernel
theorem test_imin_imax : r (.imin (fa 4 0 1 (md 3))) = (0xFFFFFFFE#32, 3#32) ∧ r (.imax (fa 4 0 1 (md 7))) = (0xFFFFFFFE#32, 5#32) := by
  decide +kernel
/-- R44: the pair v2:v3 added to itself. -/
theorem test_iadd64 : r (.iadd64 (fa 4 2 2 (md 4))) = (0xA000#32, 0xA000#32) := by decide +kernel
/-- R104: 7 × (−2) = −14; the high word is −1 signed and 6 unsigned. -/
theorem test_imul : r (.imul (fa 4 0 1 (md 3))) = (0xFFFFFFF2#32, 15#32) := by decide +kernel
theorem test_imulh : r (.imulh (fa 4 0 1 (md 3))) = (0xFFFFFFFF#32, 0#32) ∧ r (.imulh (fa 4 0 1 (md 7))) = (6#32, 0#32) := by
  decide +kernel
theorem test_imad : r (.imad (fa 4 0 1 0#10)) = (0xFFFFFFF9#32, 20#32) := by decide +kernel
theorem test_imadw : r (.imadw true (fa 4 0 1 2#10)) = (0x4FF2#32, 0x500F#32) := by decide +kernel
theorem test_icmp_sel : pred (after (.icmp (fa 6 0 1 (md 3 2))) two) 0 6 = false ∧
    pred (after (.icmp (fa 6 0 1 (md 7 2))) two) 0 6 = true ∧ r (.sel false (fa 4 0 1 1#10)) = (7#32, 3#32) := by decide +kernel
theorem test_logic : r (.and (fa 4 0 1 (md 9))) = (6#32, 1#32) ∧ r (.or (fa 4 0 1 (md 9))) = (0xFFFFFFFF#32, 7#32) ∧
    r (.xor (fa 4 0 1 (md 9))) = (0xFFFFFFF9#32, 6#32) ∧ r (.not (fa 4 0 0 (md 9))) = (0xFFFFFFF8#32, 0xFFFFFFFA#32) := by
  decide +kernel
/-- R107: table 0x96 is the parity, table 0xE8 the majority of a, b and c. -/
theorem test_tern : r (.tern (fl 4 0 1 0 0x96)) = (0xFFFFFFFE#32, 3#32) ∧ r (.tern (fl 4 0 1 2 0xE8)) = (0x5006#32, 1#32) := by
  decide +kernel
theorem test_shifts : r (.shl (fa 4 0 1 (md 9))) = (0#32, 40#32) ∧ r (.shr (fa 4 1 3 (md 9) true)) = (0x1FFFFFFF#32, 0#32) ∧
    r (.sar (fa 4 1 100 (md 9) true)) = (0xFFFFFFFF#32, 0#32) ∧ r (.rot (fa 4 1 33 (md 9) true)) = (0xFFFFFFFD#32, 6#32) := by
  decide +kernel
theorem test_funnels : r (.fshl (fa 4 0 1 1#10)) = (0xFFFFFFFF#32, 40#32) ∧ r (.fshr (fa 4 0 1 1#10)) = (0x1F#32, 0xA0000000#32) := by
  decide +kernel
theorem test_counts : r (.popc (fa 4 1 0 (md 9))) = (31#32, 2#32) ∧ r (.clz (fa 4 0 0 (md 9))) = (29#32, 29#32) ∧
    r (.ctz (fa 4 1 0 (md 9))) = (1#32, 0#32) ∧ r (.brev (fa 4 0 0 (md 9))) = (0xE0000000#32, 0xA0000000#32) := by decide +kernel
theorem test_lea : r (.lea (fa 4 2 1 (md 3 2))) = (0x4FF8#32, 0x500C#32) := by decide +kernel

/-- R109: a field of 8 bits from bit 4; R44: the bytes 1 and 0 of b, then 5 and 4 of a:b. -/
theorem test_bfx_bfi :
    let s := core0 [lane [(0, 0xABCD1234#32), (1, 0x0804#32), (2, 0xFFFFFFFF#32)]]
    reg (after (.bfx (fa 4 0 1 (md 7))) s) 0 4 = 0x23#32 ∧ reg (after (.bfi (fa 4 0 1 2#10)) s) 0 4 = 0xFFFFF34F#32 := by
  decide +kernel

/-- A state of one lane with two operands, and what a float instruction delivers there. -/
def fp (i : Instr) (a : Word) (b : Word := 0#32) (c : Word := 0#32) : Word :=
  reg (after i (core0 [lane [(0, a), (1, b), (2, c)]])) 0 4

/-- R111: 1.5 + 2.25, 1.5 − 2.25, 1.5 × 2.25, 1 ÷ 3, 1.5 × 2^3. -/
theorem test_fadd : fp (.fadd (fa 4 0 1 (md 11))) 0x3FC00000#32 0x40100000#32 = 0x40700000#32 := by decide +kernel
theorem test_fsub : fp (.fsub (fa 4 0 1 (md 11))) 0x3FC00000#32 0x40100000#32 = 0xBF400000#32 := by decide +kernel
theorem test_fmul : fp (.fmul (fa 4 0 1 (md 11))) 0x3FC00000#32 0x40100000#32 = 0x40580000#32 := by decide +kernel
theorem test_fdivf : fp (.fdivf (fa 4 0 1 (md 11))) 0x3F800000#32 0x40400000#32 = 0x3EAAAAAB#32 := by decide +kernel
theorem test_fscale : fp (.fscale (fa 4 0 3 (md 11) true)) 0x3FC00000#32 = 0x41400000#32 := by decide +kernel
/-- R111: 65504 + 65504 in FP16 is infinite, and the largest number under `.sat`; R60: a subnormal operand is flushed. -/
theorem test_fadd_half : fp (.fadd (fa 4 0 1 (md 12))) 0x7BFF#32 0x7BFF#32 = 0x7C00#32 ∧
    fp (.fadd (fa 4 0 1 (md 11 0 4))) 1#32 1#32 = 0#32 ∧ fp (.fadd (fa 4 0 1 (md 11))) 1#32 1#32 = 2#32 := by decide +kernel
/-- R111: 1.0 + 2.0 beside 0.5 + 0.5. -/
theorem test_pkadd : fp (.pkadd (fa 4 0 1 (md 14))) 0x38003C00#32 0x38004000#32 = 0x3C004200#32 := by decide +kernel
theorem test_pkmul : fp (.pkmul (fa 4 0 1 (md 15))) 0x3F804000#32 0x40004000#32 = 0x40004080#32 := by decide +kernel
/-- R115: (1 + 2^-23)² − (1 + 2^-22) = 2^-46 is exact before the one rounding. -/
theorem test_ffma : fp (.ffma (ft 4 0 1 2 0)) 0x3F800001#32 0x3F800001#32 0xBF800002#32 = 0x28800000#32 := by decide +kernel
theorem test_pkfma : fp (.pkfma false (ft 4 0 1 2 0)) 0x3C004000#32 0x3C004200#32 0x00003C00#32 = 0x3C004700#32 := by decide +kernel
/-- R112: −0 orders below +0; a NaN loses to a number. -/
theorem test_fmin_fmax : fp (.fmin (fa 4 0 1 (md 11))) 0#32 0x80000000#32 = 0x80000000#32 ∧
    fp (.fmax (fa 4 0 1 (md 11))) 0x7FC00000#32 0xBF800000#32 = 0xBF800000#32 := by decide +kernel
/-- R88: unordered with a NaN. -/
theorem test_fcmp :
    let s := core0 [lane [(0, 0x7FC00000#32), (1, 0x3F800000#32)]]
    pred (after (.fcmp (fa 6 0 1 (md 11 6))) s) 0 6 = true ∧ pred (after (.fcmp (fa 6 0 1 (md 11 2))) s) 0 6 = false ∧
    pred (after (.fcmp (fa 6 0 1 (md 11 1))) s) 0 6 = true := by decide +kernel
/-- R114: 2.5 to the even integer, and floor(log2 2.5). -/
theorem test_frnd_fgexp : fp (.frnd (fa 4 0 0 (md 11))) 0x40200000#32 = 0x40000000#32 ∧
    fp (.fgexp (fa 4 0 0 (md 11))) 0x40200000#32 = 1#32 := by decide +kernel
/-- R114: 1 ÷ 4, 1 ÷ √4, √2, 2^3, log2 8. -/
theorem test_functions : fp (.frcp (fa 4 0 0 (md 11))) 0x40800000#32 = 0x3E800000#32 ∧
    fp (.frsq (fa 4 0 0 (md 11))) 0x40800000#32 = 0x3F000000#32 ∧ fp (.fsqrt (fa 4 0 0 (md 11))) 0x40000000#32 = 0x3FB504F3#32 ∧
    fp (.fex2 (fa 4 0 0 (md 11))) 0x40400000#32 = 0x41000000#32 ∧ fp (.flg2 (fa 4 0 0 (md 11))) 0x41000000#32 = 0x40400000#32 := by
  decide +kernel
/-- R114: sin 1 = 0.8414709848, cos 1 = 0.5403023059, tanh 1 = 0.7615941560, to the nearest FP32 numbers. -/
theorem test_sin_cos : fp (.fsin (fa 4 0 0 (md 11))) 0x3F800000#32 = 0x3F576AA4#32 ∧
    fp (.fcos (fa 4 0 0 (md 11))) 0x3F800000#32 = 0x3F0A5140#32 := by decide +kernel
theorem test_tanh : fp (.ftanh (fa 4 0 0 (md 11))) 0x3F800000#32 = 0x3F42F7D6#32 := by decide +kernel
/-- R117: 1.5 as FP16; 2.5 toward zero; −3e9 saturates; 16777217 to even. -/
theorem test_conversions : fp (.fcvt (fc 4 0 12 11 0)) 0x3FC00000#32 = 0x3E00#32 ∧ fp (.f2i (fc 4 0 3 11 1)) 0x40200000#32 = 2#32 ∧
    fp (.f2i (fc 4 0 3 11 0)) 0xCF32D05E#32 = 0x80000000#32 ∧ fp (.i2f (fc 4 0 11 3 0)) 0x01000001#32 = 0x4B800000#32 := by
  decide +kernel
/-- R121: byte 1 of D is replaced by the low byte of a; nibble 1 of a is extracted. -/
theorem test_pack_split : fp (.pack8 (fa 4 0 1 (md 2) true)) 0x12345678#32 = 0x00007800#32 ∧
    fp (.split8 (fa 4 0 1 (md 1) true)) 0x12345678#32 = 7#32 := by decide +kernel

/-- R107: the table whose odd entries are set is a, the one whose upper half is set is c. -/
theorem test_tern_order : r (.tern (fl 4 0 1 2 0xAA)) = (7#32, 5#32) ∧ r (.tern (fl 4 0 1 2 0xF0)) = (0x5000#32, 0x5000#32) := by
  decide +kernel

/-- R129: a AND b is table 8; R130: three predicates from bit 0. -/
theorem test_predicates : pred (after (.plop (fa 6 1 1 8#10)) two) 0 6 = true ∧ pred (after (.plop (fa 6 1 1 8#10)) two) 1 6 = false ∧
    pred (after (.pmov (fa 4 0 0 5#10)) two) 1 4 = true ∧ pred (after (.pmov (fa 4 0 0 5#10)) two) 1 5 = false ∧
    r (.pmov (fa 4 0 0 4#10)) = (2#32, 0#32) := by decide +kernel

/-- R131, R48: BASE 7 and LIMIT 8, then index −1 moved by 3: register 7 + 2. -/
theorem test_index : ((after (.xset (fa 3 0 8 0#10 true)) one).lane bk 0 0).x.get 3 = 0x00002007#32 ∧
    ((after (.xadd (fa 3 0 3 0#10 true)) (after (.xset (fa 3 0 8 0#10 true)) one)).lane bk 0 0).x.get 3 = 0x00302007#32 := by
  decide +kernel

/-- R132, R133: the lowest lane's value to every lane; R132 under `.chk`: the lanes differ, so the group traps. -/
theorem test_uniform : ureg (after (.vtos (fa 9 0 0 (md 9))) two) 9 = 7#64 ∧ r (.stov (fa 4 1 0 (md 9))) = (0x5000#32, 0x5000#32) ∧
    (after (.vtos (fa 9 0 0 (md 9 0 2))) two).cur.result = .trapped := by decide +kernel

/-- R101, R51: z.lane is special register 0 of each lane. -/
theorem test_moves : r (.mov (fa 4 1 0 (md 9))) = (0xFFFFFFFE#32, 3#32) ∧ r (.movi (fi 4 9)) = (9#32, 9#32) ∧
    r (.movw (fw 4 0x500000009#64)) 5 = (5#32, 5#32) ∧ ((after (.movw (fw 4 9#64)) two).lane bk 0 1).pc = 0x1018#64 := by
  decide +kernel

/-- R134: lanes 0 and 1 exchange; both take lane 1; each takes the lane its b names, 3 (an empty lane) and 62. -/
theorem test_exchanges : r (.qswap (fa 4 0 1 (md 9) true)) = (5#32, 7#32) ∧ r (.qbcast (fa 4 0 1 (md 9) true)) = (5#32, 5#32) ∧
    r (.gshfl (fa 4 0 1 (md 9) true)) = (5#32, 5#32) := by decide +kernel

/-- R135, R136: predicate 1 holds in lane 0 of two; the sum of v0 is 12. -/
theorem test_votes : pred (after (.vote (fa 6 1 0 (md 0 0))) two) 0 6 = false ∧ pred (after (.vote (fa 6 1 0 (md 0 1))) two) 1 6 = true ∧
    r (.ballot (fa 4 1 0 0#10)) = (1#32, 1#32) ∧ r (.matchLanes (fa 4 2 0 (md 9))) = (3#32, 3#32) ∧
    r (.redux (fa 4 0 0 (md 3))) = (12#32, 12#32) ∧ pred (after (.elect (fa 6 0 0 0#10)) two) 1 6 = false := by decide +kernel

/-- R45: an instruction guarded by predicate 1 has its effect in lane 0 alone; both lanes go on. -/
theorem test_guard :
    let t := after (.movi { fi 4 9 with guard := 1#8 }) two
    reg t 0 4 = 9#32 ∧ reg t 1 4 = 0#32 ∧ (t.lane bk 0 1).pc = 0x1010#64 := by decide +kernel

/-- R125, R126: to the header two bytes of words on; CALL leaves the next word's address in the link pair. -/
theorem test_branches : ((after (.bra (fb 1 0)) one).lane bk 0 0).pc = 0x1010#64 ∧
    (after (.bra (fb 2 0)) one).cur.result = .trapped ∧ reg (after (.call (fb 1 6)) last) 0 6 = 0x1010#32 ∧
    ((after (.ret (fb 0 2)) last).lane bk 0 0).pc = 0x1010#64 := by decide +kernel

/-- R75: the block starts at its header, with its reconvergence entry. -/
theorem test_header :
    let t := after (.blockHeader (hd 1)) one
    (t.group bk 0).recon = [{ target := 0x1010#64, members := 1#64 }] ∧ (t.lane bk 0 0).pc = 0x1010#64 ∧
    ((t.lane bk 0 0).pos.map BlkPos.hdr) = some 0x1008#64 := by decide +kernel

/-- R127: the only lane leaves, and the group ends. -/
theorem test_exit : ((after (.exitLanes (fb 0 0)) one).group bk 0).ended = true ∧
    ((after (.exitLanes (fb 0 0)) one).lane bk 0 0).kind = .helper ∧ ((after (.yieldGroup (fb 0 0)) one).group bk 0).yielded = true := by
  decide +kernel

/-- R137, R144: both lanes wait at barrier 15; a sleep of 5 cycles. -/
theorem test_waits : ((after (.bar (fa 0 0 15 0#10 true)) two).lane bk 0 1).wait = .bar 15 ∧
    ((after (.sleep (fa 0 0 5 0#10 true)) (since 20 one)).lane bk 0 0).wait = .sleep 15#64 := by decide +kernel

/-- R151, R153: a load is outstanding after its issue; performed from a sector the slice holds, it delivers the sign-extended byte
0x81 at 0x4008, which the page table of these tests holds. -/
theorem test_load :
    let t := after (.ld true (fm 6 2 0 0)) (at_ 0x4008#32)
    (t.ops.map fun o => o.2.accs.map Acc.loc) = [[.mem 0x4008]] ∧
    (match t.ops with
      | [(_, o)] => o.accs.map fun a => reg ((t.setSect 0 (0x4008 / 64) 1).performAcc 0 1 o a).1 0 6
      | _ => []) = [0xFFFFFF81#32] := by decide +kernel

/-- R153: the 16 bits of v1 are stored little-endian at 0x5000 − 2 × 2. -/
theorem test_store :
    let t := after (.memoryOpComplete 1 1#64) ((after (.st (fm 1 2 1022 1)) one).setSect 0 (0x4FFC / 64) 4)
    t.memBytes 0x4FFB 4 = [0#8, 0xFE#8, 0xFF#8, 0#8] ∧ t.ops = [] := by decide +kernel

/-- R158: 0x00000081 + 7, and the old value in D. -/
theorem test_atom :
    let t := after (.memoryOpComplete 1 1#64) ((after (.atom false 0#5 (fm 6 2 0)) (at_ 0x4008#32)).setSect 0 (0x4008 / 64) 4)
    reg t 0 6 = 0x81#32 ∧ t.memByte 0x4008 = 0x88#8 := by decide +kernel

/-- R155: v0 stored to the local store at v3 + 4 × 1, and read back. -/
theorem test_local_store :
    let t := after (.memoryOpComplete 1 1#64) (after (.sst (fm 0 3 1)) one)
    t.lsByte bk 4 = 7#8 ∧ (after (.sst (fm 0 0 0)) one).cur.result = .trapped := by decide +kernel

/-- R162 to R165: one access for each lane is outstanding. -/
theorem test_cache_ops : ([.pref (fm 1 2 0 0 0 3), .cwb (fm 0 2 4 0 0 3), .fence (fm 0 0 0 0 3 4), .ipf (fm 0 2 4 0 0 3)].all fun i =>
    (after i (at_ 0x5000#32)).ops.length == 1) = true := by decide +kernel

/-- R168, R173: the slots are claimed at issue; R14, R181: BF16 codes 0x4000 at elements 0 and 1 of
both operands, 2.0 × 2.0 + 2.0 × 2.0 = 8.0. -/
theorem test_omclaim : ((after (.omclaim (fa 0 0 8 0#10 true)) one).block bk).claimed = 0xFF#64 ∧
    ((after (.omclaim (fa 0 0 8 0#10 true)) one).core 0).mq.length = 1 ∧
    (after (.omrel (fa 1 0 1 0#10 true)) matrix).cur.result = .trapped := by decide +kernel
theorem test_row_step :
    let b := { matrix.block bk with slots := [(1, 0x40#8), (3, 0x40#8)] }
    (b.rowStep 0#64 (steps 1) 0 0 []).get 0 = 0x41000000#32 := by decide +kernel

/-- R263, R268: a copy of the lane is outstanding in the open set, then in batch 1. -/
theorem test_copies : (after (.cpy (fa 2 2 4 0#10)) desc).copies.vals.map (fun c => (c.len, c.batch)) = [(64, 0#32)] ∧
    (after (.cseal (fa 0 0 0 0#10)) (engine [copy 0])).copies.vals.map Copy.batch = [1#32] ∧
    (after (.cwait (fa 0 0 8 0#10 true)) (engine [copy 1])).cur.result = .stalled none := by decide +kernel

/-- R280: the contribution of lane 0 to element 5 of window 7. -/
theorem test_xred : (after (.xred (fa 1 0 5 (md 3) true)) one).hub.contribs =
    [{ id := 1, fid := 0, win := 7, elem := 5, op := 0, ty := 3, value := 0xFFFFFFFE#128, count := 1, lane := some (bk, 0, 0), launch := some 1, msg := none
       held := false }] := by
  decide +kernel

/-- R200, R201, R202: the lane's frame goes to rung 1; its record is outstanding; the ring then counts one frame. -/
theorem test_ladder :
    let t := after (.esc (fa 0 0 1 0#10 true)) climbing
    (t.ring (ringKey 0 1 1)).frames.map Frame.words = [[7#32, 0xFFFFFFFE#32]] ∧ (t.lane bk 0 0).kind = .helper ∧
    ((after (.ldone (fa 0 0 0 0#10)) climbing).lane bk 0 0).done = true ∧
    (after (.ldrain (fa 0 0 0 0#10 true)) climbing).cur.result = .trapped := by decide +kernel

/-- R343, R344: TRAP enters the handler with its immediate as TVAL; without a handler the group stops with one record of 28 bytes
of its own. -/
theorem test_trap :
    let t := after (.trap (fi 0 0xDEAD)) (handled 0x1011#64)
    (t.lane bk 0 0).pc = 0x1010#64 ∧ (t.lane bk 0 0).cause = 0x0E#8 ∧ (t.lane bk 0 0).tval = 0xDEAD#64 ∧
    (t.lane bk 0 0).epc = 0x1008#64 ∧ (t.lane bk 0 0).inHandler = true := by decide +kernel
theorem test_trap_stops :
    let t := after (.bkpt (fi 0 0)) one
    (t.group bk 0).stopped = true ∧ t.hub.held.map (fun e => (e.bytes.length, e.bytes.getD 18 0#8, e.bytes.getD 22 0#8)) =
      [(28, 8#8, 0x0F#8)] := by decide +kernel

/-- R353: back to the word that trapped with `.retry`, and past it without. -/
theorem test_rte : ((after (.rte (fa 0 0 1 0#10 true)) handling).lane bk 0 0).pc = 0x1010#64 ∧
    ((after (.rte (fa 0 0 0 0#10 true)) handling).lane bk 0 0).pc = 0x1018#64 ∧
    (after (.rte (fa 0 0 0 0#10 true)) one).cur.result = .trapped := by decide +kernel

/-- R54: TRAPVEC is written, and read back; SEQ and the rest trap. -/
theorem test_sysw :
    let t := after (.sysw (fi 1 1)) one
    (t.ctx 0).trapvec = 0x5000#64 ∧ ureg (after (.sysr (fi 9 1)) t) 9 = 0x5000#64 ∧
    (after (.sysw (fi 1 0)) one).cur.result = .trapped := by decide +kernel

/-- R351: the launch of a descriptor is accepted, with code 0; one of 64 zero bytes is refused with 3, and one whose
descriptor cannot be read with 1. -/
theorem test_launch :
    let go := fun (b : Option (List Byte)) => descriptor.deviceLaunch 0x6000#64 0#64 0#64 b
    (go (some (descriptor.memBytes 0x6000 64))).2 = 0 ∧
    (go (some (List.replicate 64 0#8))).2 = 3 ∧ (go none).2 = 1 := by
  decide +kernel

/-- R341: the entry is appended at TAIL, which rises; R307: the resolve record frees both waiting copies' entries. -/
theorem test_fault_queue : (after .faultEntryAppend answering).hub.fqtail = 1#64 ∧
    (after (.resolveRecord 4#64) answering).hub.outst = [] ∧ (after (.fqheadWrite 3#64) answering).hub.fqhead = 3#64 := by decide +kernel

/-- R210, R250: an OWN message moves one stop along its row; a stale message is dropped and counted. -/
theorem test_messages : ((after (.own 7) (mesh (message .own [] false false 5))).mesh.msgs.map fun m => (m.2.x, m.2.y)) = [(4, 2)] ∧
    (after (.rd 7) (mesh (message .rd) [] [(0, 1#8)])).mesh.msgs = [] := by decide +kernel

/-- R287, R292: agent 23 is fenced once; a second FENCEOUT gets RESULT 2. -/
theorem test_fenceout : (after (.fenceout 23#64) one).hub.fenced.getLsbD 23 = true ∧ (after (.fenceout 23#64) fencedHub).hub.result = 2#8 ∧
    (after (.halt 0#64) one).hub.result = 0#8 ∧ ((after (.halt 0#64) one).die 0).hold = true := by decide +kernel

/-- R282: the contribution reaches its element, and the window is DONE with its completion word. -/
def up (s : State) : State := { s with boot := { s.boot with passed := 0x1FFFFFF#25 } }
theorem test_window :
    let t := after (.contributionApply 1) (up (contributing (some (window false))))
    t.memBytes 0x600C 4 = [5#8, 0#8, 0#8, 0#8] ∧ t.memByte 0x7000 = 1#8 ∧ (t.hub.windows.get? 7).map Window.done = some true := by
  decide +kernel

/-- R356: while its memory die is not in service the contribution waits, and counts once as event 25. -/
theorem test_window_waits :
    let t := after (.contributionApply 1) (after (.contributionApply 1) (unready (contributing (some (window false)))))
    t.hub.contribs = [{ contrib with held := true }] ∧ t.counters.get (64 * 16 + 25) = 1#64 := by decide +kernel

/-- R287: a code that is not listed ends with RESULT 1. -/
theorem test_unlisted : (after (.registerWrite 0 0x800000000000000F#64) one).hub.result = 1#8 ∧
    (after (.registerWrite 0 0x800000000000000F#64) one).hub.busy = false := by decide +kernel

/-- R28, R31: both paths issue in one step; neither lane has waited. -/
theorem test_two_paths : (match step forked with
    | .next t => ((t.lane bk 0 0).pc, (t.lane bk 0 1).pc, (t.lane bk 0 1).w) == (0x1010#64, 0x1018#64, 0)
    | _ => false) = true := by decide +kernel

/-- R286, R354, R358: with empty flash a reset leaves level 0 and BOOTSTAT bit 0. -/
theorem test_reset : (after .reset one).boot.level = 0#2 ∧ (after .reset one).boot.bootstat = 1#4 ∧ (after .reset one).ctxs = [] := by
  decide +kernel

/-- The host's word for a row of the opcode table is fetched and run by the next step. -/
theorem test_first_step :
    let s := State.reset.withFetchWord 64 (wordA 0 0 4 0 5 0x0C0 1).toNat
    (match step s with | .next t => (t.lane (blockKey 1 0) 0 63).vreg 4 | _ => 0#32) = 5#32 := by decide +kernel

/-- R338: after CTXTEAR a group stops with the instruction it issues next. -/
theorem test_teardown_boundary :
    let s := tearing (State.reset.withFetchWord 64 (wordA 0 0 4 0 5 0x0C0 1).toNat)
    (match step s with
      | .next t => (t.lane (blockKey 1 0) 0 63).vreg 4 == 5#32 && (t.group (blockKey 1 0) 0).stopped
      | _ => false) = true := by decide +kernel

end Sys2Proof.Tests
end

section
/-!
SUPPORT. How the matrix instructions that address no memory issue (R166, R167, R173): a block outside which they trap, the
place of an operation in the queue of the core, and, for MMA, its checks and the read of its parameters (R16, R180).
-/
namespace Sys2Proof.Machine

/-! ### The block of a matrix instruction -/

theorem matReady_unconfigured_iff (s : State) : matReady s false = true ↔ s.cb.oslots ≠ 0 := by simp [matReady]

theorem matReady_configured_iff (s : State) : matReady s true = true ↔ s.matrixBlock := by
  simp [matReady, State.matrixBlock]

/-- In a block that is ready for it, a matrix instruction that may run goes on to its own body. -/
theorem run_in_matrixBlock {i : Instr} {s : State} (h : MayRun i s) {configured : Bool}
    (hr : matReady s configured = true) (body : DWord → Unit → Res) :
    run i s (fun m => inMatrixBlock s m configured (body m)) =
      finish s (wordsOf i) (body (s.execLanes i.guard) ()) := by
  rw [run_of_mayRun h, inMatrixBlock, if_pos hr]

/-- In another block it traps with TILE_STATE. -/
theorem run_outside_matrixBlock {i : Instr} {s : State} (h : MayRun i s) {configured : Bool}
    (hr : ¬ matReady s configured = true) (body : DWord → Unit → Res) :
    run i s (fun m => inMatrixBlock s m configured (body m)) =
      .next (s.trappedAt (s.execLanes i.guard) cTileState 0#64) := by
  rw [run_of_mayRun h, inMatrixBlock, if_neg hr, finish_trap]; rfl

/-! ### The queue -/

/-- An operation that finds room in the queue of u is put into t's. -/
theorem finish_acceptOp_of_room (s u t : State) (words : Nat) (m : DWord) (f : FmtA) (kind : MKind) (addr : DWord)
    (spans : List (Loc × Nat × LeafBits)) (hq : queueRoom u kind = true) :
    finish s words (acceptOp u t m f kind addr spans) = .next (s.pastWords
      (t.enqueue m ((u.cg.lane (lowest m)).flagFor f.u) (matNud f) kind addr spans 0) words 0#64) := by
  simp [acceptOp, hq, finish_ok]

/-- A path that finds no room waits, or follows path A where that one has taken it all (log entry 68). -/
theorem finish_noRoom (s : State) (words : Nat) (byA : Bool) (ev : Option Nat) :
    finish s words (noRoom s byA ev) = .next (s.unplaced byA ev) := by
  cases hp : s.cur.follows && byA <;> simp [noRoom, State.unplaced, finish, hp]

/-- So does the path of an operation that finds no room in the queue of u, a state that the same issue has led to. -/
theorem finish_acceptOp_of_full {s u : State} (hc : u.cur = s.cur) (t : State) (words : Nat) (m : DWord) (f : FmtA)
    (kind : MKind) (addr : DWord) (spans : List (Loc × Nat × LeafBits)) (hq : queueRoom u kind = false) :
    finish s words (acceptOp u t m f kind addr spans) =
      .next (s.unplaced (!roomIn u (pathMops u) kind) none) := by
  have hn : noRoom u (!roomIn u (pathMops u) kind) none = noRoom s (!roomIn u (pathMops u) kind) none := by
    rw [noRoom, hc, noRoom]
  simp [acceptOp, hq, hn, finish_noRoom]

/-- An instruction without an address becomes the operation `kind` in the queue of t where `ok` holds, waits where the
queue is full, and traps with TILE_STATE otherwise (R173). -/
structure QueuedWhen (i : Instr) (f : FmtA) (s : State) (ok : Prop) (t : State) (kind : MKind) : Prop where
  accepted : ok → queueRoom s kind = true → exec i s = .next (s.afterQueue t f kind 0#64 [])
  full : ok → queueRoom s kind = false → exec i s = .next (s.queueFull kind)
  refused : ¬ ok → exec i s = .next (s.trappedAt (s.execLanes f.guard) cTileState 0#64)

/-- It is enough that the instruction puts its operation into the queue where `ok` holds, and traps otherwise. -/
theorem queuedWhen_of_acceptOp {i : Instr} {f : FmtA} {s t : State} {ok : Prop} {kind : MKind}
    (ho : ok → exec i s = finish s 1 (acceptOp s t (s.execLanes f.guard) f kind 0#64 []))
    (hn : ¬ ok → exec i s = .next (s.trappedAt (s.execLanes f.guard) cTileState 0#64)) :
    QueuedWhen i f s ok t kind where
  accepted hok hq := (ho hok).trans (finish_acceptOp_of_room s s t 1 _ f kind 0#64 [] hq)
  full hok hq := (ho hok).trans (finish_acceptOp_of_full rfl t 1 _ f kind 0#64 [] hq)
  refused := hn

/-- An instruction of a matrix block with one more check, whether or not the block is configured (R166). -/
theorem queuedWhen_of_check {i : Instr} {f : FmtA} {s t : State} {kind : MKind} {bad : Bool} (h : MayRun i s)
    (hg : i.guard = f.guard) (hw : wordsOf i = 1)
    (he : exec i s = run i s fun m => inMatrixBlock s m false fun _ =>
      if bad then .trap m cTileState 0#64 else acceptOp s t m f kind 0#64 []) :
    QueuedWhen i f s (s.cb.oslots ≠ 0 ∧ bad = false) t kind := by
  refine queuedWhen_of_acceptOp (fun ⟨hb, hok⟩ => ?_) fun hno => ?_
  · rw [he, run_in_matrixBlock h ((matReady_unconfigured_iff s).mpr hb), hg, hw, hok]
    rfl
  · by_cases hb : s.cb.oslots ≠ 0
    · have hbad : bad = true := by simpa [hb] using hno
      rw [he, run_in_matrixBlock h ((matReady_unconfigured_iff s).mpr hb), hg, hbad]
      rfl
    · rw [he, run_outside_matrixBlock h (mt (matReady_unconfigured_iff s).mp hb), hg]

/-- An instruction of a configured matrix block without a further check (R167); `kind` is its operation over the executing
lanes. -/
theorem queuedWhen_of_configured {i : Instr} {f : FmtA} {s : State} (kind : DWord → MKind) (h : MayRun i s)
    (hg : i.guard = f.guard) (hw : wordsOf i = 1)
    (he : exec i s = run i s fun m => inMatrixBlock s m true fun _ => acceptOp s s m f (kind m) 0#64 []) :
    QueuedWhen i f s s.matrixBlock s (kind (s.execLanes f.guard)) :=
  queuedWhen_of_acceptOp
    (fun hb => by rw [he, run_in_matrixBlock h ((matReady_configured_iff s).mpr hb), hg, hw])
    (fun hb => by rw [he, run_outside_matrixBlock h (mt (matReady_configured_iff s).mp hb), hg])

/-! ### TCFG, OMCLAIM and OMREL -/

theorem tcfg_queuedWhen {f : FmtA} {s : State} (h : MayRun (.tcfg f) s) :
    QueuedWhen (.tcfg f) f s (s.cb.oslots ≠ 0 ∧ tcfgOk s (s.cg.ureg f.a.toNat) = true)
      ((s.setCore s.cb.core { s.core s.cb.core with tcb := s.cg.ureg f.a.toNat }).onBlock s.cur.blk
        fun b => { b with mconf := true }) .tcfg := by
  simpa only [Bool.not_eq_false'] using queuedWhen_of_check h (guard_tcfg f) rfl (exec_tcfg f s)

/-- The check of OMCLAIM and OMREL passes where the slots are the block's and the claimed ones of them are `held` (R177,
R178). -/
theorem slotCheck_iff (s : State) (f : FmtA) (held : BitVec 64) :
    (s.cb.oslots < f.d.toNat + f.b.toNat || s.cb.claimed &&& slotMask f.d.toNat f.b.toNat != held) = false ↔
      f.d.toNat + f.b.toNat ≤ s.cb.oslots ∧ s.cb.claimed &&& slotMask f.d.toNat f.b.toNat = held := by
  simp

theorem omclaim_queuedWhen {f : FmtA} {s : State} (h : MayRun (.omclaim f) s) :
    QueuedWhen (.omclaim f) f s
      (s.cb.oslots ≠ 0 ∧ f.d.toNat + f.b.toNat ≤ s.cb.oslots ∧ s.cb.claimed &&& slotMask f.d.toNat f.b.toNat = 0#64)
      (s.onBlock s.cur.blk fun b => { b with claimed := b.claimed ||| slotMask f.d.toNat f.b.toNat })
      (.omclaim f.d.toNat f.b.toNat) := by
  simpa only [slotCheck_iff] using queuedWhen_of_check h (guard_omclaim f) rfl (exec_omclaim f s)

theorem omrel_queuedWhen {f : FmtA} {s : State} (h : MayRun (.omrel f) s) :
    QueuedWhen (.omrel f) f s
      (s.cb.oslots ≠ 0 ∧ f.d.toNat + f.b.toNat ≤ s.cb.oslots ∧
        s.cb.claimed &&& slotMask f.d.toNat f.b.toNat = slotMask f.d.toNat f.b.toNat)
      (s.onBlock s.cur.blk fun b => { b with claimed := b.claimed &&& ~~~slotMask f.d.toNat f.b.toNat })
      (.omrel f.d.toNat f.b.toNat) := by
  simpa only [slotCheck_iff] using queuedWhen_of_check h (guard_omrel f) rfl (exec_omrel f s)

/-- Settles O26: each of the three is one check and one place in the queue. -/
theorem matrixConfigAndSlots : Obligations.MatrixConfigAndSlots := by
  intro f s
  refine ⟨?tcfg, ?claim, ?rel, ?badTcb, ?badClaim, ?badRel, ?tcfgFull, ?claimFull, ?relFull⟩
  case tcfg => exact fun h hb hv => (tcfg_queuedWhen h).accepted ⟨hb, hv⟩
  case claim => exact fun h hb hi hc => (omclaim_queuedWhen h).accepted ⟨hb, hi, hc⟩
  case rel => exact fun h hb hi hc => (omrel_queuedWhen h).accepted ⟨hb, hi, hc⟩
  case badTcb => exact fun h hno => (tcfg_queuedWhen h).refused (by simpa [imp_iff_not_or] using hno)
  case badClaim => exact fun h hno => (omclaim_queuedWhen h).refused (by tauto)
  case badRel => exact fun h hno => (omrel_queuedWhen h).refused (by tauto)
  case tcfgFull => exact fun h hb hv => (tcfg_queuedWhen h).full ⟨hb, hv⟩
  case claimFull => exact fun h hb hi hc => (omclaim_queuedWhen h).full ⟨hb, hi, hc⟩
  case relFull => exact fun h hb hi hc => (omrel_queuedWhen h).full ⟨hb, hi, hc⟩

/-! ### ACZ and ACRD -/

theorem acz_queuedWhen {f : FmtA} {s : State} (h : MayRun (.acz f) s) :
    QueuedWhen (.acz f) f s s.matrixBlock s (.acz f.d.toNat) :=
  queuedWhen_of_configured (fun _ => .acz f.d.toNat) h (guard_acz f) rfl (exec_acz f s)

/-- The row of the tile that each lane of a mask reads (R183). -/
def acrdRows (f : FmtA) (s : State) (m : DWord) : List (Nat × Nat) :=
  (lanesOf m).map fun i => (i, if f.bi then bits f.b 0 6 else bits ((s.cg.lane i).vreg f.b.toNat) 0 6)

theorem acrd_queuedWhen {f : FmtA} {s : State} (h : MayRun (.acrd f) s) :
    QueuedWhen (.acrd f) f s s.matrixBlock s (.acrd f.a.toNat f.d.toNat (acrdRows f s (s.execLanes f.guard))) :=
  queuedWhen_of_configured (fun m => .acrd f.a.toNat f.d.toNat (acrdRows f s m)) h (guard_acrd f) rfl (exec_acrd f s)

/-! ### MMA -/

/-- The offset in the local store at which the elected lane of a mask places its parameter block (R180). -/
def mmaOffset (f : FmtA) (s : State) (m : DWord) : Nat := ((s.cg.lane (lowest m)).vreg f.a.toNat).toNat

/-- The location of that block. -/
def mmaLoc (f : FmtA) (s : State) (m : DWord) : Loc := .ls s.cur.blk (mmaOffset f s m)

/-- The elected lane's format word (R180). -/
def mmaFormat (f : FmtA) (s : State) (m : DWord) : Word := (s.cg.lane (lowest m)).vreg f.b.toNat

/-- Every lane of a mask has the elected one's format word (R16). -/
def MmaAgrees (f : FmtA) (s : State) (m : DWord) : Prop :=
  ∀ i ∈ lanesOf m, (s.cg.lane i).vreg f.b.toNat = mmaFormat f s m

/-- That word names the formats of the TCB, and its reserved bits are zero (R180). -/
def MmaFormatOk (f : FmtA) (s : State) (m : DWord) : Prop :=
  bits (mmaFormat f s m) 10 22 = 0 ∧ bits (mmaFormat f s m) 0 10 = bits (tcbNow s) 0 10

/-- The state once the elected lane has read its parameter block in its turn (R152). -/
def mmaTook (f : FmtA) (s : State) (m : DWord) : State := s.issueTook (lowest m) (mmaLoc f s m) 32 0#7

/-- The parameters that this read finds (R180, R230). -/
def mmaParams (f : FmtA) (s : State) (m : DWord) : List Byte :=
  s.bytesAt (s.pick (s.issueTurn (lowest m) (mmaLoc f s m) 32 0#7)) (mmaLoc f s m) 32

/-- MMA once its block's place has passed the checks: it reads its parameters in its turn, checks them and takes its place
in the queue (R152, R180). -/
def mmaRead (f : FmtA) (s : State) (m : DWord) : Res :=
  if s.issueBehind (mmaLoc f s m) 32 then .behind
  else if s.issueTurn (lowest m) (mmaLoc f s m) 32 0#7 == .wait then .stall none
  else if !pbOk s.cb.claimed (tcbFmt (tcbNow s)) (mmaParams f s m) then .trapWith (mmaTook f s m) m cTileState 0#64
  else acceptOp (mmaTook f s m) (mmaTook f s m) m f (.mma (mmaParams f s m)) 0#64 []

/-- MMA in a configured block: the checks of R180 in their order, then the read. -/
def mmaBody (f : FmtA) (s : State) (m : DWord) : Res :=
  if !formatAgrees s m f then .trap m cFormat 0#64
  else if bits (mmaFormat f s m) 10 22 != 0 || bits (mmaFormat f s m) 0 10 != bits (tcbNow s) 0 10 then
    .trap m cTileState 0#64
  else if mmaOffset f s m % 32 ≠ 0 then .trap m cMisaligned (BitVec.ofNat 64 (mmaOffset f s m))
  else if s.cb.lstore < mmaOffset f s m + 32 then .trap m cProtection (BitVec.ofNat 64 (mmaOffset f s m))
  else mmaRead f s m

theorem execMma_eq_run (f : FmtA) (s : State) :
    execMma f s = run (.mma f) s fun m => inMatrixBlock s m true fun _ => mmaBody f s m := rfl

theorem exec_mma_of_matrixBlock {f : FmtA} {s : State} (h : MayRun (.mma f) s) (hb : s.matrixBlock) :
    exec (.mma f) s = finish s 1 (mmaBody f s (s.execLanes f.guard)) :=
  (execMma_eq_run f s).trans (run_in_matrixBlock h ((matReady_configured_iff s).mpr hb) fun m _ => mmaBody f s m)

theorem exec_mma_outside_matrixBlock {f : FmtA} {s : State} (h : MayRun (.mma f) s) (hb : ¬ s.matrixBlock) :
    exec (.mma f) s = .next (s.trappedAt (s.execLanes f.guard) cTileState 0#64) :=
  (execMma_eq_run f s).trans
    (run_outside_matrixBlock h (mt (matReady_configured_iff s).mp hb) fun m _ => mmaBody f s m)

section Checks
variable {f : FmtA} {s : State} {m : DWord}

theorem formatAgrees_iff : formatAgrees s m f = true ↔ MmaAgrees f s m := by
  simp [formatAgrees, MmaAgrees, mmaFormat]

theorem mmaFormat_check_iff :
    (bits (mmaFormat f s m) 10 22 != 0 || bits (mmaFormat f s m) 0 10 != bits (tcbNow s) 0 10) = true ↔
      ¬ MmaFormatOk f s m := by
  simp [MmaFormatOk, imp_iff_not_or]

theorem mmaBody_of_disagree (ha : ¬ MmaAgrees f s m) : mmaBody f s m = .trap m cFormat 0#64 := by
  simp [mmaBody, formatAgrees_iff, ha]

theorem mmaBody_of_wrong_format (ha : MmaAgrees f s m) (hf : ¬ MmaFormatOk f s m) :
    mmaBody f s m = .trap m cTileState 0#64 := by
  rw [mmaBody, formatAgrees_iff.mpr ha, if_neg (by decide), if_pos (mmaFormat_check_iff.mpr hf)]

/-- Once the format word has passed, the place of the parameter block decides (R180). -/
theorem mmaBody_of_format (ha : MmaAgrees f s m) (hf : MmaFormatOk f s m) : mmaBody f s m =
    if mmaOffset f s m % 32 ≠ 0 then .trap m cMisaligned (BitVec.ofNat 64 (mmaOffset f s m))
    else if s.cb.lstore < mmaOffset f s m + 32 then .trap m cProtection (BitVec.ofNat 64 (mmaOffset f s m))
    else mmaRead f s m := by
  rw [mmaBody, formatAgrees_iff.mpr ha, if_neg (by decide), if_neg (mmaFormat_check_iff.not.mpr (not_not_intro hf))]

theorem mmaBody_of_misaligned (ha : MmaAgrees f s m) (hf : MmaFormatOk f s m) (hm : mmaOffset f s m % 32 ≠ 0) :
    mmaBody f s m = .trap m cMisaligned (BitVec.ofNat 64 (mmaOffset f s m)) := by
  rw [mmaBody_of_format ha hf, if_pos hm]

theorem mmaBody_of_beyond (ha : MmaAgrees f s m) (hf : MmaFormatOk f s m) (hm : mmaOffset f s m % 32 = 0)
    (hl : s.cb.lstore < mmaOffset f s m + 32) :
    mmaBody f s m = .trap m cProtection (BitVec.ofNat 64 (mmaOffset f s m)) := by
  rw [mmaBody_of_format ha hf, if_neg (not_not_intro hm), if_pos hl]

/-- The checks of R180 that come before the read. -/
structure MmaChecked (f : FmtA) (s : State) (m : DWord) : Prop where
  agrees : MmaAgrees f s m
  format : MmaFormatOk f s m
  aligned : mmaOffset f s m % 32 = 0
  inside : mmaOffset f s m + 32 ≤ s.cb.lstore

theorem mmaBody_of_checked (hc : MmaChecked f s m) : mmaBody f s m = mmaRead f s m := by
  rw [mmaBody_of_format hc.agrees hc.format, if_neg (not_not_intro hc.aligned), if_neg (not_lt.mpr hc.inside)]

theorem mmaRead_of_behind (hb : s.issueBehind (mmaLoc f s m) 32 = true) :
    mmaRead f s m = .behind := by
  simp [mmaRead, hb]

theorem mmaRead_of_wait (hb : s.issueBehind (mmaLoc f s m) 32 = false)
    (ht : s.issueTurn (lowest m) (mmaLoc f s m) 32 0#7 = .wait) : mmaRead f s m = .stall none := by
  simp [mmaRead, hb, ht]

/-- In its turn it is accepted with the parameters it reads, where they pass their checks (R180). -/
theorem mmaRead_of_good (hb : s.issueBehind (mmaLoc f s m) 32 = false)
    (ht : s.issueTurn (lowest m) (mmaLoc f s m) 32 0#7 ≠ .wait)
    (hp : pbOk s.cb.claimed (tcbFmt (tcbNow s)) (mmaParams f s m) = true) :
    mmaRead f s m = acceptOp (mmaTook f s m) (mmaTook f s m) m f (.mma (mmaParams f s m)) 0#64 [] := by
  simp [mmaRead, hb, ht, hp]

theorem mmaRead_of_bad (hb : s.issueBehind (mmaLoc f s m) 32 = false)
    (ht : s.issueTurn (lowest m) (mmaLoc f s m) 32 0#7 ≠ .wait)
    (hp : pbOk s.cb.claimed (tcbFmt (tcbNow s)) (mmaParams f s m) = false) :
    mmaRead f s m = .trapWith (mmaTook f s m) m cTileState 0#64 := by
  simp [mmaRead, hb, ht, hp]

end Checks

/-- MMA past its checks is its read (R180). -/
theorem exec_mma_of_checked {f : FmtA} {s : State} (h : MayRun (.mma f) s) (hb : s.matrixBlock)
    (hc : MmaChecked f s (s.execLanes f.guard)) :
    exec (.mma f) s = finish s 1 (mmaRead f s (s.execLanes f.guard)) := by
  rw [exec_mma_of_matrixBlock h hb, mmaBody_of_checked hc]

/-- Settles O28: ACZ and ACRD take their place in the queue; MMA makes its checks one by one, and what its read finds
decides the rest. -/
theorem matrixMathIssue : Obligations.MatrixMathIssue := by
  intro f s
  refine ⟨?mma, ?acz, ?acrd, ?mmaOutside, ?aczOutside, ?acrdOutside, ?mmaFull, ?aczFull, ?acrdFull, ?disagree,
    ?wrongFormat, ?misaligned, ?beyond, ?badBlock, ?held, ?behind⟩
  case mma =>
    intro h hb ha hf hal hin ⟨hfirst, hturn⟩ hgood hq
    rw [exec_mma_of_checked h hb ⟨ha, hf, hal, hin⟩, mmaRead_of_good hfirst hturn hgood]
    exact finish_acceptOp_of_room s _ _ 1 _ f _ _ _ hq
  case acz => exact fun h => (acz_queuedWhen h).accepted
  case acrd => exact fun h => (acrd_queuedWhen h).accepted
  case mmaOutside => exact exec_mma_outside_matrixBlock
  case aczOutside => exact fun h => (acz_queuedWhen h).refused
  case acrdOutside => exact fun h => (acrd_queuedWhen h).refused
  case mmaFull =>
    intro h hb ha hf hal hin ⟨hfirst, hturn⟩ hgood hq
    rw [exec_mma_of_checked h hb ⟨ha, hf, hal, hin⟩, mmaRead_of_good hfirst hturn hgood]
    exact finish_acceptOp_of_full rfl _ 1 _ f _ _ _ hq
  case aczFull => exact fun h => (acz_queuedWhen h).full
  case acrdFull => exact fun h => (acrd_queuedWhen h).full
  case disagree =>
    intro h hb ha
    rw [exec_mma_of_matrixBlock h hb, mmaBody_of_disagree ha]
    rfl
  case wrongFormat =>
    intro h hb ha hf
    rw [exec_mma_of_matrixBlock h hb, mmaBody_of_wrong_format ha hf]
    rfl
  case misaligned =>
    intro h hb ha hf hal
    rw [exec_mma_of_matrixBlock h hb, mmaBody_of_misaligned ha hf hal]
    rfl
  case beyond =>
    intro h hb ha hf hal hout
    rw [exec_mma_of_matrixBlock h hb, mmaBody_of_beyond ha hf hal hout]
    rfl
  case badBlock =>
    intro h hb ha hf hal hin ⟨hfirst, hturn⟩ hbad
    rw [exec_mma_of_checked h hb ⟨ha, hf, hal, hin⟩, mmaRead_of_bad hfirst hturn hbad]
    rfl
  case held =>
    intro h hb ha hf hal hin hfirst hwait
    rw [exec_mma_of_checked h hb ⟨ha, hf, hal, hin⟩,
      mmaRead_of_wait hfirst (not_not.mp fun ht => hwait ⟨hfirst, ht⟩)]
    rfl
  case behind =>
    intro h hb ha hf hal hin hbehind
    rw [exec_mma_of_checked h hb ⟨ha, hf, hal, hin⟩, mmaRead_of_behind (Bool.not_eq_false _ ▸ hbehind)]
    rfl

end Sys2Proof.Machine
end

section
/-!
SUPPORT. Every instruction of program text is the checks of R97 around a body of its own, and what each check does.
-/
namespace Sys2Proof.Machine

/-- `exec` of an instruction of program text is the frame of R97 around a body of its own. -/
theorem exec_eq_run {i : Instr} (h : i.chk.isSome = true) (s : State) : ∃ body, exec i s = run i s body := by
  obtain ⟨c, hc⟩ := Option.isSome_iff_exists.mp h
  cases i with
  | _ => cases hc <;> (unfold exec; exact ⟨_, rfl⟩)

theorem State.splitUniform_iff (s : State) (m : DWord) :
    s.splitUniform m = true ↔ m ≠ s.cur.lanes ∨ s.cur.lanes ≠ s.activeLanes := by
  simp [State.splitUniform]

/-- An instruction one of whose registers has a write pending does not issue (R81). -/
theorem run_of_hazard {i : Instr} {s : State} (hl : s.illegalHere i = false) (hm : s.execLanes i.guard ≠ 0#64)
    (hh : s.hazard i (s.execLanes i.guard) = true) (body : DWord → Res) :
    run i s body = .next (s.result (.stalled (some 0))) := by
  simp [run, hl, hm, hh, finish]

/-- An index out of range traps in the executing lanes (R48). -/
theorem run_of_badIndex {i : Instr} {s : State} {x : Int} (hl : s.illegalHere i = false)
    (hm : s.execLanes i.guard ≠ 0#64) (hh : s.hazard i (s.execLanes i.guard) = false)
    (hx : s.badIndex i (s.execLanes i.guard) = some x) (body : DWord → Res) :
    run i s body = .next (s.trappedAt (s.execLanes i.guard) cIndexRange (ofInteger 64 x)) := by
  simp [run, hl, hm, hh, hx, finish_trap, State.trappedAt]

/-- A write of a uniform register from a path that is not the whole group traps (R33, R34). -/
theorem run_of_splitUniform {i : Instr} {s : State} (hl : s.illegalHere i = false)
    (hm : s.execLanes i.guard ≠ 0#64) (hh : s.hazard i (s.execLanes i.guard) = false)
    (hx : s.badIndex i (s.execLanes i.guard) = none) (hu : uniformRule i = true)
    (hs : s.splitUniform (s.execLanes i.guard) = true) (body : DWord → Res) :
    run i s body = .next (s.trappedAt (s.execLanes i.guard) cUniformSplit 0#64) := by
  simp [run, hl, hm, hh, hx, hu, hs, finish_trap, State.trappedAt]

/-- Settles O50: `exec` is the frame of R97, which makes the checks in their order. -/
theorem instructionChecks : Obligations.InstructionChecks := by
  unfold Obligations.InstructionChecks
  intro i s h m
  obtain ⟨body, hrun⟩ := exec_eq_run h s
  rw [hrun]
  exact ⟨fun hl => run_of_illegal hl body, fun hl hm => run_of_guard hl hm body,
    fun hl hm hh => run_of_hazard hl hm hh body, fun x hl hm hh hx => run_of_badIndex hl hm hh hx body,
    fun hl hm hh hx hu hs => run_of_splitUniform hl hm hh hx hu ((s.splitUniform_iff _).mpr hs) body⟩

end Sys2Proof.Machine
end

section
/-!
SUPPORT. How a step comes to an instruction: the words of a path (R72, R75, R78), the record of what it is computed from
(log entry 14), the paths of a group at issue (R27, R28), and the slot of a core (R36).
-/
namespace Sys2Proof.Machine

/-! ### The word of a path -/

/-- A word that lies in its lanes' block, and is no header, is decoded with its second word, where it has one. -/
theorem State.prep_inBlock {s : State} {b g : Nat} {p : Path} {w : DWord} (hpc : p.pc.toNat % 8 = 0)
    (hf : s.fetch (s.block b).core (s.block b).asid p.pc = .word w)
    (hin : ((s.group b g).lane (lowest p.lanes)).inBlock p.pc = true) (hh : isHeaderWord w = false) :
    (∀ i, isTwoWord w = false → decodeWord w 0#64 = .ok i → s.prep b g p = .instr i) ∧
    (∀ v i, isTwoWord w = true → ((s.group b g).lane (lowest p.lanes)).lastWord p.pc = false →
      s.fetch (s.block b).core (s.block b).asid (p.pc + 8#64) = .word v → decodeWord w v = .ok i →
      s.prep b g p = .instr i) := by
  constructor
  · intro i h2 hd
    simp [State.prep, prepWord, hpc, hf, hin, hh, h2, hd]
  · intro v i h2 hl hv hd
    simp [State.prep, prepWord, hpc, hf, hin, hh, h2, hl, hv, hd]

/-- A word outside its lanes' block is a header. -/
theorem State.prep_header {s : State} {b g : Nat} {p : Path} {w : DWord} {i : Instr} (hpc : p.pc.toNat % 8 = 0)
    (hf : s.fetch (s.block b).core (s.block b).asid p.pc = .word w)
    (hin : ((s.group b g).lane (lowest p.lanes)).inBlock p.pc = false) (hh : isHeaderWord w = true)
    (hd : decodeWord w 0#64 = .ok i) : s.prep b g p = .instr i := by
  simp [State.prep, prepWord, hpc, hf, hin, hh, hd]

/-! ### The record of the candidate execution -/

/-- What is noted of a performed instruction is the record alone. -/
theorem State.tracked_next {ex : Instr → State → Host.Outcome State Fault Refusal} {s t : State} {i : Instr}
    (h : s.tracked ex i = .next t) :
    ∃ tr u, ex i { s with trace := tr } = .next u ∧ t = { u with trace := t.trace } := by
  by_cases hn : s.trace = none
  · rw [State.tracked_of_none hn] at h
    exact ⟨s.trace, t, h, rfl⟩
  · simp only [State.tracked, Option.isNone_iff_eq_none, hn, if_false] at h
    split at h
    · next u hu =>
      refine ⟨_, u, hu, ?_⟩
      split at h <;> cases h <;> rfl
    · next ho => exact absurd h (ho t)

/-! ### The paths of a group -/

/-- A path whose instruction has issued, or comes after path A's accesses, does not stall. -/
theorem stallOf_eq_nil {t : State} (h : t.hasIssued ∨ t.cur.result = .behind) (p : Path) : stallOf p (.next t) = [] := by
  rcases h with (h | h) | h <;> simp [stallOf, h]

section Attempt
variable {ex : Instr → State → Host.Outcome State Fault Refusal} {s t : State} {b g : Nat} {p : Path} {i : Instr}

/-- The one path of a group issues: the group's counts follow its instruction. -/
theorem State.attempt_onePath (hp : s.prep b g p = .instr i)
    (ht : (s.startPath b g p (s.group b g) s.nextId s.nextId false false).tracked ex i = .next t) (hi : t.hasIssued) :
    s.attempt ex b g [p] = .issue (.next (t.issued b g p.lanes)) := by
  simp only [State.attempt, List.take_nil, List.map_cons, List.map_nil, List.filterMap_cons, List.filterMap_nil, hp,
    State.perform, ht, stallOf_eq_nil (.inl hi), ne_eq, not_true, if_false]
  rcases hi with h | h <;> rw [h]

variable {q : Path} {j : Instr} {t' r : State}

/-- Where path A is done and path B, judged as things stood before, can issue, path B's instruction runs at the state that
path A's left: it issues with it, or has its effect later. -/
theorem State.attempt_twoPaths (hp : s.prep b g p = .instr i)
    (ht : (s.startPath b g p (s.group b g) s.nextId s.nextId false false).tracked ex i = .next t)
    (hq : s.prep b g q = .instr j) (hd : t.cur.result = .done)
    (ht' : (s.startPath b g q (s.group b g) s.nextId s.nextId true false).tracked ex j = .next t')
    (hi' : t'.hasIssued ∨ t'.cur.result = .behind)
    (hr : (t.startPath b g q (s.group b g) s.nextId t.nextId true true).tracked ex j = .next r) :
    (r.hasIssued → s.attempt ex b g [p, q] = .issue (.next (r.issued b g (p.lanes ||| q.lanes)))) ∧
    (r.cur.result = .behind → s.attempt ex b g [p, q] = .issue (.next
      (((t.startPath b g q (s.group b g) s.nextId t.nextId true true).postpone b g
        { path := q, instr := j, firstId := s.nextId, lastId := t.nextId, counted := [] }).issued b g
          (p.lanes ||| q.lanes)))) := by
  have hwhy : stallOf p (.next t) ++ stallOf q (.next t') = [] := by
    rw [stallOf_eq_nil (.inl (.inl hd)), stallOf_eq_nil hi', List.append_nil]
  simp only [State.attempt, List.take_succ_cons, List.take_zero, List.map_cons, List.map_nil, List.filterMap_cons,
    List.filterMap_nil, hp, hq, State.perform, State.afterA, ht, ht', hr, hwhy, hd, ne_eq, not_true, if_false]
  rcases hi' with (h' | h') | h' <;> rw [h'] <;>
    exact ⟨fun h => by rcases h with h | h <;> rw [h], fun h => by rw [h]⟩

end Attempt

/-! ### The slot of a core -/

/-- A group with its choice of paths made, as it comes to issue (R28). -/
def State.chosen (s : State) (b g : Nat) : State :=
  let k := (s.group b g).retireRecon
  s.setGroup b g { k with
    choice := k.paths, forceq := k.forceOrder, yielded := false, stalls := if k.choiceStands then k.stalls else [] }

theorem State.issueGroup_of_issue {s : State} {b g : Nat} {o : Host.Outcome State Fault Refusal}
    (hn : (s.group b g).pendTrap = none)
    (ha : (s.chosen b g).attempt exec b g (s.group b g).retireRecon.paths = .issue o) :
    s.issueGroup b g = (s.chosen b g, some o) := by
  have ha' := ha
  unfold State.chosen at ha'
  simp only [State.issueGroup, hn, ha']
  rfl

/-- The first group offered a free slot takes it if it issues (R36). -/
theorem State.issueSlot_of_issue {s : State} {core b g : Nat} {ks : List (Nat × Nat)}
    {o : Host.Outcome State Fault Refusal} (hfree : (s.core core).issued.length < Config.issueSlots)
    (hks : (s.fillActive core).offered core = (b, g) :: ks) (hn : ((s.fillActive core).group b g).pendTrap = none)
    (ha : ((s.fillActive core).chosen b g).attempt exec b g ((s.fillActive core).group b g).retireRecon.paths = .issue o) :
    s.issueSlot core = o := by
  have hoffer : s.issueSlot core = (s.fillActive core).offer ((s.fillActive core).offered core) := by
    rw [State.issueSlot, if_neg (Nat.not_le.mpr hfree)]; rfl
  rw [hoffer, hks, State.offer, State.issueGroup_of_issue hn ha]

/-- A core whose die gives it a slot competes for it once its late effects are served (R28, R36). -/
theorem State.slot_of_lates {s t : State} {core : Nat} (hh : (s.die (dieOf core)).hold = false)
    (hf : s.hub.fenced.getLsbD (dieOf core) = false) (hl : s.serveLates (s.latesOf core) = .next t) :
    s.slot core = t.issueSlot core := by
  simp only [State.slot, hh, hf, hl, Bool.or_self, Bool.false_eq_true, if_false]

/-- So does a step whose action is the slot. -/
theorem step_slot {s t : State} {core : Nat} {rest : List Action} (ha : s.agenda = .slot core :: rest)
    (hh : (s.die (dieOf core)).hold = false) (hf : s.hub.fenced.getLsbD (dieOf core) = false)
    (hl : ({ s with agenda := rest, tick := s.tick + 1 } : State).serveLates (s.latesOf core) = .next t) :
    step s = t.issueSlot core := by
  simp only [step, State.nextAction, ha, State.act]
  exact State.slot_of_lates hh hf hl

/-- Settles O57: each clause is what the slot of a core, a group's attempt and the fetch of a path come to. -/
theorem stepRunsTheDecoded : Obligations.StepRunsTheDecoded := by
  unfold Obligations.StepRunsTheDecoded
  refine ⟨?issue, fun s i h => State.tracked_of_none h exec i, fun s t i h => State.tracked_next h, ?late, ?words,
    ?event, ?tick⟩
  case issue =>
    intro s t core b g rest ks p ps i u k v at_ ha hh hf hl hfree hks hn hps hp ht
    have hslot : ∀ o, v.attempt exec b g (p :: ps) = .issue o → step s = o := by
      intro o ho
      rw [step_slot ha hh hf (by rw [hl]; rfl)]
      exact State.issueSlot_of_issue hfree hks hn (hps ▸ ho)
    constructor
    · rintro rfl hi
      exact hslot _ (State.attempt_onePath hp ht hi)
    · rintro q j t' r rfl hq hd ht' hi' hr
      obtain ⟨hboth, hbehind⟩ := State.attempt_twoPaths hp ht hq hd ht' hi' hr
      exact ⟨fun h => hslot _ (hboth h), fun h => hslot _ (hbehind h)⟩
  case late =>
    intro s core b g rest l ha hh hf hl t ht
    exact step_slot ha hh hf (by rw [hl, State.serveLates, ht]; rfl)
  case words =>
    intro s b g p w i l hpc hf
    refine ⟨fun hin hh => ?_, fun hin hh hd => State.prep_header hpc hf hin hh hd⟩
    obtain ⟨hone, htwo⟩ := State.prep_inBlock hpc hf hin hh
    exact ⟨hone i, fun v => htwo v i⟩
  case event =>
    intro s i rest ha he
    simp only [step, State.nextAction, ha, State.act, he, if_true]
  case tick =>
    intro s rest ha
    simp only [step, State.nextAction, ha, State.act]

end Sys2Proof.Machine
end

section
/-!
SUPPORT. The steps of a core besides its issues: what an answer from outside changes (R150), the lanes of a block that a
barrier lets go (R138), and a group that makes way (R37).
-/
namespace Sys2Proof.Machine

/-! ### Operations -/

/-- An operation that waits for no answer from outside is as it was. -/
theorem State.seeOutward_of_seen (s : State) (id : Nat) (o : Op) {as : List Acc}
    (h : ∀ a ∈ as, State.unseen o a = false) : s.seeOutward id o as = s := by
  induction as with
  | nil => rfl
  | cons a as ih =>
    rw [State.seeOutward, h a List.mem_cons_self, ih fun b hb => h b (List.mem_cons_of_mem a hb)]
    simp

section Complete
variable {s : State} {k : Nat} {o : Op} (lanes : DWord) (ho : s.ops.get? k = some o)
include ho

/-- An operation for which an answer is still to come, or that has failed, performs nothing (R150). -/
theorem State.completeOp_of_unseen (h : (s.seeOutward k o o.accs).ops.get? k = none ∨
    ∃ q, (s.seeOutward k o o.accs).ops.get? k = some q ∧ q.accs.any (State.unseen q) = true) :
    s.completeOp k lanes = s.seeOutward k o o.accs := by
  rcases h with h | ⟨q, h, hq⟩
  · simp only [State.completeOp, ho, h]
  · simp only [State.completeOp, ho, h, hq, if_true]

/-- An operation with every answer performs the accesses that are due (R151). -/
theorem State.completeOp_of_seen {q : Op} (h : (s.seeOutward k o o.accs).ops.get? k = some q)
    (hq : q.accs.any (State.unseen q) = false) :
    let u := (s.seeOutward k o o.accs).bumpFresh
    let go := u.accsDue k q (State.chosenAccs q lanes)
    s.completeOp k lanes = (((u.performList k q go).spendOutward k q go).countDone q k).closeOp k := by
  simp only [State.completeOp, ho, h, hq, Bool.false_eq_true, if_false]

end Complete

/-! ### Barriers -/

@[simp] theorem State.markPhase_blocks (s : State) (bs : List (Nat × Block)) (w : Wait) (scope : Nat) :
    (s.markPhase bs w scope).blocks = s.blocks := by
  cases w <;> rfl

theorem State.block_congr {s t : State} (h : t.blocks = s.blocks) (b : Nat) : t.block b = s.block b := by
  rw [State.block, State.block, h]

/-- A block that is not there has no lane at a barrier, so no phase of it is due. -/
theorem State.block_isSome_of_barDue {s : State} {b k : Nat} (h : s.barDue b k = true) :
    (s.blocks.get? b).isSome = true := by
  by_contra hn
  have hb : s.block b = Block.init := by
    simp [State.block, Tbl.getD, Option.not_isSome_iff_eq_none.mp hn]
  simp [State.barDue, hb, Block.arrived, Block.init, Tbl.vals] at h

/-- A table read after a change of every part. -/
theorem Tbl.get?_map_snd {α : Type} (t : Tbl α) (f : α → α) (a : Nat) :
    Tbl.get? (t.map fun kv => (kv.1, f kv.2)) a = (Tbl.get? t a).map f := by
  induction t with
  | nil => rfl
  | cons kv rest ih =>
    simp only [List.map_cons, Tbl.get?]
    split
    · rfl
    · exact ih

/-- A group whose lanes at a barrier go on. -/
def Group.letGo (g : Group) (w : Wait) : Group :=
  { g with lanes := g.lanes.map fun l => if l.wait == w then { l with wait := .running } else l }

theorem Block.group_release (b : Block) (w : Wait) (j : Nat) :
    (b.release w).groups.getD j Group.init = (b.groups.getD j Group.init).letGo w := by
  calc (b.release w).groups.getD j Group.init
      = (Tbl.get? (b.groups.map fun kg => (kg.1, kg.2.letGo w)) j).getD Group.init := rfl
    _ = ((Tbl.get? b.groups j).map (Group.letGo · w)).getD (Group.init.letGo w) := by
      rw [Tbl.get?_map_snd b.groups (Group.letGo · w) j]; rfl
    _ = (b.groups.getD j Group.init).letGo w := Option.getD_map (Group.letGo · w) Group.init _

theorem Group.wait_letGo (g : Group) {w : Wait} (hw : w ≠ .running) (x : Nat) :
    ((g.letGo w).lane x).wait = if (g.lane x).wait = w then .running else (g.lane x).wait := by
  simp only [Group.lane, Group.letGo, List.getD_eq_getElem?_getD, List.getElem?_map]
  cases g.lanes[x]? with
  | none => simp [Lane.init, hw.symm]
  | some l => by_cases h : l.wait = w <;> simp [h]

/-- A due phase of a block's barrier lets its lanes go on together, and counts (R138). -/
theorem exec_barrierPhaseComplete_block {s : State} {b k : Nat} (h : s.barDue b k = true) : ∃ t,
    exec (.barrierPhaseComplete false b k) s = .next t ∧
    ((t.block b).bar k).phase = ((s.block b).bar k).phase + 1 ∧
    (∀ j x, (t.lane b j x).wait = if (s.lane b j x).wait = .bar k then .running else (s.lane b j x).wait) ∧
    ∀ c ≠ b, t.block c = s.block c := by
  let u := s.markPhase [(b, s.block b)] (.bar k) 1
  let f := fun (q : Block) =>
    let c := q.release (.bar k)
    { c with bars := c.bars.set k { (c.bar k) with phase := (c.bar k).phase + 1 } }
  have hu : ∀ c, u.block c = s.block c := State.block_congr (State.markPhase_blocks s _ _ _)
  have hsame : (u.onBlock b f).block b = f (s.block b) := by
    rw [State.block_onBlock_same u b f (by rw [State.markPhase_blocks]; exact State.block_isSome_of_barDue h), hu]
  refine ⟨u.onBlock b f, ?_, ?_, fun j x => ?_, fun c hc => ?_⟩
  · rw [exec_barrierPhaseComplete, execBarrierPhaseComplete, if_neg Bool.false_ne_true, if_pos h]
  · rw [hsame, Block.bar, Tbl.getD_set_same]
    rfl
  · rw [State.lane, State.group, hsame]
    have hg : (f (s.block b)).groups.getD j Group.init = (s.group b j).letGo (.bar k) :=
      Block.group_release (s.block b) (.bar k) j
    rw [hg]
    exact Group.wait_letGo _ (by simp) x
  · rw [State.block_onBlock_other u f hc.symm, hu]

/-! ### Groups that make way -/

/-- An active group makes way for the pending group that waited longest (R37). -/
theorem State.swapOut_of_readyPending {s : State} {b g : Nat} {n : Nat × Nat} {ns : List (Nat × Nat)}
    (h : s.readyPending (s.block b).core = n :: ns) : s.swapOut b g = (s.deactivate (b, g)).activate n := by
  rw [State.swapOut, h]

/-- Settles O38: each event is its due condition and its effect. -/
theorem coreEvents : Obligations.CoreEvents := by
  unfold Obligations.CoreEvents
  intro s b g i k core runs after spent line
  refine ⟨?ops, ?trigger, ?poll, fun h => exec_barrierPhaseComplete_block h, ?cohort, ?wake, ?sleeping, ?quantum, ?swap,
    ?frozen, ?pending, ?fill⟩
  case ops =>
    intro o lanes ho u
    refine ⟨fun h => ?_, fun q h hq => ?_, fun h => State.seeOutward_of_seen s k o h⟩
    · exact congrArg Host.Outcome.next (State.completeOp_of_unseen lanes ho h)
    · exact congrArg Host.Outcome.next (State.completeOp_of_seen lanes ho h hq)
  case trigger => rfl
  case poll =>
    rintro w (hw : (s.lane b g i).wait = .waitc w) hdue
    rw [exec_waitcPoll, execWaitcPoll, hw]
    refine if_pos ?_
    rcases hdue with h | h | h | ⟨c, hc, hm, h⟩
    · simp [h]
    · cases w.readAt <;> simp [h]
    · cases w.readAt <;> simp [h]
    · simp only [hc, hm, Option.isNone_none, Bool.true_and, Bool.or_eq_true, decide_eq_true_eq]
      exact .inr h
  case cohort =>
    intro h
    rw [exec_barrierPhaseComplete, execBarrierPhaseComplete, if_pos rfl, if_pos h]
  case wake =>
    rintro till (hw : (s.lane b g i).wait = .sleep till) hr ht
    rw [exec_sleepExpire, execSleepExpire, hw]
    exact if_pos (by simp only [hr, Bool.true_and]; exact decide_eq_true ht)
  case sleeping =>
    rintro till (hw : (s.lane b g i).wait = .sleep till) ht
    rw [exec_sleepExpire, execSleepExpire, hw]
    exact if_neg fun h => absurd ht (not_lt.mpr (of_decide_eq_true (Bool.and_eq_true_iff.mp h).2))
  case quantum =>
    rintro n ns ha hn (hs : Config.quantum ≤ (s.group b g).quantum ∨ (s.group b g).yielded = true)
    rw [exec_quantumExpire, execQuantumExpire, ← State.swapOut_of_readyPending hn]
    exact if_pos (by simpa [ha] using hs)
  case swap =>
    intro n ns ha hn hr
    rw [exec_groupSwap, execGroupSwap, ← State.swapOut_of_readyPending hn]
    exact if_pos (by simp [ha, hr])
  case frozen =>
    intro va hf hr
    rw [exec_icacheFill, execIcacheFill, hf]
    exact if_pos hr
  case pending =>
    intro va hf hm
    rw [exec_icacheFill, execIcacheFill, hf]
    simp only [hm]
    rfl
  case fill =>
    intro hf hm
    rw [exec_icacheFill, execIcacheFill, hf]
    simp only [hm]

end Sys2Proof.Machine
end

section
/-!
SUPPORT. The frame of an instruction that delivers to D (R71, R83, R86, R97): what a change of the lanes or of a uniform register
of the group at issue leaves alone, and the instructions whose body is such a change.
-/
namespace Sys2Proof.Machine

/-! ### The state outside the group at issue -/

theorem State.onlyGroup_refl (s : State) : s.onlyGroup s := ⟨rfl, fun _ _ => rfl, rfl, fun _ _ => rfl, fun _ => rfl⟩

theorem State.onlyGroup_result (s : State) (r : Result) : s.onlyGroup (s.result r) :=
  ⟨rfl, fun _ _ => rfl, rfl, fun _ _ => rfl, fun _ => rfl⟩

theorem State.onlyGroup_cur {s t : State} (h : s.onlyGroup t) : t.cur = { s.cur with result := t.cur.result } := by
  rw [h.1]

theorem State.onlyGroup_trans {s t u : State} (h : s.onlyGroup t) (k : t.onlyGroup u) : s.onlyGroup u := by
  have hcur := State.onlyGroup_cur h
  obtain ⟨ht, hb, hblk, hg, hm⟩ := h
  obtain ⟨hu, kb, kblk, kg, km⟩ := k
  have eblk : t.cur.blk = s.cur.blk := by rw [hcur]
  have egrp : t.cur.grp = s.cur.grp := by rw [hcur]
  rw [eblk] at kb kblk kg
  rw [egrp] at kg
  refine ⟨?_, fun b hne => (kb b hne).trans (hb b hne), ?_, fun g hne => (kg g hne).trans (hg g hne),
    fun a => (km a).trans (hm a)⟩
  · rw [hu, ht]
  · rw [kblk, State.cb, eblk, hblk]

/-- A change of the group at issue changes nothing else. -/
theorem State.onlyGroup_onGroup (s : State) (f : Group → Group) :
    s.onlyGroup (s.onGroup s.cur.blk s.cur.grp f) := by
  refine ⟨rfl, fun b hb => State.block_onBlock_other s _ hb.symm, ?_,
    fun g hg => State.group_setGroup_other s _ (.inr hg.symm), fun a => rfl⟩
  rw [State.onGroup, State.setGroup]
  cases hs : s.blocks.get? s.cur.blk with
  | none => simp [State.cb, State.block, Tbl.getD, Tbl.get?_modify, hs]
  | some k => rw [State.block_onBlock_same s _ _ (by rw [hs]; rfl), State.cb]

theorem State.cg_onGroup_present {s : State} (h : (s.blocks.get? s.cur.blk).isSome = true) (f : Group → Group) :
    (s.onGroup s.cur.blk s.cur.grp f).group s.cur.blk s.cur.grp = f s.cg :=
  State.group_setGroup_same s _ _ _ h

/-- Where the block is not there, nothing is changed. -/
theorem State.cg_onGroup_absent {s : State} (h : s.blocks.get? s.cur.blk = none) (f : Group → Group) :
    (s.onGroup s.cur.blk s.cur.grp f).group s.cur.blk s.cur.grp = s.cg := by
  simp [State.cg, State.group, State.onGroup, State.setGroup, State.block, Tbl.getD, Tbl.get?_modify, h]

/-! ### The group at issue -/

/-- Of a group the uniform registers changed as S allows, each lane as L allows, and nothing else. -/
def Group.Changed (S : Cells 64 → Cells 64 → Prop) (L : Nat → Lane → Lane → Prop) (g k : Group) : Prop :=
  k = { g with lanes := k.lanes, s := k.s } ∧ S g.s k.s ∧ ∀ j, L j (g.lane j) (k.lane j)

/-- Of the device the group at issue alone changed, as S and L allow. -/
def State.ChangesGroup (S : Cells 64 → Cells 64 → Prop) (L : Nat → Lane → Lane → Prop) (s t : State) : Prop :=
  s.onlyGroup t ∧ Group.Changed S L s.cg (t.group s.cur.blk s.cur.grp)

section Frames
variable {S : Cells 64 → Cells 64 → Prop} {L : Nat → Lane → Lane → Prop} (hS : IsPreorder _ S) (hL : ∀ j, IsPreorder _ (L j))
include hS hL

theorem Group.changed_refl (g : Group) : Group.Changed S L g g := ⟨rfl, hS.refl _, fun j => (hL j).refl _⟩

theorem Group.changed_trans {g k q : Group} (h : Group.Changed S L g k) (h' : Group.Changed S L k q) :
    Group.Changed S L g q := by
  obtain ⟨hk, hs, hl⟩ := h
  obtain ⟨hq, hs', hl'⟩ := h'
  refine ⟨?_, hS.trans _ _ _ hs hs', fun j => (hL j).trans _ _ _ (hl j) (hl' j)⟩
  rw [hq, hk]

theorem State.changesGroup_refl (s : State) : State.ChangesGroup S L s s :=
  ⟨State.onlyGroup_refl s, Group.changed_refl hS hL s.cg⟩

theorem State.changesGroup_trans {s t u : State} (h : State.ChangesGroup S L s t) (h' : State.ChangesGroup S L t u) :
    State.ChangesGroup S L s u := by
  obtain ⟨ho, hc⟩ := h
  obtain ⟨ho', hc'⟩ := h'
  have hcur := State.onlyGroup_cur ho
  rw [State.cg, hcur] at hc'
  exact ⟨State.onlyGroup_trans ho ho', Group.changed_trans hS hL hc hc'⟩

theorem State.changesGroup_result (s : State) (r : Result) : State.ChangesGroup S L s (s.result r) :=
  ⟨State.onlyGroup_result s r, Group.changed_refl hS hL s.cg⟩

theorem State.changesGroup_onGroup (s : State) {f : Group → Group} (h : Group.Changed S L s.cg (f s.cg)) :
    State.ChangesGroup S L s (s.onGroup s.cur.blk s.cur.grp f) := by
  refine ⟨State.onlyGroup_onGroup s f, ?_⟩
  cases hb : s.blocks.get? s.cur.blk with
  | none => rw [State.cg_onGroup_absent hb]; exact Group.changed_refl hS hL s.cg
  | some k => rw [State.cg_onGroup_present (by rw [hb]; rfl)]; exact h

/-- A change of the lanes of a mask. -/
theorem State.changesGroup_onExec (s : State) {m : DWord} {f : Nat → Lane → Lane}
    (h : ∀ j l, m.getLsbD j = true → L j l (f j l)) : State.ChangesGroup S L s (s.onExec m f) := by
  rw [State.onExec, State.onLanes]
  refine State.changesGroup_onGroup hS hL s ⟨rfl, hS.refl _, fun j => ?_⟩
  simp only [Group.lane, List.getD_eq_getElem?_getD, List.getElem?_mapIdx]
  cases s.cg.lanes[j]? with
  | none => exact (hL j).refl _
  | some l =>
    by_cases hm : m.getLsbD j = true
    · simpa [hm] using h j l hm
    · simpa [hm] using (hL j).refl l

/-- A write of a uniform register. -/
theorem State.changesGroup_putU (s : State) (r w : Nat) (x : DWord) (h : S s.cg.s (s.cg.s.set r (cut w x))) :
    State.ChangesGroup S L s (s.putU r w x) :=
  State.changesGroup_onGroup hS hL s ⟨rfl, h, fun j => (hL j).refl _⟩

/-- To go on past the word at issue changes pcs alone. -/
theorem State.changesGroup_pastWords (hpc : ∀ j l pc, L j l { l with pc := pc }) {s u : State}
    (h : State.ChangesGroup S L s u) (words : Nat) (moved : DWord) :
    State.ChangesGroup S L s (s.pastWords u words moved) :=
  State.changesGroup_trans hS hL h (State.changesGroup_trans hS hL
    (State.changesGroup_onExec hS hL u fun j l _ => hpc j l _) (State.changesGroup_result hS hL _ _))

end Frames

/-! ### Instructions that are done -/

/-- An instruction that is done has ended its body so. -/
theorem finish_done {s t : State} {words : Nat} {r : Res} (h : finish s words r = .next t)
    (hd : t.cur.result = .done) : ∃ u moved, r = .ok u moved ∧ t = s.pastWords u words moved := by
  cases r with
  | ok u moved => cases h; exact ⟨u, moved, rfl, rfl⟩
  | fault => cases h
  | _ => cases h; cases hd

/-- One that is done was passed, or its body ran over its executing lanes (R45, R97). -/
theorem run_done {i : Instr} {s t : State} {body : DWord → Res} (h : run i s body = .next t)
    (hd : t.cur.result = .done) :
    ∃ u moved, (u = s ∨ body (s.execLanes i.guard) = .ok u moved) ∧ t = s.pastWords u (wordsOf i) moved := by
  unfold run at h
  simp only [beq_iff_eq] at h
  split at h
  · exact absurd (finish_done h hd) (by simp)
  split at h
  · obtain ⟨u, moved, hr, ht⟩ := finish_done h hd
    cases hr
    exact ⟨s, 0#64, .inl rfl, ht⟩
  split at h
  · exact absurd (finish_done h hd) (by simp)
  split at h
  · exact absurd (finish_done h hd) (by simp)
  split at h
  · exact absurd (finish_done h hd) (by simp)
  · obtain ⟨u, moved, hr, ht⟩ := finish_done h hd
    exact ⟨u, moved, .inr hr, ht⟩

/-! ### Instructions that deliver a value -/

/-- The body delivers a value of w bits to D, or traps. -/
def Res.DeliversValue (s : State) (f : FmtA) (m : DWord) (w : Nat) (r : Res) : Prop :=
  (∃ val, r = alu s f m w val) ∨ ∃ lanes code tval, r = .trap lanes code tval

/-- The body of each of them; SEL alone has a check of its own, of a predicate that a uniform form reads (R99). -/
theorem valueTo_delivers {i : Instr} {f : FmtA} {w : Nat} (h : valueTo i = some (f, w)) (s : State) :
    ∃ body, exec i s = run i s body ∧ i.guard = f.guard ∧ ∀ m, (body m).DeliversValue s f m w := by
  cases i with
  | sel w64 f' =>
    cases h
    unfold exec
    refine ⟨_, rfl, rfl, fun m => ?_⟩
    by_cases hp : predSplit s f.u m (bits f.c 0 7) = true
    · exact .inr ⟨_, _, _, if_pos hp⟩
    · exact .inl ⟨_, if_neg hp⟩
  | _ => cases h <;> (unfold exec; exact ⟨_, rfl, rfl, fun m => .inl ⟨_, rfl⟩⟩)

/-- A body that delivers a value and ends well has delivered it. -/
theorem Res.DeliversValue.eq_putD {s u : State} {f : FmtA} {m moved : DWord} {w : Nat} {r : Res}
    (h : r.DeliversValue s f m w) (hr : r = .ok u moved) : ∃ val, u = s.putD f m w val := by
  obtain ⟨val, hv⟩ | ⟨lanes, code, tval, ht⟩ := h
  · rw [hv] at hr
    cases hr
    exact ⟨val, rfl⟩
  · rw [ht] at hr
    cases hr

theorem Lane.put_eq (l : Lane) (r w : Nat) (x : DWord) : l.put r w x = { l with v := (l.put r w x).v } := by
  unfold Lane.put
  split <;> rfl

/-- A write of a value leaves every register but its own as it was (R44). -/
theorem Lane.vreg_put_other (l : Lane) {r w n : Nat} (x : DWord) (h : n ≠ r) (h' : w = 64 → n ≠ r + 1) :
    (l.put r w x).vreg n = l.vreg n := by
  unfold Lane.put
  split
  · next hw =>
    have h1 : r + 1 ≠ n := (h' (beq_iff_eq.mp hw)).symm
    rw [Lane.setVpair, Lane.vreg, Lane.setV, Lane.setV, Cells.get_set_other _ _ h1, Cells.get_set_other _ _ h.symm]
    rfl
  · rw [Lane.vreg, Lane.setV, Cells.get_set_other _ _ h.symm]
    rfl

/-- What an instruction that delivers a value to D may change of the uniform registers. -/
def KeepsUregs (f : FmtA) (a b : Cells 64) : Prop := ∀ n, (f.u = false ∨ n ≠ f.d.toNat) → b.get n = a.get n

/-- What it may change of a lane: the pc, and D's registers where the lane is of the mask. -/
def KeepsLane (f : FmtA) (w : Nat) (m : DWord) (j : Nat) (l r : Lane) : Prop :=
  r = { l with v := r.v, pc := r.pc } ∧
  ∀ n, (f.u = true ∨ m.getLsbD j = false ∨ (n ≠ destReg f l ∧ (w = 64 → n ≠ destReg f l + 1))) → r.vreg n = l.vreg n

theorem isPreorder_keepsUregs (f : FmtA) : IsPreorder _ (KeepsUregs f) where
  refl _ _ _ := rfl
  trans _ _ _ h h' n hn := (h' n hn).trans (h n hn)

theorem isPreorder_keepsLane (f : FmtA) (w : Nat) (m : DWord) (j : Nat) : IsPreorder _ (KeepsLane f w m j) where
  refl _ := ⟨rfl, fun _ _ => rfl⟩
  trans a b c h h' := by
    obtain ⟨hb, hv⟩ := h
    obtain ⟨hc, hv'⟩ := h'
    have hd : destReg f b = destReg f a := by rw [hb]; rfl
    exact ⟨by rw [hc, hb], fun n hn => (hv' n (hd ▸ hn)).trans (hv n hn)⟩

/-- A delivered value changes D alone. -/
theorem State.changesGroup_putD (s : State) (f : FmtA) (m : DWord) (w : Nat) (val : Group → Lane → Nat → DWord) :
    State.ChangesGroup (KeepsUregs f) (KeepsLane f w m) s (s.putD f m w val) := by
  have hS := isPreorder_keepsUregs f
  have hL := isPreorder_keepsLane f w m
  unfold State.putD
  by_cases hu : f.u = true
  · rw [if_pos hu]
    refine State.changesGroup_putU hS hL s _ _ _ fun n hn => Cells.get_set_other _ _ ?_
    rcases hn with h | h
    · simp [hu] at h
    · exact h.symm
  · rw [if_neg hu]
    refine State.changesGroup_onExec hS hL s fun j l hj => ⟨?_, fun n hn => ?_⟩
    · rw [Lane.put_eq]
    · rcases hn with h | h | ⟨h, h'⟩
      · exact absurd h hu
      · simp [hj] at h
      · exact Lane.vreg_put_other l _ h h'

/-- An instruction that delivers a value and is done changes its group alone, and there D and the pc. -/
theorem valueTo_frame {i : Instr} {f : FmtA} {w : Nat} (h : valueTo i = some (f, w)) {s t : State}
    (hx : exec i s = .next t) (hd : t.cur.result = .done) :
    State.ChangesGroup (KeepsUregs f) (KeepsLane f w (s.execLanes f.guard)) s t := by
  have hS := isPreorder_keepsUregs f
  have hL := isPreorder_keepsLane f w (s.execLanes f.guard)
  obtain ⟨body, hrun, hg, hbody⟩ := valueTo_delivers h s
  obtain ⟨u, moved, hu, rfl⟩ := run_done (hrun ▸ hx) hd
  refine State.changesGroup_pastWords hS hL (fun j l pc => ⟨rfl, fun _ _ => rfl⟩) ?_ _ _
  rcases hu with hu | hr
  · rw [hu]
    exact State.changesGroup_refl hS hL s
  · obtain ⟨val, rfl⟩ := (hbody _).eq_putD hr
    rw [hg]
    exact State.changesGroup_putD s f _ w val

/-! ### Instructions that deliver a predicate -/

/-- The body of each of them sets a predicate of its executing lanes. -/
theorem predicateTo_delivers {i : Instr} {f : FmtA} (h : predicateTo i = some f) (s : State) :
    ∃ body, exec i s = run i s body ∧ i.guard = f.guard ∧
      ∀ m, ∃ val : Nat → Lane → Bool, body m = .ok (s.onExec m fun j l => l.setP f.d.toNat (val j l)) 0#64 := by
  cases i with
  | _ => cases h <;> (unfold exec; exact ⟨_, rfl, rfl, fun m => ⟨_, rfl⟩⟩)

/-- A write of a predicate leaves every other one as it was. -/
theorem Lane.pred_setP_other (l : Lane) {p n : Nat} (b : Bool) (h : n ≠ p) : (l.setP p b).pred n = l.pred n := by
  have hbit : (1#96 <<< p).getLsbD n = false := by
    rcases Nat.lt_or_gt_of_ne h with h | h
    · simp [h]
    · simp [BitVec.getLsbD_one, Nat.sub_ne_zero_of_lt h]
  cases b with
  | true => simp [Lane.pred, Lane.setP, hbit]
  | false => simpa [Lane.pred, Lane.setP, hbit] using fun hn => BitVec.lt_of_getLsbD hn

/-- What an instruction that delivers a predicate to D may change of a lane. -/
def KeepsLaneButPred (f : FmtA) (m : DWord) (j : Nat) (l r : Lane) : Prop :=
  r = { l with p := r.p, pc := r.pc } ∧ ∀ n, (m.getLsbD j = false ∨ n ≠ f.d.toNat) → r.pred n = l.pred n

theorem isPreorder_keepsLaneButPred (f : FmtA) (m : DWord) (j : Nat) : IsPreorder _ (KeepsLaneButPred f m j) where
  refl _ := ⟨rfl, fun _ _ => rfl⟩
  trans _ _ _ h h' := by
    obtain ⟨hb, hp⟩ := h
    obtain ⟨hc, hp'⟩ := h'
    exact ⟨by rw [hc, hb], fun n hn => (hp' n hn).trans (hp n hn)⟩

/-- An instruction that delivers a predicate and is done changes its group alone, and there that predicate and the pc. -/
theorem predicateTo_frame {i : Instr} {f : FmtA} (h : predicateTo i = some f) {s t : State}
    (hx : exec i s = .next t) (hd : t.cur.result = .done) :
    State.ChangesGroup Eq (KeepsLaneButPred f (s.execLanes f.guard)) s t := by
  have hS : IsPreorder (Cells 64) Eq := { refl := Eq.refl, trans := fun _ _ _ => Eq.trans }
  have hL := isPreorder_keepsLaneButPred f (s.execLanes f.guard)
  obtain ⟨body, hrun, hg, hbody⟩ := predicateTo_delivers h s
  obtain ⟨u, moved, hu, rfl⟩ := run_done (hrun ▸ hx) hd
  refine State.changesGroup_pastWords hS hL (fun j l pc => ⟨rfl, fun _ _ => rfl⟩) ?_ _ _
  rcases hu with hu | hr
  · rw [hu]
    exact State.changesGroup_refl hS hL s
  · obtain ⟨val, hv⟩ := hbody (s.execLanes i.guard)
    rw [hv] at hr
    cases hr
    rw [hg]
    refine State.changesGroup_onExec hS hL s fun j l hj => ⟨rfl, fun n hn => Lane.pred_setP_other l _ ?_⟩
    exact hn.resolve_left (by simp [hj])

/-- Settles O52: the two frames, read off field by field. -/
theorem registerInstructionFrames : Obligations.RegisterInstructionFrames := by
  unfold Obligations.RegisterInstructionFrames
  intro i s t hx hd g
  constructor
  · intro f w hf
    obtain ⟨honly, hg, hs, hlanes⟩ := valueTo_frame hf hx hd
    exact ⟨honly, hg, hs, hlanes⟩
  · intro f hf
    obtain ⟨honly, hg, hs, hlanes⟩ := predicateTo_frame hf hx hd
    exact ⟨honly, hg.trans (congrArg (fun x => { s.cg with lanes := g.lanes, s := x }) hs.symm), hlanes⟩

end Sys2Proof.Machine
end

section
/-!
SUPPORT. What an access of the hub's units leaves alone (R303, R330): whatever it recalls, writes, asks for or holds back, it changes
memory and what the mesh, the caches and the hub know of it, and nothing else of the device.
-/
namespace Sys2Proof.Machine

/-- t is s but for memory, what the mesh, the caches and the hub know of it, and the model's own counts. -/
def State.ReachesMemory (s t : State) : Prop :=
  t = { s with
    fresh := t.fresh, nextId := t.nextId, mem := t.mem, dead := t.dead, trace := t.trace, monitors := t.monitors, mesh := t.mesh
    caches := t.caches, counters := t.counters
    hub := { s.hub with spans := t.hub.spans, hostHeld := t.hub.hostHeld, waiting := t.hub.waiting } }

namespace State.ReachesMemory

theorem refl (s : State) : s.ReachesMemory s := rfl

theorem trans {s t u : State} (h : s.ReachesMemory t) (h' : t.ReachesMemory u) : s.ReachesMemory u := by
  rw [State.ReachesMemory] at *
  rw [h', h]

theorem ite {s t u : State} {p : Prop} [Decidable p] (h : p → s.ReachesMemory t) (h' : ¬ p → s.ReachesMemory u) :
    s.ReachesMemory (if p then t else u) := by
  split
  · next hp => exact h hp
  · next hp => exact h' hp

theorem foldl {α : Type} {f : State → α → State} (h : ∀ (u : State) a, u.ReachesMemory (f u a)) (as : List α) (s : State) :
    s.ReachesMemory (as.foldl f s) := by
  induction as generalizing s with
  | nil => exact refl s
  | cons a as ih => exact (h s a).trans (ih (f s a))

/-! ### What is kept -/

theorem blocks {s t : State} (h : s.ReachesMemory t) : t.blocks = s.blocks := by rw [h]
theorem held {s t : State} (h : s.ReachesMemory t) : t.hub.held = s.hub.held := by rw [h]

end State.ReachesMemory

namespace State

/-! ### Single updates -/

theorem reaches_setMesh (s : State) (m : Mesh) : s.ReachesMemory { s with mesh := m } := rfl
theorem reaches_setCache (s : State) (k : Nat) (c : Cache) : s.ReachesMemory (s.setCache k c) := rfl
theorem reaches_count (s : State) (die ev n : Nat) : s.ReachesMemory (s.count die ev n) := rfl
theorem reaches_reach (s : State) (sector : Nat) : s.ReachesMemory (s.reach sector) := rfl
theorem reaches_setSect (s : State) (die sector st : Nat) : s.ReachesMemory (s.setSect die sector st) := rfl
theorem reaches_dropL1Sector (s : State) (die sector : Nat) : s.ReachesMemory (s.dropL1Sector die sector) := rfl
theorem reaches_record (s : State) (l : Loc) (n : Nat) : s.ReachesMemory (s.record l n) := rfl
theorem reaches_setMemByte (s : State) (key : Nat) (b : Byte) : s.ReachesMemory (s.setMemByte key b) := rfl
theorem reaches_fromOutside (s : State) (since : Nat) : s.ReachesMemory (s.fromOutside since) := rfl
theorem reaches_asRelease (s : State) (since id : Nat) : s.ReachesMemory (s.asRelease since id) := rfl
theorem reaches_bumpFresh (s : State) : s.ReachesMemory s.bumpFresh := rfl
theorem reaches_setSpans (s : State) (p : Tbl Span) : s.ReachesMemory { s with hub := { s.hub with spans := p } } := rfl
theorem reaches_toHost (s : State) (ks : List Nat) : s.ReachesMemory (s.toHost ks) := rfl
theorem reaches_hold (s : State) (ws : List HeldWrite) : s.ReachesMemory { s with hub := { s.hub with waiting := ws } } := rfl
theorem reaches_send (s : State) (m : Msg) : s.ReachesMemory (s.send m) := rfl
theorem reaches_addReq (s : State) (r : Req) : s.ReachesMemory (s.addReq r) := rfl

/-! ### Bytes of memory -/

theorem reaches_putMemBytes (s : State) (key : Nat) (bs : List Byte) : s.ReachesMemory (s.putMemBytes key bs) := by
  induction bs generalizing s key with
  | nil => exact .refl s
  | cons b bs ih => exact (reaches_setMemByte s key b).trans (ih _ (key + 1))

theorem reaches_setMemBytes (s : State) (key : Nat) (bs : List Byte) : s.ReachesMemory (s.setMemBytes key bs) :=
  (reaches_record s _ _).trans (reaches_putMemBytes _ key bs)

/-! ### Caches and slices (R218, R219, R254) -/

theorem reaches_refitMsc (s : State) (md line fuel : Nat) : s.ReachesMemory (s.refitMsc md line fuel) := by
  induction fuel generalizing s with
  | zero => exact .refl s
  | succ fuel ih =>
    simp only [refitMsc]
    split
    · exact .refl s
    · refine .ite (fun _ => .refl s) fun _ => ?_
      split
      · exact ((reaches_setCache s _ _).trans (reaches_count _ _ _ _)).trans (ih _)
      · exact .refl s

theorem reaches_homeWritten (s : State) (sector : Nat) : s.ReachesMemory (s.homeWritten sector) :=
  .trans (.ite (fun _ => .refl s) fun _ => reaches_setMesh s _)
    (.ite (fun _ => (reaches_setCache _ _ _).trans (reaches_refitMsc _ _ _ _)) fun _ => .refl _)

theorem reaches_leaveRetention (s : State) (die line : Nat) : s.ReachesMemory (s.leaveRetention die line) :=
  .ite (fun _ => (reaches_setMesh s _).trans (reaches_count _ _ _ _)) fun _ => .refl s

theorem reaches_freeL2Way (s : State) (die line : Nat) : s.ReachesMemory (s.freeL2Way die line) :=
  .ite (fun _ => .refl s) fun _ => .ite (fun _ => reaches_setCache s _ _) fun _ => .refl s

theorem reaches_loseSector (s : State) (die sector : Nat) : s.ReachesMemory (s.loseSector die sector) :=
  (((reaches_dropL1Sector s die sector).trans (reaches_setSect _ die sector 0)).trans
    (reaches_freeL2Way _ die _)).trans (reaches_reach _ _)

theorem reaches_dropEverywhere (s : State) (sector : Nat) : s.ReachesMemory (s.dropEverywhere sector) :=
  .foldl (fun u d => .ite (fun _ => reaches_loseSector u d sector) fun _ => .refl u) _ s

theorem reaches_recallSector (s : State) (sector : Nat) : s.ReachesMemory (s.recallSector sector) :=
  have h := (ReachesMemory.foldl (fun u d => reaches_leaveRetention u d (sector / 4)) _ s).trans
    (reaches_dropEverywhere _ sector)
  .ite (fun _ => h) fun _ => h.trans (reaches_homeWritten _ sector)

theorem reaches_shareOut (s : State) (k : Nat) : s.ReachesMemory (s.shareOut k) := by
  refine .trans (.ite (fun _ => .refl s) fun _ => reaches_setMesh s _) (.foldl (fun v d => ?_) _ _)
  split
  · exact reaches_setSect v d k 1
  · exact reaches_leaveRetention v d _
  · exact (reaches_leaveRetention v d _).trans (reaches_setSect _ d k 3)
  · exact .refl v

/-! ### Spans (R257) -/

theorem reaches_fetchPeer (s : State) (key n : Nat) : s.ReachesMemory (s.fetchPeer key n) :=
  .ite (fun _ => ((reaches_setMemBytes s key _).trans (reaches_fromOutside _ _)).trans (reaches_bumpFresh _)) fun _ => .refl s

theorem reaches_spanFor (s : State) (key : Nat) (own : Bool) : s.ReachesMemory (s.spanFor key own) := by
  refine .ite (fun _ => .trans (.ite (fun _ => .refl s) fun _ => reaches_fetchPeer s _ _) (reaches_setSpans _ _)) fun _ => ?_
  dsimp only
  split
  · exact .refl s
  · next p _ =>
    have home : ∀ bs, s.ReachesMemory (if !p.m then s else ((List.range 64).foldl
        (fun (u : State) i => u.homeWritten (key / 4096 * 4096 / 64 + i))
        ((s.setMemBytes (key / 4096 * 4096) bs).fromOutside s.traceLen)).bumpFresh) := fun bs =>
      .ite (fun _ => .refl s) fun _ => (((reaches_setMemBytes s _ bs).trans (reaches_fromOutside _ _)).trans
        (.foldl (fun u i => reaches_homeWritten u _) _ _)).trans (reaches_bumpFresh _)
    exact .ite (fun _ => (home _).trans (reaches_setSpans _ _)) fun _ => (home _).trans (reaches_setSpans _ _)

/-! ### Requests (R245, R251, R303) -/

theorem reaches_enterPersist (s : State) (stop req : Nat) : s.ReachesMemory (s.enterPersist stop req) :=
  .ite (fun _ => .refl s) fun _ => reaches_setMesh s _

theorem reaches_sendReq (s : State) (id : Nat) (r : Req) : s.ReachesMemory (s.sendReq id r) :=
  .ite (fun _ => (reaches_send s _).trans (reaches_enterPersist _ _ _)) fun _ => reaches_send s _

theorem reaches_startReq (s : State) (r : Req) : s.ReachesMemory (s.startReq r) :=
  .ite (fun _ => .refl s) fun _ => (reaches_addReq s r).trans (reaches_sendReq _ _ _)

theorem reaches_askSnoop (s : State) (line : Nat) (mask : BitVec 4) : s.ReachesMemory (s.askSnoop line mask) :=
  (reaches_startReq s _).trans (reaches_setMesh _ _)

theorem reaches_callBack (s : State) (key : Nat) (w : HubWrite) : s.ReachesMemory (s.callBack key w) :=
  .trans (.foldl (fun u _ => reaches_startReq u _) _ s) (.foldl (fun u k => reaches_askSnoop u (k / 4) _) _ _)

/-! ### Accesses of the hub (R303, R330, R356) -/

theorem reaches_homeWrite (s : State) (key : Nat) (bs : List Byte) : s.ReachesMemory (s.homeWrite key bs) :=
  .trans (.trans (.foldl (fun u _ => (reaches_spanFor u _ true).trans (reaches_recallSector _ _)) _ s)
    (reaches_setMemBytes _ key bs)) (.foldl (fun u _ => reaches_homeWritten u _) _ _)

theorem reaches_homeUpdate (s : State) (key : Nat) (w : HubWrite) : s.ReachesMemory (s.homeUpdate key w) := by
  cases w with
  | bytes bs => exact reaches_homeWrite s key bs
  | host bs => exact ((reaches_homeWrite s key bs).trans (reaches_fromOutside _ _)).trans (reaches_toHost _ _)
  | word v id => exact (reaches_homeWrite s key _).trans (reaches_asRelease _ _ _)
  | add n => exact reaches_homeWrite s key _
  | or v => exact reaches_homeWrite s key _
  | share n => exact .trans (.foldl reaches_shareOut _ s) (reaches_toHost _ _)

theorem reaches_hubUpdate (s : State) (key : Nat) (w : HubWrite) : s.ReachesMemory (s.hubUpdate key w) :=
  .ite (fun _ => reaches_homeUpdate s key w) fun _ =>
    .trans (.trans (.foldl (fun u _ => reaches_count u _ _ _) _ s) (reaches_callBack _ key w)) (reaches_hold _ _)

theorem reaches_statusAdd (s : State) (asid off n : Nat) : s.ReachesMemory (s.statusAdd asid off n) := by
  unfold statusAdd
  split
  · exact reaches_hubUpdate s _ _
  · exact .refl s

end State

end Sys2Proof.Machine
end

section
/-!
SUPPORT. A trap (R54, R343 to R347): what a group that stops or parks leaves behind, and which of the two, or its handler, a trap
leads to.
-/
namespace Sys2Proof.Machine

/-! ### A group that is changed -/

theorem State.group_congr {s t : State} (h : t.blocks = s.blocks) (b g : Nat) : t.group b g = s.group b g := by
  rw [State.group, State.group, State.block_congr h]

section Present
variable {s : State} {b : Nat} (hb : (s.blocks.get? b).isSome = true) (g : Nat)
include hb

theorem State.group_onGroup_same (f : Group → Group) : (s.onGroup b g f).group b g = f (s.group b g) :=
  State.group_setGroup_same s b g _ hb

/-- Of its block it leaves all but the groups. -/
theorem State.block_onGroup_same (f : Group → Group) :
    (s.onGroup b g f).block b = { s.block b with groups := (s.block b).groups.set g (f (s.group b g)) } :=
  State.block_onBlock_same s b _ hb

theorem State.blocks_isSome_onGroup (f : Group → Group) : ((s.onGroup b g f).blocks.get? b).isSome = true := by
  simpa [State.onGroup, State.setGroup, Tbl.get?_modify] using hb

/-- A change of a group that leaves its lanes alone leaves each of them as it was. -/
theorem State.lane_onGroup_same {f : Group → Group} (h : (f (s.group b g)).lanes = (s.group b g).lanes) (i : Nat) :
    (s.onGroup b g f).lane b g i = s.lane b g i := by
  rw [State.lane, State.group_onGroup_same hb, h, State.lane]

/-- What a change of lanes leaves alone in each of them it leaves alone in all 64 places. -/
theorem State.laneField_onLanes {α : Type} (p : Lane → α) (m : DWord) {f : Nat → Lane → Lane} (h : ∀ i l, p (f i l) = p l)
    (i : Nat) : p ((s.onLanes b g m f).lane b g i) = p (s.lane b g i) := by
  by_cases hi : i < (s.group b g).lanes.length
  · rw [State.lane_onLanes_same s b g m f i hb hi]
    split
    · exact h i _
    · rfl
  · rw [State.lane, State.onLanes, State.group_onGroup_same hb, State.lane]
    simp [List.getD, hi]

end Present

/-! ### A group that stops (R305, R347) -/

/-- A group that has stopped. -/
def Group.stop (k : Group) : Group :=
  { k with stopped := true, active := false, choice := [], parked := [], pendTrap := none, frozen := none }

/-- Some lane of a mask is in a handler. -/
def State.inHandler (s : State) (b g : Nat) (lanes : DWord) : Bool := (lanesOf lanes).any fun i => (s.lane b g i).inHandler

/-- What byte 23 of a stop's record says: a trapping lane was in a handler, none is installed, or it is no legal target (R305). -/
def State.stopFlags (s : State) (b g : Nat) (lanes : DWord) (failed : Bool) : Nat :=
  (if s.inHandler b g lanes then 1 else 0) + (if (s.ctx (s.block b).asid).trapvec.getLsbD 0 then 0 else 2) +
    if failed then 4 else 0

/-- The record of a stop (R305, R347). -/
def State.stopRecord (s : State) (b g code : Nat) (lanes epc : DWord) (b23 : Nat) : List Byte :=
  fqBytes epc lanes (s.block b).asid 8 ((s.block b).groupField g) (s.block b).core code b23 (s.block b).field

/-- t is s with a group stopped and its record handed to the hub. -/
structure State.StopsGroup (s t : State) (b g : Nat) (record : List Byte) (lane : Nat → Lane) : Prop where
  held : t.hub.held.map FqEntry.bytes = s.hub.held.map FqEntry.bytes ++ [record]
  stopped : (t.group b g).stopped = true
  lanes : ∀ i < (s.group b g).lanes.length, t.lane b g i = lane i

section Stops
variable {s : State} {b g : Nat} (hs : (s.group b g).stopped = false) (he : (s.group b g).ended = false)
include hs he

theorem State.stopGroup_blocks (code : Nat) (lanes epc : DWord) (failed : Bool) :
    (s.stopGroup b g code lanes epc failed).blocks = (s.onGroup b g Group.stop).blocks := by
  rw [State.stopGroup, if_neg (by simp [hs, he])]
  exact (State.reaches_statusAdd _ _ _ _).blocks

theorem State.stopGroup_held (code : Nat) (lanes epc : DWord) (failed : Bool) :
    (s.stopGroup b g code lanes epc failed).hub.held =
      s.hub.held ++ [{ id := s.nextId, bytes := s.stopRecord b g code lanes epc (s.stopFlags b g lanes failed) }] := by
  have hf : (if !(s.ctx (s.block b).asid).trapvec.getLsbD 0 then 2 else 0) =
      if (s.ctx (s.block b).asid).trapvec.getLsbD 0 then 0 else 2 := by
    cases (s.ctx (s.block b).asid).trapvec.getLsbD 0 <;> rfl
  rw [State.stopGroup, if_neg (by simp [hs, he]), State.stopFlags, ← hf]
  exact (State.reaches_statusAdd _ _ _ _).held

variable (hb : (s.blocks.get? b).isSome = true)
include hb

/-- A running group that stops keeps its lanes. -/
theorem State.stopGroup_stopsGroup (code : Nat) (lanes epc : DWord) (failed : Bool) :
    s.StopsGroup (s.stopGroup b g code lanes epc failed) b g
      (s.stopRecord b g code lanes epc (s.stopFlags b g lanes failed)) (s.lane b g) where
  held := by rw [State.stopGroup_held hs he, List.map_append]; rfl
  stopped := by rw [State.group_congr (State.stopGroup_blocks hs he ..), State.group_onGroup_same hb]; rfl
  lanes i _ := by
    rw [State.lane, State.group_congr (State.stopGroup_blocks hs he ..)]
    exact State.lane_onGroup_same hb g rfl i

/-- One that stops at its instruction has there what its lanes met, by EPC and TVAL (R343). -/
theorem State.stopAt_stopsGroup (code : Nat) (lanes tval epc : DWord) :
    s.StopsGroup (s.stopAt b g code lanes tval epc) b g
      (s.stopRecord b g code lanes epc (s.stopFlags b g lanes false))
      (fun i => if lanes.getLsbD i then { s.lane b g i with tval := tval, epc := epc } else s.lane b g i) := by
  let f := fun (_ : Nat) (l : Lane) => { l with tval := tval, epc := epc }
  let u := s.onLanes b g lanes f
  have hu : s.stopAt b g code lanes tval epc = u.stopGroup b g code lanes epc false := by
    rw [State.stopAt, if_neg (by simp [hs, he])]
  have hg : u.group b g = { s.group b g with lanes := (u.group b g).lanes } := by
    rw [show u.group b g = _ from State.group_onGroup_same hb g _]
  have hk : u.block b = { s.block b with groups := (u.block b).groups } := by
    rw [show u.block b = _ from State.block_onGroup_same hb g _]
  have hn : u.inHandler b g lanes = s.inHandler b g lanes := by
    simp only [State.inHandler]
    congr 1
    funext i
    exact State.laneField_onLanes hb g Lane.inHandler lanes (f := f) (fun _ _ => rfl) i
  have hrec : u.stopRecord b g code lanes epc (u.stopFlags b g lanes false) =
      s.stopRecord b g code lanes epc (s.stopFlags b g lanes false) := by
    rw [State.stopRecord, State.stopFlags, hn, hk]
    rfl
  obtain ⟨hheld, hstop, hlanes⟩ := State.stopGroup_stopsGroup (s := u) (by rw [hg]; exact hs) (by rw [hg]; exact he)
    (State.blocks_isSome_onGroup hb g _) code lanes epc false
  rw [hu]
  refine ⟨hrec ▸ hheld, hstop, fun i hi => ?_⟩
  have hlen : (u.group b g).lanes.length = (s.group b g).lanes.length := by
    rw [show u.group b g = _ from State.group_onGroup_same hb g _, List.length_mapIdx]
  rw [hlanes i (hlen ▸ hi)]
  exact State.lane_onLanes_same s b g lanes f i hb hi

end Stops

/-! ### A group that parks (R306) -/

/-- For one page it has one entry. -/
theorem State.parkGroup_one (s : State) (b g : Nat) (lanes pc : DWord) (e : DWord × DWord × Nat) :
    s.parkGroup b g lanes pc [e] = (s.postWait (s.block b).asid e.1
      (fqBytes e.1 e.2.1 (s.block b).asid e.2.2 ((s.block b).groupField g) (s.block b).core 0 0 (s.block b).field)
      (.group b g)).onGroup b g fun k => { k with parked := [s.nextId], parkLanes := lanes, parkPc := pc, active := false } :=
  rfl

@[simp] theorem State.postWait_blocks (s : State) (asid : Nat) (va : DWord) (bs : List Byte) (w : Waiter) :
    (s.postWait asid va bs w).blocks = s.blocks := rfl

theorem State.blocks_isSome_parkGroup_one {s : State} {b : Nat} (hb : (s.blocks.get? b).isSome = true) (g : Nat)
    (lanes pc : DWord) (e : DWord × DWord × Nat) : ((s.parkGroup b g lanes pc [e]).blocks.get? b).isSome = true := by
  rw [State.parkGroup_one]
  exact State.blocks_isSome_onGroup (by rw [State.postWait_blocks]; exact hb) g _

/-- For that entry it waits. -/
theorem State.group_parkGroup_one {s : State} {b : Nat} (hb : (s.blocks.get? b).isSome = true) (g : Nat) (lanes pc : DWord)
    (e : DWord × DWord × Nat) : (s.parkGroup b g lanes pc [e]).group b g =
      { s.group b g with parked := [s.nextId], parkLanes := lanes, parkPc := pc, active := false } := by
  rw [State.parkGroup_one, State.group_onGroup_same (by rw [State.postWait_blocks]; exact hb),
    State.group_congr (State.postWait_blocks s _ _ _ _)]

/-! ### A trap -/

/-- Where the block's context has its traps handled (R54). -/
def State.handler (s : State) (b : Nat) : DWord := handlerOf (s.ctx (s.block b).asid).trapvec

/-- The check of that target (R78). -/
def State.handlerCheck (s : State) (b : Nat) : Target := s.checkTarget (s.block b).core (s.block b).asid (s.handler b)

/-- A trap of lanes may enter the handler: one is installed, none of the lanes is in one, and the code is one that does (R343, R346). -/
structure State.MayEnter (s : State) (b g : Nat) (lanes : DWord) (code : Nat) : Prop where
  installed : (s.ctx (s.block b).asid).trapvec.getLsbD 0 = true
  outside : s.inHandler b g lanes = false
  enters : noHandlerCode code = false

theorem noHandlerCode_eq_false_iff (code : Nat) :
    noHandlerCode code = false ↔ code ≠ cPageFault ∧ code ≠ cPoison ∧ code ≠ cLost := by
  simp [noHandlerCode, and_assoc]

theorem State.mayEnter_iff (s : State) (b g : Nat) (lanes : DWord) (code : Nat) : s.MayEnter b g lanes code ↔
    (s.ctx (s.block b).asid).trapvec.getLsbD 0 = true ∧ s.inHandler b g lanes = false ∧
      code ≠ cPageFault ∧ code ≠ cPoison ∧ code ≠ cLost := by
  rw [← noHandlerCode_eq_false_iff]
  exact ⟨fun ⟨hi, ho, hc⟩ => ⟨hi, ho, hc⟩, fun ⟨hi, ho, hc⟩ => ⟨hi, ho, hc⟩⟩

/-- A group whose entry into a handler is pending (R54). -/
def Group.pend (k : Group) (lanes : DWord) (code : Nat) (tval epc : DWord) : Group :=
  { k with pendTrap := some { code := BitVec.ofNat 8 code, tval := tval, epc := epc, lanes := lanes } }

/-- A lane of a group that a trap stops: only the codes that never enter a handler set EPC and TVAL (R343). -/
def State.stopLane (s : State) (b g : Nat) (lanes : DWord) (code : Nat) (tval epc : DWord) (i : Nat) : Lane :=
  if noHandlerCode code = true ∧ lanes.getLsbD i = true then { s.lane b g i with tval := tval, epc := epc } else s.lane b g i

/-- What a trap that may enter the handler does, by the check of the handler's header (R54, R78, R344, R345). -/
def State.enterAs (s : State) (b g : Nat) (lanes : DWord) (code : Nat) (tval epc : DWord) : Target → State
  | .ok => s.onLanes b g lanes fun _ l => l.enterHandler code tval epc (s.handler b)
  | .missing =>
    (s.parkGroup b g lanes epc [(s.handler b, lanes, 3)]).onGroup b g fun k => k.pend lanes code tval epc
  | .wait as => (s.askFor as).onGroup b g fun k => k.pend lanes code tval epc
  | .trap _ _ | .noFrame _ => s.stopGroup b g code lanes epc true

section Trap
variable {s : State} {b g : Nat} {lanes : DWord} {code : Nat} (tval epc : DWord)

theorem State.stopLane_of_enters (hc : noHandlerCode code = false) : s.stopLane b g lanes code tval epc = s.lane b g := by
  funext i
  simp [State.stopLane, hc]

theorem State.stopLane_of_noHandlerCode (hc : noHandlerCode code = true) : s.stopLane b g lanes code tval epc = fun i =>
    if lanes.getLsbD i then { s.lane b g i with tval := tval, epc := epc } else s.lane b g i := by
  funext i
  simp [State.stopLane, hc]

theorem State.takeTrap_of_noHandlerCode (hc : noHandlerCode code = true) :
    s.takeTrap b g lanes code tval epc = s.stopAt b g code lanes tval epc :=
  if_pos hc

theorem State.takeTrap_of_noHandler (hc : noHandlerCode code = false)
    (hn : (!(s.ctx (s.block b).asid).trapvec.getLsbD 0 || s.inHandler b g lanes) = true) :
    s.takeTrap b g lanes code tval epc = s.stopGroup b g code lanes epc false :=
  (if_neg (by simp [hc])).trans (if_pos hn)

section Enters
variable (h : s.MayEnter b g lanes code)
include h

/-- Where the handler may be entered, the check of its header decides. -/
theorem State.takeTrap_of_mayEnter :
    s.takeTrap b g lanes code tval epc = s.enterAs b g lanes code tval epc (s.handlerCheck b) := by
  obtain ⟨hi, ho, hc⟩ := h
  rw [State.inHandler] at ho
  have hq : s.checkTarget (s.block b).core (s.block b).asid (handlerOf (s.ctx (s.block b).asid).trapvec) =
      s.handlerCheck b := rfl
  simp only [State.takeTrap, hi, ho, hc, hq, Bool.not_true, Bool.or_self, Bool.false_eq_true, if_false]
  cases s.handlerCheck b <;> rfl

theorem State.takeTrap_of_ok (ht : s.handlerCheck b = .ok) : s.takeTrap b g lanes code tval epc =
    s.onLanes b g lanes fun _ l => l.enterHandler code tval epc (s.handler b) := by
  rw [State.takeTrap_of_mayEnter tval epc h, ht, State.enterAs]

theorem State.takeTrap_of_missing (ht : s.handlerCheck b = .missing) : s.takeTrap b g lanes code tval epc =
    (s.parkGroup b g lanes epc [(s.handler b, lanes, 3)]).onGroup b g fun k => k.pend lanes code tval epc := by
  rw [State.takeTrap_of_mayEnter tval epc h, ht, State.enterAs]

theorem State.takeTrap_of_wait {as : List Ask} (ht : s.handlerCheck b = .wait as) : s.takeTrap b g lanes code tval epc =
    (s.askFor as).onGroup b g fun k => k.pend lanes code tval epc := by
  rw [State.takeTrap_of_mayEnter tval epc h, ht, State.enterAs]

theorem State.takeTrap_of_illegal
    (ht : s.handlerCheck b ≠ .ok ∧ s.handlerCheck b ≠ .missing ∧ ∀ as, s.handlerCheck b ≠ .wait as) :
    s.takeTrap b g lanes code tval epc = s.stopGroup b g code lanes epc true := by
  obtain ⟨hok, hmissing, hwait⟩ := ht
  rw [State.takeTrap_of_mayEnter tval epc h]
  cases hq : s.handlerCheck b with
  | ok => exact absurd hq hok
  | missing => exact absurd hq hmissing
  | wait as => exact absurd hq (hwait as)
  | _ => rfl

end Enters

section Stops
variable (hb : (s.blocks.get? b).isSome = true) (hs : (s.group b g).stopped = false) (he : (s.group b g).ended = false)
include hb hs he

/-- A trap that may enter no handler stops its group (R343, R346). -/
theorem State.takeTrap_stopsGroup_of_not_mayEnter (h : ¬ s.MayEnter b g lanes code) :
    s.StopsGroup (s.takeTrap b g lanes code tval epc) b g
      (s.stopRecord b g code lanes epc (s.stopFlags b g lanes false)) (s.stopLane b g lanes code tval epc) := by
  by_cases hc : noHandlerCode code = true
  · rw [State.takeTrap_of_noHandlerCode tval epc hc, State.stopLane_of_noHandlerCode tval epc hc]
    exact State.stopAt_stopsGroup hs he hb code lanes tval epc
  · rw [Bool.not_eq_true] at hc
    have hn : (!(s.ctx (s.block b).asid).trapvec.getLsbD 0 || s.inHandler b g lanes) = true := by
      by_contra hn
      rw [Bool.not_eq_true, Bool.or_eq_false_iff, Bool.not_eq_false'] at hn
      exact h ⟨hn.1, hn.2, hc⟩
    rw [State.takeTrap_of_noHandler tval epc hc hn, State.stopLane_of_enters tval epc hc]
    exact State.stopGroup_stopsGroup hs he hb code lanes epc false

/-- So does one whose handler is no legal target, with bit 2 of byte 23 set alone (R346). -/
theorem State.takeTrap_stopsGroup_of_illegal (h : s.MayEnter b g lanes code)
    (ht : s.handlerCheck b ≠ .ok ∧ s.handlerCheck b ≠ .missing ∧ ∀ as, s.handlerCheck b ≠ .wait as) :
    s.StopsGroup (s.takeTrap b g lanes code tval epc) b g
      (s.stopRecord b g code lanes epc 4) (s.stopLane b g lanes code tval epc) := by
  have hf : s.stopFlags b g lanes true = 4 := by simp [State.stopFlags, h.installed, h.outside]
  rw [State.takeTrap_of_illegal tval epc h ht, State.stopLane_of_enters tval epc h.enters, ← hf]
  exact State.stopGroup_stopsGroup hs he hb code lanes epc true

end Stops

end Trap

/-- Settles O51: a trap that may enter its handler does what the check of the handler's header says; any other stops the group. -/
theorem trapEntry : Obligations.TrapEntry := by
  unfold Obligations.TrapEntry
  intro s b g lanes code tval epc hb k tv t nested plain target b23
  have hplain : plain ↔ s.MayEnter b g lanes code := (s.mayEnter_iff b g lanes code).symm
  refine ⟨fun hp ht => ?enter, fun hs he hstop => ?stop, fun hp ht => ?park, fun as hp ht => ?wait⟩
  case enter =>
    have hgo : t = s.onLanes b g lanes fun _ l => l.enterHandler code tval epc (s.handler b) :=
      State.takeTrap_of_ok tval epc (hplain.mp hp) ht
    rw [hgo]
    refine ⟨rfl, fun i hi => ?_⟩
    rw [State.lane_onLanes_same s b g lanes _ i hb hi]
    by_cases hl : lanes.getLsbD i = true
    · rw [if_pos hl, if_pos hl]
      exact ⟨rfl, rfl, rfl, rfl, rfl, rfl, rfl, rfl, rfl, rfl, rfl⟩
    · rw [if_neg hl, if_neg hl]
  case stop =>
    by_cases hp : plain
    · obtain ⟨hheld, hstopped, hlanes⟩ := State.takeTrap_stopsGroup_of_illegal tval epc hb hs he (hplain.mp hp)
        (hstop.resolve_left (not_not_intro hp))
      exact ⟨by rw [if_pos hp]; exact hheld, hstopped, hlanes⟩
    · obtain ⟨hheld, hstopped, hlanes⟩ := State.takeTrap_stopsGroup_of_not_mayEnter tval epc hb hs he
        (mt hplain.mpr hp)
      exact ⟨by rw [if_neg hp]; exact hheld, hstopped, hlanes⟩
  case park =>
    have hgo : t = (s.parkGroup b g lanes epc [(s.handler b, lanes, 3)]).onGroup b g fun k => k.pend lanes code tval epc :=
      State.takeTrap_of_missing tval epc (hplain.mp hp) ht
    have hg : t.group b g = ({ s.group b g with
        parked := [s.nextId], parkLanes := lanes, parkPc := epc, active := false } : Group).pend lanes code tval epc := by
      rw [hgo, State.group_onGroup_same (State.blocks_isSome_parkGroup_one hb g _ _ _), State.group_parkGroup_one hb]
    exact ⟨by rw [hg]; rfl, by rw [hg]; rfl, fun i => by rw [State.lane, hg]; rfl⟩
  case wait => exact State.takeTrap_of_wait tval epc (hplain.mp hp) ht

end Sys2Proof.Machine
end

section
/-!
SUPPORT. The traps and system registers of major 0x37 (R52, R54, R348 to R350), and what the device holds right after reset.
-/
namespace Sys2Proof.Machine

/-! ### Bodies that end well, or trap -/

/-- An instruction that may run and whose body ends well goes on past its words. -/
theorem run_next_of_ok {i : Instr} {s t : State} {body : DWord → Res} {moved : DWord} (h : MayRun i s)
    (hb : body (s.execLanes i.guard) = .ok t moved) : run i s body = .next (s.pastWords t (wordsOf i) moved) := by
  rw [run_of_mayRun h, hb, finish_ok]

/-- One whose body traps does nothing else. -/
theorem run_next_of_trap {i : Instr} {s : State} {body : DWord → Res} {m tval : DWord} {code : Nat} (h : MayRun i s)
    (hb : body (s.execLanes i.guard) = .trap m code tval) : run i s body = .next (s.trappedAt m code tval) := by
  rw [run_of_mayRun h, hb, finish_trap, State.trappedAt]

/-! ### System registers -/

/-- A value of TRAPVEC without a reserved bit (R54). -/
theorem trapvecReserved_eq_false_iff (v : DWord) : trapvecReserved v = false ↔ bits v 57 7 = 0 ∧ bits v 1 2 = 0 := by
  simp [trapvecReserved]

section Sysw
variable {f : FmtI} {s : State} (h : MayRun (.sysw f) s)
include h

/-- SYSW of TRAPVEC, number 1, writes a value without a reserved bit (R54, R350). -/
theorem exec_sysw_of_clean (hn : f.imm.toNat = 1) (hv : trapvecReserved (s.cg.ureg f.d.toNat) = false) :
    exec (.sysw f) s =
      .next (s.pastWords (s.onCtx s.cb.asid fun c => { c with trapvec := s.cg.ureg f.d.toNat }) 1 0#64) := by
  rw [exec_sysw, execSysw]
  exact run_next_of_ok h (by rw [if_neg (not_not_intro hn), if_neg (by simp [hv])])

theorem exec_sysw_of_reserved (hn : f.imm.toNat = 1) (hv : trapvecReserved (s.cg.ureg f.d.toNat) = true) :
    exec (.sysw f) s = .next (s.trappedAt (s.execLanes f.guard) cIllegal 0#64) := by
  rw [exec_sysw, execSysw]
  exact run_next_of_trap h (by rw [if_neg (not_not_intro hn), if_pos hv, guard_sysw])

/-- No other register may be written (R52). -/
theorem exec_sysw_of_other (hn : f.imm.toNat ≠ 1) :
    exec (.sysw f) s = .next (s.trappedAt (s.execLanes f.guard) cProtection 0#64) := by
  rw [exec_sysw, execSysw]
  exact run_next_of_trap h (by rw [if_pos hn, guard_sysw])

end Sysw

/-- Settles O35: each of the four is its body, and SYSW's is one of three. -/
theorem trapsAndSystemRegisters : Obligations.TrapsAndSystemRegisters := by
  unfold Obligations.TrapsAndSystemRegisters
  intro f s m v clean
  have hclean : trapvecReserved v = false ↔ clean := trapvecReserved_eq_false_iff v
  refine ⟨?trap, ?bkpt, ?sysr, ?clean, ?reserved, ?other⟩
  case trap => exact fun h => (exec_trap f s).trans (run_next_of_trap h rfl)
  case bkpt => exact fun h => (exec_bkpt f s).trans (run_next_of_trap h rfl)
  case sysr => exact fun h => (exec_sysr f s).trans (run_next_of_ok h rfl)
  case clean => exact fun h hn hv => exec_sysw_of_clean h hn (hclean.mpr hv)
  case reserved => exact fun h hn hv => exec_sysw_of_reserved h hn (Bool.not_eq_false _ ▸ mt hclean.mp hv)
  case other => exact fun h hn => ⟨0#64, exec_sysw_of_other h hn⟩

/-! ### Reset -/

/-! No part of the device is there, so each reads as one after reset does. -/

theorem State.core_reset (c : Nat) : State.reset.core c = Core.init := rfl
theorem State.ctx_reset (a : Nat) : State.reset.ctx a = Ctx.init := rfl
theorem State.incOf_reset (a : Nat) : State.reset.incOf a = 0#8 := Cells.get_nil a

/-- Every sector is I in every slice (R244, R255). -/
theorem State.sectState_reset (d k : Nat) : State.reset.sectState d k = 0 :=
  congrArg BitVec.toNat (Cells.get_nil (16 * k + d))

/-- Settles O58: the stores are empty, the parts that are read by number are not there, and the hub's registers are written out. -/
theorem resetState : Obligations.ResetState := by
  unfold Obligations.ResetState
  intro s
  have hcore : ∀ c, (s.core c).bankrole = 0xFFFFFFFFFFFFFFFF#64 := fun c => congrArg Core.bankrole (State.core_reset c)
  have hctx : ∀ a, (s.ctx a).trapvec = 0#64 ∧ (s.ctx a).tdmask = 0#64 := fun a =>
    ⟨congrArg Ctx.trapvec (State.ctx_reset a), congrArg Ctx.tdmask (State.ctx_reset a)⟩
  exact ⟨State.reset_wf, rfl, rfl, rfl, rfl, rfl, rfl, hcore, hctx, rfl, rfl, rfl, rfl, rfl, rfl, rfl, rfl, rfl, rfl, rfl,
    State.incOf_reset, State.sectState_reset⟩

end Sys2Proof.Machine
end

section
/-!
SUPPORT. The fields of a word (R73, R84, R89 to R92): a word is of a format just when its fields are the format's and the bits the
format reserves are zero.
-/
namespace Sys2Proof.Enc

/-! ### Fields side by side -/

/-- Two words of two fields agree just when both fields do. -/
theorem append_inj {v w : Nat} {a c : BitVec v} {b d : BitVec w} : a ++ b = c ++ d ↔ a = c ∧ b = d := by
  refine ⟨fun h => ⟨?_, ?_⟩, fun ⟨h, k⟩ => h ▸ k ▸ rfl⟩
  · simpa only [BitVec.extractLsb'_append_eq_left] using congrArg (BitVec.extractLsb' w v) h
  · simpa only [BitVec.extractLsb'_append_eq_right] using congrArg (BitVec.extractLsb' 0 w) h

/-- A field of one bit. -/
theorem extractLsb'_eq_bit_iff (w : DWord) (i : Nat) (b : Bool) : w.extractLsb' i 1 = bit b ↔ w.getLsbD i = b := by
  have h : w.extractLsb' i 1 = bit (w.getLsbD i) := by
    ext j hj
    simp [bit, show j = 0 by omega]
  rw [h, bit, bit, BitVec.ofBool_eq_iff_eq]

theorem extractLsb'_eq_zero_iff (w : DWord) (i : Nat) : w.extractLsb' i 1 = 0#1 ↔ w.getLsbD i = false :=
  extractLsb'_eq_bit_iff w i false

/-! ### The fields of each format fill its word (R73, R84, R89 to R92) -/

theorem append_slicesA (w : DWord) : (w.extractLsb' 58 6 ++ w.extractLsb' 50 8 ++ w.extractLsb' 40 10 ++
    w.extractLsb' 30 10 ++ w.extractLsb' 20 10 ++ w.extractLsb' 10 10 ++ w.extractLsb' 9 1 ++ w.extractLsb' 7 2 ++
    w.extractLsb' 6 1 ++ w.extractLsb' 0 6 : BitVec 64) = w := by
  repeat rw [BitVec.extractLsb'_append_extractLsb'_eq_extractLsb' (by decide)]
  exact BitVec.extractLsb'_eq_self

theorem append_slicesL (w : DWord) : (w.extractLsb' 58 6 ++ w.extractLsb' 50 8 ++ w.extractLsb' 40 10 ++
    w.extractLsb' 30 10 ++ w.extractLsb' 20 10 ++ w.extractLsb' 10 10 ++ w.extractLsb' 7 3 ++ w.extractLsb' 6 1 ++
    w.extractLsb' 1 5 ++ w.extractLsb' 0 1 : BitVec 64) = w := by
  repeat rw [BitVec.extractLsb'_append_extractLsb'_eq_extractLsb' (by decide)]
  exact BitVec.extractLsb'_eq_self

theorem append_slicesI (w : DWord) : (w.extractLsb' 58 6 ++ w.extractLsb' 50 8 ++ w.extractLsb' 40 10 ++
    w.extractLsb' 8 32 ++ w.extractLsb' 7 1 ++ w.extractLsb' 6 1 ++ w.extractLsb' 0 6 : BitVec 64) = w := by
  repeat rw [BitVec.extractLsb'_append_extractLsb'_eq_extractLsb' (by decide)]
  exact BitVec.extractLsb'_eq_self

theorem append_slicesW (w : DWord) : (w.extractLsb' 58 6 ++ w.extractLsb' 50 8 ++ w.extractLsb' 40 10 ++
    w.extractLsb' 7 33 ++ w.extractLsb' 6 1 ++ w.extractLsb' 0 6 : BitVec 64) = w := by
  repeat rw [BitVec.extractLsb'_append_extractLsb'_eq_extractLsb' (by decide)]
  exact BitVec.extractLsb'_eq_self

theorem append_slicesB (w : DWord) : (w.extractLsb' 58 6 ++ w.extractLsb' 50 8 ++ w.extractLsb' 18 32 ++
    w.extractLsb' 8 10 ++ w.extractLsb' 6 2 ++ w.extractLsb' 0 6 : BitVec 64) = w := by
  repeat rw [BitVec.extractLsb'_append_extractLsb'_eq_extractLsb' (by decide)]
  exact BitVec.extractLsb'_eq_self

theorem append_slicesM (w : DWord) : (w.extractLsb' 58 6 ++ w.extractLsb' 50 8 ++ w.extractLsb' 40 10 ++
    w.extractLsb' 30 10 ++ w.extractLsb' 20 10 ++ w.extractLsb' 16 4 ++ w.extractLsb' 15 1 ++ w.extractLsb' 12 3 ++
    w.extractLsb' 10 2 ++ w.extractLsb' 7 3 ++ w.extractLsb' 6 1 ++ w.extractLsb' 0 6 : BitVec 64) = w := by
  repeat rw [BitVec.extractLsb'_append_extractLsb'_eq_extractLsb' (by decide)]
  exact BitVec.extractLsb'_eq_self

theorem append_slicesHeader (w : DWord) : (w.extractLsb' 58 6 ++ w.extractLsb' 50 8 ++ w.extractLsb' 38 12 ++
    w.extractLsb' 34 4 ++ w.extractLsb' 30 4 ++ w.extractLsb' 14 16 ++ w.extractLsb' 7 7 ++ w.extractLsb' 4 3 ++
    w.extractLsb' 3 1 ++ w.extractLsb' 0 3 : BitVec 64) = w := by
  repeat rw [BitVec.extractLsb'_append_extractLsb'_eq_extractLsb' (by decide)]
  exact BitVec.extractLsb'_eq_self

/-! FN, where a format divides it (R89, R157). -/

theorem append_slicesFnT (w : DWord) : (w.extractLsb' 5 1 ++ w.extractLsb' 2 3 ++ w.extractLsb' 0 2 : BitVec 6) = fn w := by
  repeat rw [BitVec.extractLsb'_append_extractLsb'_eq_extractLsb' (by decide)]
  rfl

theorem append_slicesFn (w : DWord) : (w.extractLsb' 5 1 ++ w.extractLsb' 0 5 : BitVec 6) = fn w :=
  BitVec.extractLsb'_append_extractLsb'_eq_extractLsb' rfl

/-! ### A word is of a format just when its fields are the format's and its reserved bits are zero -/

theorem eq_ofA_iff {maj n : BitVec 6} {f : FmtA} {w : DWord} :
    w = ofA maj f n ↔ w.extractLsb' 58 6 = maj ∧ fmtA w = f ∧ fn w = n := by
  refine (Eq.congr_left (append_slicesA w).symm).trans (append_inj.trans ?_)
  cases f
  simp only [append_inj, extractLsb'_eq_bit_iff, fmtA, fn, FmtA.mk.injEq, and_assoc]

theorem eq_ofT_iff {f : FmtT} {op : BitVec 2} {w : DWord} :
    w = ofT f op ↔ w.extractLsb' 58 6 = 0x11#6 ∧ fmtT w = f ∧ w.extractLsb' 0 2 = op := by
  refine eq_ofA_iff.trans (and_congr_right fun _ => ?_)
  rw [(Eq.congr_left (append_slicesFnT w).symm).trans append_inj]
  cases f
  simp only [append_inj, extractLsb'_eq_bit_iff, fmtT, FmtT.mk.injEq, and_assoc]

theorem eq_ofL_iff {f : FmtL} {w : DWord} :
    w = ofL f ↔ w.extractLsb' 58 6 = 0x0E#6 ∧ fmtL w = f ∧ w.getLsbD 0 = false := by
  refine (Eq.congr_left (append_slicesL w).symm).trans (append_inj.trans ?_)
  have hlut (l : BitVec 8) : (w.extractLsb' 7 3 ++ w.extractLsb' 1 5 : BitVec 8) = l ↔
      w.extractLsb' 7 3 = l.extractLsb' 5 3 ∧ w.extractLsb' 1 5 = l.extractLsb' 0 5 := by
    have h : (l.extractLsb' 5 3 ++ l.extractLsb' 0 5 : BitVec 8) = l :=
      (BitVec.extractLsb'_append_extractLsb'_eq_extractLsb' rfl).trans BitVec.extractLsb'_eq_self
    exact (Eq.congr_right h.symm).trans append_inj
  cases f
  simp only [append_inj, extractLsb'_eq_bit_iff, extractLsb'_eq_zero_iff, fmtL, FmtL.mk.injEq, hlut, and_assoc]
  tauto

theorem eq_ofC_iff {maj : BitVec 6} {f : FmtC} {w : DWord} :
    w = ofC maj f ↔ w.extractLsb' 58 6 = maj ∧ fmtC w = f ∧ w.getLsbD 5 = false := by
  refine eq_ofA_iff.trans (and_congr_right fun _ => ?_)
  rw [(Eq.congr_left (append_slicesFn w).symm).trans append_inj]
  cases f
  simp only [extractLsb'_eq_zero_iff, fmtC, FmtC.mk.injEq]
  tauto

theorem eq_ofI_iff {maj n : BitVec 6} {f : FmtI} {w : DWord} :
    w = ofI maj f n ↔ w.extractLsb' 58 6 = maj ∧ fmtI w = f ∧ w.getLsbD 7 = false ∧ fn w = n := by
  refine (Eq.congr_left (append_slicesI w).symm).trans (append_inj.trans ?_)
  cases f
  simp only [append_inj, extractLsb'_eq_bit_iff, extractLsb'_eq_zero_iff, fmtI, fn, FmtI.mk.injEq, and_assoc]
  tauto

theorem eq_ofW_iff {f : FmtW} {w : DWord} :
    w = ofW f ↔ w.extractLsb' 58 6 = 0x1F#6 ∧ fmtW w f.imm = f ∧ wZero w = true ∧ fn w = 2#6 := by
  refine (Eq.congr_left (append_slicesW w).symm).trans (append_inj.trans ?_)
  cases f
  simp only [append_inj, extractLsb'_eq_bit_iff, fmtW, fn, wZero, beq_iff_eq, FmtW.mk.injEq, and_assoc]
  tauto

theorem eq_ofB_iff {maj n : BitVec 6} {f : FmtB} {w : DWord} :
    w = ofB maj f n ↔ w.extractLsb' 58 6 = maj ∧ fmtB w = f ∧ w.extractLsb' 6 2 = 0#2 ∧ fn w = n := by
  refine (Eq.congr_left (append_slicesB w).symm).trans (append_inj.trans ?_)
  cases f
  simp only [append_inj, fmtB, fn, FmtB.mk.injEq, and_assoc]

theorem eq_ofM_iff {maj n : BitVec 6} {f : FmtM} {w : DWord} :
    w = ofM maj f n ↔ w.extractLsb' 58 6 = maj ∧ fmtM w = f ∧ fn w = n := by
  refine (Eq.congr_left (append_slicesM w).symm).trans (append_inj.trans ?_)
  cases f
  simp only [append_inj, extractLsb'_eq_bit_iff, fmtM, fn, FmtM.mk.injEq, and_assoc]

/-- FN of ATOM and RED is FAR and the operation (R157). -/
theorem fn_eq_far_iff {far : Bool} {op : BitVec 5} {w : DWord} :
    fn w = (bit far ++ op : BitVec 6) ↔ w.getLsbD 5 = far ∧ w.extractLsb' 0 5 = op := by
  rw [(Eq.congr_left (append_slicesFn w).symm).trans append_inj, extractLsb'_eq_bit_iff]

theorem eq_ofHeader_iff {h : Header} {w : DWord} :
    w = ofHeader h ↔ w.extractLsb' 58 6 = 0x3E#6 ∧ header w = h ∧ w.extractLsb' 0 3 = 0#3 := by
  refine (Eq.congr_left (append_slicesHeader w).symm).trans (append_inj.trans ?_)
  cases h
  simp only [append_inj, extractLsb'_eq_bit_iff, header, Header.mk.injEq, and_assoc]

end Sys2Proof.Enc
end

section
/-!
SUPPORT. The encoder against the decoder (R72 to R93, R96): an instruction's words decode to it, and a word is what the instruction it
decodes to encodes.
-/
namespace Sys2Proof
open Enc

theorem decodeWord_eq_ok_iff {w w2 : DWord} {i : Instr} :
    decodeWord w w2 = .ok i ↔ decodeRaw w w2 = some i ∧ i.WellFormed := by
  unfold decodeWord Instr.WellFormed
  cases decodeRaw w w2 with
  | none => simp
  | some j =>
    by_cases hl : j.legal = true
    · simp only [hl, if_true, Except.ok.injEq, Option.some.injEq]
      exact ⟨fun h => ⟨h, h ▸ hl⟩, fun h => h.1⟩
    · simp only [hl, Bool.false_eq_true, if_false, reduceCtorEq, Option.some.injEq, false_iff, not_and]
      exact fun h => h ▸ hl

/-! ### Words that are not zero, and first words of MOVW -/

/-- A word whose major or FN is not zero is no NOP (R95). -/
theorem Enc.ne_nop_of_major_or_fn {w : DWord} {maj n : BitVec 6} (hm : w.extractLsb' 58 6 = maj) (hn : fn w = n)
    (h : maj ≠ 0#6 ∨ n ≠ 0#6) : ¬ (w == 0#64) = true := by
  rw [beq_iff_eq]
  rintro rfl
  subst maj n
  exact absurd h (by decide)

/-- IADD has major and FN zero, but then a type that is not (R102). -/
theorem Enc.ne_nop_of_wellFormed_iadd {w : DWord} (h : (Instr.iadd (fmtA w)).WellFormed) : ¬ (w == 0#64) = true := by
  rw [beq_iff_eq]
  rintro rfl
  exact absurd (show Instr.legal _ = true from h) (by decide)

theorem isTwoWord_iff {w : DWord} : isTwoWord w = true ↔ w.extractLsb' 58 6 = 0x1F#6 ∧ fn w = 2#6 := by
  simp [isTwoWord]

theorem decodeRaw_of_isTwoWord {w : DWord} (h : isTwoWord w = true) (w2 : DWord) :
    decodeRaw w w2 = if wZero w then some (.movw (fmtW w w2)) else none := by
  obtain ⟨hm, hn⟩ := isTwoWord_iff.mp h
  rw [decodeRaw, if_neg (ne_nop_of_major_or_fn hm hn (by decide)), hm]
  delta decMaj1F
  rw [hn]
  rfl

/-- What a first word of MOVW decodes to is MOVW (R90). -/
theorem eq_movw_of_isTwoWord {w w2 : DWord} {i : Instr} (h : isTwoWord w = true) (hd : decodeRaw w w2 = some i) :
    wZero w = true ∧ i = .movw (fmtW w w2) := by
  rw [decodeRaw_of_isTwoWord h] at hd
  split at hd
  · next hz => exact ⟨hz, (Option.some.inj hd).symm⟩
  · cases hd

theorem isTwoWord_ofW (f : FmtW) : isTwoWord (ofW f) = true := by
  obtain ⟨hm, -, -, hn⟩ := eq_ofW_iff.mp (Eq.refl (ofW f))
  exact isTwoWord_iff.mpr ⟨hm, hn⟩

theorem decodeRaw_ofW (f : FmtW) : decodeRaw (ofW f) f.imm = some (.movw f) := by
  obtain ⟨-, hf, hz, -⟩ := eq_ofW_iff.mp (Eq.refl (ofW f))
  rw [decodeRaw_of_isTwoWord (isTwoWord_ofW f), if_pos hz, hf]

/-! ### From the instruction to its word and back -/

/-- The instruction has one word, which decodes to it whatever follows. -/
def Instr.OneWord (i : Instr) : Prop := ∃ w, encode i = [w] ∧ ∀ w2, decodeRaw w w2 = some i

theorem Instr.oneWord_of_decodeRaw {i : Instr} {v : DWord} (he : encode i = [v])
    (hd : ∀ w w2, w = v → decodeRaw w w2 = some i) : i.OneWord :=
  ⟨v, he, fun w2 => hd v w2 rfl⟩

/-- Every well-formed instruction of program text but MOVW, by its format: the word's fields are the instruction's, and its major and
its function lead to the instruction's row of R93. -/
theorem Instr.oneWord_of_wellFormed {i : Instr} (hw : i.WellFormed)
    (hi : i.chk.isSome = true ∨ ∃ h, i = .blockHeader h) (h2 : ∀ f, i ≠ .movw f) : i.OneWord := by
  cases i with
  | nop => exact ⟨0#64, rfl, fun _ => rfl⟩
  | movw f => exact absurd rfl (h2 f)
  | blockHeader h =>
    refine oneWord_of_decodeRaw rfl fun w w2 hv => ?_
    obtain ⟨hm, rfl, hr⟩ := eq_ofHeader_iff.mp hv
    rw [decodeRaw, if_neg (ne_nop_of_major_or_fn hm rfl (.inl (by decide))), hm]
    exact if_pos (beq_iff_eq.mpr hr)
  | tern f =>
    refine oneWord_of_decodeRaw rfl fun w w2 hv => ?_
    obtain ⟨hm, rfl, hr⟩ := eq_ofL_iff.mp hv
    rw [decodeRaw, if_neg (ne_nop_of_major_or_fn hm rfl (.inl (by decide))), hm]
    exact if_neg (Bool.eq_false_iff.mp hr)
  | fcvt f | f2i f | i2f f =>
    refine oneWord_of_decodeRaw rfl fun w w2 hv => ?_
    obtain ⟨hm, rfl, hr⟩ := eq_ofC_iff.mp hv
    rw [decodeRaw, if_neg (ne_nop_of_major_or_fn hm rfl (.inl (by decide))), hm]
    exact if_neg (Bool.eq_false_iff.mp hr)
  | ffma f =>
    refine oneWord_of_decodeRaw rfl fun w w2 hv => ?_
    obtain ⟨hm, rfl, hop⟩ := eq_ofT_iff.mp hv
    rw [decodeRaw, if_neg (ne_nop_of_major_or_fn hm rfl (.inl (by decide))), hm]
    delta decMaj11
    rw [hop]
    rfl
  | pkfma bh f =>
    cases bh
    all_goals
      refine oneWord_of_decodeRaw rfl fun w w2 hv => ?_
      obtain ⟨hm, rfl, hop⟩ := eq_ofT_iff.mp hv
      rw [decodeRaw, if_neg (ne_nop_of_major_or_fn hm rfl (.inl (by decide))), hm]
      delta decMaj11
      rw [hop]
      rfl
  | movi f | trap f | bkpt f | sysr f | sysw f =>
    refine oneWord_of_decodeRaw rfl fun w w2 hv => ?_
    obtain ⟨hm, rfl, hr, hn⟩ := eq_ofI_iff.mp hv
    rw [decodeRaw, if_neg (ne_nop_of_major_or_fn hm hn (by decide)), hm]
    delta decMaj1F decMaj37
    rw [hn]
    exact if_neg (Bool.eq_false_iff.mp hr)
  | bra f | brx f | call f | callx f | ret f | exitLanes f | yieldGroup f =>
    refine oneWord_of_decodeRaw rfl fun w w2 hv => ?_
    obtain ⟨hm, rfl, hr, hn⟩ := eq_ofB_iff.mp hv
    rw [decodeRaw, if_neg (ne_nop_of_major_or_fn hm hn (by decide)), hm]
    delta decMaj24
    rw [hn]
    exact if_pos (beq_iff_eq.mpr hr)
  | atom far op f | red far op f =>
    refine oneWord_of_decodeRaw rfl fun w w2 hv => ?_
    obtain ⟨hm, rfl, hn⟩ := eq_ofM_iff.mp hv
    obtain ⟨rfl, rfl⟩ := fn_eq_far_iff.mp hn
    rw [decodeRaw, if_neg (ne_nop_of_major_or_fn hm rfl (.inl (by decide))), hm]
    rfl
  | ld sx f | sld sx f =>
    cases sx
    all_goals
      refine oneWord_of_decodeRaw rfl fun w w2 hv => ?_
      obtain ⟨hm, rfl, hn⟩ := eq_ofM_iff.mp hv
      rw [decodeRaw, if_neg (ne_nop_of_major_or_fn hm hn (by decide)), hm]
      delta decMaj28 decMaj2B
      rw [hn]
      rfl
  | st f | ldv f | stv f | sst f | pref f | cwb f | cinv f | cdisc f | ipf f | ipin f | iunpin f | fence f =>
    refine oneWord_of_decodeRaw rfl fun w w2 hv => ?_
    obtain ⟨hm, rfl, hn⟩ := eq_ofM_iff.mp hv
    rw [decodeRaw, if_neg (ne_nop_of_major_or_fn hm hn (by decide)), hm]
    delta decMaj29 decMaj2A decMaj2B decMaj2E decMaj2F
    rw [hn]
    rfl
  | iadd f =>
    refine oneWord_of_decodeRaw rfl fun w w2 hv => ?_
    obtain ⟨hm, rfl, hn⟩ := eq_ofA_iff.mp hv
    rw [decodeRaw, if_neg (ne_nop_of_wellFormed_iadd hw), hm]
    delta decMaj00
    rw [hn]
    rfl
  | imadw b f | sel b f | omld b f | omst b f =>
    cases b
    all_goals
      refine oneWord_of_decodeRaw rfl fun w w2 hv => ?_
      obtain ⟨hm, rfl, hn⟩ := eq_ofA_iff.mp hv
      rw [decodeRaw, if_neg (ne_nop_of_major_or_fn hm hn (by decide)), hm]
      delta decMaj01 decMaj02 decMaj31
      rw [hn]
      rfl
  | isub | iaddc | isubb | iabs | ineg | imin | imax | iadd64 | imul | imulh | imad | icmp | and | or | xor | not |
    shl | shr | sar | rot | fshl | fshr | popc | clz | ctz | brev | bfx | bfi | prmb | lea | fadd | fsub | fmul |
    fmin | fmax | fcmp | fscale | fdivf | pkadd | pkmul | fclass | frnd | fgexp | frcp | frsq | fsqrt | fex2 | flg2 |
    fsin | fcos | ftanh | qblk | dqblk | pack8 | split8 | plop | pmov | xset | xidx | xadd | vtos | stov | mov |
    movSpecial | movIndex | qswap | qbcast | gshfl | vote | ballot | matchLanes | redux | elect | bar | cbar |
    waitc | sleep | tcfg | omclaim | omrel | mma | acz | acld | acst | acrd | msave | mres | cpy | cpyt | cseal |
    cwait | xred | spred | esave | eres | esc | ldone | lqry | ldrain | launch | lstat | rte =>
    refine oneWord_of_decodeRaw rfl fun w w2 hv => ?_
    obtain ⟨hm, rfl, hn⟩ := eq_ofA_iff.mp hv
    rw [decodeRaw, if_neg (ne_nop_of_major_or_fn hm hn (by decide)), hm]
    delta decMaj00 decMaj01 decMaj02 decMaj03 decMaj04 decMaj05 decMaj06 decMaj10 decMaj12 decMaj1B decMaj1C decMaj1D
      decMaj1E decMaj1F decMaj20 decMaj21 decMaj22 decMaj25 decMaj26 decMaj30 decMaj32 decMaj33 decMaj34 decMaj35
      decMaj36 decMaj37
    rw [hn]
    rfl
  | _ => rcases hi with h | ⟨_, h⟩ <;> cases h

/-! ### From the word to its instruction and back -/

section Rows
variable {w : DWord} {maj n : BitVec 6} (hm : (w.extractLsb' 58 6).toNat = maj.toNat)
include hm

theorem Enc.ofC_fmtC (hr : ¬ w.getLsbD 5 = true) : ofC maj (fmtC w) = w :=
  (eq_ofC_iff.mpr ⟨BitVec.eq_of_toNat_eq hm, rfl, Bool.eq_false_iff.mpr hr⟩).symm

variable (hn : (fn w).toNat = n.toNat)
include hn

theorem Enc.ofA_fmtA : ofA maj (fmtA w) n = w :=
  (eq_ofA_iff.mpr ⟨BitVec.eq_of_toNat_eq hm, rfl, BitVec.eq_of_toNat_eq hn⟩).symm

theorem Enc.ofM_fmtM : ofM maj (fmtM w) n = w :=
  (eq_ofM_iff.mpr ⟨BitVec.eq_of_toNat_eq hm, rfl, BitVec.eq_of_toNat_eq hn⟩).symm

theorem Enc.ofB_fmtB (hr : (w.extractLsb' 6 2 == 0#2) = true) : ofB maj (fmtB w) n = w :=
  (eq_ofB_iff.mpr ⟨BitVec.eq_of_toNat_eq hm, rfl, beq_iff_eq.mp hr, BitVec.eq_of_toNat_eq hn⟩).symm

theorem Enc.ofI_fmtI (hr : ¬ w.getLsbD 7 = true) : ofI maj (fmtI w) n = w :=
  (eq_ofI_iff.mpr ⟨BitVec.eq_of_toNat_eq hm, rfl, Bool.eq_false_iff.mpr hr, BitVec.eq_of_toNat_eq hn⟩).symm

end Rows

theorem Enc.ofT_fmtT {w : DWord} {op : BitVec 2} (hm : (w.extractLsb' 58 6).toNat = 0x11)
    (hop : (w.extractLsb' 0 2).toNat = op.toNat) : ofT (fmtT w) op = w :=
  (eq_ofT_iff.mpr ⟨BitVec.eq_of_toNat_eq (y := 0x11#6) hm, rfl, BitVec.eq_of_toNat_eq hop⟩).symm

theorem Enc.ofL_fmtL {w : DWord} (hm : (w.extractLsb' 58 6).toNat = 0x0E) (hr : ¬ w.getLsbD 0 = true) :
    ofL (fmtL w) = w :=
  (eq_ofL_iff.mpr ⟨BitVec.eq_of_toNat_eq (y := 0x0E#6) hm, rfl, Bool.eq_false_iff.mpr hr⟩).symm

theorem Enc.ofHeader_header {w : DWord} (hm : (w.extractLsb' 58 6).toNat = 0x3E)
    (hr : (w.extractLsb' 0 3 == 0#3) = true) : ofHeader (header w) = w :=
  (eq_ofHeader_iff.mpr ⟨BitVec.eq_of_toNat_eq (y := 0x3E#6) hm, rfl, beq_iff_eq.mp hr⟩).symm

/-- FN of an atomic operation names the operation in full (R157). -/
theorem Enc.ofM_fmtM_far {w : DWord} {maj : BitVec 6} (hm : (w.extractLsb' 58 6).toNat = maj.toNat) :
    ofM maj (fmtM w) (bit (w.getLsbD 5) ++ w.extractLsb' 0 5 : BitVec 6) = w :=
  ofM_fmtM hm (congrArg BitVec.toNat (fn_eq_far_iff.mpr ⟨rfl, rfl⟩))

/-- A word that no second one belongs to, by its major, in the order of `decodeRaw`: each row of R93 has the word's fields, and
its word of them is the word. -/
theorem encode_of_decodeRaw {w w2 : DWord} {i : Instr} (h : decodeRaw w w2 = some i) (h2 : isTwoWord w = false) :
    encode i = [w] := by
  unfold decodeRaw at h
  split at h
  · next h0 =>
    obtain rfl := beq_iff_eq.mp h0
    cases h
    rfl
  delta decMaj00 decMaj01 decMaj02 decMaj03 decMaj04 decMaj05 decMaj06 decMaj10 decMaj11 decMaj12 decMaj1B decMaj1C
    decMaj1D decMaj1E decMaj1F decMaj20 decMaj21 decMaj22 decMaj24 decMaj25 decMaj26 decMaj28 decMaj29 decMaj2A decMaj2B
    decMaj2E decMaj2F decMaj30 decMaj31 decMaj32 decMaj33 decMaj34 decMaj35 decMaj36 decMaj37 at h
  split at h
  -- 0x0E, Format L
  case h_8 hm =>
    split at h <;> cases h
    next hr => exact List.singleton_inj.mpr (ofL_fmtL hm hr)
  -- 0x11, Format T
  case h_10 hm =>
    split at h <;> cases h
    all_goals
      next hop => exact List.singleton_inj.mpr (ofT_fmtT hm hop)
  -- 0x18 to 0x1A, Format C
  case h_12 hm | h_13 hm | h_14 hm =>
    split at h <;> cases h
    next hr => exact List.singleton_inj.mpr (ofC_fmtC hm hr)
  -- 0x1F: MOVI is of Format I, MOVW of Format W, the others of Format A
  case h_19 hm =>
    split at h
    case h_1 hn =>
      have h2' := isTwoWord_iff.mpr ⟨BitVec.eq_of_toNat_eq (y := 0x1F#6) hm, BitVec.eq_of_toNat_eq (y := 2#6) hn⟩
      exact absurd h2' (Bool.eq_false_iff.mp h2)
    case h_3 hn =>
      split at h <;> cases h
      next hr => exact List.singleton_inj.mpr (ofI_fmtI hm hn hr)
    case h_2 hn | h_4 hn | h_5 hn =>
      cases h
      exact List.singleton_inj.mpr (ofA_fmtA hm hn)
    case h_6 => cases h
  -- 0x24, Format B
  case h_23 hm =>
    split at h
    case h_8 => cases h
    all_goals
      next hn =>
      split at h <;> cases h
      next hr => exact List.singleton_inj.mpr (ofB_fmtB hm hn hr)
  -- 0x28 to 0x2B, 0x2E and 0x2F, Format M
  case h_26 hm | h_27 hm | h_28 hm | h_29 hm | h_32 hm | h_33 hm =>
    split at h <;> cases h
    all_goals
      next hn => exact List.singleton_inj.mpr (ofM_fmtM hm hn)
  -- 0x2C and 0x2D: ATOM and RED, of Format M
  case h_30 hm | h_31 hm =>
    cases h
    exact List.singleton_inj.mpr (ofM_fmtM_far hm)
  -- 0x37, Formats I and A
  case h_41 hm =>
    split at h
    case h_1 hn | h_2 hn | h_3 hn | h_4 hn =>
      split at h <;> cases h
      next hr => exact List.singleton_inj.mpr (ofI_fmtI hm hn hr)
    case h_5 hn | h_6 hn | h_7 hn =>
      cases h
      exact List.singleton_inj.mpr (ofA_fmtA hm hn)
    case h_8 => cases h
  -- 0x3E, a header
  case h_42 hm =>
    split at h <;> cases h
    next hr => exact List.singleton_inj.mpr (ofHeader_header hm hr)
  case h_43 => cases h
  -- every other major is of Format A
  all_goals
    next hm =>
    split at h <;> cases h
    all_goals
      next hn => exact List.singleton_inj.mpr (ofA_fmtA hm hn)

/-! ### The obligations -/

/-- The one word of a well-formed instruction decodes to it, whatever follows. -/
theorem decodeWord_of_encode {i : Instr} {w : DWord} (hw : i.WellFormed)
    (hi : i.chk.isSome = true ∨ ∃ h, i = .blockHeader h) (he : encode i = [w]) (next : DWord) : decodeWord w next = .ok i := by
  have h2 : ∀ f, i ≠ .movw f := by
    rintro f rfl
    exact absurd (congrArg List.length he) (by decide : (2 : Nat) ≠ 1)
  obtain ⟨v, hv, hd⟩ := Instr.oneWord_of_wellFormed hw hi h2
  obtain rfl : w = v := List.singleton_inj.mp (he.symm.trans hv)
  exact decodeWord_eq_ok_iff.mpr ⟨hd next, hw⟩

/-- And so do the two of MOVW. -/
theorem decodeWord_ofW {f : FmtW} (hw : (Instr.movw f).WellFormed) : decodeWord (ofW f) f.imm = .ok (.movw f) :=
  decodeWord_eq_ok_iff.mpr ⟨decodeRaw_ofW f, hw⟩

/-- Settles O55, by the formats: a word of each is its fields and no others, so what one direction puts together the other takes
apart; MOVW alone has a second word. -/
theorem encodingsAgree : Obligations.EncodingsAgree := by
  unfold Obligations.EncodingsAgree
  refine ⟨fun i hw hi => ?encode, fun w next i h => ?decode⟩
  case encode =>
    by_cases h2 : ∃ f, i = .movw f
    · obtain ⟨f, rfl⟩ := h2
      exact .inr ⟨ofW f, f.imm, rfl, isTwoWord_ofW f, decodeWord_ofW hw⟩
    · obtain ⟨w, he, hd⟩ := Instr.oneWord_of_wellFormed hw hi fun f hf => h2 ⟨f, hf⟩
      have hone : isTwoWord w = false := Bool.eq_false_iff.mpr fun ht => h2 ⟨_, (eq_movw_of_isTwoWord ht (hd 0#64)).2⟩
      exact .inl ⟨w, he, hone, fun next => decodeWord_eq_ok_iff.mpr ⟨hd next, hw⟩⟩
  case decode =>
    obtain ⟨hd, hw⟩ := decodeWord_eq_ok_iff.mp h
    refine ⟨hw, ?_⟩
    by_cases ht : isTwoWord w = true
    · obtain ⟨hz, rfl⟩ := eq_movw_of_isTwoWord ht hd
      obtain ⟨hm, hn⟩ := isTwoWord_iff.mp ht
      exact .inr ⟨ht, congrArg (fun v => [v, next]) (eq_ofW_iff.mpr ⟨hm, rfl, hz, hn⟩).symm⟩
    · exact .inl (encode_of_decodeRaw hd (Bool.eq_false_iff.mpr ht))

/-- Settles O56: each word is what its well-formed instruction encodes. -/
theorem sampleWordsDecode : Obligations.SampleWordsDecode := by
  unfold Obligations.SampleWordsDecode
  refine ⟨?iadd, ?movw, ?bra, ?ld, ?nop⟩
  case movw =>
    exact decodeWord_ofW (f := { guard := 0x7F#8, d := 6#10, u := false, imm := 0x123456789ABCDEF0#64 })
      (by unfold Instr.WellFormed; decide)
  all_goals exact decodeWord_of_encode (by unfold Instr.WellFormed; decide) (.inl rfl) rfl 0#64

end Sys2Proof
end

section
/-!
SUPPORT. Headers, NOP, EXIT and YIELD (R75, R95, R127, R128): what a header's checks lead to, and what EXIT leaves of its group.
-/
namespace Sys2Proof.Machine

/-! ### The mask of the lanes that satisfy a test -/

theorem getLsbD_foldl_or_shiftLeft (p : Nat → Bool) {i : Nat} (hi : i < 64) (l : List Nat) (a : DWord) :
    (l.foldl (fun m j => if p j then m ||| (1#64 <<< j) else m) a).getLsbD i =
      (a.getLsbD i || (decide (i ∈ l) && p i)) := by
  induction l generalizing a with
  | nil => simp
  | cons j l ih =>
    rw [List.foldl_cons, ih]
    by_cases hj : i = j
    · subst hj
      cases hp : p i <;> simp [hi]
    · have hbit : (1#64 <<< j).getLsbD i = false := (BitVec.getLsbD_twoPow j i).trans (by simp [Ne.symm hj])
      split <;> simp [hj, hbit]

theorem getLsbD_maskOf (p : Nat → Bool) {i : Nat} (hi : i < 64) : (maskOf p).getLsbD i = p i := by
  rw [maskOf, getLsbD_foldl_or_shiftLeft p hi]
  simp [hi]

/-! ### Headers -/

/-- What a header does with the lanes that go on, by the check of the point it names (R75, R78). -/
def State.enterPoint (s : State) (h : Header) : Target → Res
  | .ok => .ok (s.holding.startBlock h s.goingOn) s.heldHere
  | .trap c v => .trapWith s.holding s.goingOn c v
  | .missing => .park s.goingOn [(reconPoint s.cur.pc h, s.goingOn, 3)]
  | .noFrame k => .fault (.noSuchFrame k)
  | .wait as => .stallWith (s.askFor as)

/-- A header's issue: its members are held, and of the others the first check that fails decides; without a point to enter, the last
one passes (R75). -/
theorem exec_blockHeader_eq (h : Header) (s : State) : exec (.blockHeader h) s = finish s 1 (
    if s.goingOn = 0#64 then .ok s.holding s.heldHere
    else if h.legal = false then .trapWith s.holding s.goingOn cIllegal 0#64
    else if s.cur.before.waitsOn h.wait = true then .stall none
    else s.enterPoint h (if h.reconv = 0#16 then .ok else s.checkTarget s.cb.core s.cb.asid (reconPoint s.cur.pc h))) := by
  rw [exec_blockHeader, execBlockHeader]
  change finish s 1 (if s.goingOn == 0#64 then .ok s.holding s.heldHere else if !h.legal then _ else _) = _
  congr 1
  simp only [beq_iff_eq, Bool.not_eq_true']
  congr 3
  by_cases hr : h.reconv = 0#16
  · rw [if_pos hr, if_pos hr]
    rfl
  · rw [if_neg hr, if_neg hr]
    cases s.checkTarget s.cb.core s.cb.asid (reconPoint s.cur.pc h) <;> rfl

/-- Settles O17: the checks of `exec_blockHeader_eq` one after another, and at the last of them the point's. -/
theorem headerIssue : Obligations.HeaderIssue := by
  unfold Obligations.HeaderIssue
  intro h s point target
  rw [exec_blockHeader_eq]
  refine ⟨fun hg => ?held, fun hg hl => ?illegal, fun hg hl hw => ?flag, fun hg hl hw hp => ?ok,
    fun c v hg hl hw hr ht => ?trap, fun hg hl hw hr ht => ?park, fun as hg hl hw hr ht => ?wait⟩
  case held => rw [if_pos hg]; rfl
  case illegal => rw [if_neg hg, if_pos hl]; rfl
  case flag => rw [if_neg hg, if_neg (by simp [hl]), if_pos hw]; rfl
  all_goals rw [if_neg hg, if_neg (by simp [hl]), if_neg (by simp [hw])]
  case ok =>
    by_cases hr : h.reconv = 0#16
    · rw [if_pos hr]
      rfl
    · rw [if_neg hr, show s.checkTarget s.cb.core s.cb.asid (reconPoint s.cur.pc h) = .ok from hp.resolve_left hr]
      rfl
  all_goals
    rw [if_neg hr, show s.checkTarget s.cb.core s.cb.asid (reconPoint s.cur.pc h) = _ from ht]
    rfl

/-! ### Lanes that leave -/

@[simp] theorem State.pastWords_counters (s t : State) (n : Nat) (m : DWord) :
    (s.pastWords t n m).counters = t.counters := rfl
@[simp] theorem State.pastWords_mem (s t : State) (n : Nat) (m : DWord) : (s.pastWords t n m).mem = t.mem := rfl
@[simp] theorem State.pastWords_dead (s t : State) (n : Nat) (m : DWord) : (s.pastWords t n m).dead = t.dead := rfl

@[simp] theorem State.retireLanes_cur (s : State) (b g : Nat) (m : DWord) : (s.retireLanes b g m).cur = s.cur := rfl
@[simp] theorem State.retireLanes_counters (s : State) (b g : Nat) (m : DWord) :
    (s.retireLanes b g m).counters = s.counters := rfl
@[simp] theorem State.retireLanes_mem (s : State) (b g : Nat) (m : DWord) : (s.retireLanes b g m).mem = s.mem := rfl
@[simp] theorem State.retireLanes_dead (s : State) (b g : Nat) (m : DWord) : (s.retireLanes b g m).dead = s.dead := rfl

theorem State.countAbandoned_counters (s : State) (m : DWord) : (s.countAbandoned m).counters =
    if (s.launch s.cb.launch).ladder.isSome = true then
      (s.count (dieOf s.cb.core) 16 ((lanesOf m).filter fun i => !(s.cg.lane i).done).length).counters
    else s.counters := by
  rw [State.countAbandoned, apply_ite State.counters]

/-- To count them changes the counters alone. -/
theorem State.countAbandoned_eq (s : State) (m : DWord) :
    s.countAbandoned m = { s with counters := (s.countAbandoned m).counters } := by
  rw [State.countAbandoned]
  split <;> rfl

theorem Group.getLsbD_ordinary (k : Group) {i : Nat} (hi : i < 64) :
    k.ordinary.getLsbD i = ((k.lane i).kind == .ordinary) :=
  getLsbD_maskOf _ hi

/-- What EXIT leaves of a group k in whose lanes of a mask it executed (R127). -/
structure Group.Leaves (k q : Group) (m : DWord) : Prop where
  kind : ∀ i < k.lanes.length, (q.lane i).kind = if m.getLsbD i then .helper else (k.lane i).kind
  ended : k.ordinary &&& ~~~m = 0#64 → k.lanes.length = 64 → q.ended = true
  recon : ∀ e ∈ q.recon, e.members &&& m = 0#64

/-- The group with those lanes retired and out of every entry. -/
def Group.withoutLanes (k : Group) (m : DWord) : Group :=
  let gone := fun (l : Lane) => { l with kind := .helper, wait := .running, pos := none }
  { k with lanes := k.lanes.mapIdx fun i l => if m.getLsbD i then gone l else l : Group }.leaveRecon m

theorem Group.kind_withoutLanes (k : Group) (m : DWord) {i : Nat} (hi : i < k.lanes.length) :
    ((k.withoutLanes m).lane i).kind = if m.getLsbD i then .helper else (k.lane i).kind := by
  simp only [Group.withoutLanes, Group.leaveRecon, Group.lane, List.getD_eq_getElem?_getD, List.getElem?_mapIdx,
    List.getElem?_eq_getElem hi, Option.map_some, Option.getD_some]
  split <;> rfl

theorem Group.members_withoutLanes (k : Group) (m : DWord) : ∀ e ∈ (k.withoutLanes m).recon, e.members &&& m = 0#64 := by
  intro e he
  obtain ⟨e', -, rfl⟩ := List.mem_map.mp he
  ext i hi
  simp

/-- Without an ordinary lane outside the mask, none is left. -/
theorem Group.ordinary_withoutLanes {k : Group} {m : DWord} (h : k.ordinary &&& ~~~m = 0#64) (hl : k.lanes.length = 64) :
    (k.withoutLanes m).ordinary = 0#64 := by
  refine BitVec.eq_of_getLsbD_eq fun i hi => ?_
  have hk : (k.lane i).kind = .ordinary → m.getLsbD i = true := by
    have hbit : (k.ordinary &&& ~~~m).getLsbD i = false := by rw [h, BitVec.getLsbD_zero]
    rw [BitVec.getLsbD_and, Group.getLsbD_ordinary k hi, BitVec.getLsbD_not] at hbit
    simpa [hi] using hbit
  rw [Group.getLsbD_ordinary _ hi, Group.kind_withoutLanes k m (hl ▸ hi)]
  by_cases hm : m.getLsbD i = true
  · simp [hm]
  · simpa [hm] using mt hk hm

theorem State.group_retireLanes {s : State} {b : Nat} (hb : (s.blocks.get? b).isSome = true) (g : Nat) (m : DWord) :
    (s.retireLanes b g m).group b g = if ((s.group b g).withoutLanes m).ordinary == 0#64 then
        { (s.group b g).withoutLanes m with ended := true, active := false, recon := [], choice := [] }
      else (s.group b g).withoutLanes m := by
  rw [State.retireLanes, State.onLanes, State.group_onGroup_same (State.blocks_isSome_onGroup hb g _),
    State.group_onGroup_same hb]
  rfl

theorem State.leaves_retireLanes {s : State} {b : Nat} (hb : (s.blocks.get? b).isSome = true) (g : Nat) (m : DWord) :
    (s.group b g).Leaves ((s.retireLanes b g m).group b g) m := by
  rw [State.group_retireLanes hb]
  split
  · exact ⟨fun i hi => Group.kind_withoutLanes _ m hi, fun _ _ => rfl, fun e he => by cases he⟩
  · next hne =>
    exact ⟨fun i hi => Group.kind_withoutLanes _ m hi,
      fun h hl => absurd (beq_iff_eq.mpr (Group.ordinary_withoutLanes h hl)) hne, Group.members_withoutLanes _ m⟩

/-- To go on past the word at issue changes pcs alone. -/
theorem State.changesGroup_pc_pastWords (s u : State) (words : Nat) (moved : DWord) :
    State.ChangesGroup Eq (fun _ l r => r = { l with pc := r.pc }) u (s.pastWords u words moved) := by
  have hS : IsPreorder (Cells 64) Eq := { refl := Eq.refl, trans := fun _ _ _ => Eq.trans }
  have hL : ∀ _ : Nat, IsPreorder Lane fun l r => r = { l with pc := r.pc } := fun _ =>
    { refl := fun _ => rfl, trans := fun a b c h h' => by rw [h', h] }
  exact State.changesGroup_trans hS hL (State.changesGroup_onExec hS hL u fun _ _ _ => rfl)
    (State.changesGroup_result hS hL _ _)

theorem Group.Leaves.of_changed {k q r : Group} {m : DWord} (h : k.Leaves q m)
    (hc : Group.Changed Eq (fun _ l r => r = { l with pc := r.pc }) q r) : k.Leaves r m := by
  obtain ⟨hr, -, hl⟩ := hc
  obtain ⟨hkind, hended, hrecon⟩ := h
  refine ⟨fun i hi => ?_, ?_, ?_⟩
  · rw [hl i]
    exact hkind i hi
  · rw [hr]
    exact hended
  · rw [hr]
    exact hrecon

/-- s after EXIT in the lanes of a mask (R127). -/
def State.exited (s : State) (m : DWord) : State :=
  s.pastWords ((s.countAbandoned m).retireLanes s.cur.blk s.cur.grp m) 1 m

theorem exec_exitLanes_of_mayRun {f : FmtB} {s : State} (h : MayRun (.exitLanes f) s) :
    exec (.exitLanes f) s = .next (s.exited (s.execLanes f.guard)) := by
  rw [exec_exitLanes, execExitLanes]
  exact run_next_of_ok h (by rw [guard_exitLanes])

theorem State.leaves_exited {s : State} (hb : (s.blocks.get? s.cur.blk).isSome = true) (m : DWord) :
    s.cg.Leaves ((s.exited m).group s.cur.blk s.cur.grp) m := by
  let v := s.countAbandoned m
  have hv : v = { s with counters := v.counters } := State.countAbandoned_eq s m
  have hvb : (v.blocks.get? s.cur.blk).isSome = true := by rw [hv]; exact hb
  have hvg : v.group s.cur.blk s.cur.grp = s.cg := by rw [hv]; rfl
  let u := v.retireLanes s.cur.blk s.cur.grp m
  have hucur : u.cur = s.cur := by rw [State.retireLanes_cur, hv]
  obtain ⟨-, hc⟩ := State.changesGroup_pc_pastWords s u 1 m
  rw [State.cg, hucur] at hc
  exact (hvg ▸ State.leaves_retireLanes hvb s.cur.grp m : s.cg.Leaves (u.group s.cur.blk s.cur.grp) m).of_changed hc

theorem State.exited_counters (s : State) (m : DWord) : (s.exited m).counters = (s.countAbandoned m).counters := by
  rw [State.exited, State.pastWords_counters, State.retireLanes_counters]

theorem State.exited_mem (s : State) (m : DWord) : (s.exited m).mem = s.mem := by
  rw [State.exited, State.pastWords_mem, State.retireLanes_mem, State.countAbandoned_eq]

theorem State.exited_dead (s : State) (m : DWord) : (s.exited m).dead = s.dead := by
  rw [State.exited, State.pastWords_dead, State.retireLanes_dead, State.countAbandoned_eq]

/-- Settles O19: NOP and YIELD are their bodies; what EXIT leaves of the group is kept as its lanes go on. -/
theorem nopExitYield : Obligations.NopExitYield := by
  unfold Obligations.NopExitYield
  intro f s m
  refine ⟨fun h => (exec_nop s).trans (run_next_of_ok h rfl), fun h hi => ?exit,
    fun h => (exec_yieldGroup f s).trans (run_next_of_ok h rfl)⟩
  case exit =>
    obtain ⟨hkind, hended, hrecon⟩ := State.leaves_exited hi.1 m
    exact ⟨s.exited m, exec_exitLanes_of_mayRun h, hkind, hended, hrecon,
      (State.exited_counters s m).trans (State.countAbandoned_counters s m), State.exited_mem s m, State.exited_dead s m⟩

end Sys2Proof.Machine
end

section
/-!
SUPPORT. The moulds of the instructions that compute in registers (R71, R86, R99, R102): what an instruction does that may run and
whose body is one of them.
-/
namespace Sys2Proof.Machine

variable {i : Instr} {f : FmtA} {s : State} (h : MayRun i s) (hg : i.guard = f.guard := by rfl) (hw : wordsOf i = 1 := by rfl)
include h hg

/-! ### Bodies of one-word instructions of Format A -/

theorem run_trapped {body : DWord → Res} {m tval : DWord} {code : Nat}
    (hb : body (s.execLanes f.guard) = .trap m code tval) : run i s body = .next (s.trappedAt m code tval) :=
  run_next_of_trap h (hg ▸ hb)

include hw

theorem run_passed {t : State} {body : DWord → Res} {moved : DWord} (hb : body (s.execLanes f.guard) = .ok t moved) :
    run i s body = .next (s.pastWords t 1 moved) :=
  hw ▸ run_next_of_ok h (hg ▸ hb)

/-! ### One value or one predicate for D -/

theorem run_alu {w : Nat} {val : Group → Lane → Nat → DWord} :
    run i s (fun m => alu s f m w val) = .next (s.afterD f w val) := run_passed h hg hw rfl

theorem run_aluPred {val : Group → Lane → Bool} : run i s (fun m => aluPred s f m val) = .next (s.afterP f val) :=
  run_passed h hg hw rfl

theorem run_aluInt {op : Int → Int → Int} : run i s (fun m => aluInt s f m op) = .next (s.afterInt f op) :=
  run_alu h hg hw

theorem run_aluThree {op : Word → Word → Word → Word} :
    run i s (fun m => aluThree s f m op) = .next (s.afterThree f op) := run_alu h hg hw

theorem run_aluFp2 {op : Fval → Fval → Fval} :
    run i s (fun m => aluFp2 s f m op) = .next (s.afterFp f fun g l => op (fpA f g l) (fpB f g l)) := run_alu h hg hw

theorem run_aluPk2 {op : Fval → Fval → Fval} : run i s (fun m => aluPk2 s f m op) =
    .next (s.afterPacked f fun g l e => op (elemOf f.ty (rdA f g l 32) e) (elemOf f.ty (rdB f g l 32) e)) := run_alu h hg hw

theorem run_aluFp1 {op : Fval → Fval} : run i s (fun m => aluFp1 s f m op) = .next (s.afterFp1 f op) := run_alu h hg hw

/-! ### Moulds that trap where a uniform form's lanes differ -/

/-- A carry chain reads its carry predicate before it writes it (R99, R103). -/
theorem run_aluCarry {op : Nat → Nat → Nat → Nat × Bool} : run i s (fun m => aluCarry s f m op) = .next (
    if predSplit s f.u (s.execLanes f.guard) f.c.toNat then s.trappedAt (s.execLanes f.guard) cUniformSplit 0#64
    else s.afterCarry f op) := by
  split
  case isTrue hp => exact run_trapped h hg (if_pos hp)
  case isFalse hp =>
    refine run_passed h hg hw ((if_neg hp).trans ?_)
    split <;> rfl

/-- A move from a per-lane source needs one value in every executing lane where D is uniform (R51, R101). -/
theorem run_moveFrom {w : Nat} {val : Lane → Nat → DWord} : run i s (fun m => moveFrom s f m w val) = .next (
    let m := s.execLanes f.guard
    let one := val (s.cg.lane (lowest m)) (lowest m)
    if f.u then
      if (lanesOf m).any fun i => val (s.cg.lane i) i != one then s.trappedAt m cUniformSplit 0#64
      else s.pastWords (s.putU f.d.toNat 64 one) 1 0#64
    else s.pastWords (s.onExec m fun i l => l.put (destReg f l) w (val l i)) 1 0#64) := by
  dsimp only
  split
  case isTrue hu =>
    split
    case isTrue hv => exact run_trapped h hg ((if_pos hu).trans (if_pos hv))
    case isFalse hv => exact run_passed h hg hw ((if_pos hu).trans (if_neg hv))
  case isFalse hu => exact run_passed h hg hw (if_neg hu)

end Sys2Proof.Machine
end

section
/-!
SUPPORT. Integer arithmetic, logic, shifts, bit fields and addresses (R102 to R110): each instruction is its mould, and where the
manual says a word bit by bit, or the model writes a value in another way, the two agree.
-/
namespace Sys2Proof.Machine

/-! ### Widths and operands -/

theorem tyWidth_eq (ty : Nat) : tyWidth ty = 32 ∨ tyWidth ty = 64 := by
  rw [tyWidth]
  split
  · exact .inr rfl
  · exact .inl rfl

theorem toNat_setWidth_32_lt (x : Word) : (x.setWidth 64).toNat < 2 ^ 32 := by
  rw [BitVec.toNat_setWidth_of_le (by decide)]
  exact x.isLt

/-- A register operand of 32 bits is below 2^32, whichever file it is in (R46, R66). -/
theorem readOpd_32_lt (g : Group) (l : Lane) (uni : Bool) (fld : Fld) (idx : Bool) :
    (readOpd g l uni fld idx 32).toNat < 2 ^ 32 := by
  cases uni
  case false => exact toNat_setWidth_32_lt _
  case true => exact toNat_setWidth_32_lt ((g.ureg fld.toNat).extractLsb' 0 32)

theorem ofInteger_32_lt (x : Int) : (ofInteger 32 x).toNat < 2 ^ 32 := by
  rw [ofInteger, BitVec.toNat_ofNat]
  have hmod : x.emod (2 ^ 32) = x % 2 ^ 32 := rfl
  omega

/-- The second source of 32 bits is below 2^32, a register or an immediate (R84, R100). -/
theorem rdB_32_lt (f : FmtA) (g : Group) (l : Lane) : (rdB f g l 32).toNat < 2 ^ 32 := by
  rw [rdB]
  split
  · exact ofInteger_32_lt f.imm
  · exact readOpd_32_lt ..

theorem ofInteger_64 (x : Int) : ofInteger 64 x = BitVec.ofInt 64 x := by
  refine BitVec.eq_of_toNat_eq ?_
  rw [ofInteger, BitVec.toNat_ofNat, BitVec.toNat_ofInt]
  have hmod : x.emod (2 ^ 64) = x % 2 ^ 64 := rfl
  omega

/-! ### Carries (R103) -/

/-- The low word and the borrow of a difference, for a subtrahend of 32 bits: what the model adds to stay among the naturals is a
multiple of 2^32. -/
theorem subtract_eq (a : Nat) {b bi : Nat} (hb : b < 2 ^ 32) (hbi : bi ≤ 1) :
    ((a + 2 ^ 33 - b - bi) % 2 ^ 32, borrowOut a b bi) = ((((a : Int) - b - bi) % 2 ^ 32).toNat, decide (a < b + bi)) :=
  Prod.mk.injEq .. ▸ ⟨by omega, rfl⟩

/-- A carry chain's function matters only where the second operand has 32 bits and the carry one. -/
theorem State.afterCarry_congr (s : State) (f : FmtA) {x y : Nat → Nat → Nat → Nat × Bool}
    (h : ∀ a b ci, b < 2 ^ 32 → ci ≤ 1 → x a b ci = y a b ci) : s.afterCarry f x = s.afterCarry f y := by
  have hboth : ∀ l : Lane,
      x (rdA f s.cg l 32).toNat (rdB f s.cg l 32).toNat (if l.pred f.c.toNat then 1 else 0) =
        y (rdA f s.cg l 32).toNat (rdB f s.cg l 32).toNat (if l.pred f.c.toNat then 1 else 0) := fun l =>
    h _ _ _ (rdB_32_lt f s.cg l) (by split <;> decide)
  simp only [State.afterCarry, hboth]

/-! ### Unions of words -/

/-- A bit of the union of the words that pass a test. -/
theorem getLsbD_foldl_or {w : Nat} (p : Nat → Bool) (x : Nat → BitVec w) (i : Nat) (js : List Nat) (a : BitVec w) :
    (js.foldl (fun r j => if p j then r ||| x j else r) a).getLsbD i =
      (a.getLsbD i || js.any fun j => p j && (x j).getLsbD i) := by
  induction js generalizing a with
  | nil => simp
  | cons j js ih =>
    rw [List.foldl_cons, ih]
    cases hp : p j <;> simp [hp, Bool.or_assoc]

/-- Where of n words just word k has bit i, that bit of their union is the test of k. -/
theorem getLsbD_foldl_or_unique {w n k i : Nat} (p : Nat → Bool) {x : Nat → BitVec w} (hk : k < n)
    (hx : ∀ j < n, (x j).getLsbD i = decide (j = k)) :
    ((List.range n).foldl (fun r j => if p j then r ||| x j else r) 0#w).getLsbD i = p k := by
  rw [getLsbD_foldl_or, BitVec.getLsbD_zero, Bool.false_or, Bool.eq_iff_iff, List.any_eq_true]
  constructor
  · rintro ⟨j, hj, hb⟩
    rw [hx j (List.mem_range.mp hj), Bool.and_eq_true, decide_eq_true_iff] at hb
    exact hb.2 ▸ hb.1
  · exact fun hp => ⟨k, List.mem_range.mpr hk, by simp [hp, hx k hk]⟩

/-! ### TERN (R107) -/

/-- The word whose bit i is set where c_i, b_i and a_i are the bits of k. -/
def minterm (a b c : Word) (k : Nat) : Word :=
  (if k % 2 == 1 then a else ~~~a) &&& (if k / 2 % 2 == 1 then b else ~~~b) &&& (if k / 4 == 1 then c else ~~~c)

theorem ternary_eq (lut : BitVec 8) (a b c : Word) : ternary lut a b c =
    (List.range 8).foldl (fun r k => if lut.getLsbD k then r ||| minterm a b c k else r) 0#32 := rfl

theorem getLsbD_ite_not (p : Bool) (a : Word) {i : Nat} (hi : i < 32) :
    (if p then a else ~~~a).getLsbD i = (p == a.getLsbD i) := by
  cases p <;> simp [hi]

theorem getLsbD_minterm (a b c : Word) {k i : Nat} (hk : k < 8) (hi : i < 32) : (minterm a b c k).getLsbD i =
    decide (k = (if c.getLsbD i then 4 else 0) + (if b.getLsbD i then 2 else 0) + (if a.getLsbD i then 1 else 0)) := by
  rw [minterm, BitVec.getLsbD_and, BitVec.getLsbD_and, getLsbD_ite_not _ _ hi, getLsbD_ite_not _ _ hi,
    getLsbD_ite_not _ _ hi]
  have hbits : ∀ k < 8, ∀ x y z : Bool, (((k % 2 == 1) == x) && ((k / 2 % 2 == 1) == y) && ((k / 4 == 1) == z)) =
      decide (k = (if z then 4 else 0) + (if y then 2 else 0) + (if x then 1 else 0)) := by decide
  exact hbits k hk _ _ _

theorem getLsbD_ternary (lut : BitVec 8) (a b c : Word) {i : Nat} (hi : i < 32) : (ternary lut a b c).getLsbD i =
    lut.getLsbD ((if c.getLsbD i then 4 else 0) + (if b.getLsbD i then 2 else 0) + (if a.getLsbD i then 1 else 0)) := by
  rw [ternary_eq]
  exact getLsbD_foldl_or_unique (fun k => lut.getLsbD k) (by split <;> split <;> split <;> decide) fun k hk =>
    getLsbD_minterm a b c hk hi

/-! ### Rotation (R108) -/

/-- ROT's two widths are one rule: the word is cut to its width before the bits that leave it come back. -/
theorem rotate_eq {w : Nat} (hw : w = 32 ∨ w = 64) (a : DWord) (k : Nat) :
    (if w == 64 then (a <<< k) ||| (a >>> (w - k)) else (a <<< k) ||| (cut 32 a >>> (w - k))) =
      (a <<< k) ||| (cut w a >>> (w - k)) := by
  obtain rfl | rfl := hw <;> rfl

/-! ### Bit reversal and bit fields (R109, R121) -/

/-- The low w bits in reverse order. -/
def reverseBits (w : Nat) (a : DWord) : DWord :=
  (List.range w).foldl (fun r i => if a.getLsbD i then r ||| (1#64 <<< (w - 1 - i)) else r) 0#64

theorem execBrev_eq (f : FmtA) (s : State) : execBrev f s = run (.brev f) s fun m => aluWord1 s f m reverseBits := rfl

theorem getLsbD_reverseBits {w i : Nat} (hw : w ≤ 64) (a : DWord) (hi : i < w) :
    (reverseBits w a).getLsbD i = a.getLsbD (w - 1 - i) := by
  refine getLsbD_foldl_or_unique (fun j => a.getLsbD j) (by omega) fun j hj => ?_
  rw [← BitVec.twoPow_eq, BitVec.getLsbD_twoPow, ← Bool.decide_and, decide_eq_decide]
  omega

/-- The mask of len bits from a position on. -/
def fieldMask (w pos len : Nat) : BitVec w := BitVec.ofNat w ((2 ^ len - 1) * 2 ^ pos)

theorem getLsbD_fieldMask {w i : Nat} (pos len : Nat) (hi : i < w) :
    (fieldMask w pos len).getLsbD i = decide (pos ≤ i ∧ i < pos + len) := by
  rw [fieldMask, BitVec.getLsbD_ofNat, Nat.testBit_mul_two_pow, Nat.testBit_two_pow_sub_one, ← Bool.decide_and,
    ← Bool.decide_and, decide_eq_decide]
  omega

/-- The low len bits of a, put into d at a position. -/
def insertField {w : Nat} (d a : BitVec w) (p : Nat × Nat) : BitVec w :=
  (d &&& ~~~fieldMask w p.1 p.2) ||| ((a <<< p.1) &&& fieldMask w p.1 p.2)

theorem getLsbD_insertField {w i : Nat} (d a : BitVec w) (p : Nat × Nat) (hi : i < w) :
    (insertField d a p).getLsbD i = if p.1 ≤ i ∧ i < p.1 + p.2 then a.getLsbD (i - p.1) else d.getLsbD i := by
  rw [insertField, BitVec.getLsbD_or, BitVec.getLsbD_and, BitVec.getLsbD_and, BitVec.getLsbD_not,
    getLsbD_fieldMask p.1 p.2 hi, BitVec.getLsbD_shiftLeft]
  split
  case isTrue h => simp [h, hi]
  case isFalse h => simp [h, hi]

/-- Nothing is put in by a field without bits. -/
theorem insertField_of_empty {w : Nat} (d a : BitVec w) {p : Nat × Nat} (hp : p.2 = 0) : insertField d a p = d :=
  BitVec.eq_of_getLsbD_eq fun i hi => by rw [getLsbD_insertField d a p hi, if_neg (by omega)]

theorem execBfi_eq (f : FmtA) (s : State) :
    execBfi f s = run (.bfi f) s fun m => aluThree s f m fun a b c => insertField c a (fieldOf b) := by
  have hempty : (fun a b c : Word => if (fieldOf b).2 == 0 then c else insertField c a (fieldOf b)) =
      fun a b c => insertField c a (fieldOf b) :=
    funext₃ fun a b c => ite_eq_right_iff.mpr fun h => (insertField_of_empty c a (eq_of_beq h)).symm
  exact congrArg (fun op => run (.bfi f) s fun m => aluThree s f m op) hempty

theorem execPack8_eq (f : FmtA) (s : State) : execPack8 f s = run (.pack8 f) s fun m => alu s f m 32 fun g l _ =>
    insertField (rdD f g l 32) (rdA f g l 32) (packPos f.ty (rdB f g l 32)) := rfl

/-! ### The obligations -/

/-- Settles O1: each is the integer mould with its operation; the model writes |a|, min and max by a comparison. -/
theorem integerAddSubMinMax : Obligations.IntegerAddSubMinMax := by
  unfold Obligations.IntegerAddSubMinMax
  intro f s
  have habs : (fun a _ : Int => if a < 0 then -a else a) = fun a _ => |a| :=
    funext₂ fun a _ => by
      rw [abs_eq_max_neg]
      omega
  have hmin : (fun a b : Int => if b < a then b else a) = min :=
    funext₂ fun a b => (min_def_lt b a).symm.trans (min_comm b a)
  have hmax : (fun a b : Int => if a < b then b else a) = max := funext₂ fun a b => (max_def_lt a b).symm
  refine ⟨?iadd, ?isub, ?iadd64, ?iabs, ?ineg, ?imin, ?imax⟩
  case iadd => exact fun h => (exec_iadd f s).trans (run_aluInt h)
  case isub => exact fun h => (exec_isub f s).trans (run_aluInt h)
  case iadd64 => exact fun h => (exec_iadd64 f s).trans (run_aluInt h)
  case iabs => exact fun h => habs ▸ (exec_iabs f s).trans (run_aluInt h)
  case ineg => exact fun h => (exec_ineg f s).trans (run_aluInt h)
  case imin => exact fun h => hmin ▸ (exec_imin f s).trans (run_aluInt h)
  case imax => exact fun h => hmax ▸ (exec_imax f s).trans (run_aluInt h)

/-- Settles O2: both are the carry mould; ISUBB's word is that of the difference as the second operand has 32 bits. -/
theorem carryChains : Obligations.CarryChains := by
  unfold Obligations.CarryChains
  intro f s m
  refine ⟨?iaddc, ?isubb⟩
  case iaddc => exact fun h => (exec_iaddc f s).trans (run_aluCarry h)
  case isubb =>
    intro h
    rw [← State.afterCarry_congr s f fun a _ _ => subtract_eq a]
    exact (exec_isubb f s).trans (run_aluCarry h)

/-- Settles O3: each is its mould. -/
theorem multiplies : Obligations.Multiplies := by
  unfold Obligations.Multiplies
  intro f s
  refine ⟨?imul, ?imulh, ?imad, ?imadw⟩
  case imul => exact fun h => (exec_imul f s).trans (run_aluInt h)
  case imulh => exact fun h => (exec_imulh f s).trans (run_aluInt h)
  case imad => exact fun h => (exec_imad f s).trans (run_aluThree h)
  case imadw =>
    intro sg h
    simp only [← ofInteger_64]
    exact (exec_imadw sg f s).trans (run_alu h)

/-- Settles O4: ICMP's condition is the model's by its number, and SEL traps or delivers. -/
theorem compareAndSelect : Obligations.CompareAndSelect := by
  unfold Obligations.CompareAndSelect
  intro f s
  refine ⟨?icmp, ?sel⟩
  case icmp => exact fun h => (exec_icmp f s).trans (run_aluPred h)
  case sel =>
    intro w64 h
    by_cases hp : predSplit s f.u (s.execLanes f.guard) (bits f.c 0 7) = true
    · rw [if_pos hp]
      exact (exec_sel w64 f s).trans (run_trapped h (hb := if_pos hp))
    · rw [if_neg hp]
      exact (exec_sel w64 f s).trans (run_passed h (hb := if_neg hp))

/-- Settles O5: the logic is its mould, and TERN's result is the union of the minterms its table names. -/
theorem logicAndTernary : Obligations.LogicAndTernary := by
  unfold Obligations.LogicAndTernary
  intro f t s
  refine ⟨?and, ?or, ?xor, ?not, ?tern⟩
  case and => exact fun h => (exec_and f s).trans (run_alu h)
  case or => exact fun h => (exec_or f s).trans (run_alu h)
  case xor => exact fun h => (exec_xor f s).trans (run_alu h)
  case not => exact fun h => (exec_not f s).trans (run_alu h)
  case tern =>
    exact fun h => ⟨ternary t.lut, (exec_tern t s).trans (run_aluThree h), fun a b c _ hi => getLsbD_ternary t.lut a b c hi⟩

/-- Settles O6: each is its mould; the bound of SAR's amount and the two widths of ROT are written in one way. -/
theorem shifts : Obligations.Shifts := by
  unfold Obligations.Shifts
  intro f s w a n
  refine ⟨?shl, ?shr, ?sar, ?rot, ?fshl, ?fshr⟩
  case shl => exact fun h => (exec_shl f s).trans (run_alu h)
  case shr => exact fun h => (exec_shr f s).trans (run_alu h)
  case sar =>
    intro h
    simp only [min_def_lt]
    exact (exec_sar f s).trans (run_alu h)
  case rot =>
    intro h
    simp only [← rotate_eq (w := w) (tyWidth_eq f.ty)]
    exact (exec_rot f s).trans (run_alu h)
  case fshl => exact fun h => (exec_fshl f s).trans (run_aluThree h)
  case fshr => exact fun h => (exec_fshr f s).trans (run_aluThree h)

/-- Settles O7: each is its mould; BREV and BFI are said bit by bit. -/
theorem bitFieldsAndAddresses : Obligations.BitFieldsAndAddresses := by
  unfold Obligations.BitFieldsAndAddresses
  intro f s w a
  refine ⟨?popc, ?clz, ?ctz, ?brev, ?bfx, ?bfi, ?prmb, ?lea⟩
  case popc =>
    intro h
    simp only [List.countP_eq_length_filter]
    exact (exec_popc f s).trans (run_alu h)
  case clz => exact fun h => (exec_clz f s).trans (run_alu h)
  case ctz => exact fun h => (exec_ctz f s).trans (run_alu h)
  case brev =>
    have hw : w ≤ 64 := (tyWidth_eq f.ty).elim (fun h => h.trans_le (by decide)) fun h => h.le
    intro h
    rw [exec_brev, execBrev_eq]
    exact ⟨reverseBits w, run_alu h, fun v _ hi => getLsbD_reverseBits hw v hi⟩
  case bfx =>
    intro h
    rw [exec_bfx, execBfx]
    simp only [beq_iff_eq]
    exact run_alu h
  case bfi =>
    intro h
    rw [exec_bfi, execBfi_eq]
    exact ⟨_, run_aluThree h, fun u b c _ hi => getLsbD_insertField c u (fieldOf b) hi⟩
  case prmb => exact fun h => (exec_prmb f s).trans (run_aluThree h)
  case lea =>
    intro h
    simp only [← ofInteger_64]
    exact (exec_lea f s).trans (run_alu h)

end Sys2Proof.Machine
end

section
/-!
SUPPORT. Floating point, conversions, blocks and moves (R101, R111 to R121): each instruction is its mould.
-/
namespace Sys2Proof.Machine

/-- Settles O8: each is its mould, with one rounding in it. -/
theorem floatArithmetic : Obligations.FloatArithmetic := by
  unfold Obligations.FloatArithmetic
  intro f t s
  refine ⟨?fadd, ?fsub, ?fmul, ?fdivf, ?fscale, ?pkadd, ?pkmul, ?ffma, ?pkfma⟩
  case fadd => exact fun h => (exec_fadd f s).trans (run_aluFp2 h)
  case fsub => exact fun h => (exec_fsub f s).trans (run_aluFp2 h)
  case fmul => exact fun h => (exec_fmul f s).trans (run_aluFp2 h)
  case fdivf => exact fun h => (exec_fdivf f s).trans (run_aluFp2 h)
  case fscale => exact fun h => (exec_fscale f s).trans (run_alu h)
  case pkadd => exact fun h => (exec_pkadd f s).trans (run_aluPk2 h)
  case pkmul => exact fun h => (exec_pkmul f s).trans (run_aluPk2 h)
  case ffma => exact fun h => (exec_ffma t s).trans (run_alu h)
  case pkfma => exact fun bh h => (exec_pkfma bh t s).trans (run_alu h)

/-- Settles O9: FMIN and FMAX deliver one operand's code, or the canonical NaN; FCMP delivers a predicate. -/
theorem floatMinMaxCompare : Obligations.FloatMinMaxCompare := by
  unfold Obligations.FloatMinMaxCompare
  intro f s a b v pick
  refine ⟨?fmin, ?fmax, ?fcmp⟩
  case fmin => exact fun h => (exec_fmin f s).trans (run_alu h)
  case fmax => exact fun h => (exec_fmax f s).trans (run_alu h)
  case fcmp => exact fun h => (exec_fcmp f s).trans (run_aluPred h)

/-- Settles O10: each is its mould; the FP32 functions share one. -/
theorem floatFunctions : Obligations.FloatFunctions := by
  unfold Obligations.FloatFunctions
  intro f s a
  refine ⟨?fclass, ?frnd, ?fgexp, ?frcp, ?frsq, ?fsqrt, ?fex2, ?flg2, ?fsin, ?fcos, ?ftanh⟩
  case fclass => exact fun h => (exec_fclass f s).trans (run_alu h)
  case frnd => exact fun h => (exec_frnd f s).trans (run_alu h)
  case fgexp => exact fun h => (exec_fgexp f s).trans (run_alu h)
  case frcp => exact fun h => (exec_frcp f s).trans (run_aluFp1 h)
  case frsq => exact fun h => (exec_frsq f s).trans (run_aluFp1 h)
  case fsqrt => exact fun h => (exec_fsqrt f s).trans (run_aluFp1 h)
  case fex2 => exact fun h => (exec_fex2 f s).trans (run_aluFp1 h)
  case flg2 => exact fun h => (exec_flg2 f s).trans (run_aluFp1 h)
  case fsin => exact fun h => (exec_fsin f s).trans (run_aluFp1 h)
  case fcos => exact fun h => (exec_fcos f s).trans (run_aluFp1 h)
  case ftanh => exact fun h => (exec_ftanh f s).trans (run_aluFp1 h)

/-- Settles O11: each delivers one rounded value to D. -/
theorem conversions : Obligations.Conversions := by
  unfold Obligations.Conversions
  intro f s src
  refine ⟨?fcvt, ?f2i, ?i2f⟩
  case fcvt => exact fun h => (exec_fcvt f s).trans (run_alu h)
  case f2i => exact fun h => (exec_f2i f s).trans (run_alu h)
  case i2f => exact fun h => (exec_i2f f s).trans (run_alu h)

/-- Settles O12: a block's registers are written as one range; PACK8 is said bit by bit. -/
theorem blocksAndPacking : Obligations.BlocksAndPacking := by
  unfold Obligations.BlocksAndPacking
  intro f s m
  refine ⟨?qblk, ?dqblk, ?pack8, ?split8⟩
  case qblk => exact fun h => (exec_qblk f s).trans (run_passed h (hb := rfl))
  case dqblk => exact fun h => (exec_dqblk f s).trans (run_passed h (hb := rfl))
  case pack8 =>
    intro h
    rw [exec_pack8, execPack8_eq]
    exact ⟨fun d a b => insertField d a (packPos f.ty b), run_alu h,
      fun d a b _ hi => getLsbD_insertField d a (packPos f.ty b) (hi.trans (by decide))⟩
  case split8 => exact fun h => (exec_split8 f s).trans (run_alu h)

/-- Settles O13: MOV delivers a word, MOVI and MOVW write one of two files, and the per-lane sources share a mould. -/
theorem registerMoves : Obligations.RegisterMoves := by
  unfold Obligations.RegisterMoves
  intro f fi fw s m from_
  refine ⟨?mov, ?movi, ?movw, ?movSpecial, ?movIndex⟩
  case mov => exact fun h => (exec_mov f s).trans (run_alu h)
  case movi => exact fun h => (exec_movi fi s).trans (run_next_of_ok h (apply_ite (Res.ok · 0#64) _ _ _).symm)
  case movw => exact fun h => (exec_movw fw s).trans (run_next_of_ok h (apply_ite (Res.ok · 0#64) _ _ _).symm)
  case movSpecial => exact fun h => (exec_movSpecial f s).trans (run_moveFrom h)
  case movIndex => exact fun h => (exec_movIndex f s).trans (run_moveFrom h)

end Sys2Proof.Machine
end

section
/-!
SUPPORT. Predicates, index registers, the moves between the files, and the lanes of a group (R129 to R137, R144): each instruction is
its mould, or traps on a value that one of its lanes may not have.
-/
namespace Sys2Proof.Machine

/-! ### Index registers (R131) -/

/-- The value of the lowest lane of a mask that may not have it. -/
def State.refusedIndex (s : State) (m : DWord) (val : Lane → Except Int Word) : Option Int :=
  (lanesOf m).findSome? fun i => match val (s.cg.lane i) with | .error t => some t | .ok _ => none

/-- A lane with what an index instruction writes to register xJ. -/
def Lane.withIndex (l : Lane) (j : Nat) : Except Int Word → Lane
  | .ok x => { l with x := l.x.set j x }
  | .error _ => l

/-- s after an instruction that writes index register xJ: where a lane's value is refused, it traps with the lowest one's. -/
def State.afterIndex (s : State) (f : FmtA) (val : Lane → Except Int Word) : State :=
  match s.refusedIndex (s.execLanes f.guard) val with
  | some t => s.trappedAt (s.execLanes f.guard) cIndexRange (ofInteger 64 t)
  | none => s.pastWords (s.onExec (s.execLanes f.guard) fun _ l => l.withIndex f.d.toNat (val l)) 1 0#64

theorem aluIndex_eq (s : State) (f : FmtA) (m : DWord) (val : Lane → Except Int Word) : aluIndex s f m val =
    match s.refusedIndex m val with
    | some t => .trap m cIndexRange (ofInteger 64 t)
    | none => .ok (s.onExec m fun _ l => l.withIndex f.d.toNat (val l)) 0#64 := rfl

section Moulds
variable {i : Instr} {f : FmtA} {s : State} (h : MayRun i s) (hg : i.guard = f.guard := by rfl) (hw : wordsOf i = 1 := by rfl)
include h hg hw

theorem run_aluIndex {val : Lane → Except Int Word} :
    run i s (fun m => aluIndex s f m val) = .next (s.afterIndex f val) := by
  rw [State.afterIndex]
  split
  case h_1 t ht => exact run_trapped h hg (by rw [aluIndex_eq, ht])
  case h_2 hn => exact run_passed h hg hw (by rw [aluIndex_eq, hn])

/-! ### Exchanges (R134) -/

/-- An exchange waits while a register that it reads is pending in its source lane (R123). -/
theorem run_exchange {src : Lane → Nat → Nat} : run i s (fun m => exchange s f m src) = .next (
    let m := s.execLanes f.guard
    let w := tyWidth f.ty
    if (lanesOf m).any fun i => (srcRegs f.a w).any fun r => s.pendingHere (src (s.cg.lane i) i) r
    then s.result (.stalled (some 0))
    else s.pastWords (s.onExec m fun i l =>
      l.put f.d.toNat w (readOpd s.cg (s.cur.before.lane (src l i)) false f.a false w)) 1 0#64) := by
  dsimp only
  split
  case isTrue hp =>
    rw [run_of_mayRun h, hg]
    exact congrArg (finish s _) (if_pos hp)
  case isFalse hp => exact run_passed h hg hw (if_neg hp)

end Moulds

/-! ### The obligations -/

/-- Settles O14: PLOP delivers a predicate, PMOV and STOV pass, VTOS traps or passes, and the index instructions share a mould. -/
theorem predicateUniformAndIndexMoves : Obligations.PredicateUniformAndIndexMoves := by
  unfold Obligations.PredicateUniformAndIndexMoves
  intro f s m w v after opd moved
  refine ⟨?plop, ?pmov, ?vtos, ?stov, ?xset, ?xidx, ?xadd⟩
  case plop => exact fun h => (exec_plop f s).trans (run_aluPred h)
  case pmov => exact fun h => (exec_pmov f s).trans (run_passed h (hb := rfl))
  case vtos =>
    intro h
    by_cases hv : (f.sat && (lanesOf m).any fun i => v i != v (lowest m)) = true
    · rw [if_pos hv]
      exact (exec_vtos f s).trans (run_trapped h (hb := if_pos hv))
    · rw [if_neg hv]
      exact (exec_vtos f s).trans (run_passed h (hb := if_neg hv))
  case stov => exact fun h => (exec_stov f s).trans (run_passed h (hb := rfl))
  case xset => exact fun h => (exec_xset f s).trans (run_aluIndex h)
  case xidx => exact fun h => (exec_xidx f s).trans (run_aluIndex h)
  case xadd => exact fun h => (exec_xadd f s).trans (run_aluIndex h)

/-- Settles O15: the three differ in the source lane alone. -/
theorem laneExchanges : Obligations.LaneExchanges := by
  unfold Obligations.LaneExchanges
  intro f s m w after
  refine ⟨?qswap, ?qbcast, ?gshfl⟩
  case qswap => exact fun h => (exec_qswap f s).trans (run_exchange h)
  case qbcast => exact fun h => (exec_qbcast f s).trans (run_exchange h)
  case gshfl => exact fun h => (exec_gshfl f s).trans (run_exchange h)

/-- Settles O16: each delivers what its executing lanes come to; REDUX writes one of two files. -/
theorem votesAndReductions : Obligations.VotesAndReductions := by
  unfold Obligations.VotesAndReductions
  intro f s m w yes r
  refine ⟨?vote, ?ballot, ?matchLanes, ?elect, ?redux⟩
  case vote => exact fun h => (exec_vote f s).trans (run_passed h (hb := rfl))
  case ballot => exact fun h => (exec_ballot f s).trans (run_passed h (hb := rfl))
  case matchLanes => exact fun h => (exec_matchLanes f s).trans (run_passed h (hb := rfl))
  case elect => exact fun h => (exec_elect f s).trans (run_passed h (hb := rfl))
  case redux =>
    intro h
    by_cases hu : f.ftz = true
    · rw [if_pos hu]
      exact (exec_redux f s).trans (run_passed h (hb := if_pos hu))
    · rw [if_neg hu]
      exact (exec_redux f s).trans (run_passed h (hb := if_neg hu))

/-- Settles O20: the three leave their lanes waiting, CBAR outside a packed group alone. -/
theorem barriersAndSleep : Obligations.BarriersAndSleep := by
  unfold Obligations.BarriersAndSleep
  intro f s m
  refine ⟨?bar, ?cbar, ?sleep⟩
  case bar => exact fun h => (exec_bar f s).trans (run_passed h (hb := rfl))
  case cbar =>
    intro h
    by_cases hp : s.cb.packed.isSome = true
    · rw [if_pos hp]
      exact (exec_cbar f s).trans (run_trapped h (hb := if_pos hp))
    · rw [if_neg hp]
      exact (exec_cbar f s).trans (run_passed h (hb := if_neg hp))
  case sleep =>
    intro h
    simp only [← beq_iff_eq (b := 0#64)]
    exact (exec_sleep f s).trans (run_passed h (hb := rfl))

end Sys2Proof.Machine
end

section
/-!
SUPPORT. Branches, calls and returns (R78, R125, R126): what the check of one target, or of each lane's own, leads to.
-/
namespace Sys2Proof.Machine

/-! ### Lanes of a mask -/

theorem mem_lanesOf {m : DWord} {i : Nat} : i ∈ lanesOf m ↔ i < 64 ∧ m.getLsbD i = true := by
  simp [lanesOf]

theorem lowest_lt (m : DWord) : lowest m < 64 := by
  rw [lowest]
  cases h : lanesOf m with
  | nil => decide
  | cons i is => exact (mem_lanesOf.mp (h ▸ List.mem_cons_self)).1

theorem lanesOf_laneBit {i : Nat} (hi : i < 64) : lanesOf (laneBit i) = [i] := by
  revert i
  decide

/-! ### The target of one lane -/

/-- What the transfer of a lane to a target meets there (R78). -/
def State.targetOf (s : State) (t : DWord) : Target := s.checkTarget s.cb.core s.cb.asid t

/-- What a target waits for, if it waits. -/
def Target.waits : Target → List (List Ask)
  | .wait as => [as]
  | _ => []

/-- What it waits for. -/
def Target.asks : Target → List Ask
  | .wait as => as
  | _ => []

/-- The frame that it needs and HBM does not hold. -/
def Target.frame? : Target → Option Nat
  | .noFrame k => some k
  | _ => none

/-- Its trap. -/
def Target.trap? : Target → Option (Nat × DWord)
  | .trap c v => some (c, v)
  | _ => none

/-- It traps with a code. -/
def Target.traps (c : Nat) : Target → Bool
  | .trap d _ => d == c
  | _ => false

theorem Target.trap?_eq_some_iff {t : Target} {c : Nat} {v : DWord} : t.trap? = some (c, v) ↔ t = .trap c v := by
  cases t <;> simp [Target.trap?]

theorem Target.trap?_eq_none_iff {t : Target} : t.trap? = none ↔ ∀ c v, t ≠ .trap c v := by
  cases t <;> simp [Target.trap?]

theorem Target.traps_iff {t : Target} {c : Nat} : t.traps c = true ↔ ∃ v, t = .trap c v := by
  cases t <;> simp [Target.traps]

theorem Target.waits_eq_nil_iff {t : Target} : t.waits = [] ↔ ∀ as, t ≠ .wait as := by
  cases t <;> simp [Target.waits]

theorem Target.flatten_waits (t : Target) : t.waits.flatten = t.asks := by
  cases t <;> simp [Target.waits, Target.asks]

theorem Target.frame?_eq_none_iff {t : Target} : t.frame? = none ↔ ∀ k, t ≠ .noFrame k := by
  cases t <;> simp [Target.frame?]

/-! ### The targets of the lanes of a mask -/

/-- The lanes of a mask whose targets trap with a code. -/
def State.trapping (s : State) (m : DWord) (target : Nat → DWord) (c : Nat) : DWord :=
  maskOf fun i => (lanesOf m).any fun j => j == i && (s.targetOf (target j)).traps c

/-- The lanes of a mask whose targets have no translation, with those. -/
def State.misses (s : State) (m : DWord) (target : Nat → DWord) : List (Nat × DWord) :=
  ((lanesOf m).filter fun j => s.targetOf (target j) == .missing).map fun j => (j, target j)

/-- Those lanes alone. -/
def State.missing (s : State) (m : DWord) (target : Nat → DWord) : DWord :=
  maskOf fun i => (s.misses m target).any fun x => x.1 == i

theorem State.getLsbD_trapping (s : State) (m : DWord) (target : Nat → DWord) (c : Nat) {k : Nat} (hk : k < 64) :
    (s.trapping m target c).getLsbD k = true ↔ k ∈ lanesOf m ∧ ∃ v, s.targetOf (target k) = .trap c v := by
  simp [State.trapping, getLsbD_maskOf _ hk, Target.traps_iff]

theorem State.getLsbD_missing (s : State) (m : DWord) (target : Nat → DWord) {k : Nat} (hk : k < 64) :
    (s.missing m target).getLsbD k = true ↔ k ∈ lanesOf m ∧ s.targetOf (target k) = .missing := by
  simp [State.missing, State.misses, getLsbD_maskOf _ hk]

section CheckTargets
variable {s : State} {m : DWord} {target : Nat → DWord} (ok : Unit → Res)

theorem checkTargets_eq : checkTargets s m target ok =
    let waits := (lanesOf m).flatMap fun i => (s.targetOf (target i)).waits
    if waits ≠ [] then .stallWith (s.askFor waits.flatten) else
    match (lanesOf m).findSome? fun i => (s.targetOf (target i)).frame? with
    | some k => .fault (.noSuchFrame k)
    | none =>
      match (lanesOf m).findSome? fun i => (s.targetOf (target i)).trap? with
      | some (c, v) => .trap (s.trapping m target c) c v
      | none => if s.misses m target ≠ [] then .park (s.missing m target) (pageEntries 3 (s.misses m target)) else ok () := by
  simp only [checkTargets, State.missing, State.misses, List.flatMap_map, List.findSome?_map, List.any_map, List.filter_map,
    List.map_map] <;> rfl

/-- While one waits, what they all need is asked for. -/
theorem checkTargets_of_wait (h : ∃ i ∈ lanesOf m, ∃ as, s.targetOf (target i) = .wait as) : checkTargets s m target ok =
    .stallWith (s.askFor ((lanesOf m).flatMap fun i => (s.targetOf (target i)).asks)) := by
  obtain ⟨i, hi, as, ht⟩ := h
  have hne : ((lanesOf m).flatMap fun i => (s.targetOf (target i)).waits) ≠ [] :=
    List.ne_nil_of_mem (List.mem_flatMap.mpr ⟨i, hi, by rw [ht]; exact List.mem_singleton_self as⟩)
  rw [checkTargets_eq, if_pos hne, List.flatMap_def, List.flatten_flatten, List.map_map, List.flatMap_def]
  simp only [Function.comp_def, Target.flatten_waits]

variable (hw : ∀ i ∈ lanesOf m, ∀ as, s.targetOf (target i) ≠ .wait as)
  (hf : ∀ i ∈ lanesOf m, ∀ k, s.targetOf (target i) ≠ .noFrame k)
include hw hf

/-- Once none waits, and no frame is out of reach, the first trap decides. -/
theorem checkTargets_of_here : checkTargets s m target ok =
    match (lanesOf m).findSome? fun i => (s.targetOf (target i)).trap? with
    | some (c, v) => .trap (s.trapping m target c) c v
    | none => if s.misses m target ≠ [] then .park (s.missing m target) (pageEntries 3 (s.misses m target)) else ok () := by
  have hwait : ((lanesOf m).flatMap fun i => (s.targetOf (target i)).waits) = [] :=
    List.flatMap_eq_nil_iff.mpr fun i hi => Target.waits_eq_nil_iff.mpr (hw i hi)
  have hframe : ((lanesOf m).findSome? fun i => (s.targetOf (target i)).frame?) = none :=
    List.findSome?_eq_none_iff.mpr fun i hi => Target.frame?_eq_none_iff.mpr (hf i hi)
  rw [checkTargets_eq, if_neg (not_not_intro hwait), hframe]

theorem checkTargets_of_trap {before after : List Nat} {j c : Nat} {v : DWord} (hl : lanesOf m = before ++ j :: after)
    (hb : ∀ k ∈ before, ∀ d w, s.targetOf (target k) ≠ .trap d w) (hj : s.targetOf (target j) = .trap c v) :
    checkTargets s m target ok = .trap (s.trapping m target c) c v := by
  have hfirst : ((lanesOf m).findSome? fun i => (s.targetOf (target i)).trap?) = some (c, v) := by
    rw [hl, List.findSome?_append, List.findSome?_eq_none_iff.mpr fun k hk => Target.trap?_eq_none_iff.mpr (hb k hk),
      Option.none_or, List.findSome?_cons, Target.trap?_eq_some_iff.mpr hj]
  rw [checkTargets_of_here ok hw hf, hfirst]

variable (ht : ∀ i ∈ lanesOf m, ∀ c v, s.targetOf (target i) ≠ .trap c v)
include ht

/-- Where none traps, those without a translation decide. -/
theorem checkTargets_of_no_trap : checkTargets s m target ok =
    if s.misses m target ≠ [] then .park (s.missing m target) (pageEntries 3 (s.misses m target)) else ok () := by
  rw [checkTargets_of_here ok hw hf, List.findSome?_eq_none_iff.mpr fun i hi => Target.trap?_eq_none_iff.mpr (ht i hi)]

theorem checkTargets_of_missing (hm : ∃ i ∈ lanesOf m, s.targetOf (target i) = .missing) :
    checkTargets s m target ok = .park (s.missing m target) (pageEntries 3 (s.misses m target)) := by
  obtain ⟨i, hi, hmiss⟩ := hm
  have hne : s.misses m target ≠ [] :=
    List.ne_nil_of_mem (List.mem_map.mpr ⟨i, List.mem_filter.mpr ⟨hi, beq_iff_eq.mpr hmiss⟩, rfl⟩)
  rw [checkTargets_of_no_trap ok hw hf ht, if_pos hne]

omit hw hf ht in
theorem checkTargets_of_ok (hok : ∀ i ∈ lanesOf m, s.targetOf (target i) = .ok) : checkTargets s m target ok = ok () := by
  have hmiss : s.misses m target = [] := by
    rw [State.misses, List.map_eq_nil_iff, List.filter_eq_nil_iff]
    exact fun i hi => by simp [hok i hi]
  rw [checkTargets_of_no_trap ok (fun i hi => by simp [hok i hi]) (fun i hi => by simp [hok i hi])
    fun i hi => by simp [hok i hi], if_neg (not_not_intro hmiss)]

end CheckTargets

/-! ### A branch whose target is checked once -/

/-- What it does, by the check of its target (R125). -/
def State.branchTo (s : State) (m t : DWord) (go : Lane → DWord → Lane) : Target → Res
  | .ok => .ok (s.onExec m fun _ l => go l t) m
  | .trap c v => .trap m c v
  | .missing => .park m [(t, m, 3)]
  | .noFrame k => .fault (.noSuchFrame k)
  | .wait as => .stallWith (s.askFor as)

theorem branchOnce_eq (s : State) (f : FmtB) (m : DWord) (go : Lane → DWord → Lane) :
    branchOnce s f m go = s.branchTo m (offsetTarget s f) go (s.targetOf (offsetTarget s f)) := by
  rw [branchOnce, checkTargets_eq, lanesOf_laneBit (lowest_lt m)]
  cases h : s.targetOf (offsetTarget s f) <;>
    simp [State.branchTo, State.misses, lanesOf_laneBit (lowest_lt m), h, Target.waits, Target.frame?, Target.trap?, pageEntries]

/-! ### The branches -/

section Exec
variable {f : FmtB} {s : State}

theorem exec_bra_of_mayRun (h : MayRun (.bra f) s) : exec (.bra f) s = finish s 1
    (s.branchTo (s.execLanes f.guard) (offsetTarget s f) Lane.goTo (s.targetOf (offsetTarget s f))) := by
  rw [exec_bra, execBra, run_of_mayRun h, branchOnce_eq]
  rfl

theorem exec_call_of_mayRun (h : MayRun (.call f) s) : exec (.call f) s = finish s 1
    (s.branchTo (s.execLanes f.guard) (offsetTarget s f) (goLinked s f) (s.targetOf (offsetTarget s f))) := by
  rw [exec_call, execCall, run_of_mayRun h, branchOnce_eq]
  rfl

theorem exec_brx_of_mayRun (h : MayRun (.brx f) s) :
    exec (.brx f) s = finish s 1 (branchEach s f (s.execLanes f.guard) Lane.goTo) :=
  (exec_brx f s).trans (run_of_mayRun h _)

theorem exec_ret_of_mayRun (h : MayRun (.ret f) s) :
    exec (.ret f) s = finish s 1 (branchEach s f (s.execLanes f.guard) Lane.goTo) :=
  (exec_ret f s).trans (run_of_mayRun h _)

theorem exec_callx_of_mayRun (h : MayRun (.callx f) s) :
    exec (.callx f) s = finish s 1 (branchEach s f (s.execLanes f.guard) (goLinked s f)) :=
  (exec_callx f s).trans (run_of_mayRun h _)

end Exec

/-- Settles O18: one target decides for BRA and CALL, each lane's own for BRX, RET and CALLX. -/
theorem branchesAndCalls : Obligations.BranchesAndCalls := by
  unfold Obligations.BranchesAndCalls
  intro f s m ok t own mine kept refused parks each asks waits link
  have heach : ∀ i go, (MayRun i s → exec i s = finish s 1 (branchEach s f m go)) → each i := by
    intro i go he h hk
    have hw : ∀ j ∈ lanesOf m, ∀ as, mine j ≠ .wait as := fun j hj => (hk j hj).2
    have hf : ∀ j ∈ lanesOf m, ∀ k, mine j ≠ .noFrame k := fun j hj => (hk j hj).1
    refine ⟨fun before after j c v hl hb hj => ⟨s.trapping m own c, ?trap, fun k hk => s.getLsbD_trapping m own c hk⟩,
      fun ht hm => ⟨s.missing m own, ?park, fun k hk => s.getLsbD_missing m own hk⟩⟩
    case trap => exact (he h).trans (congrArg (finish s 1) (checkTargets_of_trap _ hw hf hl hb hj))
    case park => exact (he h).trans (congrArg (finish s 1) (checkTargets_of_missing _ hw hf ht hm))
  have hwaits : ∀ i go, (MayRun i s → exec i s = finish s 1 (branchEach s f m go)) → waits i :=
    fun i go he h hw => (he h).trans (congrArg (finish s 1) (checkTargets_of_wait _ hw))
  have hgo : ∀ i go, (MayRun i s → exec i s = finish s 1 (branchEach s f m go)) → MayRun i s → (∀ j ∈ lanesOf m, ok (own j)) →
      exec i s = .next (s.pastWords (s.onExec m fun j l => go l (own j)) 1 m) :=
    fun i go he h hok => (he h).trans (congrArg (finish s 1) (checkTargets_of_ok _ hok))
  have honce : ∀ i go r, (MayRun i s → exec i s = finish s 1 (s.branchTo m t go (s.targetOf t))) → MayRun i s →
      s.checkTarget s.cb.core s.cb.asid t = r → exec i s = finish s 1 (s.branchTo m t go r) :=
    fun i go r he h ht => ht ▸ he h
  refine ⟨?bra, ?call, ?braTrap, ?callTrap, ?brx, ?ret, ?callx, ?braMissing, ?callMissing, ?brxEach, ?retEach, ?callxEach,
    ?braWait, ?callWait, ?brxWait, ?retWait, ?callxWait⟩
  case bra => exact honce _ _ _ exec_bra_of_mayRun
  case braTrap => exact fun c v => honce _ _ _ exec_bra_of_mayRun
  case braMissing => exact honce _ _ _ exec_bra_of_mayRun
  case braWait => exact fun as => honce _ _ _ exec_bra_of_mayRun
  case call => exact honce _ _ _ exec_call_of_mayRun
  case callTrap => exact fun c v => honce _ _ _ exec_call_of_mayRun
  case callMissing => exact honce _ _ _ exec_call_of_mayRun
  case callWait => exact fun as => honce _ _ _ exec_call_of_mayRun
  case brx => exact hgo _ _ exec_brx_of_mayRun
  case brxEach => exact heach _ _ exec_brx_of_mayRun
  case brxWait => exact hwaits _ _ exec_brx_of_mayRun
  case ret => exact hgo _ _ exec_ret_of_mayRun
  case retEach => exact heach _ _ exec_ret_of_mayRun
  case retWait => exact hwaits _ _ exec_ret_of_mayRun
  case callx => exact hgo _ _ exec_callx_of_mayRun
  case callxEach => exact heach _ _ exec_callx_of_mayRun
  case callxWait => exact hwaits _ _ exec_callx_of_mayRun

end Sys2Proof.Machine
end

section
/-!
SUPPORT. Accesses that R150 refuses, and WAITC (R141 to R143): how it issues, and what a lane's read of its word leaves of the lane.
-/
namespace Sys2Proof.Machine

/-! ### Accesses that may not all be made (R150) -/

theorem unlessWaits_some (s : State) {ts : List Touch} (h : ∃ t ∈ ts, t.waits = true) (go : Res) :
    unlessWaits s ts go = .stallWith (s.askTouches ts) := by
  rw [unlessWaits, if_pos (List.any_eq_true.mpr h)]

theorem judgeEarly_here (m : DWord) (k : Nat) {ts : List Touch} (h : ∀ u ∈ ts, u.allowed ∧ u.tr ≠ .missing) :
    judgeEarly m k ts = none := by
  have hmiss : (ts.filter fun t => t.tr == Tr.missing) = [] :=
    List.filter_eq_nil_iff.mpr fun u hu => by simp [(h u hu).2]
  simp [judgeEarly_allowed m k fun u hu => (h u hu).1, hmiss]

/-- A pull that waits holds the instruction up (R326). -/
theorem serveTouches_pulling (s : State) (m : DWord) (k : Nat) (go : State → List Touch → Res) {ts : List Touch}
    (hw : ∀ u ∈ ts, u.waits = false) (h : ∀ u ∈ ts, u.allowed ∧ u.tr ≠ .missing)
    (hp : ∃ u ∈ (pullTouches s ts).2, u.waits = true) :
    serveTouches s m k ts go = .stallWith ((pullTouches s ts).1.askTouches (pullTouches s ts).2) := by
  rw [serveTouches, unlessWaits_none s hw, judgeEarly_here m k h]
  exact unlessWaits_some _ hp _

/-- An instruction that serves its ranges in the executing lanes is refused as R150 says. -/
theorem refused_of_serveTouches {i : Instr} {s t : State} {words kind : Nat} {ts : List Touch} {go : State → List Touch → Res}
    (he : exec i s = finish s words (serveTouches t (s.execLanes i.guard) kind ts go)) : Refused i s t kind ts := by
  rw [Refused, he]
  refine ⟨fun hw => ?walk, fun hw hall hp => ?pull, ?early, fun hw hall hm => ?missing, ?late⟩
  case walk => rw [serveTouches, unlessWaits_some t hw]; rfl
  case pull => rw [serveTouches_pulling t _ kind go hw hall hp]; rfl
  case early =>
    rintro hw before after u rfl hb
    refine ⟨fun hu => ?_, fun hu => ?_⟩
    · rw [serveTouches_refused t _ kind go hw hb (c := cProtection) (by rw [Touch.refusal, hu])]
      rfl
    · rw [serveTouches_refused t _ kind go hw hb (c := cKernel) (by rw [Touch.refusal, hu])]
      rfl
  case missing => rw [serveTouches_missing t _ kind go hw hall hm]; rfl
  case late =>
    intro hw hall hp before after u hl
    refine ⟨fun hu hb => ?_, fun hu hlost hb => ?_⟩
    · rw [serveTouches_late t _ kind go hw hall hp (hl ▸ judgeLate_lost _ _ hu hb)]
      rfl
    · rw [serveTouches_late t _ kind go hw hall hp (hl ▸ judgeLate_poison _ _ hu (hl ▸ hlost) hb)]
      rfl

/-! ### WAITC as it issues (R141, R150) -/

/-- The address at which lane i reads its word. -/
def waitcAddr (f : FmtA) (s : State) (i : Nat) : DWord := (s.cg.lane i).vpair f.a.toNat

/-- The first lane of a mask whose address is not aligned to its word. -/
def waitcMisaligned (f : FmtA) (s : State) (m : DWord) : Option Nat :=
  (lanesOf m).find? fun i => (waitcAddr f s i).toNat % (tyWidth f.ty / 8) ≠ 0

/-- The words of the lanes of a mask, looked up. -/
def waitcTouches (f : FmtA) (s : State) (m : DWord) : List Touch :=
  (lanesOf m).map fun i => s.touch needR i (waitcAddr f s i) (tyWidth f.ty / 8)

/-- Every lane whose word is looked up reads it, in t. -/
def waitcReads (f : FmtA) (s t : State) (ts : List Touch) : State :=
  ts.foldl (fun (a : State) u =>
    (a.dropMonitor (.lane s.cur.blk s.cur.grp u.lane)).tryWait s.cur.blk s.cur.grp u.lane
      (watchOf f s.cg (s.cg.lane u.lane) u.va t.nextId s.partner) u.place.1 u.place.2) t.bumpId

theorem execWaitc_eq (f : FmtA) (s : State) : execWaitc f s = run (.waitc f) s fun m =>
    match waitcMisaligned f s m with
    | some i => .trap m cMisaligned (waitcAddr f s i)
    | none => serveTouches s m 0 (waitcTouches f s m) fun t ts => .ok (waitcReads f s t ts) m := rfl

section Waitc
variable {f : FmtA} {s : State} (h : MayRun (.waitc f) s)
include h

theorem exec_waitc_of_misaligned {i : Nat} (hi : waitcMisaligned f s (s.execLanes f.guard) = some i) :
    exec (.waitc f) s = .next (s.trappedAt (s.execLanes f.guard) cMisaligned (waitcAddr f s i)) := by
  rw [exec_waitc, execWaitc_eq]
  exact run_trapped h (hb := by rw [hi])

variable (ha : ∀ i ∈ lanesOf (s.execLanes f.guard), (waitcAddr f s i).toNat % (tyWidth f.ty / 8) = 0)
include ha

theorem exec_waitc_of_aligned : exec (.waitc f) s = finish s 1 (serveTouches s (s.execLanes f.guard) 0
    (waitcTouches f s (s.execLanes f.guard)) fun t ts => .ok (waitcReads f s t ts) (s.execLanes f.guard)) := by
  have hnone : waitcMisaligned f s (s.execLanes f.guard) = none := List.find?_eq_none.mpr fun i hi => by simp [ha i hi]
  rw [exec_waitc, execWaitc_eq, run_of_mayRun h, guard_waitc, hnone]
  rfl

theorem exec_waitc_of_reaches (ht : ∀ u ∈ waitcTouches f s (s.execLanes f.guard), u.reaches) :
    exec (.waitc f) s = .next (
      let noted := s.noteTouches (waitcTouches f s (s.execLanes f.guard))
      s.pastWords (waitcReads f s noted.1 noted.2) 1 (s.execLanes f.guard)) := by
  rw [exec_waitc_of_aligned h ha, serveTouches_of_reaches s _ 0 ht, finish_ok]

theorem refused_waitc : Refused (.waitc f) s s 0 (waitcTouches f s (s.execLanes f.guard)) :=
  refused_of_serveTouches (exec_waitc_of_aligned h ha)

end Waitc

/-! ### A lane's read of its word (R142, R143) -/

theorem getLsbD_laneBit_self {i : Nat} (hi : i < 64) : (laneBit i).getLsbD i = true := by
  rw [laneBit, ← BitVec.twoPow_eq, BitVec.getLsbD_twoPow]
  simp [hi]

@[simp] theorem State.countHold_blocks (s : State) (core : Nat) (loc : Loc) (seen : List Nat) :
    (s.countHold core loc seen).1.blocks = s.blocks := by
  rw [State.countHold]
  split
  · split <;> rfl
  · rfl

@[simp] theorem State.grantMonitor_blocks (s : State) (core : Nat) (loc : Loc) (w : Watcher) :
    (s.grantMonitor core loc w).blocks = s.blocks := by
  rw [State.grantMonitor]
  split <;> rfl

@[simp] theorem State.grantMonitor_counters (s : State) (core : Nat) (loc : Loc) (w : Watcher) :
    (s.grantMonitor core loc w).counters = s.counters := by
  rw [State.grantMonitor]
  split <;> rfl

/-- A lane below 64 is the one that its mask names (R26). -/
theorem State.lane_onLanes_laneBit {s t : State} {b g i : Nat} (ht : t.blocks = s.blocks)
    (hb : (s.blocks.get? b).isSome = true) (hi : i < (s.group b g).lanes.length) (h64 : i < 64) (f : Nat → Lane → Lane) :
    (t.onLanes b g (laneBit i) f).lane b g i = f i (s.lane b g i) := by
  rw [State.lane_onLanes_same t b g _ f i (ht ▸ hb) (State.group_congr ht b g ▸ hi), getLsbD_laneBit_self h64, if_pos rfl,
    State.lane, State.lane, State.group_congr ht]

theorem State.wait_waitOn {s t : State} {b g i : Nat} (ht : t.blocks = s.blocks) (hb : (s.blocks.get? b).isSome = true)
    (hi : i < (s.group b g).lanes.length) (h64 : i < 64) (w : Watch) : ((t.waitOn b g i w).lane b g i).wait = .waitc w :=
  congrArg Lane.wait (State.lane_onLanes_laneBit ht hb hi h64 _)

/-- What the slice answers to a lane's read of the word it watches, after the state that this leaves. -/
def State.waitSees (s : State) (b : Nat) (w : Watch) (swm : Bool) : State × Option DWord :=
  s.readAtSlice (s.block b).core (s.block b).asid w.loc swm (w.readAt.isSome && !w.asked) w.width

/-- The value that the read finds where the slice holds v, for the places it may take. -/
def State.waitFinds (s : State) (w : Watch) (swm : Bool) (v : DWord) (ps : List Nat) : DWord :=
  s.waitValue w w.loc swm v (s.waitPlace w w.loc swm v ps)

/-- The watch of a lane of core c whose condition its read did not meet. -/
def State.rewatch (s : State) (c : Nat) (w : Watch) (swm : Bool) : Watch :=
  { w with readAt := some (s.clock c), asked := false, again := s.behindHome (dieOf c) w.loc swm }

/-- The state of a lane whose read finds x: its WAITC completes. -/
def State.waitDone (s r : State) (b g i : Nat) (w : Watch) (swm : Bool) (v : DWord) (ps : List Nat) : State :=
  ((r.took s.traceLen ((s.waitRead b g i w w.loc swm).ev w.after) (r.waitPlace w w.loc swm v ps)).dropMonitor
    (.lane b g i)).onLanes b g (laneBit i) fun _ l => l.completeWait w (r.waitFinds w swm v ps)

/-- The state of one whose read does not meet the condition: it waits on, under a monitor if one is free. -/
def State.waitFailed (s r : State) (b g i : Nat) (w : Watch) (swm : Bool) : State :=
  let c := (s.block b).core
  let t := (r.grantMonitor c w.loc (.lane b g i)).waitOn b g i (r.rewatch c w swm)
  if w.readAt.isSome then t.count (dieOf c) 10 else t

/-- The state of one whose word is on its way. -/
def State.waitAsked (s r : State) (b g i : Nat) (w : Watch) : State :=
  let h := r.countHold (s.block b).core w.loc w.counted
  h.1.waitOn b g i { w with asked := true, counted := h.2 }

theorem State.tryWait_eq (s : State) (b g i : Nat) (w : Watch) (swm : Bool) : s.tryWait b g i w w.loc swm =
    match s.waitTurn b g i w w.loc swm with
    | .wait => s.waitOn b g i w
    | .now ps =>
      let r := s.waitSees b w swm
      match r.2 with
      | some v => if w.met (r.1.waitFinds w swm v ps) then s.waitDone r.1 b g i w swm v ps else s.waitFailed r.1 b g i w swm
      | none => s.waitAsked r.1 b g i w := rfl

section TryWait
variable {s : State} {b g i : Nat} {w : Watch} {swm : Bool}

/-- A lane whose earlier accesses hold its read back waits. -/
theorem State.wait_tryWait_of_held (hb : (s.blocks.get? b).isSome = true) (hi : i < (s.group b g).lanes.length) (h64 : i < 64)
    (ht : s.waitTurn b g i w w.loc swm = .wait) : ((s.tryWait b g i w w.loc swm).lane b g i).wait = .waitc w := by
  rw [State.tryWait_eq, ht]
  exact State.wait_waitOn rfl hb hi h64 w

variable {ps : List Nat} (ht : s.waitTurn b g i w w.loc swm = .now ps)
  (hb : ((s.waitSees b w swm).1.blocks.get? b).isSome = true)
  (hi : i < ((s.waitSees b w swm).1.group b g).lanes.length) (h64 : i < 64)
include ht hb hi h64

/-- One whose word the slice does not hold waits, having asked for it. -/
theorem State.wait_tryWait_of_absent (hr : (s.waitSees b w swm).2 = none) :
    ((s.tryWait b g i w w.loc swm).lane b g i).wait = .waitc { w with
      asked := true, counted := ((s.waitSees b w swm).1.countHold (s.block b).core w.loc w.counted).2 } := by
  rw [State.tryWait_eq, ht]
  simp only [hr]
  exact State.wait_waitOn (State.countHold_blocks ..) hb hi h64 _

variable {v : DWord} (hr : (s.waitSees b w swm).2 = some v)
include hr

/-- One whose read meets its condition completes with the value. -/
theorem State.lane_tryWait_of_met (hm : w.met ((s.waitSees b w swm).1.waitFinds w swm v ps) = true) :
    (s.tryWait b g i w w.loc swm).lane b g i =
      ((s.waitSees b w swm).1.lane b g i).completeWait w ((s.waitSees b w swm).1.waitFinds w swm v ps) := by
  rw [State.tryWait_eq, ht]
  simp only [hr, hm, if_true]
  exact State.lane_onLanes_laneBit rfl hb hi h64 _

/-- One whose read does not waits on, notes when it read, and counts where it had read before. -/
theorem State.tryWait_of_unmet (hm : w.met ((s.waitSees b w swm).1.waitFinds w swm v ps) = false) :
    ((s.tryWait b g i w w.loc swm).lane b g i).wait = .waitc ((s.waitSees b w swm).1.rewatch (s.block b).core w swm) ∧
    (s.tryWait b g i w w.loc swm).counters = if w.readAt.isSome then
      ((s.waitSees b w swm).1.count (dieOf (s.block b).core) 10).counters else (s.waitSees b w swm).1.counters := by
  have hblocks := State.grantMonitor_blocks (s.waitSees b w swm).1 (s.block b).core w.loc (.lane b g i)
  have hcounters := State.grantMonitor_counters (s.waitSees b w swm).1 (s.block b).core w.loc (.lane b g i)
  rw [State.tryWait_eq, ht]
  simp only [hr, hm, Bool.false_eq_true, if_false]
  rw [State.waitFailed]
  by_cases hread : w.readAt.isSome = true
  · simp only [hread, if_true]
    refine ⟨State.wait_waitOn hblocks hb hi h64 _, ?_⟩
    simp [State.count, State.waitOn]
  · simp only [hread]
    exact ⟨State.wait_waitOn hblocks hb hi h64 _, hcounters⟩

end TryWait

/-! ### A group that is too large -/

/-- A state whose only block has a group of 65 lanes, one more than a mask of lanes can name (R26). -/
def crowded : State :=
  { State.reset with
    blocks := [(0, { Block.init with groups := [(0, { Group.init with lanes := List.replicate 65 Lane.init })] })] }

/-- The watch of its last lane on a word of its block's local store. -/
def crowdedWatch : Watch :=
  { va := 0#64, loc := .ls 0 0, width := 4, signed := false, cc := 0, cmp := 0#64, acq := false, sys := false, dest := 0
    readAt := none, asked := false, again := false, id := 1, after := none, counted := [] }

/-- The read of that lane is in its turn, and the local store is not there: the lane should wait, having asked for its word. -/
theorem crowded_waitTurn : crowded.waitTurn 0 0 64 crowdedWatch (.ls 0 0) false = .now [0] := by decide +kernel

theorem crowded_readAtSlice : crowded.readAtSlice 0 0 (.ls 0 0) false false 4 = (crowded, none) := rfl

/-- The mask of that lane is empty, and the lane goes on running. -/
theorem crowded_tryWait : ((crowded.tryWait 0 0 64 crowdedWatch (.ls 0 0) false).lane 0 0 64).wait = .running := by
  decide +kernel

/-- Refutes O21: a mask names no lane from 64 on, so in a group of more lanes such a lane does not come to wait. For the lanes
of R26 the statement holds: `exec_waitc_of_reaches`, `exec_waitc_of_misaligned` and `refused_waitc` are its clauses about the issue,
and `wait_tryWait_of_held`, `lane_tryWait_of_met`, `tryWait_of_unmet` and `wait_tryWait_of_absent` those about a lane's read. -/
theorem not_waitcInstruction : ¬ Obligations.WaitcInstruction := by
  unfold Obligations.WaitcInstruction
  rintro ⟨-, hread⟩
  have hlane := hread crowded 0 0 64 crowdedWatch (.ls 0 0) false rfl (by decide) rfl (by decide)
  have hwait := (hlane.2 [0] crowded_waitTurn).2 (congrArg Prod.snd crowded_readAtSlice)
  exact Wait.noConfusion (crowded_tryWait.symm.trans hwait)

end Sys2Proof.Machine
end

section
/-!
SUPPORT. Loads, stores and atomic operations as they issue (R145 to R158): an access of every executing lane at a generic address, and
one at the block's own local store.
-/
namespace Sys2Proof.Machine

/-! ### Accesses at generic addresses (R147, R150) -/

section Generic
variable {i : Instr} {f : FmtM} {s : State} {need : Need} {fk : Nat} {addr : Nat → DWord} {kind : OpKind} {dest : Nat}
  {acq rel last far : Bool} {data : Lane → BitVec 128 × DWord} (h : MayRun i s)
  (he : exec i s = run i s fun m => memGeneric s m f need fk addr kind dest acq rel last data far)
  (hg : i.guard = f.guard := by rfl) (hw : wordsOf i = 1 := by rfl)
include h he hg

/-- A misaligned address traps, the lowest such lane's (R147). -/
theorem exec_generic_of_misaligned {j : Nat}
    (hj : (lanesOf (s.execLanes f.guard)).find? (fun j => (addr j).toNat % accBytes f ≠ 0) = some j) :
    exec i s = .next (s.trappedAt (s.execLanes f.guard) cMisaligned (addr j)) := by
  rw [he]
  refine run_next_of_trap h ?_
  rw [hg, memGeneric, hj]

include hw

/-- Aligned ones are checked by R150, and leave the operation outstanding. -/
theorem exec_generic_of_aligned (ha : s.aligned f addr) :
    exec i s = finish s 1 (serveTouches s (s.execLanes f.guard) fk (s.touches f need addr) fun t ts =>
      .ok (t.openOp (s.execLanes f.guard) f kind dest far true acq rel last
        (ts.map fun u => u.acc (data (s.cg.lane u.lane)).1 (data (s.cg.lane u.lane)).2)) 0#64) := by
  have hnone : (lanesOf (s.execLanes f.guard)).find? (fun j => (addr j).toNat % accBytes f ≠ 0) = none :=
    List.find?_eq_none.mpr fun j hj => by simp [ha j hj]
  rw [he, run_of_mayRun h, hg, hw, memGeneric, hnone]
  rfl

/-- Where every lane's address leads somewhere they do (R151). -/
theorem exec_generic_of_reaches (ha : s.aligned f addr) (ht : ∀ t ∈ s.touches f need addr, t.reaches) :
    exec i s = .next (s.afterAccess f (s.touches f need addr) kind dest acq rel last far data) := by
  rw [exec_generic_of_aligned h he hg hw ha, serveTouches_of_reaches s _ fk ht, finish_ok]
  rfl

/-- Where one does not, the instruction is refused as R147 and R150 say. -/
theorem accessRefused_generic : AccessRefused i f s need fk addr := by
  refine ⟨fun j hj => ?_, fun ha => refused_of_serveTouches ((exec_generic_of_aligned h he hg hw ha).trans (by rw [hg]))⟩
  rw [hg] at hj ⊢
  exact exec_generic_of_misaligned h he hg hj

end Generic

/-- Settles O23: all six are accesses at generic addresses. -/
theorem accessTraps : Obligations.AccessTraps := by
  unfold Obligations.AccessTraps
  intro f s off run_ at_
  refine ⟨fun sx h => ?ld, fun h => ?st, fun h => ?ldv, fun h => ?stv, fun far op h => ?atom, fun far op h => ?red⟩
  case ld => exact accessRefused_generic h (exec_ld sx f s)
  case st => exact accessRefused_generic h (exec_st f s)
  case ldv => exact accessRefused_generic h (exec_ldv f s)
  case stv => exact accessRefused_generic h (exec_stv f s)
  case atom => exact accessRefused_generic h (exec_atom far op f s)
  case red => exact accessRefused_generic h (exec_red far op f s)

/-- Settles O22: all six are accesses at generic addresses. -/
theorem loadsStoresAtomicsIssue : Obligations.LoadsStoresAtomicsIssue := by
  unfold Obligations.LoadsStoresAtomicsIssue
  intro f s off run_ at_ acq rel data
  refine ⟨fun sx h => ?ld, fun h => ?st, fun h => ?ldv, fun h => ?stv, fun far op h => ?atom, fun far op h => ?red⟩
  case ld => exact exec_generic_of_reaches h (exec_ld sx f s)
  case st => exact exec_generic_of_reaches h (exec_st f s)
  case ldv => exact exec_generic_of_reaches h (exec_ldv f s)
  case stv => exact exec_generic_of_reaches h (exec_stv f s)
  case atom => exact exec_generic_of_reaches h (exec_atom far op f s)
  case red => exact exec_generic_of_reaches h (exec_red far op f s)

/-! ### Accesses of the block's local store (R147, R155) -/

/-- The offset that lane i reaches. -/
def localOff (f : FmtM) (s : State) (i : Nat) : Nat := (addrLocal f (s.cg.lane i)).toNat

/-- The first lane of a mask whose offset is not aligned. -/
def localMisaligned (f : FmtM) (s : State) (m : DWord) : Option Nat :=
  (lanesOf m).find? fun i => localOff f s i % accBytes f ≠ 0

/-- The first lane of a mask whose access passes the end of the block's local store. -/
def localOutside (f : FmtM) (s : State) (m : DWord) : Option Nat :=
  (lanesOf m).find? fun i => s.cb.lstore < localOff f s i + accBytes f

/-- The accesses of the lanes of a mask to the block's local store. -/
def localAccs (f : FmtM) (s : State) (m : DWord) (data : Lane → BitVec 128 × DWord) : List Acc :=
  (lanesOf m).map fun i =>
    { lane := i, va := BitVec.ofNat 64 (localOff f s i), loc := .ls s.cur.blk (localOff f s i), leaf := 0#7, fresh := false
      val := (data (s.cg.lane i)).1, val2 := (data (s.cg.lane i)).2, done := false, counted := [] }

theorem memLocal_eq (s : State) (m : DWord) (f : FmtM) (kind : OpKind) (dest : Nat) (acq rel : Bool)
    (data : Lane → BitVec 128 × DWord) : memLocal s m f kind dest acq rel data =
      match localMisaligned f s m with
      | some i => .trap m cMisaligned (BitVec.ofNat 64 (localOff f s i))
      | none =>
        match localOutside f s m with
        | some i => .trap m cProtection (BitVec.ofNat 64 (localOff f s i))
        | none => .ok (s.openOp m f kind dest false true acq rel false (localAccs f s m data)) 0#64 := rfl

theorem localMisaligned_eq_none {f : FmtM} {s : State} {m : DWord} (h : ∀ i ∈ lanesOf m, localOff f s i % accBytes f = 0) :
    localMisaligned f s m = none :=
  List.find?_eq_none.mpr fun i hi => by simp [h i hi]

theorem localOutside_eq_none {f : FmtM} {s : State} {m : DWord}
    (h : ∀ i ∈ lanesOf m, localOff f s i + accBytes f ≤ s.cb.lstore) : localOutside f s m = none :=
  List.find?_eq_none.mpr fun i hi => by simp [h i hi]

section Local
variable {i : Instr} {f : FmtM} {s : State} {kind : OpKind} {dest : Nat} {acq rel : Bool} {data : Lane → BitVec 128 × DWord}
  (h : MayRun i s) (he : exec i s = run i s fun m => memLocal s m f kind dest acq rel data)
  (hg : i.guard = f.guard := by rfl) (hw : wordsOf i = 1 := by rfl)
include h he hg

theorem exec_local_of_misaligned {j : Nat} (hj : localMisaligned f s (s.execLanes f.guard) = some j) :
    exec i s = .next (s.trappedAt (s.execLanes f.guard) cMisaligned (BitVec.ofNat 64 (localOff f s j))) :=
  he.trans (run_next_of_trap h (by rw [hg, memLocal_eq, hj]))

variable (ha : ∀ j ∈ lanesOf (s.execLanes f.guard), localOff f s j % accBytes f = 0)
include ha

theorem exec_local_of_outside {j : Nat} (hj : localOutside f s (s.execLanes f.guard) = some j) :
    exec i s = .next (s.trappedAt (s.execLanes f.guard) cProtection (BitVec.ofNat 64 (localOff f s j))) :=
  he.trans (run_next_of_trap h (by rw [hg, memLocal_eq, localMisaligned_eq_none ha, hj]))

include hw

theorem exec_local_of_inside (hin : ∀ j ∈ lanesOf (s.execLanes f.guard), localOff f s j + accBytes f ≤ s.cb.lstore) :
    exec i s = .next (s.pastWords (s.openOp (s.execLanes f.guard) f kind dest false true acq rel false
      (localAccs f s (s.execLanes f.guard) data)) 1 0#64) := by
  rw [he, ← hw]
  refine run_next_of_ok h ?_
  rw [hg, memLocal_eq, localMisaligned_eq_none ha, localOutside_eq_none hin]

end Local

theorem exec_sld_eq (sx : Bool) (f : FmtM) (s : State) : exec (.sld sx f) s = run (.sld sx f) s fun m =>
    memLocal s m f (.load sx) f.d.toNat (ordAcq f) false noData := rfl

theorem exec_sst_eq (f : FmtM) (s : State) : exec (.sst f) s = run (.sst f) s fun m =>
    memLocal s m f .store 0 false (ordRel f) (dataD f) := rfl

/-- Settles O24: both are accesses of the block's local store. -/
theorem localStoreIssue : Obligations.LocalStoreIssue := by
  unfold Obligations.LocalStoreIssue
  intro f s m n off accs good
  have aligned (hin : good) : ∀ j ∈ lanesOf m, localOff f s j % n = 0 := fun j hj => (hin j hj).1
  have inside (hin : good) : ∀ j ∈ lanesOf m, localOff f s j + n ≤ s.cb.lstore := fun j hj => (hin j hj).2
  have hload : accs (fun _ => 0#128) = localAccs f s m noData := rfl
  have hstore : accs (fun l => l.data f.d.toNat f.wid.toNat) = localAccs f s m (dataD f) := rfl
  rw [hload, hstore]
  refine ⟨fun sx h hin => ?load, fun h hin => ?store, fun sx i h hi => ?loadMisaligned, fun sx i h ha hi => ?loadOutside,
    fun i h hi => ?storeMisaligned, fun i h ha hi => ?storeOutside⟩
  case load => exact exec_local_of_inside h (exec_sld_eq sx f s) rfl rfl (aligned hin) (inside hin)
  case store => exact exec_local_of_inside h (exec_sst_eq f s) rfl rfl (aligned hin) (inside hin)
  case loadMisaligned => exact exec_local_of_misaligned h (exec_sld_eq sx f s) rfl hi
  case loadOutside => exact exec_local_of_outside h (exec_sld_eq sx f s) rfl ha hi
  case storeMisaligned => exact exec_local_of_misaligned h (exec_sst_eq f s) rfl hi
  case storeOutside => exact exec_local_of_outside h (exec_sst_eq f s) rfl ha hi

end Sys2Proof.Machine
end

section
/-!
SUPPORT. What serving an access leaves alone (R216 to R224, R244, R303, R320) while no cache holds a copy of a software-managed sector:
the caches, the slices and the mesh change, and no byte of memory, no block and no operation.
-/
namespace Sys2Proof.Machine

/-- t is s but for what the caches, the slices and the mesh hold and ask for, the domains that contexts have touched, and counts. -/
def State.CachesOnly (s t : State) : Prop :=
  t = { s with
    nextId := t.nextId, monitors := t.monitors, clusters := t.clusters, ctxs := t.ctxs, mesh := t.mesh, caches := t.caches
    counters := t.counters }

namespace State.CachesOnly

theorem refl (s : State) : s.CachesOnly s := rfl

theorem trans {s t u : State} (h : s.CachesOnly t) (h' : t.CachesOnly u) : s.CachesOnly u := by
  rw [State.CachesOnly] at *
  rw [h', h]

theorem ite {s t u : State} {p : Prop} [Decidable p] (h : p → s.CachesOnly t) (h' : ¬ p → s.CachesOnly u) :
    s.CachesOnly (if p then t else u) := by
  split
  · next hp => exact h hp
  · next hp => exact h' hp

/-! ### What is kept -/

section Kept
variable {s t : State} (h : s.CachesOnly t)
include h

theorem mem : t.mem = s.mem := by rw [h]
theorem dead : t.dead = s.dead := by rw [h]
theorem deadId : t.deadId = s.deadId := by rw [h]
theorem poison : t.poison = s.poison := by rw [h]
theorem hub : t.hub = s.hub := by rw [h]
theorem blocks : t.blocks = s.blocks := by rw [h]
theorem ops : t.ops = s.ops := by rw [h]
theorem swm : t.swm = s.swm := by rw [h]
theorem trace : t.trace = s.trace := by rw [h]

end Kept

/-- Serving many things while no cache holds a software-managed sector. -/
theorem foldl {α : Type} {f : State → α → State} (h : ∀ (u : State) a, u.swm = [] → u.CachesOnly (f u a)) (as : List α)
    {s : State} (hs : s.swm = []) : s.CachesOnly (as.foldl f s) := by
  induction as generalizing s with
  | nil => exact refl s
  | cons a as ih => exact (h s a hs).trans (ih ((h s a hs).swm.trans hs))

end State.CachesOnly

namespace State

/-! ### Single updates -/

theorem cachesOnly_setMesh (s : State) (m : Mesh) : s.CachesOnly { s with mesh := m } := rfl
theorem cachesOnly_setCache (s : State) (k : Nat) (c : Cache) : s.CachesOnly (s.setCache k c) := rfl
theorem cachesOnly_setCluster (s : State) (k : Nat) (c : Cluster) : s.CachesOnly (s.setCluster k c) := rfl
theorem cachesOnly_count (s : State) (die ev n : Nat) : s.CachesOnly (s.count die ev n) := rfl
theorem cachesOnly_reach (s : State) (sector : Nat) : s.CachesOnly (s.reach sector) := rfl
theorem cachesOnly_setSect (s : State) (die sector st : Nat) : s.CachesOnly (s.setSect die sector st) := rfl
theorem cachesOnly_dropL1Sector (s : State) (die sector : Nat) : s.CachesOnly (s.dropL1Sector die sector) := rfl
theorem cachesOnly_send (s : State) (m : Msg) : s.CachesOnly (s.send m) := rfl
theorem cachesOnly_addReq (s : State) (r : Req) : s.CachesOnly (s.addReq r) := rfl
theorem cachesOnly_touchDomains (s : State) (asid : Nat) (ds : List Nat) : s.CachesOnly (s.touchDomains asid ds) := rfl

/-! ### Requests (R245, R252) -/

theorem cachesOnly_sendReq (s : State) (id : Nat) (r : Req) : s.CachesOnly (s.sendReq id r) :=
  .ite (fun _ => (cachesOnly_send s _).trans (.ite (fun _ => .refl _) fun _ => cachesOnly_setMesh _ _)) fun _ =>
    cachesOnly_send s _

theorem cachesOnly_startReq (s : State) (r : Req) : s.CachesOnly (s.startReq r) :=
  .ite (fun _ => .refl s) fun _ => (cachesOnly_addReq s r).trans (cachesOnly_sendReq _ _ _)

/-! ### Slices and homes (R219, R244, R254) -/

theorem cachesOnly_leaveRetention (s : State) (die line : Nat) : s.CachesOnly (s.leaveRetention die line) :=
  .ite (fun _ => (cachesOnly_setMesh s _).trans (cachesOnly_count _ _ _ _)) fun _ => .refl s

theorem cachesOnly_freeL2Way (s : State) (die line : Nat) : s.CachesOnly (s.freeL2Way die line) :=
  .ite (fun _ => .refl s) fun _ => .ite (fun _ => cachesOnly_setCache s _ _) fun _ => .refl s

theorem cachesOnly_loseSector (s : State) (die sector : Nat) : s.CachesOnly (s.loseSector die sector) :=
  (((cachesOnly_dropL1Sector s die sector).trans (cachesOnly_setSect _ die sector 0)).trans
    (cachesOnly_freeL2Way _ die _)).trans (cachesOnly_reach _ _)

theorem cachesOnly_keepHome (s : State) (key n : Nat) : s.CachesOnly (s.keepHome key n) :=
  .ite (fun _ => .refl s) fun _ => cachesOnly_setMesh s _

theorem cachesOnly_countServe (s : State) (die : Nat) (d : CDone) : s.CachesOnly (s.countServe die d) :=
  have h : s.CachesOnly (if d.ownerLost then s.count die 7 else s) := .ite (fun _ => cachesOnly_count s _ _ _) fun _ => .refl s
  .ite (fun _ => h.trans (cachesOnly_count _ _ _ _)) fun _ => h

theorem cachesOnly_touchMsc (s : State) (md line cls : Nat) (clock : Word) (owner ctx : Nat) :
    s.CachesOnly (s.touchMsc md line cls clock owner ctx) :=
  .ite (fun _ => (cachesOnly_setCache s _ _).trans (cachesOnly_countServe _ _ _)) fun _ =>
    (cachesOnly_setCache s _ _).trans (cachesOnly_countServe _ _ _)

theorem cachesOnly_homeReads (s : State) (line asid : Nat) (w : Want) : s.CachesOnly (s.homeReads line asid w) :=
  .ite (fun _ => cachesOnly_touchMsc s _ _ _ _ _ _) fun _ => .refl s

theorem cachesOnly_refitMsc (s : State) (md line fuel : Nat) : s.CachesOnly (s.refitMsc md line fuel) := by
  induction fuel generalizing s with
  | zero => exact .refl s
  | succ fuel ih =>
    simp only [refitMsc]
    split
    · exact .refl s
    · refine .ite (fun _ => .refl s) fun _ => ?_
      split
      · exact ((cachesOnly_setCache s _ _).trans (cachesOnly_count _ _ _ _)).trans (ih _)
      · exact .refl s

theorem cachesOnly_homeWritten (s : State) (sector : Nat) : s.CachesOnly (s.homeWritten sector) :=
  .trans (.ite (fun _ => .refl s) fun _ => cachesOnly_setMesh s _)
    (.ite (fun _ => (cachesOnly_setCache _ _ _).trans (cachesOnly_refitMsc _ _ _ _)) fun _ => .refl _)

/-! ### Lines that go for others (R218, R222, R320) -/

section NoCopies
variable {s : State} (hs : s.swm = [])
include hs

theorem copyOf_of_nil (cache sector : Nat) : s.copyOf cache sector = none := by
  rw [copyOf, hs]
  rfl

theorem evictL1Copy_of_nil (core sector : Nat) : s.evictL1Copy core sector = s := by
  rw [evictL1Copy, copyOf_of_nil hs]

theorem evictL2Copy_of_nil (die sector : Nat) : s.evictL2Copy die sector = s := by
  rw [evictL2Copy, hs]
  simp only [List.filter_nil, List.map_nil, List.foldl_nil, copyOf_of_nil hs]

theorem loseL1Line_of_nil (core : Nat) (l : CLine) : s.loseL1Line core l = s := by
  have h : ∀ ks : List Nat, ks.foldl (fun t i => t.evictL1Copy core (4 * l.frame + i)) s = s := fun ks => by
    induction ks with
    | nil => rfl
    | cons k ks ih => rw [List.foldl_cons, evictL1Copy_of_nil hs, ih]
  exact h _

theorem cachesOnly_evictL2Line (die line : Nat) : s.CachesOnly (s.evictL2Line die line) := by
  have hlost : s.CachesOnly ((List.range 4).foldl (fun t i =>
      (if t.sectState die (4 * line + i) != 0 then t.loseSector die (4 * line + i) else t).evictL2Copy die (4 * line + i)) s) := by
    refine .foldl (fun u i hu => ?_) _ hs
    have h : u.CachesOnly (if u.sectState die (4 * line + i) != 0 then u.loseSector die (4 * line + i) else u) :=
      .ite (fun _ => cachesOnly_loseSector u _ _) fun _ => .refl u
    rw [evictL2Copy_of_nil (h.swm.trans hu)]
    exact h
  exact .ite (fun _ => hlost) fun _ => (hlost.trans (cachesOnly_leaveRetention _ _ _)).trans (cachesOnly_send _ _)

theorem cachesOnly_touchL2 (die core asid key cls : Nat) (clock : Word) (owner : Nat) (toL1 : Bool) :
    s.CachesOnly (s.touchL2 die core asid key cls clock owner toL1) :=
  .trans (.trans (.foldl (fun _ l hu => cachesOnly_evictL2Line hu die l.frame) _ hs) (cachesOnly_setCache _ _ _))
    (cachesOnly_countServe _ _ _)

theorem cachesOnly_loseL1Lines (core : Nat) (ls : List CLine) : s.CachesOnly (ls.foldl (fun t l => t.loseL1Line core l) s) :=
  .foldl (fun u l hu => by rw [loseL1Line_of_nil hu]; exact .refl u) ls hs

theorem cachesOnly_dropAlias (cl pline : Nat) (keep : CLine → Bool) : s.CachesOnly (s.dropAlias cl pline keep) :=
  .foldl (fun u _ hu => .ite (fun _ => (cachesOnly_loseL1Lines hu _ _).trans (cachesOnly_setCache _ _ _)) fun _ => .refl u) _ hs

theorem cachesOnly_aliasL1 (core asid vline pline : Nat) : s.CachesOnly (s.aliasL1 core asid vline pline) := by
  unfold aliasL1
  extract_lets cl s1 held _ full s2
  have h1 : s.CachesOnly s1 := cachesOnly_dropAlias hs _ _ _
  have h2 : s.CachesOnly s2 := by
    refine .ite (fun _ => ?_) fun _ => h1
    split
    · exact h1.trans (cachesOnly_dropAlias (h1.swm.trans hs) _ _ _)
    · exact h1
  split
  · exact h1.trans (cachesOnly_setCluster _ _ _)
  · exact h2.trans (cachesOnly_setCluster _ _ _)

theorem cachesOnly_touchL1 (core asid va key cls : Nat) (clock : Word) (owner : Nat) (alloc refill : Bool) (leaf : LeafBits) :
    s.CachesOnly (s.touchL1 core asid va key cls clock owner alloc refill leaf) := by
  unfold touchL1
  extract_lets line s0 d mark _ s1
  have h0 : s.CachesOnly s0 := .ite (fun _ => cachesOnly_aliasL1 hs _ _ _ _) fun _ => .refl s
  have h1 : s.CachesOnly s1 := (h0.trans (cachesOnly_setCache _ _ _)).trans (cachesOnly_countServe _ _ _)
  split
  · exact .refl s
  · exact h1.trans (cachesOnly_loseL1Lines (h1.swm.trans hs) _ _)

end NoCopies

/-! ### One access -/

section Access
variable {s : State} (o : Op) {a : Acc} (ha : a.swm = false)
include ha

/-- What it needs of its die's slice (R244), or of its home (R160, R257). -/
theorem cachesOnly_prepareMem {key : Nat} (hk : atHome o a = true → keyTier key ≠ 3 ∧ s.hub.spans.get? (key / 4096) = none) :
    s.CachesOnly (s.prepareMem o a key).1 := by
  unfold prepareMem
  extract_lets sector die t
  have ht : s.CachesOnly t := .ite (fun _ => .refl s) fun _ => cachesOnly_touchDomains s _ _
  by_cases hh : atHome o a = true
  · obtain ⟨h3, hspan⟩ := hk hh
    have hspanFor : t.spanFor key true = t := by
      rw [spanFor]
      simp only [h3, if_false, ht.hub, hspan]
    simp only [hh, if_true, hspanFor]
    split
    · exact ht
    · split
      · exact ht.trans (cachesOnly_startReq _ _)
      · split <;> exact ht
  · simp only [hh, ha, Bool.false_eq_true, if_false]
    split
    · split
      · exact cachesOnly_setSect s _ _ _
      · exact cachesOnly_leaveRetention s _ _
      · exact cachesOnly_startReq s _
    · split
      · exact cachesOnly_startReq s _
      · exact .ite (fun _ => .refl s) fun _ => cachesOnly_leaveRetention s _ _

theorem cachesOnly_prepare
    (hk : atHome o a = true → ∀ key, a.loc = .mem key → keyTier key ≠ 3 ∧ s.hub.spans.get? (key / 4096) = none) :
    s.CachesOnly (s.prepare o a).1 := by
  unfold prepare
  split
  · split
    · exact cachesOnly_touchDomains s _ _
    · exact .refl s
  · next key hloc => exact cachesOnly_prepareMem o ha fun hh => hk hh key hloc

/-- The requests of an access (R216, R221). -/
theorem cachesOnly_touchCaches (hs : s.swm = []) : s.CachesOnly (s.touchCaches o a) := by
  unfold touchCaches
  split
  · exact .refl s
  · extract_lets die owner _ fills hit s1 s2
    have h1 : s.CachesOnly s1 := .ite (fun _ => .refl s) fun _ => cachesOnly_touchL2 hs _ _ _ _ _ _ _ _
    have h2 : s.CachesOnly s2 := h1.trans (cachesOnly_touchL1 (h1.swm.trans hs) _ _ _ _ _ _ _ _ _ _)
    refine .ite (fun _ => .ite (fun _ => (cachesOnly_homeReads s _ _ _).trans (cachesOnly_homeWritten _ _)) fun _ => .refl s)
      fun _ => ?_
    rw [ha, Bool.and_false, if_neg Bool.false_ne_true]
    exact h2

end Access

end State

end Sys2Proof.Machine
end

section
/-!
SUPPORT. What performing the accesses of an operation leaves alone (R151, R153, R155, R158): the bytes besides those that a store, an
atomic operation or LDONE covers, and the registers besides those that a load or an atomic operation delivers.
-/
namespace Sys2Proof.Machine

/-! ### Blocks, groups and lanes that are changed where they are there -/

theorem State.block_onBlock_cases (s : State) (b c : Nat) (f : Block → Block) :
    (s.onBlock b f).block c = s.block c ∨ (c = b ∧ (s.onBlock b f).block c = f (s.block c)) := by
  by_cases h : c = b
  · subst h
    by_cases hb : (s.blocks.get? c).isSome = true
    · exact .inr ⟨rfl, State.block_onBlock_same s c f hb⟩
    · rw [Option.not_isSome_iff_eq_none] at hb
      exact .inl (by simp [State.block, State.onBlock, Tbl.getD, Tbl.get?_modify, hb])
  · exact .inl (State.block_onBlock_other s f (Ne.symm h))

theorem State.group_onGroup_cases (s : State) (b g c j : Nat) (f : Group → Group) :
    (s.onGroup b g f).group c j = s.group c j ∨ (c = b ∧ j = g ∧ (s.onGroup b g f).group c j = f (s.group c j)) := by
  by_cases h : b ≠ c ∨ g ≠ j
  · exact .inl (State.group_setGroup_other s _ h)
  · simp only [ne_eq, not_or, not_not] at h
    obtain ⟨rfl, rfl⟩ := h
    by_cases hb : (s.blocks.get? b).isSome = true
    · exact .inr ⟨rfl, rfl, State.group_onGroup_same hb g f⟩
    · rw [Option.not_isSome_iff_eq_none] at hb
      refine .inl ?_
      simp [State.group, State.block, State.onGroup, State.setGroup, State.onBlock, Tbl.getD, Tbl.get?_modify, hb]

/-- A group after a change of the lanes of a mask. -/
def Group.mapLanes (k : Group) (m : DWord) (f : Nat → Lane → Lane) : Group :=
  { k with lanes := k.lanes.mapIdx fun i l => if m.getLsbD i then f i l else l }

theorem State.onLanes_eq (s : State) (b g : Nat) (m : DWord) (f : Nat → Lane → Lane) :
    s.onLanes b g m f = s.onGroup b g (·.mapLanes m f) := rfl

theorem Group.lane_mapLanes_cases (k : Group) (m : DWord) (f : Nat → Lane → Lane) (i : Nat) :
    (k.mapLanes m f).lane i = k.lane i ∨ (m.getLsbD i = true ∧ (k.mapLanes m f).lane i = f i (k.lane i)) := by
  by_cases hi : i < k.lanes.length
  · by_cases hm : m.getLsbD i = true
    · exact .inr ⟨hm, by simp [Group.lane, Group.mapLanes, hi, hm, List.getD]⟩
    · exact .inl (by simp [Group.lane, Group.mapLanes, hi, hm, List.getD])
  · exact .inl (by simp [Group.lane, Group.mapLanes, hi, List.getD])

theorem State.lane_eq (s : State) (b g i : Nat) : s.lane b g i = (s.group b g).lane i := rfl

theorem State.lane_onLanes_cases (s : State) (b g c j i : Nat) (m : DWord) (f : Nat → Lane → Lane) :
    (s.onLanes b g m f).lane c j i = s.lane c j i ∨
      (c = b ∧ j = g ∧ m.getLsbD i = true ∧ (s.onLanes b g m f).lane c j i = f i (s.lane c j i)) := by
  rw [State.onLanes_eq, State.lane_eq, State.lane_eq]
  rcases State.group_onGroup_cases s b g c j (·.mapLanes m f) with h | ⟨rfl, rfl, h⟩ <;> rw [h]
  · exact .inl rfl
  · exact (Group.lane_mapLanes_cases (s.group c j) m f i).imp_right fun h => ⟨rfl, rfl, h⟩

/-- A change of lanes leaves the uniform registers alone. -/
theorem State.uniform_onLanes (s : State) (b g c j : Nat) (m : DWord) (f : Nat → Lane → Lane) :
    ((s.onLanes b g m f).group c j).s = (s.group c j).s := by
  rw [State.onLanes_eq]
  rcases State.group_onGroup_cases s b g c j (·.mapLanes m f) with h | ⟨-, -, h⟩ <;> rw [h]
  rfl

/-- A change of a group leaves local store alone. -/
theorem State.lsByte_onGroup (s : State) (b g c e : Nat) (f : Group → Group) :
    (s.onGroup b g f).lsByte c e = s.lsByte c e := by
  rw [State.lsByte, State.lsByte, State.onGroup, State.setGroup]
  rcases State.block_onBlock_cases s b c (fun k => { k with groups := k.groups.set g (f (s.group b g)) }) with h | ⟨-, h⟩ <;>
    rw [h]
  rfl

theorem getLsbD_laneBit {j i : Nat} (h : (laneBit j).getLsbD i = true) : j = i := by
  rw [laneBit, ← BitVec.twoPow_eq, BitVec.getLsbD_twoPow, Bool.and_eq_true] at h
  exact of_decide_eq_true h.2

/-! ### Local store (R42, R155) -/

/-- Bytes written to a block's local store at consecutive offsets. -/
def Block.putLs (k : Block) (off : Nat) (bs : List Byte) : Block :=
  (bs.foldl (fun (a : Block × Nat) v => (a.1.setLs a.2 v, a.2 + 1)) (k, off)).1

theorem Block.putLs_cons (k : Block) (off : Nat) (v : Byte) (bs : List Byte) :
    k.putLs off (v :: bs) = (k.setLs off v).putLs (off + 1) bs := rfl

theorem Block.lsWritten_setLs (k : Block) (off e : Nat) (v : Byte) :
    (k.setLs off v).lsWritten e = (decide (e = off) || k.lsWritten e) := by
  have hoff : off % 64 < 64 := Nat.mod_lt _ (by decide)
  have he : e % 64 < 64 := Nat.mod_lt _ (by decide)
  rw [Block.lsWritten, Block.lsWritten, Block.setLs, Cells.get_set]
  by_cases hq : off / 64 = e / 64
  · rw [if_pos hq, BitVec.getLsbD_or, ← BitVec.twoPow_eq, BitVec.getLsbD_twoPow, hq, Bool.or_comm]
    congr 1
    rw [decide_eq_true hoff, Bool.true_and]
    exact decide_eq_decide.mpr (by omega)
  · rw [if_neg hq, decide_eq_false (by rintro rfl; exact hq rfl), Bool.false_or]

/-- What a block's local store holds at an offset, where it has been written. -/
def Block.lsAt (k : Block) (off : Nat) : Option Byte := if k.lsWritten off then some (k.ls.get off) else none

theorem State.lsByte_eq (s : State) (b off : Nat) :
    s.lsByte b off = ((s.block b).lsAt off).getD (Config.freeByte 0 (b * 2 ^ 21 + off)) := by
  rw [State.lsByte, Block.lsAt]
  split <;> rfl

theorem Block.lsAt_setLs (k : Block) (off e : Nat) (v : Byte) :
    (k.setLs off v).lsAt e = if e = off then some v else k.lsAt e := by
  rw [Block.lsAt, Block.lsWritten_setLs, Block.setLs, Block.lsAt, Cells.get_set]
  by_cases h : e = off
  · simp [h]
  · simp [h, Ne.symm h]

theorem Block.lsAt_putLs_other (k : Block) (off e : Nat) (bs : List Byte) (h : e < off ∨ off + bs.length ≤ e) :
    (k.putLs off bs).lsAt e = k.lsAt e := by
  induction bs generalizing k off with
  | nil => rfl
  | cons v bs ih =>
    rw [List.length_cons] at h
    rw [Block.putLs_cons, ih _ _ (by omega), Block.lsAt_setLs, if_neg (by omega)]

theorem Block.groups_putLs (k : Block) (off : Nat) (bs : List Byte) : (k.putLs off bs).groups = k.groups := by
  induction bs generalizing k off with
  | nil => rfl
  | cons v bs ih => rw [Block.putLs_cons, ih]; rfl

theorem State.foldl_reach_eq (sec : Nat → Nat) (is : List Nat) (s : State) :
    ∃ ms, is.foldl (fun t i => t.reach (sec i)) s = { s with monitors := ms } := by
  induction is generalizing s with
  | nil => exact ⟨s.monitors, rfl⟩
  | cons i is ih =>
    obtain ⟨ms, h⟩ := ih (s.reach (sec i))
    exact ⟨ms, h⟩

/-- A write to local store changes a block that is there, what is noted of writes, and the monitors it triggers. -/
theorem State.setLoc_ls_eq (s : State) (b off : Nat) (bs : List Byte) : ∃ ms,
    s.setLoc (.ls b off) bs = { (s.record (.ls b off) bs.length).onBlock b (·.putLs off bs) with monitors := ms } :=
  State.foldl_reach_eq (fun i => Loc.sector (.ls b (off + 64 * i))) _ _

section LocalStore
variable (s : State) (b off : Nat) (bs : List Byte)

theorem State.block_setLoc_ls (c : Nat) : (s.setLoc (.ls b off) bs).block c = (s.onBlock b (·.putLs off bs)).block c := by
  obtain ⟨ms, h⟩ := State.setLoc_ls_eq s b off bs
  rw [h]
  rfl

theorem State.mem_setLoc_ls : (s.setLoc (.ls b off) bs).mem = s.mem ∧ (s.setLoc (.ls b off) bs).dead = s.dead ∧
    (s.setLoc (.ls b off) bs).deadId = s.deadId := by
  obtain ⟨ms, h⟩ := State.setLoc_ls_eq s b off bs
  rw [h]
  exact ⟨rfl, rfl, rfl⟩

theorem State.group_setLoc_ls (c g : Nat) : (s.setLoc (.ls b off) bs).group c g = s.group c g := by
  rw [State.group, State.block_setLoc_ls, State.group]
  rcases State.block_onBlock_cases s b c (·.putLs off bs) with h | ⟨-, h⟩ <;> rw [h]
  rw [Block.groups_putLs]

theorem State.lsByte_setLoc_ls_other {c e : Nat} (h : c ≠ b ∨ e < off ∨ off + bs.length ≤ e) :
    (s.setLoc (.ls b off) bs).lsByte c e = s.lsByte c e := by
  rw [State.lsByte_eq, State.block_setLoc_ls, State.lsByte_eq]
  rcases State.block_onBlock_cases s b c (·.putLs off bs) with hc | ⟨rfl, hc⟩ <;> rw [hc]
  rw [Block.lsAt_putLs_other _ _ _ _ (h.resolve_left (not_not_intro rfl))]

end LocalStore

/-! ### What an operation leaves alone -/

/-- A read of a byte of memory rests on these parts of the state. -/
theorem State.memByte_congr {s t : State} (hm : t.mem = s.mem) (hd : t.dead = s.dead) (hi : t.deadId = s.deadId) (a : Nat) :
    t.memByte a = s.memByte a := by
  rw [State.memByte, State.memByte, State.isDead, State.isDead, hm, hd, hi]

theorem State.isDead_congr {s t : State} (hd : t.dead = s.dead) (a : Nat) : t.isDead a = s.isDead a := by
  rw [State.isDead, State.isDead, hd]

theorem State.lsByte_congr {s t : State} (h : t.blocks = s.blocks) (b off : Nat) : t.lsByte b off = s.lsByte b off := by
  rw [State.lsByte, State.lsByte, State.block_congr h]

theorem State.lane_congr {s t : State} (h : t.blocks = s.blocks) (b g i : Nat) : t.lane b g i = s.lane b g i := by
  rw [State.lane, State.lane, State.group_congr h]

/-- A lane reads in k as in l but for cnt of its registers from first on. -/
structure Lane.KeepsBut (l k : Lane) (first cnt : Nat) : Prop where
  rest : k = { l with v := k.v }
  regs : ∀ r, (r < first ∨ first + cnt ≤ r) → k.vreg r = l.vreg r

theorem Lane.KeepsBut.of_eq {l k : Lane} (h : k = l) (first cnt : Nat) : l.KeepsBut k first cnt := by
  subst h
  exact ⟨rfl, fun _ _ => rfl⟩

theorem Lane.KeepsBut.trans {l k j : Lane} {first cnt : Nat} (h : l.KeepsBut k first cnt) (h' : k.KeepsBut j first cnt) :
    l.KeepsBut j first cnt where
  rest := by rw [h'.rest, h.rest]
  regs r hr := (h'.regs r hr).trans (h.regs r hr)

/-- t is s but for n bytes that each access of an operation covers, and cnt data registers of the lanes of its accesses; of blocks only
the lanes, the uniform registers and the local store are looked at. -/
structure State.KeepsBut (s t : State) (o : Op) (n cnt : Nat) : Prop where
  mem : ∀ a, (∀ x ∈ o.accs, ¬ x.covers n a) → s.keepsByte t a
  ls : ∀ b a, (∀ x ∈ o.accs, ¬ x.coversLs n b a) → t.lsByte b a = s.lsByte b a
  uniform : ∀ b g, (t.group b g).s = (s.group b g).s
  lane : ∀ b g i, (s.lane b g i).KeepsBut (t.lane b g i) o.dest cnt
  others : ∀ b g i, (b ≠ o.blk ∨ g ≠ o.grp ∨ ∀ x ∈ o.accs, x.lane ≠ i) → t.lane b g i = s.lane b g i

namespace State.KeepsBut

theorem trans {s t u : State} {o : Op} {n cnt : Nat} (h : s.KeepsBut t o n cnt) (h' : t.KeepsBut u o n cnt) :
    s.KeepsBut u o n cnt where
  mem a ha := by
    obtain ⟨hd, hm⟩ := h.mem a ha
    obtain ⟨hd', hm'⟩ := h'.mem a ha
    exact ⟨hd'.trans hd, fun hs => (hm' (hd.trans hs)).trans (hm hs)⟩
  ls b a ha := (h'.ls b a ha).trans (h.ls b a ha)
  uniform b g := (h'.uniform b g).trans (h.uniform b g)
  lane b g i := (h.lane b g i).trans (h'.lane b g i)
  others b g i hi := (h'.others b g i hi).trans (h.others b g i hi)

/-- What changes no byte of memory and no block leaves everything alone. -/
theorem of_eq {s t : State} (o : Op) (n cnt : Nat)
    (h : t.mem = s.mem ∧ t.dead = s.dead ∧ t.deadId = s.deadId ∧ t.blocks = s.blocks := by exact ⟨rfl, rfl, rfl, rfl⟩) :
    s.KeepsBut t o n cnt := by
  obtain ⟨hm, hd, hi, hb⟩ := h
  exact {
    mem := fun a _ => ⟨isDead_congr hd a, fun _ => memByte_congr hm hd hi a⟩
    ls := fun b a _ => lsByte_congr hb b a
    uniform := fun b g => congrArg Group.s (group_congr hb b g)
    lane := fun b g i => .of_eq (lane_congr hb b g i) _ _
    others := fun b g i _ => lane_congr hb b g i }

theorem refl (s : State) (o : Op) (n cnt : Nat) : s.KeepsBut s o n cnt := .of_eq o n cnt

/-- A change of a group that leaves its lanes and uniform registers alone. -/
theorem onGroup (s : State) (b g : Nat) {f : Group → Group} (hf : ∀ k, (f k).lanes = k.lanes ∧ (f k).s = k.s) (o : Op)
    (n cnt : Nat) : s.KeepsBut (s.onGroup b g f) o n cnt := by
  have hgroup : ∀ c j, ((s.onGroup b g f).group c j).lanes = (s.group c j).lanes ∧
      ((s.onGroup b g f).group c j).s = (s.group c j).s := fun c j => by
    rcases group_onGroup_cases s b g c j f with h | ⟨-, -, h⟩ <;> rw [h]
    · exact ⟨rfl, rfl⟩
    · exact hf _
  have hlane : ∀ c j i, (s.onGroup b g f).lane c j i = s.lane c j i := fun c j i => by
    rw [State.lane, State.lane, (hgroup c j).1]
  exact {
    mem := fun _ _ => ⟨rfl, fun _ => rfl⟩
    ls := fun c e _ => lsByte_onGroup s b g c e f
    uniform := fun c j => (hgroup c j).2
    lane := fun c j i => .of_eq (hlane c j i) _ _
    others := fun c j i _ => hlane c j i }

end State.KeepsBut

theorem State.CachesOnly.keepsBut {s t : State} (h : s.CachesOnly t) (o : Op) (n cnt : Nat) : s.KeepsBut t o n cnt :=
  .of_eq o n cnt ⟨h.mem, h.dead, h.deadId, h.blocks⟩

/-! ### One access is performed -/

section Access
variable (s : State) {o : Op} {a : Acc} (ho : a ∈ o.accs)
include ho

theorem State.keepsBut_setMemBytes {key : Nat} (hk : a.loc = .mem key) (bs : List Byte) (cnt : Nat) :
    s.KeepsBut (s.setMemBytes key bs) o bs.length cnt where
  mem e he := by
    have hout : e < key ∨ key + bs.length ≤ e := by
      by_contra hin
      exact he a ho ⟨key, hk, by omega, by omega⟩
    exact ⟨State.isDead_setMemBytes_other s key e bs hout, fun _ => State.memByte_setMemBytes_other s key e bs hout⟩
  ls b e _ := State.lsByte_congr (State.setMemBytes_blocks s key bs) b e
  uniform b g := congrArg Group.s (State.group_congr (State.setMemBytes_blocks s key bs) b g)
  lane b g i := .of_eq (State.lane_congr (State.setMemBytes_blocks s key bs) b g i) _ _
  others b g i _ := State.lane_congr (State.setMemBytes_blocks s key bs) b g i

theorem State.keepsBut_setLoc_ls {b off : Nat} (hk : a.loc = .ls b off) (bs : List Byte) (cnt : Nat) :
    s.KeepsBut (s.setLoc (.ls b off) bs) o bs.length cnt where
  mem e _ := by
    obtain ⟨hm, hd, hi⟩ := State.mem_setLoc_ls s b off bs
    exact ⟨State.isDead_congr hd e, fun _ => State.memByte_congr hm hd hi e⟩
  ls c e he := by
    refine State.lsByte_setLoc_ls_other s b off bs ?_
    by_contra hin
    simp only [not_or, not_not] at hin
    obtain ⟨rfl, hin⟩ := hin
    exact he a ho ⟨off, hk, by omega, by omega⟩
  uniform c g := congrArg Group.s (State.group_setLoc_ls s b off bs c g)
  lane c g i := .of_eq (congrArg (Group.lane · i) (State.group_setLoc_ls s b off bs c g)) _ _
  others c g i _ := congrArg (Group.lane · i) (State.group_setLoc_ls s b off bs c g)

theorem State.keepsBut_accWrite (ha : a.swm = false) (bs : List Byte) (cnt : Nat) :
    s.KeepsBut (s.accWrite o a bs) o bs.length cnt := by
  unfold State.accWrite
  split
  · next key hk =>
    split
    · exact State.keepsBut_setMemBytes s ho hk bs cnt
    · rw [ha, if_neg Bool.false_ne_true]
      exact ((State.cachesOnly_keepHome s key _).keepsBut o _ _).trans (State.keepsBut_setMemBytes _ ho hk bs cnt)
  · next hk =>
    cases hl : a.loc with
    | mem key => exact absurd hl (hk key)
    | ls b off => exact State.keepsBut_setLoc_ls s ho hl bs cnt

end Access

end Sys2Proof.Machine
end

section
/-!
SUPPORT. MEMORY_OP_COMPLETE over loads, stores, atomic operations and LDONE (R151), while no cache holds a copy of a software-managed
sector and none of their accesses meets poison: what the step leaves alone.
-/
namespace Sys2Proof.Machine

/-! ### A loaded value in its registers (R146) -/

theorem Lane.keepsBut_setV (l : Lane) {r first cnt : Nat} (h : first ≤ r ∧ r < first + cnt) (x : Word) :
    l.KeepsBut (l.setV r x) first cnt where
  rest := rfl
  regs j hj := Cells.get_set_other l.v x (by omega)

/-- A lane that takes the bytes of its access. -/
def Lane.takes (l : Lane) (o : Op) (bs : List Byte) (sx : Bool) : Lane :=
  if o.wid ≤ 2 then
    l.setV o.dest (if sx then (BitVec.ofNat (8 * bs.length) (ofBytes bs)).signExtend 32 else BitVec.ofNat 32 (ofBytes bs))
  else (List.range (widRegs o.wid)).foldl (fun k i => k.setV (o.dest + i) (BitVec.ofNat 32 (ofBytes bs / 2 ^ (32 * i)))) l

theorem State.deliver_eq (s : State) (o : Op) (a : Acc) (bs : List Byte) (sx : Bool) : s.deliver o a bs sx =
    s.onLanes o.blk o.grp (laneBit a.lane) fun _ l => if l.kind != .ordinary then l else l.takes o bs sx := rfl

theorem widRegs_pos (wid : Nat) : 0 < widRegs wid := by
  unfold widRegs
  split
  · decide
  · split <;> decide

theorem Lane.keepsBut_foldl_setV (x : Nat → Word) (first cnt : Nat) (is : List Nat) (h : ∀ i ∈ is, i < cnt) (l : Lane) :
    l.KeepsBut (is.foldl (fun k i => k.setV (first + i) (x i)) l) first cnt := by
  induction is generalizing l with
  | nil => exact .of_eq rfl _ _
  | cons i is ih =>
    have hi := h i List.mem_cons_self
    exact (l.keepsBut_setV ⟨by omega, by omega⟩ (x i)).trans (ih (fun j hj => h j (List.mem_cons_of_mem i hj)) _)

theorem Lane.keepsBut_takes (l : Lane) (o : Op) (bs : List Byte) (sx : Bool) :
    l.KeepsBut (l.takes o bs sx) o.dest (widRegs o.wid) := by
  unfold Lane.takes
  split
  · exact l.keepsBut_setV ⟨Nat.le_refl _, Nat.lt_add_of_pos_right (widRegs_pos o.wid)⟩ _
  · exact Lane.keepsBut_foldl_setV (fun i => BitVec.ofNat 32 (ofBytes bs / 2 ^ (32 * i))) _ _ _
      (fun i hi => List.mem_range.mp hi) l

theorem State.keepsBut_deliver (s : State) {o : Op} {a : Acc} (ho : a ∈ o.accs) (bs : List Byte) (sx : Bool) (n : Nat) :
    s.KeepsBut (s.deliver o a bs sx) o n (widRegs o.wid) := by
  rw [State.deliver_eq]
  have hlane := fun b g i => State.lane_onLanes_cases s o.blk o.grp b g i (laneBit a.lane)
    fun _ l => if l.kind != .ordinary then l else l.takes o bs sx
  exact {
    mem := fun e _ => ⟨rfl, fun _ => rfl⟩
    ls := fun b e _ => State.lsByte_onGroup s o.blk o.grp b e _
    uniform := fun b g => State.uniform_onLanes s o.blk o.grp b g _ _
    lane := fun b g i => by
      rcases hlane b g i with h | ⟨-, -, -, h⟩ <;> rw [h]
      · exact .of_eq rfl _ _
      · split
        · exact .of_eq rfl _ _
        · exact Lane.keepsBut_takes _ o bs sx
    others := fun b g i hi => by
      rcases hlane b g i with h | ⟨hb, hg, hm, -⟩
      · exact h
      · exact absurd (getLsbD_laneBit hm) ((hi.resolve_left (not_not_intro hb)).resolve_left (not_not_intro hg) a ho) }

/-! ### What an operation writes and delivers -/

/-- The bytes that each access of an operation may write, and the registers that it delivers (R151). -/
def Op.written (o : Op) : Nat :=
  match o.kind with
  | .load _ => 0
  | .ldone => 4
  | _ => 2 ^ o.wid

def Op.delivered (o : Op) : Nat := if o.kind.delivers then widRegs o.wid else 0

/-- t agrees with s on what the checks of an access rest on. -/
structure State.SameGrounds (s t : State) : Prop where
  swm : t.swm = s.swm
  hub : t.hub = s.hub
  poison : t.poison = s.poison
  ops : t.ops = s.ops

theorem State.SameGrounds.trans {s t u : State} (h : s.SameGrounds t) (h' : t.SameGrounds u) : s.SameGrounds u :=
  ⟨h'.swm.trans h.swm, h'.hub.trans h.hub, h'.poison.trans h.poison, h'.ops.trans h.ops⟩

theorem State.CachesOnly.sameGrounds {s t : State} (h : s.CachesOnly t) : s.SameGrounds t := ⟨h.swm, h.hub, h.poison, h.ops⟩

theorem State.sameGrounds_setMemBytes (s : State) (key : Nat) (bs : List Byte) : s.SameGrounds (s.setMemBytes key bs) :=
  ⟨State.setMemBytes_swm s key bs, State.setMemBytes_hub s key bs, State.setMemBytes_poison s key bs,
    State.setMemBytes_ops s key bs⟩

theorem State.sameGrounds_setLoc (s : State) (l : Loc) (bs : List Byte) : s.SameGrounds (s.setLoc l bs) := by
  cases l with
  | mem key => exact State.sameGrounds_setMemBytes s key bs
  | ls b off =>
    obtain ⟨ms, h⟩ := State.setLoc_ls_eq s b off bs
    rw [h]
    exact ⟨rfl, rfl, rfl, rfl⟩

theorem State.sameGrounds_accWrite (s : State) (o : Op) {a : Acc} (ha : a.swm = false) (bs : List Byte) :
    s.SameGrounds (s.accWrite o a bs) := by
  unfold State.accWrite
  split
  · split
    · exact State.sameGrounds_setMemBytes s _ bs
    · rw [ha, if_neg Bool.false_ne_true]
      exact (State.cachesOnly_keepHome s _ _).sameGrounds.trans (State.sameGrounds_setMemBytes _ _ bs)
  · exact State.sameGrounds_setLoc s _ bs

theorem State.sameGrounds_deliver (s : State) (o : Op) (a : Acc) (bs : List Byte) (sx : Bool) :
    s.SameGrounds (s.deliver o a bs sx) := ⟨rfl, rfl, rfl, rfl⟩

section Ready
variable {s : State} (hs : s.swm = []) {o : Op} {a : Acc} (ha : a.swm = false)
include hs ha

/-- A write in its caches. -/
theorem State.sameGrounds_writes (bs : List Byte) : s.SameGrounds ((s.accWrite o a bs).touchCaches o a) :=
  have h := State.sameGrounds_accWrite s o ha bs
  h.trans (State.cachesOnly_touchCaches o ha (h.swm.trans hs)).sameGrounds

theorem State.sameGrounds_performReady (p : Nat) : s.SameGrounds (s.performReady p o a) := by
  have atom : ∀ op sgn back, s.SameGrounds (s.performAtom o a op sgn back) := fun op sgn back => by
    cases back
    · exact State.sameGrounds_writes hs ha _
    · exact (State.sameGrounds_writes hs ha _).trans (State.sameGrounds_deliver _ o a _ false)
  unfold State.performReady
  split
  · exact (State.cachesOnly_touchCaches o ha hs).sameGrounds.trans (State.sameGrounds_deliver _ o a _ _)
  · exact State.sameGrounds_writes hs ha _
  · exact State.sameGrounds_writes hs ha _
  · exact atom _ _ _
  · exact atom _ _ _
  · exact ⟨rfl, rfl, rfl, rfl⟩

variable (ho : a ∈ o.accs)
include ho

theorem State.keepsBut_writes (bs : List Byte) (cnt : Nat) :
    s.KeepsBut ((s.accWrite o a bs).touchCaches o a) o bs.length cnt :=
  (State.keepsBut_accWrite s ho ha bs cnt).trans
    ((State.cachesOnly_touchCaches o ha ((State.sameGrounds_accWrite s o ha bs).swm.trans hs)).keepsBut o _ _)

/-- An access that is performed changes the bytes that its operation writes, and the registers that it delivers. -/
theorem State.keepsBut_performReady (p : Nat) : s.KeepsBut (s.performReady p o a) o o.written o.delivered := by
  have writes : ∀ n v cnt, s.KeepsBut ((s.accWrite o a (toBytes n v)).touchCaches o a) o n cnt := fun n v cnt => by
    simpa using State.keepsBut_writes hs ha ho (toBytes n v) cnt
  cases hk : o.kind <;> simp only [State.performReady, Op.written, Op.delivered, OpKind.delivers, hk, if_true,
    Bool.false_eq_true, if_false]
  case load sx => exact ((State.cachesOnly_touchCaches o ha hs).keepsBut o _ _).trans (State.keepsBut_deliver _ ho _ sx _)
  case store => exact writes _ _ _
  case ldone => exact writes _ _ _
  case atom op sgn => exact (writes _ _ _).trans (State.keepsBut_deliver _ ho _ false _)
  case red op sgn => exact writes _ _ _
  all_goals exact .refl s o _ _

end Ready

/-! ### An operation as it stands meanwhile -/

/-- An operation as it may stand while its accesses are answered for and performed. -/
structure Op.StandsFor (q o : Op) : Prop where
  same : q = { o with accs := q.accs }
  accs : ∀ x ∈ q.accs, ∃ y ∈ o.accs, x.lane = y.lane ∧ x.loc = y.loc ∧ x.leaf = y.leaf ∧ x.val = y.val

theorem Op.StandsFor.refl (o : Op) : o.StandsFor o := ⟨rfl, fun x hx => ⟨x, hx, rfl, rfl, rfl, rfl⟩⟩

/-- Accesses whose counts and marks alone have changed. -/
theorem Op.StandsFor.map {q o : Op} (h : q.StandsFor o) (f : Acc → Acc)
    (hf : ∀ x, (f x).lane = x.lane ∧ (f x).loc = x.loc ∧ (f x).leaf = x.leaf ∧ (f x).val = x.val) :
    ({ q with accs := q.accs.map f } : Op).StandsFor o where
  same := by rw [h.same]
  accs x hx := by
    obtain ⟨z, hz, rfl⟩ := List.mem_map.mp hx
    obtain ⟨y, hy, hlane, hloc, hleaf, hval⟩ := h.accs z hz
    obtain ⟨hlane', hloc', hleaf', hval'⟩ := hf z
    exact ⟨y, hy, hlane'.trans hlane, hloc'.trans hloc, hleaf'.trans hleaf, hval'.trans hval⟩

theorem Op.StandsFor.written {q o : Op} (h : q.StandsFor o) : q.written = o.written := by rw [h.same]; rfl

theorem Op.StandsFor.delivered {q o : Op} (h : q.StandsFor o) : q.delivered = o.delivered := by rw [h.same]; rfl

/-- What one leaves alone the other does. -/
theorem State.KeepsBut.of_standsFor {s t : State} {q o : Op} (h : s.KeepsBut t q q.written q.delivered) (hq : q.StandsFor o) :
    s.KeepsBut t o o.written o.delivered := by
  rw [hq.written, hq.delivered] at h
  have same : q.blk = o.blk ∧ q.grp = o.grp ∧ q.dest = o.dest := by rw [hq.same]; exact ⟨rfl, rfl, rfl⟩
  obtain ⟨hblk, hgrp, hdest⟩ := same
  exact {
    mem := fun a ha => h.mem a fun x hx ⟨key, hk, hin⟩ => by
      obtain ⟨y, hy, -, hloc, -⟩ := hq.accs x hx
      exact ha y hy ⟨key, hloc ▸ hk, hin⟩
    ls := fun b a ha => h.ls b a fun x hx ⟨off, hk, hin⟩ => by
      obtain ⟨y, hy, -, hloc, -⟩ := hq.accs x hx
      exact ha y hy ⟨off, hloc ▸ hk, hin⟩
    uniform := h.uniform
    lane := fun b g i => hdest ▸ h.lane b g i
    others := fun b g i hi => h.others b g i <| by
      rw [hblk, hgrp]
      refine hi.imp_right (Or.imp_right fun hl x hx => ?_)
      obtain ⟨y, hy, hlane, -⟩ := hq.accs x hx
      exact hlane ▸ hl y hy }

/-! ### What performing relies on -/

/-- No cache holds a copy of a software-managed sector, and the accesses of an operation, however it stands, are coherent, meet no poison,
and lie in no other package, nor, if far, in a page that others hold. -/
structure State.Clear (s : State) (k : Nat) (o : Op) : Prop where
  noCopies : s.swm = []
  coherent : ∀ x ∈ o.accs, x.swm = false
  clean : ∀ x ∈ o.accs, s.meetsPoison o x = false
  near : ∀ x ∈ o.accs, ∀ key, x.loc = .mem key → keyTier key ≠ 3 ∧ (o.far = true → s.hub.spans.get? (key / 4096) = none)
  stands : ∀ q, s.ops.get? k = some q → q.StandsFor o

theorem State.rangePoisoned_congr {s t : State} (hp : t.poison = s.poison) (hh : t.hub = s.hub) (key n : Nat) :
    t.rangePoisoned key n = s.rangePoisoned key n := by
  simp only [State.rangePoisoned, State.isPoisoned, State.startsPoisoned, State.channel, hp, hh]

theorem State.meetsPoison_congr {s t : State} (hp : t.poison = s.poison) (hh : t.hub = s.hub) (o : Op) (a : Acc) :
    t.meetsPoison o a = s.meetsPoison o a := by
  unfold State.meetsPoison
  split
  · rw [State.rangePoisoned_congr hp hh]
  · rfl

theorem State.meetsPoison_standsFor (s : State) {q o : Op} (h : q.StandsFor o) {x y : Acc} (hloc : x.loc = y.loc)
    (hval : x.val = y.val) : s.meetsPoison q x = s.meetsPoison o y := by
  rw [h.same, State.meetsPoison, State.meetsPoison, Op.bytes, Op.bytes, hloc, hval]

theorem Acc.swm_congr {x y : Acc} (h : x.leaf = y.leaf) : x.swm = y.swm := by rw [Acc.swm, Acc.swm, h]

namespace State.Clear

section
variable {s : State} {k : Nat} {o : Op} (h : s.Clear k o)
include h

/-- It stays clear while the grounds of its checks stay and its operation stands. -/
theorem congr {t : State} (hswm : t.swm = s.swm) (hhub : t.hub = s.hub) (hpoison : t.poison = s.poison)
    (hops : ∀ q, t.ops.get? k = some q → q.StandsFor o) : t.Clear k o where
  noCopies := hswm.trans h.noCopies
  coherent := h.coherent
  clean x hx := (meetsPoison_congr hpoison hhub o x).trans (h.clean x hx)
  near x hx key hk := hhub ▸ h.near x hx key hk
  stands := hops

theorem of_sameGrounds {t : State} (ht : s.SameGrounds t) : t.Clear k o :=
  h.congr ht.swm ht.hub ht.poison (ht.ops ▸ h.stands)

/-- It is clear for its operation as it stands. -/
theorem standing {q : Op} (hq : s.ops.get? k = some q) : s.Clear k q := by
  have hstands := h.stands q hq
  have hfar : q.far = o.far := by rw [hstands.same]
  refine ⟨h.noCopies, fun x hx => ?coherent, fun x hx => ?clean, fun x hx key hk => ?near, fun p hp => ?stands⟩
  case stands => exact Option.some.inj (hp.symm.trans hq) ▸ .refl q
  all_goals obtain ⟨y, hy, -, hloc, hleaf, hval⟩ := hstands.accs x hx
  case coherent => exact (Acc.swm_congr hleaf).trans (h.coherent y hy)
  case clean => exact (s.meetsPoison_standsFor hstands hloc hval).trans (h.clean y hy)
  case near => exact hfar ▸ h.near y hy key (hloc ▸ hk)

theorem firstPoisoned_eq_none : s.firstPoisoned k o = none := by
  unfold State.firstPoisoned
  split
  · next q hq =>
    split
    · rfl
    · refine List.find?_eq_none.mpr fun x hx => ?_
      obtain ⟨y, hy, -, hloc, -, hval⟩ := (h.stands q hq).accs x hx
      have hmeets := s.meetsPoison_standsFor (.refl o) hloc hval
      simp [hmeets, h.clean y hy]
  · rfl

end

end State.Clear

/-! ### Accesses in their turns -/

/-- An access of a load, a store, an atomic operation or LDONE is performed once it is prepared and its operation meets no poison. -/
theorem State.performAcc_of_atBytes {o : Op} (hk : o.kind.atBytes = true) (s : State) (p k : Nat) (a : Acc) :
    s.performAcc p k o a =
      if !(s.prepare o a).2 then ((s.prepare o a).1.noteHold k o a, false)
      else match (s.prepare o a).1.firstPoisoned k o with
        | some b => ((s.prepare o a).1.failOp k o cPoison b, false)
        | none => ((s.prepare o a).1.performReady p o a, true) := by
  obtain ⟨kind, _⟩ := o
  cases kind with
  | load _ | store | atom _ _ | red _ _ | ldone => rfl
  | _ => exact absurd hk Bool.false_ne_true

theorem State.cachesOnly_countHold (s : State) (core : Nat) (loc : Loc) (seen : List Nat) :
    s.CachesOnly (s.countHold core loc seen).1 := by
  unfold State.countHold
  split
  · split
    · exact .refl s
    · exact State.cachesOnly_count s _ _ _
  · exact .refl s

theorem State.cachesOnly_countDirect (s : State) (o : Op) (a : Acc) : s.CachesOnly (s.countDirect o a).1 := by
  unfold State.countDirect
  split
  · split
    · exact State.cachesOnly_countHold s _ _ _
    · exact .refl s
  · exact State.cachesOnly_countHold s _ _ _

/-- From s to t nothing but what the operation writes and delivers has changed, and it stands and is clear in t. -/
structure State.Performs (s t : State) (k : Nat) (o : Op) : Prop where
  clear : t.Clear k o
  keeps : s.KeepsBut t o o.written o.delivered

namespace State.Performs

section
variable {s : State} {k : Nat} {o : Op} (h : s.Clear k o)
include h

theorem refl : s.Performs s k o := ⟨h, .refl s o _ _⟩

theorem of_cachesOnly {t : State} (ht : s.CachesOnly t) : s.Performs t k o :=
  ⟨h.of_sameGrounds ht.sameGrounds, ht.keepsBut o _ _⟩

theorem bumpFresh : s.Performs s.bumpFresh k o :=
  ⟨h.congr rfl rfl rfl h.stands, .of_eq o _ _⟩

theorem took (since : Nat) (z : Ev) (p : Nat) : s.Performs (s.took since z p) k o :=
  ⟨h.congr rfl rfl rfl h.stands, .of_eq o _ _⟩

/-- Marks and counts of accesses may be noted in the operation. -/
theorem modifyAccs (f : Acc → Acc)
    (hf : ∀ x, (f x).lane = x.lane ∧ (f x).loc = x.loc ∧ (f x).leaf = x.leaf ∧ (f x).val = x.val) :
    s.Performs { s with ops := s.ops.modify k fun p => { p with accs := p.accs.map f } } k o where
  clear := h.congr rfl rfl rfl fun q hq => by
    simp only [Tbl.get?_modify, if_true, Option.map_eq_some_iff] at hq
    obtain ⟨p, hp, rfl⟩ := hq
    exact (h.stands p hp).map f hf
  keeps := .of_eq o _ _

theorem markDone (a : Acc) : s.Performs (s.markDone k a) k o :=
  modifyAccs h _ fun x => by split <;> exact ⟨rfl, rfl, rfl, rfl⟩

theorem markClean (a : Acc) : s.Performs (s.markClean k a) k o :=
  modifyAccs h _ fun x => by split <;> exact ⟨rfl, rfl, rfl, rfl⟩

end

theorem trans {s t u : State} {k : Nat} {o : Op} (h : s.Performs t k o) (h' : t.Performs u k o) : s.Performs u k o :=
  ⟨h'.clear, h.keeps.trans h'.keeps⟩

section
variable {s : State} {k : Nat} {o : Op} (h : s.Clear k o) {a : Acc}
include h

theorem noteHold : s.Performs (s.noteHold k o a) k o := by
  have hcount := of_cachesOnly h (s.cachesOnly_countDirect o a)
  exact hcount.trans (modifyAccs hcount.clear (fun b => if b == a then { b with counted := (s.countDirect o a).2 } else b)
    fun x => by split <;> exact ⟨rfl, rfl, rfl, rfl⟩)

variable (ha : a ∈ o.accs)
include ha

theorem prepare : s.Performs (s.prepare o a).1 k o := by
  refine of_cachesOnly h (cachesOnly_prepare o (h.coherent a ha) fun hh key hkey => ?_)
  rw [atHome, h.coherent a ha, Bool.or_false, Bool.and_eq_true] at hh
  exact (h.near a ha key hkey).imp_right fun hspan => hspan hh.2

variable (hk : o.kind.atBytes = true)
include hk

theorem performAcc (p : Nat) : s.Performs (s.performAcc p k o a).1 k o := by
  have hp := prepare h ha
  rw [performAcc_of_atBytes hk, hp.clear.firstPoisoned_eq_none]
  split
  · exact hp.trans (noteHold hp.clear)
  · exact hp.trans ⟨hp.clear.of_sameGrounds (sameGrounds_performReady hp.clear.noCopies (h.coherent a ha) p),
      keepsBut_performReady hp.clear.noCopies (h.coherent a ha) ha p⟩

theorem performTurn : s.Performs (s.performTurn k o a).1 k o := by
  unfold State.performTurn
  extract_lets turn r
  have hr : s.Performs r.1 k o := performAcc h ha hk _
  split
  · exact refl h
  · split
    · exact hr.trans (took hr.clear _ _ _)
    · exact hr

end

section
variable {k : Nat} {o : Op} (hk : o.kind.atBytes = true)
include hk

theorem performList {as : List Acc} (has : ∀ a ∈ as, a ∈ o.accs) {s : State} (h : s.Clear k o) :
    s.Performs (s.performList k o as) k o := by
  induction as generalizing s with
  | nil => exact refl h
  | cons a rest ih =>
    rw [State.performList]
    split
    · exact refl h
    · have hturn := performTurn h (has a List.mem_cons_self) hk
      have hrest : ∀ {t : State}, t.Clear k o → t.Performs (t.performList k o rest) k o := fun ht =>
        ih (fun b hb => has b (List.mem_cons_of_mem a hb)) ht
      dsimp only
      split
      · have hmark := hturn.trans (markDone hturn.clear a)
        exact hmark.trans (hrest hmark.clear)
      · exact hturn.trans (hrest hturn.clear)

end

/-- What the host and the pool answer for accesses that meet no poison (R150). -/
theorem seeOutward {k : Nat} {o : Op} {as : List Acc} (has : ∀ a ∈ as, a ∈ o.accs) {s : State} (h : s.Clear k o) :
    s.Performs (s.seeOutward k o as) k o := by
  induction as generalizing s with
  | nil => exact refl h
  | cons a rest ih =>
    have ha := has a List.mem_cons_self
    have hrest : ∀ {t : State}, t.Clear k o → t.Performs (t.seeOutward k o rest) k o := fun ht =>
      ih (fun b hb => has b (List.mem_cons_of_mem a hb)) ht
    have hp := prepare h ha
    rw [State.seeOutward]
    simp only [hp.clear.clean a ha, Bool.false_eq_true, if_false]
    split
    · exact refl h
    · split
      · exact hrest h
      · split
        · exact hp.trans (hrest hp.clear)
        · have hmark := hp.trans (markClean hp.clear a)
          exact hmark.trans (hrest hmark.clear)

end State.Performs

/-! ### The operation ends -/

theorem State.keepsBut_releaseFlag (s : State) (b g : Nat) (fl : Option Nat) (o : Op) (n cnt : Nat) :
    s.KeepsBut (s.releaseFlag b g fl) o n cnt :=
  .onGroup s b g (fun _ => by cases fl <;> exact ⟨rfl, rfl⟩) o n cnt

theorem State.keepsBut_spendOutward (s : State) (k : Nat) (q : Op) (as : List Acc) (o : Op) (n cnt : Nat) :
    s.KeepsBut (s.spendOutward k q as) o n cnt := .of_eq o n cnt

theorem State.keepsBut_countDone (s : State) (q : Op) (k : Nat) (o : Op) (n cnt : Nat) :
    s.KeepsBut (s.countDone q k) o n cnt := by
  unfold State.countDone
  split
  · exact .of_eq o n cnt
  · exact .refl s o n cnt

theorem State.keepsBut_closeOp (s : State) (k : Nat) (o : Op) (n cnt : Nat) : s.KeepsBut (s.closeOp k) o n cnt := by
  unfold State.closeOp
  split
  · next p _ =>
    split
    · exact .trans (.of_eq (t := { s with ops := s.ops.erase k }) o n cnt)
        (State.keepsBut_releaseFlag _ p.blk p.grp p.flag o n cnt)
    · exact .refl s o n cnt
  · exact .refl s o n cnt

/-- What follows the accesses that an operation performs. -/
theorem State.keepsBut_end (s : State) (k : Nat) (q : Op) (as : List Acc) (o : Op) (n cnt : Nat) :
    s.KeepsBut (((s.spendOutward k q as).countDone q k).closeOp k) o n cnt :=
  ((State.keepsBut_spendOutward s k q as o n cnt).trans (State.keepsBut_countDone _ q k o n cnt)).trans
    (State.keepsBut_closeOp _ k o n cnt)

theorem State.accsDue_chosenAccs_subset (s : State) (k : Nat) (q : Op) (lanes : DWord) :
    ∀ a ∈ s.accsDue k q (State.chosenAccs q lanes), a ∈ q.accs := by
  intro a ha
  have hdue : a ∈ State.chosenAccs q lanes := by
    unfold State.accsDue at ha
    dsimp only at ha
    split at ha
    · exact (List.mem_filter.mp ha).1
    · exact absurd ha List.not_mem_nil
  unfold State.chosenAccs at hdue
  dsimp only at hdue
  split at hdue <;> exact (List.mem_filter.mp hdue).1

/-- MEMORY_OP_COMPLETE changes the bytes that the operation writes, and the registers that it delivers. -/
theorem State.keepsBut_completeOp {s : State} {k : Nat} {o : Op} (ho : s.ops.get? k = some o) (h : s.Clear k o)
    (hk : o.kind.atBytes = true) (lanes : DWord) : s.KeepsBut (s.completeOp k lanes) o o.written o.delivered := by
  have hseen := State.Performs.seeOutward (fun a ha => ha) h (as := o.accs)
  unfold State.completeOp
  simp only [ho]
  split
  · exact hseen.keeps
  · next q hq =>
    split
    · exact hseen.keeps
    · have hstands := hseen.clear.stands q hq
      have hkind : q.kind.atBytes = true := by rw [hstands.same]; exact hk
      have hfresh := State.Performs.bumpFresh (hseen.clear.standing hq)
      have hlist := State.Performs.performList hkind
        (State.accsDue_chosenAccs_subset (s.seeOutward k o o.accs).bumpFresh k q lanes) hfresh.clear
      exact hseen.keeps.trans (.of_standsFor ((hfresh.trans hlist).keeps.trans (State.keepsBut_end _ k q _ q _ _)) hstands)

/-! ### The obligation -/

section Frames
variable {s t : State} {o : Op} {n cnt : Nat}

/-- The lanes and the uniform registers that an operation leaves alone. -/
theorem State.KeepsBut.registers (h : s.KeepsBut t o n cnt) (b g : Nat) : (t.group b g).s = (s.group b g).s ∧ ∀ i,
    t.lane b g i = { s.lane b g i with v := (t.lane b g i).v } ∧
    ∀ r, (b ≠ o.blk ∨ g ≠ o.grp ∨ (∀ x ∈ o.accs, x.lane ≠ i) ∨ r < o.dest ∨ o.dest + cnt ≤ r) →
      (t.lane b g i).vreg r = (s.lane b g i).vreg r := by
  refine ⟨h.uniform b g, fun i => ⟨(h.lane b g i).rest, fun r hr => ?_⟩⟩
  rcases hr with hb | hg | hl | hr
  · rw [h.others b g i (.inl hb)]
  · rw [h.others b g i (.inr (.inl hg))]
  · rw [h.others b g i (.inr (.inr hl))]
  · exact (h.lane b g i).regs r hr

/-- One that delivers nothing leaves every register as it was. -/
theorem State.KeepsBut.vreg_eq (h : s.KeepsBut t o n 0) (b g i : Nat) (r : Nat) :
    (t.lane b g i).vreg r = (s.lane b g i).vreg r :=
  (h.lane b g i).regs r (Nat.lt_or_ge r o.dest)

end Frames

/-- Settles O53: the operation is clear, and its kind says what it writes and delivers. -/
theorem memoryOperationFrames : Obligations.MemoryOperationFrames := by
  unfold Obligations.MemoryOperationFrames
  intro s t k lanes o ho hswm haccs ht others beside
  have hstep : t = s.completeOp k lanes := (Host.Outcome.next.inj ht).symm
  have hclear : s.Clear k o := {
    noCopies := hswm
    coherent := fun x hx => (haccs x hx).1
    clean := fun x hx => (haccs x hx).2.1
    near := fun x hx => (haccs x hx).2.2
    stands := fun q hq => Option.some.inj (ho.symm.trans hq) ▸ .refl o }
  have keeps {n cnt : Nat} (hk : o.kind.atBytes = true) (hn : o.written = n) (hcnt : o.delivered = cnt) :
      s.KeepsBut t o n cnt := hstep ▸ hn ▸ hcnt ▸ State.keepsBut_completeOp ho hclear hk lanes
  have writes {n : Nat} (h : s.KeepsBut t o n 0) : beside n ∧ others 0 0 :=
    ⟨⟨h.mem, h.ls⟩, fun b g => ⟨h.uniform b g, fun i => ⟨(h.lane b g i).rest, fun r _ => h.vreg_eq b g i r⟩⟩⟩
  refine ⟨fun hk => ?store, fun hk => ?ldone, fun op sg hk => ?red, fun op sg hk => ?atom, fun sx hk => ?load⟩
  case store => exact writes (keeps (by rw [hk]; rfl) (by rw [Op.written, hk]) (by rw [Op.delivered, hk]; rfl))
  case ldone => exact writes (keeps (by rw [hk]; rfl) (by rw [Op.written, hk]) (by rw [Op.delivered, hk]; rfl))
  case red => exact writes (keeps (by rw [hk]; rfl) (by rw [Op.written, hk]) (by rw [Op.delivered, hk]; rfl))
  case atom =>
    have h : s.KeepsBut t o (2 ^ o.wid) (widRegs o.wid) :=
      keeps (by rw [hk]; rfl) (by rw [Op.written, hk]) (by rw [Op.delivered, hk]; rfl)
    exact ⟨⟨h.mem, h.ls⟩, h.registers⟩
  case load =>
    have h : s.KeepsBut t o 0 (widRegs o.wid) :=
      keeps (by rw [hk]; rfl) (by rw [Op.written, hk]) (by rw [Op.delivered, hk]; rfl)
    have nothing : ∀ a key : Nat, ¬ (key ≤ a ∧ a < key + 0) := fun a key => by omega
    exact ⟨fun a => h.mem a fun x _ ⟨key, _, hin⟩ => nothing a key hin,
      fun b a => h.ls b a fun x _ ⟨off, _, hin⟩ => nothing a off hin, h.registers⟩

end Sys2Proof.Machine
end

section
/-!
SUPPORT. One access performed (R146, R153, R155, R158, R244): when it is ready, what a load delivers, what a store or an atomic operation
leaves in memory or in local store, and that one which waits changes nothing.
-/
namespace Sys2Proof.Machine

/-! ### When an access is ready -/

section Prepare
variable {s : State} {o : Op} {a : Acc} {key : Nat}

theorem State.prepare_ls {b off : Nat} (hl : a.loc = .ls b off) : (s.prepare o a).2 = s.windowReady b := by
  rw [State.prepare, hl]
  by_cases h : s.windowReady b = true <;> simp [h]

theorem State.cachesOnly_prepare_ls {b off : Nat} (hl : a.loc = .ls b off) : s.CachesOnly (s.prepare o a).1 := by
  simp only [State.prepare, hl]
  split
  · exact State.cachesOnly_touchDomains s _ _
  · exact .refl s

variable (hl : a.loc = .mem key)
include hl

/-- An atomic operation at the home goes on where no slice, host or package stands before it (R160, R257). -/
theorem State.prepare_home (hh : atHome o a = true) (hold : (s.holdAt a.loc).isNone = true)
    (hslices : s.someHolds (sectorOf key) (· != 0) = false) (hout : s.needsOutward (sectorOf key) = false)
    (h3 : keyTier key ≠ 3) (hspan : s.hub.spans.get? (key / 4096) = none) : (s.prepare o a).2 = true := by
  rw [hl, Option.isNone_iff_eq_none] at hold
  simp [State.prepare, hl, State.prepareMem, hh, hold, hslices, hout, State.spanReady, h3, hspan]

variable (ha : a.swm = false)
include ha

/-- A load is served by the copy of its die's slice (R244). -/
theorem State.prepare_load {sx : Bool} (hk : o.kind = .load sx) : (s.prepare o a).2 = decide (s.heldAs o key ≠ 0) := by
  have hh : atHome o a = false := by rw [atHome, hk]; rfl
  simp only [State.prepare, hl, State.prepareMem, hh, ha, hk, OpKind.writes, Bool.false_eq_true, if_false, State.heldAs]
  by_cases h : s.sectState (dieOf o.core) (sectorOf key) = 0 <;> simp [h]

/-- A write that is not performed at the home needs the slice to own the sector (R244). -/
theorem State.prepare_write (hw : o.kind.writes = true) (hh : atHome o a = false) :
    (s.prepare o a).2 = decide (s.heldAs o key = 2 ∨ s.heldAs o key = 4) := by
  simp only [State.prepare, hl, State.prepareMem, hh, ha, hw, Bool.false_eq_true, if_false, if_true, State.heldAs]
  split
  · next h => simp [h]
  · next h => simp [h]
  · next h2 h4 => exact (decide_eq_false (not_or.mpr ⟨h2, h4⟩)).symm

theorem State.cachesOnly_prepare_mem (hh : atHome o a = true → keyTier key ≠ 3 ∧ s.hub.spans.get? (key / 4096) = none) :
    s.CachesOnly (s.prepare o a).1 :=
  State.cachesOnly_prepare o ha fun h _ hkey => Loc.mem.inj (hl.symm.trans hkey) ▸ hh h

end Prepare

/-! ### What becomes of it -/

theorem State.firstPoisoned_congr {s t : State} (h : s.CachesOnly t) (id : Nat) (o : Op) :
    t.firstPoisoned id o = s.firstPoisoned id o := by
  have hmeets : t.meetsPoison o = s.meetsPoison o := funext (State.meetsPoison_congr h.poison h.hub o)
  rw [State.firstPoisoned, State.firstPoisoned, h.ops, hmeets]

section Outcome
variable {s : State} {o : Op} {a : Acc} (p id : Nat) (hk : o.kind.atBytes = true) (hc : s.CachesOnly (s.prepare o a).1)
include hk hc

/-- A ready access of an operation that meets no poison is performed. -/
theorem State.performAcc_of_clean (hp : (s.prepare o a).2 = true) (hclean : s.firstPoisoned id o = none) :
    s.performAcc p id o a = ((s.prepare o a).1.performReady p o a, true) := by
  rw [State.performAcc_of_atBytes hk, hp, State.firstPoisoned_congr hc, hclean]
  rfl

/-- One of an operation that meets poison stops the group, at the lowest access that meets it (R150). -/
theorem State.performAcc_of_poisoned (hp : (s.prepare o a).2 = true) {x : Acc} (hx : s.firstPoisoned id o = some x) :
    s.performAcc p id o a = ((s.prepare o a).1.failOp id o cPoison x, false) := by
  rw [State.performAcc_of_atBytes hk, hp, State.firstPoisoned_congr hc, hx]
  rfl

/-- One that is not ready waits, and changes no byte and no block. -/
theorem State.performAcc_of_unready (hp : (s.prepare o a).2 = false) : (s.performAcc p id o a).2 = false ∧
    (s.performAcc p id o a).1.mem = s.mem ∧ (s.performAcc p id o a).1.blocks = s.blocks := by
  have hcount := hc.trans ((s.prepare o a).1.cachesOnly_countDirect o a)
  rw [State.performAcc_of_atBytes hk, hp]
  exact ⟨rfl, hcount.mem, hcount.blocks⟩

end Outcome

/-! ### A load (R146, R151) -/

theorem Lane.vreg_setV_same (l : Lane) (r : Nat) (x : Word) : (l.setV r x).vreg r = x := Cells.get_set_same l.v r x

theorem Lane.vreg_setV_other (l : Lane) {r j : Nat} (h : r ≠ j) (x : Word) : (l.setV r x).vreg j = l.vreg j :=
  Cells.get_set_other l.v x h

section Takes
variable (l : Lane) {o : Op} (bs : List Byte) (sx : Bool)

/-- Up to 32 bits are extended to a register. -/
theorem Lane.vreg_takes_narrow (h : o.wid ≤ 2) : (l.takes o bs sx).vreg o.dest =
    if sx then (BitVec.ofNat (8 * bs.length) (ofBytes bs)).signExtend 32 else BitVec.ofNat 32 (ofBytes bs) := by
  rw [Lane.takes, if_pos h]
  exact Lane.vreg_setV_same l _ _

theorem Lane.vreg_foldl_setV (x : Nat → Word) (first n : Nat) {i : Nat} (hi : i < n) :
    ((List.range n).foldl (fun k i => k.setV (first + i) (x i)) l).vreg (first + i) = x i := by
  induction n with
  | zero => exact absurd hi (Nat.not_lt_zero i)
  | succ n ih =>
    rw [List.range_succ, List.foldl_append, List.foldl_cons, List.foldl_nil]
    rcases Nat.lt_succ_iff_lt_or_eq.mp hi with h | rfl
    · rw [Lane.vreg_setV_other _ (by omega), ih h]
    · exact Lane.vreg_setV_same _ _ _

/-- Wider ones fill several, the lowest register lowest. -/
theorem Lane.vreg_takes_wide (h : 2 < o.wid) {i : Nat} (hi : i < widRegs o.wid) :
    (l.takes o bs sx).vreg (o.dest + i) = BitVec.ofNat 32 (ofBytes bs / 2 ^ (32 * i)) := by
  rw [Lane.takes, if_neg (by omega)]
  exact Lane.vreg_foldl_setV l (fun i => BitVec.ofNat 32 (ofBytes bs / 2 ^ (32 * i))) o.dest _ hi

end Takes

/-- The lane of an access is there, an ordinary one of those that a mask names. -/
structure State.LaneThere (s : State) (o : Op) (a : Acc) : Prop where
  block : (s.blocks.get? o.blk).isSome = true
  named : a.lane < 64
  lane : a.lane < (s.group o.blk o.grp).lanes.length
  ordinary : (s.lane o.blk o.grp a.lane).kind = .ordinary

/-- It takes the bytes that are delivered to it. -/
theorem State.lane_deliver {s : State} {o : Op} {a : Acc} (h : s.LaneThere o a) (bs : List Byte) (sx : Bool) :
    (s.deliver o a bs sx).lane o.blk o.grp a.lane = (s.lane o.blk o.grp a.lane).takes o bs sx := by
  rw [State.deliver_eq, State.lane_onLanes_laneBit rfl h.block h.lane h.named, h.ordinary]
  rfl

theorem State.locBytes_congr {s t : State} (h : s.CachesOnly t) (l : Loc) (n : Nat) : t.locBytes l n = s.locBytes l n :=
  List.map_congr_left fun i _ => by
    cases l with
    | mem k => exact State.memByte_congr h.mem h.dead h.deadId _
    | ls b off => exact State.lsByte_congr h.blocks _ _

theorem State.bytesAt_congr {s t : State} (h : s.CachesOnly t) (p : Nat) (l : Loc) (n : Nat) :
    t.bytesAt p l n = s.bytesAt p l n := by
  rw [State.bytesAt, State.bytesAt, h.trace, State.locBytes_congr h]

theorem State.LaneThere.congr {s t : State} {o : Op} {a : Acc} (h : s.LaneThere o a)
    (hb : (t.blocks.get? o.blk).isSome = true) (hg : t.group o.blk o.grp = s.group o.blk o.grp) : t.LaneThere o a where
  block := hb
  named := h.named
  lane := hg ▸ h.lane
  ordinary := (congrArg (fun k : Group => (k.lane a.lane).kind) hg).trans h.ordinary

theorem State.locBytes_deliver (s : State) (o : Op) (a : Acc) (bs : List Byte) (sx : Bool) (l : Loc) (n : Nat) :
    (s.deliver o a bs sx).locBytes l n = s.locBytes l n :=
  List.map_congr_left fun i _ => by
    cases l with
    | mem key => rfl
    | ls b off => exact State.lsByte_onGroup s o.blk o.grp b _ _

/-! ### Bytes that are written (R153, R155, R158) -/

theorem State.isDead_putMemBytes (s : State) (key i : Nat) (bs : List Byte) (h : i < bs.length) :
    (s.putMemBytes key bs).isDead (key + i) = false := by
  induction bs generalizing s key i with
  | nil => exact absurd h (Nat.not_lt_zero i)
  | cons b bs ih =>
    rw [State.putMemBytes]
    cases i with
    | zero =>
      rw [State.isDead_putMemBytes_other _ _ _ _ (by omega), State.isDead_setMemByte]
      simp
    | succ i =>
      have hi := ih (s.setMemByte key b) (key + 1) i (by simpa using h)
      rwa [Nat.add_assoc, Nat.add_comm 1 i] at hi

theorem Block.lsAt_putLs (k : Block) (off i : Nat) (bs : List Byte) (h : i < bs.length) :
    (k.putLs off bs).lsAt (off + i) = some bs[i] := by
  induction bs generalizing k off i with
  | nil => exact absurd h (Nat.not_lt_zero i)
  | cons v bs ih =>
    rw [Block.putLs_cons]
    cases i with
    | zero => rw [Block.lsAt_putLs_other _ _ _ _ (by omega), Block.lsAt_setLs, if_pos (Nat.add_zero off)]; rfl
    | succ i =>
      have hi := ih (k.setLs off v) (off + 1) i (by simpa using h)
      rwa [Nat.add_assoc, Nat.add_comm 1 i] at hi

/-- The block whose local store an access reaches is there. -/
def State.PlaceThere (s : State) (a : Acc) : Prop := ∀ b off, a.loc = .ls b off → (s.blocks.get? b).isSome = true

/-- An access's write, in its caches. -/
def State.writes (s : State) (o : Op) (a : Acc) (bs : List Byte) : State := (s.accWrite o a bs).touchCaches o a

section Writes
variable {s : State} (hs : s.swm = []) (o : Op) {a : Acc}

theorem State.writes_ls {b off : Nat} (hl : a.loc = .ls b off) (bs : List Byte) :
    s.writes o a bs = s.setLoc (.ls b off) bs := by
  simp only [State.writes, State.accWrite, hl, State.touchCaches]

variable (ha : a.swm = false)
include hs ha

/-- To memory it is a write of the bytes, the home and the caches apart (R244). -/
theorem State.writes_mem {key : Nat} (hl : a.loc = .mem key) (bs : List Byte) :
    ∃ u, s.CachesOnly u ∧ (u.setMemBytes key bs).CachesOnly (s.writes o a bs) := by
  have hwrite : ∃ u, s.CachesOnly u ∧ s.accWrite o a bs = u.setMemBytes key bs := by
    simp only [State.accWrite, hl, ha, Bool.false_eq_true, if_false]
    split
    · exact ⟨s, .refl s, rfl⟩
    · exact ⟨s.keepHome key bs.length, State.cachesOnly_keepHome s key _, rfl⟩
  obtain ⟨u, hu, hw⟩ := hwrite
  refine ⟨u, hu, ?_⟩
  rw [State.writes, hw]
  exact State.cachesOnly_touchCaches o ha ((State.setMemBytes_swm u key bs).trans (hu.swm.trans hs))

/-- No lane is changed. -/
theorem State.group_writes (bs : List Byte) (b g : Nat) : (s.writes o a bs).group b g = s.group b g := by
  cases hl : a.loc with
  | mem key =>
    obtain ⟨u, hu, hw⟩ := State.writes_mem hs o ha hl bs
    exact State.group_congr (hw.blocks.trans ((State.setMemBytes_blocks u key bs).trans hu.blocks)) b g
  | ls c off => rw [State.writes_ls o hl, State.group_setLoc_ls]

/-- No block goes. -/
theorem State.blocks_isSome_writes (bs : List Byte) {c : Nat} (h : (s.blocks.get? c).isSome = true) :
    ((s.writes o a bs).blocks.get? c).isSome = true := by
  cases hl : a.loc with
  | mem key =>
    obtain ⟨u, hu, hw⟩ := State.writes_mem hs o ha hl bs
    rwa [hw.blocks, State.setMemBytes_blocks, hu.blocks]
  | ls b off =>
    obtain ⟨ms, ht⟩ := State.setLoc_ls_eq s b off bs
    rw [State.writes_ls o hl, ht]
    simpa [State.onBlock, Tbl.get?_modify, apply_ite Option.isSome] using h

/-- The bytes are those written. -/
theorem State.locByte_writes (hthere : s.PlaceThere a) (bs : List Byte) {i : Nat} (hi : i < bs.length) :
    (s.writes o a bs).locByte a.loc i = bs[i] := by
  cases hl : a.loc with
  | mem key =>
    obtain ⟨u, -, hw⟩ := State.writes_mem hs o ha hl bs
    exact (State.memByte_congr hw.mem hw.dead hw.deadId _).trans (State.memByte_setMemBytes u key i bs hi)
  | ls b off =>
    rw [State.writes_ls o hl, State.locByte, State.lsByte_eq, State.block_setLoc_ls,
      State.block_onBlock_same s b _ (hthere b off hl), Block.lsAt_putLs _ off i bs hi]
    rfl

theorem State.locBytes_writes (hthere : s.PlaceThere a) (bs : List Byte) :
    (s.writes o a bs).locBytes a.loc bs.length = bs :=
  List.ext_getElem (by simp [State.locBytes]) fun i hi hi' => by
    simp [State.locBytes, State.locByte_writes hs o ha hthere bs hi']

/-- What is written to memory is specified again (R156). -/
theorem State.isDead_writes {key : Nat} (hl : a.loc = .mem key) (bs : List Byte) {i : Nat} (hi : i < bs.length) :
    (s.writes o a bs).isDead (key + i) = false := by
  obtain ⟨u, -, hw⟩ := State.writes_mem hs o ha hl bs
  exact (State.isDead_congr hw.dead _).trans (State.isDead_putMemBytes _ key i bs hi)

end Writes

/-- A write to local store leaves memory, its block's other bytes and every other block alone. -/
theorem State.writes_ls_beside (s : State) (o : Op) {a : Acc} {b off : Nat} (hl : a.loc = .ls b off) (bs : List Byte) :
    (s.writes o a bs).mem = s.mem ∧
    ∀ c e, (c ≠ b ∨ e < off ∨ off + bs.length ≤ e) → (s.writes o a bs).lsByte c e = s.lsByte c e := by
  rw [State.writes_ls o hl]
  exact ⟨(State.mem_setLoc_ls s b off bs).1, fun c e => State.lsByte_setLoc_ls_other s b off bs⟩

/-! ### Accesses as they are performed -/

/-- What an atomic operation writes: the combination of what stands there with its operands (R158, R159). -/
def State.combined (s : State) (o : Op) (a : Acc) (op : Nat) (sgn : Bool) : List Byte :=
  let n := 2 ^ o.wid
  toBytes n (combine op (8 * n) sgn (ofBytes (s.locBytes a.loc n)) (a.val.toNat % 2 ^ (8 * n)) (a.val2.toNat % 2 ^ (8 * n)))

section Performed
variable {s t : State} {o : Op} {a : Acc} (h : s.CachesOnly t) (p : Nat)

theorem State.performReady_store (hk : o.kind = .store) :
    t.performReady p o a = t.writes o a (toBytes (2 ^ o.wid) a.val.toNat) := by
  rw [State.performReady, hk]
  rfl

variable (ha : a.swm = false)
include ha

theorem State.accBytesNow_eq (s : State) (o : Op) : s.accBytesNow o a = s.locBytes a.loc (2 ^ o.wid) := by
  unfold State.accBytesNow
  split
  · next key hl => rw [ha, hl]; rfl
  · rfl

include h

/-- A reduction writes the combination, and delivers nothing. -/
theorem State.performReady_red {op : Nat} {sgn : Bool} (hk : o.kind = .red op sgn) :
    t.performReady p o a = t.writes o a (s.combined o a op sgn) := by
  rw [State.performReady, hk, State.combined, ← State.locBytes_congr h, ← State.accBytesNow_eq ha]
  rfl

/-- An atomic operation delivers what stood there. -/
theorem State.performReady_atom {op : Nat} {sgn : Bool} (hk : o.kind = .atom op sgn) :
    t.performReady p o a =
      (t.writes o a (s.combined o a op sgn)).deliver o a (s.locBytes a.loc (2 ^ o.wid)) false := by
  rw [State.performReady, hk, State.combined, ← State.locBytes_congr h, ← State.accBytesNow_eq ha]
  rfl

/-- A load delivers the bytes at its place, and changes no byte. -/
theorem State.performReady_load (hs : s.swm = []) {sx : Bool} (hk : o.kind = .load sx) :
    (t.performReady p o a).mem = s.mem ∧ (∀ b e, (t.performReady p o a).lsByte b e = s.lsByte b e) ∧
    (s.LaneThere o a → (t.performReady p o a).lane o.blk o.grp a.lane =
      (s.lane o.blk o.grp a.lane).takes o (s.bytesAt p a.loc (2 ^ o.wid)) sx) := by
  have hcaches := h.trans (State.cachesOnly_touchCaches o ha (h.swm.trans hs))
  have hready : t.performReady p o a = (t.touchCaches o a).deliver o a (s.bytesAt p a.loc (2 ^ o.wid)) sx := by
    rw [State.performReady, hk, State.accBytes, ha, ← State.bytesAt_congr h]
    rfl
  rw [hready]
  refine ⟨hcaches.mem, fun b e => ?_, fun hthere => ?_⟩
  · exact (State.lsByte_onGroup _ o.blk o.grp b e _).trans (State.lsByte_congr hcaches.blocks b e)
  · rw [State.lane_deliver (hthere.congr (hcaches.blocks ▸ hthere.block) (State.group_congr hcaches.blocks _ _)),
      State.lane_congr hcaches.blocks]

end Performed

theorem State.PlaceThere.congr {s t : State} {a : Acc} (h : s.PlaceThere a) (hb : t.blocks = s.blocks) : t.PlaceThere a :=
  fun b off hl => hb ▸ h b off hl

/-- Where an access lies in local store, memory and every other byte of local store are as they were. -/
def State.KeepsBeside (s t : State) (a : Acc) (n : Nat) : Prop := ∀ b off, a.loc = .ls b off →
  t.mem = s.mem ∧ ∀ c e, (c ≠ b ∨ e < off ∨ off + n ≤ e) → t.lsByte c e = s.lsByte c e

theorem State.keepsBeside_writes {s t : State} (h : s.CachesOnly t) (o : Op) (a : Acc) (bs : List Byte) :
    s.KeepsBeside (t.writes o a bs) a bs.length := fun b off hl => by
  obtain ⟨hmem, hls⟩ := State.writes_ls_beside t o hl bs
  exact ⟨hmem.trans h.mem, fun c e hc => (hls c e hc).trans (State.lsByte_congr h.blocks c e)⟩

theorem getElem_toBytes (n v i : Nat) (h : i < (toBytes n v).length) : (toBytes n v)[i] = BitVec.ofNat 8 (v / 2 ^ (8 * i)) := by
  simp [toBytes, Nat.shiftRight_eq_div_pow]

section Ready
variable {s : State} {o : Op} {a : Acc} (hs : s.swm = []) (ha : a.swm = false) (p id : Nat)
  (hc : s.CachesOnly (s.prepare o a).1) (hp : (s.prepare o a).2 = true) (hclean : s.firstPoisoned id o = none)
include hs ha hc hp hclean

/-- R146, R151: a load that is ready delivers the bytes at its place. -/
theorem State.performAcc_load {sx : Bool} (hk : o.kind = .load sx) :
    (s.performAcc p id o a).2 = true ∧ (s.performAcc p id o a).1.mem = s.mem ∧
    (∀ b e, (s.performAcc p id o a).1.lsByte b e = s.lsByte b e) ∧
    (s.LaneThere o a → (s.performAcc p id o a).1.lane o.blk o.grp a.lane =
      (s.lane o.blk o.grp a.lane).takes o (s.bytesAt p a.loc (2 ^ o.wid)) sx) := by
  rw [State.performAcc_of_clean p id (by rw [hk]; rfl) hc hp hclean]
  exact ⟨rfl, State.performReady_load hc p ha hs hk⟩

variable (hthere : s.PlaceThere a)
include hthere

/-- R153, R155: a store that is ready writes its data's bytes in ascending order. -/
theorem State.performAcc_store (hk : o.kind = .store) :
    (s.performAcc p id o a).2 = true ∧ s.KeepsBeside (s.performAcc p id o a).1 a (2 ^ o.wid) ∧
    ∀ i < 2 ^ o.wid, (s.performAcc p id o a).1.locByte a.loc i = BitVec.ofNat 8 (a.val.toNat / 2 ^ (8 * i)) ∧
      ∀ key, a.loc = .mem key → (s.performAcc p id o a).1.isDead (key + i) = false := by
  rw [State.performAcc_of_clean p id (by rw [hk]; rfl) hc hp hclean, State.performReady_store p hk]
  have hbeside := State.keepsBeside_writes hc o a (toBytes (2 ^ o.wid) a.val.toNat)
  rw [toBytes_length] at hbeside
  refine ⟨rfl, hbeside, fun i hi => ?_⟩
  have hi' : i < (toBytes (2 ^ o.wid) a.val.toNat).length := by rwa [toBytes_length]
  refine ⟨?_, fun key hl => State.isDead_writes (hc.swm.trans hs) o ha hl _ hi'⟩
  rw [State.locByte_writes (hc.swm.trans hs) o ha (hthere.congr hc.blocks) _ hi', getElem_toBytes]

/-- R158 to R160: a reduction that is ready writes the combination, and delivers nothing. -/
theorem State.performAcc_red {op : Nat} {sgn : Bool} (hk : o.kind = .red op sgn) :
    (s.performAcc p id o a).2 = true ∧ s.KeepsBeside (s.performAcc p id o a).1 a (2 ^ o.wid) ∧
    (s.performAcc p id o a).1.locBytes a.loc (2 ^ o.wid) = s.combined o a op sgn ∧
    ∀ b g, (s.performAcc p id o a).1.group b g = s.group b g := by
  rw [State.performAcc_of_clean p id (by rw [hk]; rfl) hc hp hclean, State.performReady_red hc p ha hk]
  have hlength : (s.combined o a op sgn).length = 2 ^ o.wid := toBytes_length _ _
  refine ⟨rfl, hlength ▸ State.keepsBeside_writes hc o a _, ?_, fun b g => ?_⟩
  · exact hlength ▸ State.locBytes_writes (hc.swm.trans hs) o ha (hthere.congr hc.blocks) _
  · rw [State.group_writes (hc.swm.trans hs) o ha, State.group_congr hc.blocks]

/-- R158 to R160: an atomic operation that is ready writes the combination, and delivers what stood there. -/
theorem State.performAcc_atom (hlane : s.LaneThere o a) {op : Nat} {sgn : Bool} (hk : o.kind = .atom op sgn) :
    (s.performAcc p id o a).2 = true ∧ s.KeepsBeside (s.performAcc p id o a).1 a (2 ^ o.wid) ∧
    (s.performAcc p id o a).1.locBytes a.loc (2 ^ o.wid) = s.combined o a op sgn ∧
    (s.performAcc p id o a).1.lane o.blk o.grp a.lane =
      (s.lane o.blk o.grp a.lane).takes o (s.locBytes a.loc (2 ^ o.wid)) false := by
  rw [State.performAcc_of_clean p id (by rw [hk]; rfl) hc hp hclean, State.performReady_atom hc p ha hk]
  have hswm := hc.swm.trans hs
  have hlength : (s.combined o a op sgn).length = 2 ^ o.wid := toBytes_length _ _
  have hgroup : ((s.prepare o a).1.writes o a (s.combined o a op sgn)).group o.blk o.grp = s.group o.blk o.grp :=
    (State.group_writes hswm o ha _ _ _).trans (State.group_congr hc.blocks _ _)
  refine ⟨rfl, fun b off hl => ?_, ?_, ?_⟩
  · obtain ⟨hmem, hls⟩ := hlength ▸ State.keepsBeside_writes hc o a (s.combined o a op sgn) b off hl
    exact ⟨hmem, fun c e hce => (State.lsByte_onGroup _ o.blk o.grp c e _).trans (hls c e hce)⟩
  · rw [State.locBytes_deliver]
    exact hlength ▸ State.locBytes_writes hswm o ha (hthere.congr hc.blocks) _
  · rw [State.lane_deliver (hlane.congr (State.blocks_isSome_writes hswm o ha _ (hc.blocks ▸ hlane.block)) hgroup),
      State.lane_eq, State.lane_eq, hgroup]

end Ready

/-! ### An access of local store that is marked software-managed -/

/-- A write of a byte of local store, which held 1. -/
def overwrite : Ev :=
  { who := .unit, id := 0, reads := false, writes := true, acq := false, rel := false, scope := 4, fence := none, atomic := false
    loc := .ls 0 0, n := 1, after := none, copy := false, bar := none, swm := false, queue := none, saw := 0, old := [1#8] }

/-- A state whose only block has one lane, and a byte of local store that is 0 since the one write performed. -/
def overwritten : State :=
  { State.reset with
    blocks := [(0, { Block.init with
      resident := true, started := true, lsDef := [(0, 1#64)]
      groups := [(0, { Group.init with lanes := [{ Lane.init with kind := .ordinary }] })] })]
    trace := some { evs := [overwrite], marks := [], seals := [], taint := [], deps := [] } }

/-- A load of a byte into that lane's first register. -/
def byteLoad : Op :=
  { kind := .load false, blk := 0, grp := 0, core := 0, asid := 0, flag := none, wid := 0, acq := false, rel := false, scope := 3
    far := false, last := false, nud := 0, clock := 0#32, dest := 0, pc := 0#64, after := none, accs := [] }

/-- Its access, with the bit of a software-managed page (`Acc.swm`), which no translation of local store has (R213). -/
def markedAccess : Acc :=
  { lane := 0, va := 0#64, loc := .ls 0 0, leaf := 4#7, fresh := false, val := 0#128, val2 := 0#64, done := false, counted := [] }

/-- Before the write, which is the place of the load, the byte is 1. -/
theorem overwritten_bytesAt : overwritten.bytesAt 0 markedAccess.loc 1 = [1#8] := by decide

/-- The load delivers it as it stands now. -/
theorem overwritten_performAcc :
    ((overwritten.performAcc 0 0 byteLoad markedAccess).1.lane 0 0 0).vreg 0 = 0#32 := by decide

/-- Refutes O54: a load of local store whose access is marked software-managed, as no instruction leaves one, delivers the bytes as they
stand and not those of its place. For accesses that are not so marked the statement holds: `prepare_load`, `prepare_write`,
`prepare_home` and `prepare_ls` say when an access is ready; `performAcc_load`, `performAcc_store`, `performAcc_red`, `performAcc_atom`,
`performAcc_of_poisoned` and `performAcc_of_unready` say what becomes of it, with `vreg_takes_narrow` and `vreg_takes_wide` for the
registers. -/
theorem not_accessesPerformed : ¬ Obligations.AccessesPerformed := by
  unfold Obligations.AccessesPerformed
  rintro ⟨-, hls⟩
  obtain ⟨hload, -⟩ := hls overwritten 0 0 byteLoad markedAccess 0 0 rfl
  obtain ⟨-, -, -, hdelivered, -⟩ := hload false rfl (by decide) rfl ⟨rfl, by decide, by decide, rfl⟩
  have hregister := (hdelivered (.inl rfl)).1 (by decide)
  have hbytes : overwritten.bytesAt 0 markedAccess.loc (2 ^ byteLoad.wid) = [1#8] := overwritten_bytesAt
  rw [hbytes] at hregister
  exact absurd (overwritten_performAcc.symm.trans hregister) (by decide)

end Sys2Proof.Machine
end

section
/-!
SUPPORT. How the matrix instructions that address memory issue (R176, R179, R183 to R185): the range of the elected lane is looked up
and judged as R150 says, then an operation over it takes its place in the queue, or, for MRES, the record in it is read.
-/
namespace Sys2Proof.Machine

/-! ### The range of the elected lane (R176) -/

section Range
variable {i : Instr} {f : FmtA} {s : State} {need : Need} {fk n : Nat} {go : State → List (Loc × Nat × LeafBits) → Res}
  (he : exec i s = finish s 1
    (matRange s (s.execLanes f.guard) 256 need fk (matAddr s (s.execLanes f.guard) f) n go))
include he

theorem exec_matRange_of_misaligned (ha : (matAddr s (s.execLanes f.guard) f).toNat % 256 ≠ 0) :
    exec i s = .next (s.trappedAt (s.execLanes f.guard) cMisaligned (matAddr s (s.execLanes f.guard) f)) := by
  rw [he, matRange, if_pos ha, finish_trap]
  rfl

variable (ha : (matAddr s (s.execLanes f.guard) f).toNat % 256 = 0)
include ha

/-- At an address that is aligned the pieces of the range are served. -/
theorem exec_matRange_of_aligned : exec i s = finish s 1
    (serveTouches s (s.execLanes f.guard) fk (s.piecesOf f need (matAddr s (s.execLanes f.guard) f) n)
      fun t ts => go t (spansOf ts)) := by
  rw [he, matRange, if_neg (not_not_intro ha)]
  rfl

theorem refused_matRange (hg : i.guard = f.guard) :
    Refused i s s fk (s.piecesOf f need (matAddr s (s.execLanes f.guard) f) n) :=
  refused_of_serveTouches ((exec_matRange_of_aligned he ha).trans (by rw [hg]))

/-- Where each of them leads somewhere, the instruction goes on with the places they lead to. -/
theorem exec_matRange_of_reaches (ht : ∀ t ∈ s.piecesOf f need (matAddr s (s.execLanes f.guard) f) n, t.reaches) :
    let noted := s.noteTouches (s.piecesOf f need (matAddr s (s.execLanes f.guard) f) n)
    exec i s = finish s 1 (go noted.1 (spansOf noted.2)) := by
  rw [exec_matRange_of_aligned he ha, serveTouches_of_reaches s _ fk ht]

end Range

/-! ### OMLD, OMST, ACLD, ACST and MSAVE -/

theorem matrixRange_of_matMemory {i : Instr} {f : FmtA} {s : State} {need : Need} {fk n : Nat} {kind : MKind}
    (hg : i.guard = f.guard) (he : exec i s = finish s 1 (matMemory s (s.execLanes f.guard) f need fk n kind)) :
    MatrixRange i f s need fk n kind := by
  refine ⟨exec_matRange_of_misaligned he, fun ha => refused_matRange he ha hg, fun ha ht hq => ?full, fun ha ht hq => ?room⟩
  case full => exact (exec_matRange_of_reaches he ha ht).trans (finish_acceptOp_of_full rfl _ 1 _ f kind _ _ hq)
  case room => exact (exec_matRange_of_reaches he ha ht).trans (finish_acceptOp_of_room s s _ 1 _ f kind _ _ hq)

/-- An instruction over n bytes of memory becomes the operation `kind` over its range where `ok` holds, and traps with TILE_STATE
otherwise (R166, R167, R179). -/
structure RangedWhen (i : Instr) (f : FmtA) (s : State) (ok : Prop) (need : Need) (fk n : Nat) (kind : MKind) : Prop where
  ranged : ok → MatrixRange i f s need fk n kind
  refused : ¬ ok → exec i s = .next (s.trappedAt (s.execLanes f.guard) cTileState 0#64)

section Ranged
variable {i : Instr} {f : FmtA} {s : State} {need : Need} {fk n : Nat} {kind : MKind} (h : MayRun i s)
  (hg : i.guard = f.guard) (hw : wordsOf i = 1)
include h hg hw

/-- One that asks for a configured block alone (R183, R184). -/
theorem rangedWhen_of_configured
    (he : exec i s = run i s fun m => inMatrixBlock s m true fun _ => matMemory s m f need fk n kind) :
    RangedWhen i f s s.matrixBlock need fk n kind where
  ranged hb := matrixRange_of_matMemory hg
    (by rw [he, run_in_matrixBlock h ((matReady_configured_iff s).mpr hb), hg, hw])
  refused hb := by rw [he, run_outside_matrixBlock h (mt (matReady_configured_iff s).mp hb), hg]

/-- One that asks for a claimed slot besides (R179). -/
theorem rangedWhen_of_slotHeld
    (he : exec i s = run i s fun m => inMatrixBlock s m true fun _ =>
      if !slotHeld s f then .trap m cTileState 0#64 else matMemory s m f need fk n kind) :
    RangedWhen i f s (s.matrixBlock ∧ slotHeld s f = true) need fk n kind where
  ranged := fun ⟨hb, hs⟩ => matrixRange_of_matMemory hg
    (by rw [he, run_in_matrixBlock h ((matReady_configured_iff s).mpr hb), hg, hw, hs]; rfl)
  refused hno := by
    by_cases hb : s.matrixBlock
    · have hs : slotHeld s f = false := by simpa [hb] using hno
      rw [he, run_in_matrixBlock h ((matReady_configured_iff s).mpr hb), hg, hs]
      rfl
    · rw [he, run_outside_matrixBlock h (mt (matReady_configured_iff s).mp hb), hg]

end Ranged

theorem omld_rangedWhen {isB : Bool} {f : FmtA} {s : State} (h : MayRun (.omld isB f) s) :
    RangedWhen (.omld isB f) f s (s.matrixBlock ∧ slotHeld s f = true) needR 0 (imageBytes (tcbNow s) isB)
      (.omld isB f.d.toNat (matLast f)) :=
  rangedWhen_of_slotHeld h (guard_omld isB f) rfl (exec_omld isB f s)

theorem omst_rangedWhen {isB : Bool} {f : FmtA} {s : State} (h : MayRun (.omst isB f) s) :
    RangedWhen (.omst isB f) f s (s.matrixBlock ∧ slotHeld s f = true) needW 1 (imageBytes (tcbNow s) isB)
      (.omst isB f.d.toNat) :=
  rangedWhen_of_slotHeld h (guard_omst isB f) rfl (exec_omst isB f s)

theorem acld_rangedWhen {f : FmtA} {s : State} (h : MayRun (.acld f) s) :
    RangedWhen (.acld f) f s s.matrixBlock needR 0 (tileBytes (tcbNow s)) (.acld f.d.toNat (matLast f)) :=
  rangedWhen_of_configured h (guard_acld f) rfl (exec_acld f s)

theorem acst_rangedWhen {f : FmtA} {s : State} (h : MayRun (.acst f) s) :
    RangedWhen (.acst f) f s s.matrixBlock needW 1 (tileBytes (tcbNow s)) (.acst f.d.toNat) :=
  rangedWhen_of_configured h (guard_acst f) rfl (exec_acst f s)

theorem msave_rangedWhen {f : FmtA} {s : State} (h : MayRun (.msave f) s) :
    RangedWhen (.msave f) f s s.matrixBlock needW 1 recordBytes .msave :=
  rangedWhen_of_configured h (guard_msave f) rfl (exec_msave f s)

/-- Settles O27: all five are operations over the elected lane's range, in a configured block and, for OMLD and OMST, at a claimed
slot. -/
theorem matrixMemoryIssue : Obligations.MatrixMemoryIssue := by
  unfold Obligations.MatrixMemoryIssue
  intro f s m slot held last refused
  refine ⟨fun isB h hb hs => ?omld, fun isB h hb hs => ?omst, fun h => ?acld, fun h => ?acst, fun h => ?msave,
    fun isB h => ?omldRefused, fun isB h => ?omstRefused, fun h => ?acldRefused, fun h => ?acstRefused,
    fun h => ?msaveRefused⟩
  case omld => exact (omld_rangedWhen h).ranged ⟨hb, hs⟩
  case omst => exact (omst_rangedWhen h).ranged ⟨hb, hs⟩
  case acld => exact (acld_rangedWhen h).ranged
  case acst => exact (acst_rangedWhen h).ranged
  case msave => exact (msave_rangedWhen h).ranged
  case omldRefused => exact (omld_rangedWhen h).refused
  case omstRefused => exact (omst_rangedWhen h).refused
  case acldRefused => exact (acld_rangedWhen h).refused
  case acstRefused => exact (acst_rangedWhen h).refused
  case msaveRefused => exact (msave_rangedWhen h).refused

/-! ### Reads at issue (R185, R271, R275) -/

/-- Reads that nothing holds back go on with their bytes. -/
theorem readAtIssue_of_readsAs {t : State} {nud : Nat} {reads : Reads} {q : State × List (List Byte)}
    (h : t.readsAs nud reads q) (go : State → List (List Byte) → Res) : readAtIssue t nud reads go = go q.1 q.2 := by
  obtain ⟨hbehind, hheld, hready, hbytes⟩ := h
  simp [readAtIssue, hbehind, hheld, hready, hbytes]

/-- The others keep the instruction from having its effect. -/
theorem readWaits_of_readAtIssue {i : Instr} {s t : State} {words nud : Nat} {reads : Reads}
    {go : State → List (List Byte) → Res} (he : exec i s = finish s words (readAtIssue t nud reads go)) :
    ReadWaits i s t nud reads := by
  rw [ReadWaits, he]
  refine ⟨fun hbehind => ?behind, fun hbehind hheld => ?held, fun hbehind hheld hready => ?unready,
    fun hbehind hheld hready hbytes => ?taken⟩
  case behind => rw [readAtIssue, if_pos hbehind]; rfl
  case held => simp [readAtIssue, hbehind, hheld, finish]
  case unready => simp [readAtIssue, hbehind, hheld, hready, finish]
  case taken => simp [readAtIssue, hbehind, hheld, hready, hbytes, finish]

/-! ### MRES (R185) -/

/-- MRES of a lane mask m, having read a record in u: it checks the record, and restores it where the queue has room. -/
def mresRestore (f : FmtA) (s u : State) (m : DWord) (r : MRecord) : Res :=
  if !r.ok s.cb.claimed then .trapWith u m cTileState 0#64
  else if !restoreRoom (s.core s.cb.core).mq r then noRoom s (!restoreRoom (pathMops s) r) none
  else .ok (u.restoreRecord m ((s.cg.lane (lowest m)).flagFor f.u) (matNud f) (matAddr s m f) r) 0#64

/-- MRES once the range of its record is served in t: it reads the record there, unless earlier operations of the block are queued. -/
def mresRead (f : FmtA) (s : State) (m : DWord) (t : State) (spans : List (Loc × Nat × LeafBits)) : Res :=
  if matrixBusy s then .stall none
  else readAtIssue t (matNud f) [(lowest m, matAddr s m f, spans)] fun u bs =>
    mresRestore f s u m (.ofBytes (bs.headD []))

theorem execMres_eq_run (f : FmtA) (s : State) : execMres f s = run (.mres f) s fun m => inMatrixBlock s m false fun _ =>
    matRange s m 256 needR 0 (matAddr s m f) recordBytes (mresRead f s m) := rfl

theorem exec_mres_outside_matrixBlock {f : FmtA} {s : State} (h : MayRun (.mres f) s) (hb : s.cb.oslots = 0) :
    exec (.mres f) s = .next (s.trappedAt (s.execLanes f.guard) cTileState 0#64) :=
  (execMres_eq_run f s).trans (run_outside_matrixBlock h (by simp [matReady_unconfigured_iff, hb]) fun m _ =>
    matRange s m 256 needR 0 (matAddr s m f) recordBytes (mresRead f s m))

theorem exec_mres_of_matrixBlock {f : FmtA} {s : State} (h : MayRun (.mres f) s) (hb : s.cb.oslots ≠ 0) :
    exec (.mres f) s = finish s 1 (matRange s (s.execLanes f.guard) 256 needR 0 (matAddr s (s.execLanes f.guard) f)
      recordBytes (mresRead f s (s.execLanes f.guard))) :=
  (execMres_eq_run f s).trans (run_in_matrixBlock h ((matReady_unconfigured_iff s).mpr hb) fun m _ =>
    matRange s m 256 needR 0 (matAddr s m f) recordBytes (mresRead f s m))

section Restore
variable {f : FmtA} {s u : State} {m : DWord} {r : MRecord}

theorem mresRestore_of_bad (hr : r.ok s.cb.claimed = false) : mresRestore f s u m r = .trapWith u m cTileState 0#64 := by
  simp [mresRestore, hr]

theorem mresRestore_of_full (hr : r.ok s.cb.claimed = true) (hq : ¬ (s.core s.cb.core).mq.length + r.pbs.length < 8) :
    mresRestore f s u m r = noRoom s (!restoreRoom (pathMops s) r) none := by
  have hroom : restoreRoom (s.core s.cb.core).mq r = false := decide_eq_false hq
  simp [mresRestore, hr, hroom]

theorem mresRestore_of_room (hr : r.ok s.cb.claimed = true) (hq : (s.core s.cb.core).mq.length + r.pbs.length < 8) :
    mresRestore f s u m r =
      .ok (u.restoreRecord m ((s.cg.lane (lowest m)).flagFor f.u) (matNud f) (matAddr s m f) r) 0#64 := by
  have hroom : restoreRoom (s.core s.cb.core).mq r = true := decide_eq_true hq
  simp [mresRestore, hr, hroom]

end Restore

/-- Settles O29: MRES is served as every range is, reads as every read at issue does, and what the record says decides the rest. -/
theorem matrixRestore : Obligations.MatrixRestore := by
  unfold Obligations.MatrixRestore
  intro f s m addr ts noted reads busy h
  refine ⟨exec_mres_outside_matrixBlock h, fun hb => exec_matRange_of_misaligned (exec_mres_of_matrixBlock h hb),
    fun hb ha => refused_matRange (exec_mres_of_matrixBlock h hb) ha (guard_mres f), fun hb ha ht => ?_⟩
  have hserved : exec (.mres f) s = finish s 1 (mresRead f s m noted.1 (spansOf noted.2)) :=
    exec_matRange_of_reaches (exec_mres_of_matrixBlock h hb) ha ht
  have hread (hq : busy = false) : exec (.mres f) s = finish s 1 (readAtIssue noted.1 (matNud f) reads fun u bs =>
      mresRestore f s u m (.ofBytes (bs.headD []))) := by
    rw [hserved, mresRead, show matrixBusy s = false from hq]
    rfl
  refine ⟨fun hq => ?busy, fun hq => readWaits_of_readAtIssue (hread hq), fun q hq hbytes => ?_⟩
  case busy =>
    rw [hserved, mresRead, show matrixBusy s = true from hq]
    rfl
  intro r room
  have hrestore : exec (.mres f) s = finish s 1 (mresRestore f s q.1 m r) :=
    (hread hq).trans (congrArg (finish s 1) (readAtIssue_of_readsAs hbytes _))
  refine ⟨fun hok hroom => ?restored, fun hok hroom => ?full, fun hok => ?refused⟩
  case restored => rw [hrestore, mresRestore_of_room hok hroom, finish_ok]; rfl
  case full => rw [hrestore, mresRestore_of_full hok hroom, finish_noRoom]
  case refused => rw [hrestore, mresRestore_of_bad hok]; rfl

end Sys2Proof.Machine
end

section
/-!
SUPPORT. The matrix unit at work (R174, R177 to R185): what each of its steps leaves of the accumulator tiles of its core.
-/
namespace Sys2Proof.Machine

namespace State

/-! ### Cores -/

@[simp] theorem core_setCore_same (s : State) (c : Nat) (k : Core) : (s.setCore c k).core c = k := by
  rw [core, setCore_cores, Tbl.getD_set_same]

theorem core_congr {s t : State} (h : t.cores = s.cores) (c : Nat) : t.core c = s.core c := by
  rw [core, core, h]

theorem ReachesMemory.cores {s t : State} (h : s.ReachesMemory t) : t.cores = s.cores := by rw [h]

/-! ### The queue of a core -/

theorem mop_id {s : State} {core k : Nat} {o : MOp} (h : s.mop core k = some o) : o.id = k := by
  simpa using List.find?_some h

@[simp] theorem core_onMop_tiles (s : State) (core id : Nat) (f : MOp → MOp) :
    ((s.onMop core id f).core core).tiles = (s.core core).tiles := by
  simp [onMop]

@[simp] theorem releaseFlag_cores (s : State) (b g : Nat) (fl : Option Nat) : (s.releaseFlag b g fl).cores = s.cores := rfl

@[simp] theorem endLeave_cores (s : State) (core : Nat) (engine : Bool) (id : Nat) (held : Bool) :
    (s.endLeave core engine id held).cores = s.cores := rfl

/-- An operation that leaves the queue changes no tile. -/
@[simp] theorem core_closeMop_tiles (s : State) (core : Nat) (o : MOp) :
    ((s.closeMop core o).core core).tiles = (s.core core).tiles := by
  rw [closeMop]
  split
  · rw [core_congr (endLeave_cores ..), core_congr (releaseFlag_cores ..), core_setCore_same]
  · rw [core_congr (releaseFlag_cores ..), core_setCore_same]

/-! ### Rows of an MMA (R181) -/

@[simp] theorem statusBadscale_cores (s : State) (asid : Nat) : (s.statusBadscale asid).cores = s.cores := by
  rw [statusBadscale]
  split
  · exact (reaches_hubUpdate s _ _).cores
  · rfl

/-- The tiles after the one row step that is next. -/
theorem core_rowSteps_one_tiles {s : State} {core : Nat} {o : MOp} {pb : List Byte} (ho : s.mop core o.id = some o)
    (hp : o.prog < pbSteps pb * tcbM o.tcb) : ((s.rowSteps core o pb 1).core core).tiles =
      (s.block o.blk).rowStep o.tcb pb (o.prog / tcbM o.tcb) (o.prog % tcbM o.tcb) (s.core core).tiles := by
  simp only [rowSteps, ho, if_neg (not_le.mpr hp), core_onMop_tiles]
  split
  · rw [core_congr (statusBadscale_cores ..), core_setCore_same]
  · rw [core_setCore_same]

/-- An MMA o, whose identity is k, leaves the queue once its every row step is performed. -/
def closeIfStepped (s : State) (core k : Nat) (o : MOp) (pb : List Byte) : State :=
  match s.mop core k with
  | some q => if pbSteps pb * tcbM o.tcb ≤ q.prog then s.closeMop core q else s
  | none => s

theorem core_closeIfStepped_tiles (s : State) (core k : Nat) (o : MOp) (pb : List Byte) :
    ((s.closeIfStepped core k o pb).core core).tiles = (s.core core).tiles := by
  rw [closeIfStepped]
  split
  · split
    · exact core_closeMop_tiles ..
    · rfl
  · rfl

end State

/-- An operation that is neither an MMA nor MSAVE begins, and that is all (R174). -/
theorem exec_matrixOpBegin_of_plain {s : State} {core k : Nat} {o : MOp} (ho : s.mop core k = some o) (hb : o.begun = false)
    (hm : mayBegin (s.core core).mq k = true) (hk : o.kind.isMma = false) (hs : o.kind ≠ .msave) :
    exec (.matrixOpBegin core k) s = .next (s.onMop core k fun q => { q with begun := true }) := by
  simp only [exec_matrixOpBegin, execMatrixOpBegin, ho, hb, hm, Bool.not_true, Bool.or_self, Bool.false_eq_true, if_false]
  split
  · next pb hmma => simp [hmma, MKind.isMma] at hk
  · next hsave => exact absurd hsave hs
  · rfl

/-- An MMA that has begun, and has the leave it needs, performs row steps, and leaves the queue with its last (R181, R182). -/
theorem exec_matrixOpComplete_mma {s : State} {core k : Nat} {o : MOp} {pb : List Byte} (ho : s.mop core k = some o)
    (hb : o.begun = true) (hk : o.kind = .mma pb) (hl : pbHeavy pb = true → o.leave = true) (n : Nat) :
    exec (.matrixOpComplete core k n) s = .next ((s.rowSteps core o pb n).closeIfStepped core k o pb) := by
  have hleave : (pbHeavy pb && !o.leave) = false := by
    cases hh : pbHeavy pb
    · rfl
    · simp [hl hh]
  simp only [exec_matrixOpComplete, execMatrixOpComplete, ho, hb, hk, hleave, Bool.not_true, Bool.false_eq_true, if_false]
  rfl

/-- Settles O39: each step is its condition and its effect; a row step of an MMA may end it, which changes no tile. -/
theorem matrixEvents : Obligations.MatrixEvents := by
  unfold Obligations.MatrixEvents
  refine ⟨fun s core k n o ho => ?_, ?grant⟩
  case grant =>
    intro s die q rest hq hfree hover
    simp [execLeaveGrant, hq, hfree, hover]
  intro done moved begins
  refine ⟨fun hb hm => ?_, fun hb => ?_⟩
  · refine ⟨fun pb hk hh => ?heavy, fun pb hk hh => ?light, fun hk => ?save, fun hk hs => ?other⟩
    case heavy | light => simp [execMatrixOpBegin, ho, hb, hm, hk, hh, begins]
    case save => simp [execMatrixOpBegin, ho, hb, hm, hk, begins]
    case other => exact exec_matrixOpBegin_of_plain ho hb hm hk hs
  · refine ⟨fun hk => ?tcfg, fun first m hk => ?claim, fun first m hk => ?release, fun t hk => ?clear,
      fun t dest rows hk => ?deliver, fun tiles hk => ?restore, fun isB slot last hk => ?loadImage,
      fun isB slot hk => ?storeImage, fun t last hk => ?loadTile, fun t hk => ?storeTile, fun hk => ?save,
      fun pb hk hl hp => ⟨_, exec_matrixOpComplete_mma ho hb hk hl 1, ?row⟩⟩
    case row => rw [State.core_closeIfStepped_tiles, State.core_rowSteps_one_tiles (State.mop_id ho ▸ ho) hp]
    case tcfg | claim | release | clear | deliver | restore => simp [execMatrixOpComplete, ho, hb, hk, done]
    case loadImage | storeImage | loadTile | storeTile | save => simp [execMatrixOpComplete, ho, hb, hk, moved]

end Sys2Proof.Machine
end

section
/-!
SUPPORT. The ladder instructions (R189, R199 to R203): the ladder of the launch at issue, the run of registers that ESC and
LDONE take of each executing lane, and what the four do.
-/
namespace Sys2Proof.Machine

/-! ### The ladder of the launch -/

/-- What each of them but ESC does in a ladder's launch; in another it traps (R189). -/
def inLadder (s : State) (m : DWord) (body : Ladder → Res) : Res :=
  match ladderNow s with
  | none => .trap m cLadder 0#64
  | some l => body l

section InLadder
variable {i : Instr} {f : FmtA} {s : State} {body : DWord → Ladder → Res} (h : MayRun i s)
  (he : exec i s = run i s fun m => inLadder s m (body m)) (hg : i.guard = f.guard := by rfl)
include h he hg

theorem exec_outside_ladder (hl : ladderNow s = none) :
    exec i s = .next (s.trappedAt (s.execLanes f.guard) cLadder 0#64) :=
  he.trans (run_trapped h hg (by rw [inLadder, hl]))

theorem exec_in_ladder {l : Ladder} (hl : ladderNow s = some l) (hw : wordsOf i = 1 := by rfl) :
    exec i s = finish s 1 (body (s.execLanes f.guard) l) := by
  rw [he, run_of_mayRun h, hg, hw, inLadder, hl]

end InLadder

/-! ### A run of registers of each executing lane (R190, R200, R201) -/

/-- No lane of a mask has its DONE bit set. -/
def NoneDone (s : State) (m : DWord) : Prop := ∀ i ∈ lanesOf m, (s.cg.lane i).done = false

theorem anyDone_iff (s : State) (m : DWord) : anyDone s m = true ↔ ¬ NoneDone s m := by
  simp [anyDone, NoneDone]

/-- What ESC and LDONE do before they take the run: it must lie in the reservation, no lane may be done, and no lane may wait for a
register of it. -/
def onRun (s : State) (m : DWord) (first n : Nat) (go : Res) : Res :=
  if s.cb.regs < first + n || anyDone s m then .trap m cLadder 0#64
  else if runPending s m first n then .stall (some 0)
  else go

theorem runCheck_iff (s : State) (m : DWord) (first n : Nat) :
    (s.cb.regs < first + n || anyDone s m) = true ↔ s.cb.regs < first + n ∨ ¬ NoneDone s m := by
  rw [Bool.or_eq_true, decide_eq_true_iff, anyDone_iff]

/-- An instruction takes its run, waits for a register of it, or traps. -/
structure RunsWhen (i : Instr) (s : State) (m : DWord) (first n : Nat) (go : Res) : Prop where
  taken : first + n ≤ s.cb.regs → NoneDone s m → runPending s m first n = false → exec i s = finish s 1 go
  pending : first + n ≤ s.cb.regs → NoneDone s m → ¬ runPending s m first n = false →
    exec i s = .next (s.result (.stalled (some 0)))
  refused : s.cb.regs < first + n ∨ ¬ NoneDone s m → exec i s = .next (s.trappedAt m cLadder 0#64)

theorem runsWhen_of_onRun {i : Instr} {s : State} {m : DWord} {first n : Nat} {go : Res}
    (he : exec i s = finish s 1 (onRun s m first n go)) : RunsWhen i s m first n go := by
  have hpass (hn : first + n ≤ s.cb.regs) (hd : NoneDone s m) : ¬ (s.cb.regs < first + n || anyDone s m) = true := by
    rw [runCheck_iff]
    exact not_or.mpr ⟨Nat.not_lt.mpr hn, not_not_intro hd⟩
  refine ⟨fun hn hd hp => ?taken, fun hn hd hp => ?pending, fun hbad => ?refused⟩
  case taken => rw [he, onRun, if_neg (hpass hn hd), hp, if_neg Bool.false_ne_true]
  case pending => rw [he, onRun, if_neg (hpass hn hd), if_pos (Bool.not_eq_false _ ▸ hp)]; rfl
  case refused => rw [he, onRun, if_pos ((runCheck_iff s m first n).mpr hbad)]; rfl

/-! ### ESC (R200) -/

/-- A launch without a ladder has no rung to escalate to, and a group none at or below its own. -/
theorem escRung_eq_none_of_low {s : State} {f : FmtA} (h : ladderNow s = none ∨ f.b.toNat ≤ s.cg.rung) :
    escRung s f = none := by
  rw [escRung]
  rcases h with h | h
  · rw [h]
  · cases ladderNow s with
    | none => rfl
    | some l => exact if_pos h

theorem escRung_eq_none_of_beyond {s : State} {f : FmtA} {l : Ladder} (hl : ladderNow s = some l)
    (h : l.rungs.length ≤ f.b.toNat) : escRung s f = none := by
  rw [escRung, hl]
  exact ite_eq_left_iff.mpr fun _ => List.getElem?_eq_none h

theorem escRung_of_higher {s : State} {f : FmtA} {l : Ladder} (hl : ladderNow s = some l) (hk : s.cg.rung < f.b.toNat) :
    escRung s f = l.rungs[f.b.toNat]? := by
  rw [escRung, hl]
  exact if_neg (Nat.not_le.mpr hk)

/-- The lanes of a mask for which the ring of the rung has room. -/
def escGo (f : FmtA) (s : State) (m : DWord) (r : Rung) : List Nat :=
  (lanesOf m).take (r.ring - (ringNow s f.b.toNat).frames.length)

/-- The state once their frames stand in the ring, and they have ended. -/
def escEntered (f : FmtA) (s : State) (m : DWord) (r : Rung) : State :=
  (s.setRing (ringKey s.cb.core s.cb.launch f.b.toNat) { ringNow s f.b.toNat with
    frames := (ringNow s f.b.toNat).frames ++ (escGo f s m r).map (frameOf s f.a.toNat r.frame) }).retireLanes
      s.cur.blk s.cur.grp (maskOf fun i => (escGo f s m r).contains i)

/-- ESC once its lanes' frames are taken: it waits while no lane may enter, unless path A may have filled the ring. -/
def escEnter (f : FmtA) (s : State) (m : DWord) (r : Rung) : Res :=
  if escGo f s m r = [] && !s.cur.follows then .stall none else .ok (escEntered f s m r) m

theorem execEsc_eq (f : FmtA) (s : State) : execEsc f s = run (.esc f) s fun m =>
    match escRung s f with
    | none => .trap m cLadder 0#64
    | some r => onRun s m f.a.toNat r.frame (escEnter f s m r) := rfl

section Esc
variable {f : FmtA} {s : State} (h : MayRun (.esc f) s)
include h

theorem exec_esc_of_no_rung (hr : escRung s f = none) :
    exec (.esc f) s = .next (s.trappedAt (s.execLanes f.guard) cLadder 0#64) := by
  rw [exec_esc, execEsc_eq]
  exact run_trapped h (hb := by rw [hr])

theorem esc_runsWhen {r : Rung} (hr : escRung s f = some r) : RunsWhen (.esc f) s (s.execLanes f.guard) f.a.toNat r.frame
    (escEnter f s (s.execLanes f.guard) r) :=
  runsWhen_of_onRun (by rw [exec_esc, execEsc_eq, run_of_mayRun h, guard_esc, hr]; rfl)

end Esc

theorem finish_escEnter_of_entry {f : FmtA} {s : State} {m : DWord} {r : Rung}
    (h : escGo f s m r ≠ [] ∨ s.cur.follows = true) :
    finish s 1 (escEnter f s m r) = .next (s.pastWords (escEntered f s m r) 1 m) := by
  have hgo : ¬ (escGo f s m r = [] && !s.cur.follows) = true := by
    rcases h with h | h <;> simp [h]
  rw [escEnter, if_neg hgo, finish_ok]

theorem finish_escEnter_of_full {f : FmtA} {s : State} {m : DWord} {r : Rung} (h : escGo f s m r = [])
    (hf : s.cur.follows = false) : finish s 1 (escEnter f s m r) = .next (s.result (.stalled none)) := by
  rw [escEnter, if_pos (by simp [h, hf])]
  rfl

/-! ### LDONE (R201) -/

/-- The pieces of the records of the lanes of a mask, looked up. -/
def recordTouches (s : State) (l : Ladder) (m : DWord) : List Touch :=
  (lanesOf m).flatMap fun i =>
    (rangeChunks 4 (recordAddr l (s.cg.lane i)) l.rstride).map fun c => s.touch needW i c.1 c.2

/-- The stores of the records whose pieces were looked up, as one operation of the path at issue. -/
def recordStores (f : FmtA) (s : State) (l : Ladder) (us : List Touch) : Op :=
  { kind := .ldone, blk := s.cur.blk, grp := s.cur.grp, core := s.cb.core, asid := s.cb.asid, flag := none, wid := 2
    acq := false, rel := false, scope := 3, far := false, last := false, nud := 0, clock := s.cb.reuse, dest := 0
    pc := s.cur.pc, after := s.partner, accs := us.flatMap (recordAccs s l f.a.toNat) }

/-- The state t, with the lanes of a mask done and the stores of their records outstanding. -/
def ldoneLeft (f : FmtA) (s : State) (l : Ladder) (m : DWord) (t : State) (us : List Touch) : State :=
  let t1 := t.onExec m fun _ x => { x with done := true }
  { t1 with ops := t1.ops.set t1.nextId (recordStores f s l us), nextId := t1.nextId + 1 }

/-- LDONE once its lanes' registers may be taken: the checks of R150 over the records, then their stores. -/
def ldoneServe (f : FmtA) (s : State) (l : Ladder) (m : DWord) : Res :=
  serveTouches s m 1 (recordTouches s l m) fun t us => .ok (ldoneLeft f s l m t us) 0#64

theorem execLdone_eq (f : FmtA) (s : State) : execLdone f s = run (.ldone f) s fun m => inLadder s m fun l =>
    onRun s m f.a.toNat (l.rstride / 4) (ldoneServe f s l m) := rfl

theorem ldone_runsWhen {f : FmtA} {s : State} {l : Ladder} (h : MayRun (.ldone f) s) (hl : ladderNow s = some l) :
    RunsWhen (.ldone f) s (s.execLanes f.guard) f.a.toNat (l.rstride / 4) (ldoneServe f s l (s.execLanes f.guard)) :=
  runsWhen_of_onRun (exec_in_ladder h (execLdone_eq f s) (guard_ldone f) hl)

theorem finish_ldoneServe_of_reaches (f : FmtA) (s : State) (l : Ladder) (m : DWord)
    (ht : ∀ t ∈ recordTouches s l m, t.reaches) : finish s 1 (ldoneServe f s l m) = .next (s.pastWords
      (ldoneLeft f s l m (s.noteTouches (recordTouches s l m)).1 (s.noteTouches (recordTouches s l m)).2) 1 0#64) := by
  rw [ldoneServe, serveTouches_of_reaches s m 1 ht, finish_ok]

/-! ### LQRY and LDRAIN (R202, R203) -/

theorem execLqry_eq (f : FmtA) (s : State) : execLqry f s = run (.lqry f) s fun m => inLadder s m fun l =>
    if l.rungs.length ≤ f.b.toNat then .trap m cLadder 0#64
    else .ok (s.onExec m fun _ x => x.put f.d.toNat 32 (ringWord s l f.b.toNat)) 0#64 := rfl

theorem execLdrain_eq (f : FmtA) (s : State) : execLdrain f s = run (.ldrain f) s fun m => inLadder s m fun l =>
    if f.b.toNat = 0 || l.rungs.length ≤ f.b.toNat then .trap m cLadder 0#64
    else .ok (s.setRing (ringKey s.cb.core s.cb.launch f.b.toNat) { ringNow s f.b.toNat with forced := true }) 0#64 := rfl

section Rungs
variable {f : FmtA} {s : State} {l : Ladder} (hl : ladderNow s = some l)
include hl

theorem exec_lqry_of_rung (h : MayRun (.lqry f) s) (hk : f.b.toNat < l.rungs.length) : exec (.lqry f) s = .next
    (s.pastWords (s.onExec (s.execLanes f.guard) fun _ x => x.put f.d.toNat 32 (ringWord s l f.b.toNat)) 1 0#64) := by
  rw [exec_in_ladder h (execLqry_eq f s) (guard_lqry f) hl, if_neg (Nat.not_le.mpr hk), finish_ok]

theorem exec_lqry_beyond (h : MayRun (.lqry f) s) (hk : l.rungs.length ≤ f.b.toNat) :
    exec (.lqry f) s = .next (s.trappedAt (s.execLanes f.guard) cLadder 0#64) := by
  rw [exec_in_ladder h (execLqry_eq f s) (guard_lqry f) hl, if_pos hk, finish_trap, State.trappedAt]

/-- Rung 0 has no ring to drain (R203). -/
theorem exec_ldrain_of_rung (h : MayRun (.ldrain f) s) (h0 : 0 < f.b.toNat) (hk : f.b.toNat < l.rungs.length) :
    exec (.ldrain f) s = .next (s.pastWords (s.setRing (ringKey s.cb.core s.cb.launch f.b.toNat)
      { ringNow s f.b.toNat with forced := true }) 1 0#64) := by
  have hrung : ¬ (f.b.toNat = 0 || l.rungs.length ≤ f.b.toNat) = true := by
    simpa using ⟨h0.ne', hk⟩
  rw [exec_in_ladder h (execLdrain_eq f s) (guard_ldrain f) hl, if_neg hrung, finish_ok]

theorem exec_ldrain_beyond (h : MayRun (.ldrain f) s) (hk : f.b.toNat = 0 ∨ l.rungs.length ≤ f.b.toNat) :
    exec (.ldrain f) s = .next (s.trappedAt (s.execLanes f.guard) cLadder 0#64) := by
  have hrung : (f.b.toNat = 0 || l.rungs.length ≤ f.b.toNat) = true := by simpa using hk
  rw [exec_in_ladder h (execLdrain_eq f s) (guard_ldrain f) hl, if_pos hrung, finish_trap, State.trappedAt]

end Rungs

/-- Settles O34: each of the four is its checks and its effect; what LDONE's records are refused for is what R150 says. -/
theorem ladderInstructions : Obligations.LadderInstructions := by
  unfold Obligations.LadderInstructions
  intro f s l
  refine ⟨fun r h hl hk hr hn hd hp => ?esc, fun h hl hn hd hp ht => ?ldone, fun h hl hk => ?lqry, fun h hl h0 hk => ?ldrain,
    fun h hl hn hd hp => ?ldoneRefused, fun r h hl hk hr hn hd hp => ?escPending, fun h hl hn hd hp => ?ldonePending,
    fun h hlow => ?escLow, fun h hl hk => ?escBeyond, fun r h hl hk hr hbad => ?escRun, fun h hl => ?ldoneOutside,
    fun h hl hbad => ?ldoneRun, fun h hl => ?lqryOutside, fun h hl hk => ?lqryBeyond, fun h hl => ?ldrainOutside,
    fun h hl hk => ?ldrainRung⟩
  case esc =>
    have htaken := (esc_runsWhen h ((escRung_of_higher hl hk).trans hr)).taken hn hd hp
    exact ⟨fun hgo => htaken.trans (finish_escEnter_of_entry hgo),
      fun hgo hf => htaken.trans (finish_escEnter_of_full hgo hf)⟩
  case escPending => exact (esc_runsWhen h ((escRung_of_higher hl hk).trans hr)).pending hn hd hp
  case escRun => exact (esc_runsWhen h ((escRung_of_higher hl hk).trans hr)).refused hbad
  case escLow => exact exec_esc_of_no_rung h (escRung_eq_none_of_low hlow)
  case escBeyond => exact exec_esc_of_no_rung h (escRung_eq_none_of_beyond hl hk)
  case ldone => exact ((ldone_runsWhen h hl).taken hn hd hp).trans (finish_ldoneServe_of_reaches f s l _ ht)
  case ldoneRefused => exact refused_of_serveTouches ((ldone_runsWhen h hl).taken hn hd hp)
  case ldonePending => exact (ldone_runsWhen h hl).pending hn hd hp
  case ldoneRun => exact (ldone_runsWhen h hl).refused hbad
  case ldoneOutside => exact exec_outside_ladder h (execLdone_eq f s) (guard_ldone f) hl
  case lqry => exact exec_lqry_of_rung hl h hk
  case lqryBeyond => exact exec_lqry_beyond hl h hk
  case lqryOutside => exact exec_outside_ladder h (execLqry_eq f s) (guard_lqry f) hl
  case ldrain => exact exec_ldrain_of_rung hl h h0 hk
  case ldrainRung => exact exec_ldrain_beyond hl h hk
  case ldrainOutside => exact exec_outside_ladder h (execLdrain_eq f s) (guard_ldrain f) hl

end Sys2Proof.Machine
end

section
/-!
SUPPORT. The steps of a ladder besides its instructions (R190, R191, R194 to R197): a ring that fires, the packed group that
takes its oldest frames, and the ladder's completion word.
-/
namespace Sys2Proof.Machine

/-! ### Rings -/

/-- The oldest frame of a ring, once it has waited HOLD cycles, fires it (R190). -/
theorem exec_ringHoldExpire_of_held {s : State} {core launch k : Nat} {r : Ring} {rs : List Rung} {f : Frame}
    {fs : List Frame} {d : Rung} (hr : s.rings.get? (ringKey core launch k) = some r)
    (hrs : (s.launch launch).ladder.map Ladder.rungs = some rs) (hf : r.frames = f :: fs) (hd : rs[k]? = some d)
    (hage : d.hold ≤ (s.clock core - f.stamp).toNat) (hhold : (s.die (dieOf core)).hold = false) :
    exec (.ringHoldExpire core launch k) s = .next (s.setRing (ringKey core launch k) { r with firing := some 18 }) := by
  have hdue : (d.hold ≤ (s.clock core - f.stamp).toNat && !(s.die (dieOf core)).hold) = true := by
    rw [hhold, decide_eq_true hage]
    rfl
  simp only [exec_ringHoldExpire, execRingHoldExpire, hr, hrs, hf, hd, hdue, if_true]

/-- An empty ring is no ring in use, and reads as one without frames. -/
theorem State.frames_ring_setRing (s : State) (k : Nat) (r : Ring) : ((s.setRing k r).ring k).frames = r.frames := by
  rw [State.ring, State.setRing]
  split
  · next h => simp [h, Tbl.getD_eq, Tbl.get?_erase, Ring.init]
  · simp

/-! ### Packed groups -/

section Packed
variable (s : State) (core launch rung : Nat) (r : Rung)

theorem State.packed_mem : (s.packed core launch rung r).mem = s.mem := State.setRing_mem s _ _

/-- The ring has lost the frames that the group has taken (R196). -/
theorem State.frames_ring_packed : ((s.packed core launch rung r).ring (ringKey core launch rung)).frames =
    (s.ring (ringKey core launch rung)).frames.drop 64 := s.frames_ring_setRing _ _

/-- They stand in the one group of a new block (R194). -/
theorem State.block_packed :
    let b := (s.packed core launch rung r).block (packedKey s.nextId)
    b.packed = some rung ∧ b.launch = launch ∧ b.core = core ∧ b.groups =
      [(0, startPacked (s.launch launch) rung r ((s.ring (ringKey core launch rung)).frames.take 64) s.now)] := by
  simp [State.packed, State.block, State.touchDomains, State.onCtx, State.arrive]

end Packed

/-- A ring that fires starts a packed group, where it has room and no ring that fires goes before it (R195 to R197). -/
theorem exec_packedGroupStart_of_first {s : State} {core launch k ev : Nat} {lad : Ladder} {r : Rung}
    (hev : s.trigger core launch k = some ev) (hl : (s.launch launch).ladder = some lad) (hr : lad.rungs[k]? = some r)
    (hk : k ≠ 0) (hc : core < Config.numCores) (hi : (s.core core).issued = [])
    (hfit : ((s.packed core launch k r).coreUse core).fits = true)
    (hfirst : ∀ x ∈ s.firingRings core, x = (launch, k) ∨ s.startsBefore x (launch, k) = false)
    (hhold : (s.die (dieOf core)).hold = false) :
    exec (.packedGroupStart core launch k) s = .next ((s.packed core launch k r).count (dieOf core) ev) := by
  have hall : ∀ p : Nat × Nat → Bool,
      (s.firingRings core).all (fun x => x == (launch, k) || !s.startsBefore x (launch, k) || p x) = true := fun p =>
    List.all_eq_true.mpr fun x hx => (hfirst x hx).elim (fun he => by simp [he]) fun he => by simp [he]
  simp only [exec_packedGroupStart, execPackedGroupStart, hev, hl, hr]
  exact if_pos (by simp [hk, hc, hi, hfit, hhold, hall])

/-! ### The completion word (R191) -/

/-- Every item of a launch's ladder is done, its completion word is not written, and its context lives. -/
structure LadderOver (s : State) (launch : Nat) (lad : Ladder) : Prop where
  ladder : (s.launch launch).ladder = some lad
  unwritten : (s.launch launch).ladderDone = false
  notDone : (s.launch launch).st ≠ .done
  notDiscarded : (s.launch launch).st ≠ .discarded
  items : lad.items ≤ (s.launch launch).doneCount
  live : (s.ctx (s.launch launch).asid).tearing = none

namespace LadderOver
variable {s : State} {launch : Nat} {lad : Ladder} (h : LadderOver s launch lad)
include h

theorem check : ((s.launch launch).ladderDone || (s.launch launch).st == .done || (s.launch launch).st == .discarded ||
    (s.launch launch).doneCount < lad.items || (s.ctx (s.launch launch).asid).tearing.isSome) = false := by
  simp [h.unwritten, h.notDone, h.notDiscarded, h.items, h.live]

/-- What the write of the word needs is asked for. -/
theorem exec_of_waits {as : List Ask}
    (hw : s.virtWaits hubCore (s.launch launch).asid needW lad.doneAddr 8 = some as) :
    exec (.ladderDoneWrite launch) s = .next (s.askFor as) := by
  simp only [exec_ladderDoneWrite, execLadderDoneWrite, h.ladder, h.check, hw, Bool.false_eq_true, if_false]

/-- With all of it there, the word is written, or its record posted, once. -/
theorem exec_of_walked (hw : s.virtWaits hubCore (s.launch launch).asid needW lad.doneAddr 8 = none) :
    let l := s.launch launch
    let r := s.virtWrite l.asid lad.doneAddr lad.doneVal launch
    exec (.ladderDoneWrite launch) s = .next ((if r.2 then r.1 else r.1.post11 l.asid l.device l.desc lad.doneVal 2).onLaunch
      launch fun x => { x with ladderDone := true }) := by
  simp only [exec_ladderDoneWrite, execLadderDoneWrite, h.ladder, h.check, hw, Bool.false_eq_true, if_false]

end LadderOver

/-- Settles O41: each step is its condition and its effect; the packed group's block is `State.block_packed`'s. -/
theorem ladderEvents : Obligations.LadderEvents := by
  unfold Obligations.LadderEvents
  intro s core launch k key l
  refine ⟨fun r rs f fs d hr hrs hfs hd hage hhold => ?hold, fun ev lad r hev hl hr hk hc hi hfit hfirst hhold => ?start,
    fun lad hl hun hst hst' hitems hlive hw => ?write, fun lad as hl hun hst hst' hitems hlive hw => ?wait,
    fun cache owner e h0 he hidle => ?owner⟩
  case hold => exact exec_ringHoldExpire_of_held hr hrs hfs hd hage hhold
  case start =>
    exact ⟨_, exec_packedGroupStart_of_first hev hl hr hk hc hi hfit hfirst hhold, s.frames_ring_packed core launch k r,
      s.packed_mem core launch k r, packedKey s.nextId, s.block_packed core launch k r⟩
  case write => exact LadderOver.exec_of_walked ⟨hl, hun, hst, hst', hitems, hlive⟩ hw
  case wait => exact LadderOver.exec_of_waits ⟨hl, hun, hst, hst', hitems, hlive⟩ hw
  case owner => simp [execOwnerIdleExpire, h0, he, hidle]

end Sys2Proof.Machine
end

section
/-!
SUPPORT. The coherence messages where they stand (R209 to R212, R245 to R255): what the interface of a router drops, and
each message's act, case by case.
-/
namespace Sys2Proof.Machine

/-! ### A message at an interface (R255, R292) -/

/-- Each event of a message is performed on the message it names, of its own type. -/
theorem exec_event (s : State) (m : Nat) (k : Msg) : ∃ f, exec (k.event m) s = s.onMsg m k.typ f := by
  unfold Msg.event
  cases k.typ <;> simp only [exec_rd, exec_own, exec_data, exec_nh, exec_inv, exec_ack, exec_prune, exec_pack, exec_unlink,
    exec_wb, exec_wba, exec_refuse] <;> exact ⟨_, rfl⟩

/-- A message of an older incarnation is dropped where it stands, and counted. -/
theorem exec_event_of_stale {s : State} {m : Nat} {k : Msg} (hm : s.msg m = some k)
    (hold : (k.inc - s.incOf k.agent).toInt < 0) :
    exec (k.event m) s = .next ((s.dropMsg m).count ((agentAt k.x k.y).getD hubDie) 13) := by
  obtain ⟨f, hf⟩ := exec_event s m k
  have hdrops : s.dropsMsg k = true := by rw [State.dropsMsg, decide_eq_true hold, Bool.true_or]
  simp [hf, State.onMsg, hm, hdrops]

/-- What a message is about does not change as it passes its catcher. -/
theorem State.passVia_eq (k : Msg) : State.passVia k = { k with via := (State.passVia k).via } := by
  unfold State.passVia
  split <;> rfl

/-- A message that stands in the mesh, and that the interface of its stop does not drop. -/
structure State.Stands (s : State) (m : Nat) (k : Msg) : Prop where
  there : s.msg m = some k
  kept : s.dropsMsg k = false

namespace State.Stands
variable {s : State} {m : Nat} {k : Msg} (h : s.Stands m k)
include h

/-- Such a message acts. -/
theorem onMsg {t : MsgType} (ht : k.typ = t) (f : State → Msg → State) : s.onMsg m t f = .next (f s k) := by
  simp [State.onMsg, h.there, h.kept, ht]

/-! ### RD and NH (R209, R247) -/

section Read

theorem rd_of_atLocal (ht : k.typ = .rd) (hl : k.atLocal = true) : exec (.rd m) s = .next (s.holderRead m k) := by
  simp [execRd, h.onMsg ht, hl]

theorem rd_of_unsteered (ht : k.typ = .rd) (hl : k.atLocal = false) (htr : k.trail = []) :
    exec (.rd m) s = .next (s.readOnWay m k) := by
  simp [execRd, h.onMsg ht, hl, htr]

variable {p : Nat × BitVec 5 × Nat} {ps : List (Nat × BitVec 5 × Nat)}

theorem rd_of_steered (ht : k.typ = .rd) (hl : k.atLocal = false) (htr : k.trail = p :: ps) :
    exec (.rd m) s = .next (s.readSteered m k p) := by
  simp [execRd, h.onMsg ht, hl, htr]

/-- A search that has been at the router, or meets no entry there, is answered NH. -/
theorem rd_of_notHere (ht : k.typ = .rd) (hl : k.atLocal = false) (htr : k.trail = p :: ps) (hb : s.isBehind m k = false)
    (hn : k.trail.any (fun q => q.1 == stopNo k.x k.y) = true ∨ s.ent k.x k.y k.line = none) :
    exec (.rd m) s = .next (s.notHere m { k with trail := (stopNo k.x k.y, 0#5, k.dir) :: k.trail } p) := by
  rw [h.rd_of_steered ht hl htr, State.readSteered, if_neg (by simp [hb])]
  by_cases hk : k.trail.any (fun q => q.1 == stopNo k.x k.y) = true
  · rw [if_pos hk]
  · rw [if_neg hk, hn.resolve_left hk]

/-- Another goes on from the router's entry, unless that is going away. -/
theorem rd_of_entry {x : TreeEnt} (ht : k.typ = .rd) (hl : k.atLocal = false) (htr : k.trail = p :: ps)
    (hb : s.isBehind m k = false) (hn : k.trail.any (fun q => q.1 == stopNo k.x k.y) = false)
    (he : s.ent k.x k.y k.line = some x) :
    let here := { k with trail := (stopNo k.x k.y, 0#5, k.dir) :: k.trail }
    exec (.rd m) s = .next (if s.goingAway x then s.refuseOrWait m here else s.steer m here x) := by
  rw [h.rd_of_steered ht hl htr, State.readSteered, if_neg (by simp [hb]), if_neg (by simp [hn]), he]

theorem nh_of_entry {x : TreeEnt} (ht : k.typ = .nh) (he : s.ent k.x k.y k.line = some x) :
    exec (.nh m) s = .next (s.steer m (s.sentBy { k with typ := .rd } k.die) x) := by
  simp [execNh, h.onMsg ht, he]

theorem nh_of_noEntry_back {q : Nat × BitVec 5 × Nat} (ht : k.typ = .nh) (he : s.ent k.x k.y k.line = none)
    (htr : k.trail = q :: p :: ps) : exec (.nh m) s = .next (s.notHere m k p) := by
  simp [execNh, h.onMsg ht, he, htr]

/-- At the router that caught the read, which has no entry any more, the read goes on to the root. -/
theorem nh_of_noEntry_root (ht : k.typ = .nh) (he : s.ent k.x k.y k.line = none) (htr : k.trail.length < 2) :
    exec (.nh m) s = .next (s.become m (s.sentBy { k with typ := .rd, trail := [], rooted := true } k.die)) := by
  simp only [exec_nh, execNh, h.onMsg ht, he]
  split
  · next heq => simp [heq] at htr
  · rfl

end Read

/-! ### DATA and REFUSE (R210, R212, R247) -/

theorem data_of_back {p : Nat × Nat} (ht : k.typ = .data) (hw : State.wayBack (State.passVia k) = .back p) :
    exec (.data m) s = .next ((s.clearTransient (State.passVia k)).goTo m (State.passVia k) p) := by
  simp [execData, h.onMsg ht, hw]

theorem refuse_of_back {p : Nat × Nat} (ht : k.typ = .refuse) (hw : State.wayBack (State.passVia k) = .back p) :
    exec (.refuse m) s = .next ((s.clearTransient (State.passVia k)).goTo m (State.passVia k) p) := by
  simp [execRefuse, h.onMsg ht, hw]

theorem refuse_of_on {d : Nat} (ht : k.typ = .refuse) (hw : State.wayBack (State.passVia k) = .on d) :
    let q := State.passVia k
    exec (.refuse m) s = .next (if d = 0 then ((s.clearTransient q).dropMsg m).resend q.req (!q.uncounted)
      else (s.clearTransient q).goHop m { q with trail := [] } d) := by
  simp [execRefuse, h.onMsg ht, hw]

/-- DATA on its way grafts its router, where it can, and goes on. -/
theorem data_of_on {d : Nat} (ht : k.typ = .data) (hw : State.wayBack (State.passVia k) = .on d) :
    let q := State.passVia k
    let root := s.homeStop k.line == (k.x, k.y)
    let g := s.graft k.x k.y k.line d (opposite k.dir) root q.via.isSome
    let t := ((g.1.untry k.x k.y k.line d).rejoin q (s.ent k.x k.y k.line)).clearTransient q
    let u := if root = true ∧ k.grant = 3#3 then t.served k.req else t
    exec (.data m) s = .next (if !g.2 then g.1 else if d = 0 then u.deliverData m q else u.goHop m { q with trail := [] } d) := by
  obtain ⟨v, hv⟩ : ∃ v, State.passVia k = { k with via := v } := ⟨_, State.passVia_eq k⟩
  rw [hv] at hw ⊢
  simp only [exec_data, execData, h.onMsg ht, hv, hw, State.served, Bool.and_eq_true, beq_iff_eq]

/-! ### OWN (R210, R212, R251, R252) -/

section Own
variable {x : TreeEnt} {r : Req} {t : State} (ht : k.typ = .own)
include ht

theorem own_of_away (haway : ¬ (k.x = k.tx ∧ k.y = k.ty)) : exec (.own m) s = .next (s.ownOnWay m k) := by
  simp [execOwn, h.onMsg ht, haway]

theorem own_of_passing (haway : ¬ (k.x = k.tx ∧ k.y = k.ty))
    (hp : k.pers = true ∨ ∀ x, s.ent k.x k.y k.line = some x → s.goingAway x = false) :
    exec (.own m) s = .next (s.goHop m k (routeXY k.x k.y k.tx k.ty)) := by
  have hgo : (!k.pers && (s.ent k.x k.y k.line).any s.goingAway) = false := by
    rcases hp with hp | hp
    · simp [hp]
    · simp [(Option.any_eq_false ..).mpr hp]
  rw [h.own_of_away ht haway, State.ownOnWay, if_neg (by simp [hgo])]

theorem own_of_goingAway (haway : ¬ (k.x = k.tx ∧ k.y = k.ty)) (hp : k.pers = false)
    (he : s.ent k.x k.y k.line = some x) (hg : s.goingAway x = true) :
    exec (.own m) s = .next (s.refuseMsg m k true) := by
  rw [h.own_of_away ht haway, State.ownOnWay, if_pos (by simp [hp, he, hg])]

variable (hhome : ¬¬ (k.x = k.tx ∧ k.y = k.ty))
include hhome

theorem own_of_noRequest (hr : s.mesh.reqs.get? k.req = none) : exec (.own m) s = .next (s.dropMsg m) := by
  simp [execOwn, h.onMsg ht, not_not.mp hhome, hr]

/-- At its home a request is served, waits or is refused as the home meets it. -/
theorem own_of_go (hr : s.mesh.reqs.get? k.req = some r) (hmeet : s.meetHome m k = .go t) :
    exec (.own m) s = .next (t.serveOwn m k r) := by
  simp [execOwn, h.onMsg ht, not_not.mp hhome, hr, hmeet]

theorem own_of_wait (hr : s.mesh.reqs.get? k.req = some r) (hmeet : s.meetHome m k = .wait t) :
    exec (.own m) s = .next t := by
  simp [execOwn, h.onMsg ht, not_not.mp hhome, hr, hmeet]

theorem own_of_refuse (hr : s.mesh.reqs.get? k.req = some r) (hmeet : s.meetHome m k = .refuse t) :
    exec (.own m) s = .next (t.refuseMsg m k true) := by
  simp [execOwn, h.onMsg ht, not_not.mp hhome, hr, hmeet]

end Own

/-! ### INV and ACK (R248, R249) -/

section Inv
variable {x : TreeEnt}

/-- An INV and a PRUNE do not overtake what stands before them. -/
theorem event_of_behind (ht : k.typ = .inv ∨ k.typ = .prune) (hb : s.isBehind m k = true) : exec (k.event m) s = .next s := by
  rcases ht with ht | ht
  · simp [Msg.event, execInv, h.onMsg ht, ht, hb]
  · simp [Msg.event, execPrune, h.onMsg ht, ht, hb]

theorem inv_of_noEntry (ht : k.typ = .inv) (hb : s.isBehind m k = false) (he : s.ent k.x k.y k.line = none) :
    exec (.inv m) s = .next (s.answerEmpty m k .ack) := by
  simp [execInv, h.onMsg ht, hb, he]

/-- By a second link, while the router is busy with the same request. -/
theorem inv_of_again (ht : k.typ = .inv) (hb : s.isBehind m k = false) (he : s.ent k.x k.y k.line = some x)
    (hw : x.awaiting ≠ 0#5) (hev : x.evicting = false) (hreq : x.awaitReq = k.req) :
    exec (.inv m) s = .next ((s.dropMsg m).invalidateMore x k) := by
  simp [execInv, h.onMsg ht, hb, he, hw, hev, hreq]

theorem inv_of_held (ht : k.typ = .inv) (hb : s.isBehind m k = false) (he : s.ent k.x k.y k.line = some x)
    (hx : x.evicting = true ∨ (x.transient ≠ [] ∧ x.awaiting = 0#5) ∨ (x.awaiting ≠ 0#5 ∧ x.awaitReq ≠ k.req)) :
    exec (.inv m) s = .next s := by
  have hagain : (x.awaiting != 0#5 && !x.evicting && x.awaitReq == k.req) = false := by
    rcases hx with hev | ⟨-, hw⟩ | ⟨-, hreq⟩
    · simp [hev]
    · simp [hw]
    · simp [hreq]
  have hbusy : (x.transient != [] || x.evicting || x.awaiting != 0#5) = true := by
    rcases hx with hev | ⟨htr, -⟩ | ⟨hw, -⟩
    · simp [hev]
    · simp [htr]
    · simp [hw]
  simp only [exec_inv, execInv, h.onMsg ht, hb, he, hagain, hbusy, Bool.false_eq_true, if_false, if_true]

theorem inv_of_idle (ht : k.typ = .inv) (hb : s.isBehind m k = false) (he : s.ent k.x k.y k.line = some x)
    (htr : x.transient = []) (hev : x.evicting = false) (hw : x.awaiting = 0#5) :
    exec (.inv m) s = .next ((s.dropMsg m).invalidate x k.req k.smask k.exempt (opposite k.dir)) := by
  simp [execInv, h.onMsg ht, hb, he, htr, hev, hw]

theorem ack_of_entry (ht : k.typ = .ack) (he : s.ent k.x k.y k.line = some x) :
    let d := linkBit (opposite k.dir)
    let y := { x with
      awaiting := x.awaiting &&& ~~~d, dirty := x.dirty ||| k.smask
      links := if k.pruned then x.links &&& ~~~d else x.links }
    let t := (s.dropMsg m).onEnt k.x k.y k.line fun _ => y
    exec (.ack m) s = .next (if y.awaiting = 0#5 then t.ackUp y else t) := by
  simp only [exec_ack, execAck, h.onMsg ht, he, beq_iff_eq]

/-- An ACK and a PACK that meet no entry are over. -/
theorem event_of_noEntry (ht : k.typ = .ack ∨ k.typ = .pack) (he : s.ent k.x k.y k.line = none) :
    exec (k.event m) s = .next (s.dropMsg m) := by
  rcases ht with ht | ht
  · simp [Msg.event, execAck, h.onMsg ht, ht, he]
  · simp [Msg.event, execPack, h.onMsg ht, ht, he]

/-! ### PRUNE, PACK and UNLINK (R211, R250) -/

theorem prune_of_noEntry (ht : k.typ = .prune) (hb : s.isBehind m k = false) (he : s.ent k.x k.y k.line = none) :
    exec (.prune m) s = .next (s.answerEmpty m k .pack) := by
  simp [execPrune, h.onMsg ht, hb, he]

/-- By a second link, while the router is busy with the same eviction. -/
theorem prune_of_again (ht : k.typ = .prune) (hb : s.isBehind m k = false) (he : s.ent k.x k.y k.line = some x)
    (hev : x.evicting = true) (hreq : x.awaitReq = k.req) :
    exec (.prune m) s = .next ((s.dropMsg m).send (State.fromRouter .pack x (opposite k.dir))) := by
  simp [execPrune, h.onMsg ht, hb, he, hev, hreq]

theorem prune_of_held (ht : k.typ = .prune) (hb : s.isBehind m k = false) (he : s.ent k.x k.y k.line = some x)
    (hx : (x.evicting = true ∧ x.awaitReq ≠ k.req) ∨ (x.evicting = false ∧ (x.transient ≠ [] ∨ x.awaiting ≠ 0#5))) :
    exec (.prune m) s = .next s := by
  rcases hx with ⟨hev, hreq⟩ | ⟨hev, htr | hw⟩
  · simp [execPrune, h.onMsg ht, hb, he, hev, hreq]
  · simp [execPrune, h.onMsg ht, hb, he, hev, htr]
  · simp [execPrune, h.onMsg ht, hb, he, hev, hw]

theorem prune_of_idle (ht : k.typ = .prune) (hb : s.isBehind m k = false) (he : s.ent k.x k.y k.line = some x)
    (htr : x.transient = []) (hev : x.evicting = false) (hw : x.awaiting = 0#5) :
    exec (.prune m) s = .next ((s.dropMsg m).beginPrune x false k.req (opposite k.dir)) := by
  simp [execPrune, h.onMsg ht, hb, he, htr, hev, hw]

theorem pack_of_entry (ht : k.typ = .pack) (he : s.ent k.x k.y k.line = some x) :
    exec (.pack m) s = .next ((s.dropMsg m).pruneAnswer x (opposite k.dir)) := by
  simp [execPack, h.onMsg ht, he]

end Inv

theorem unlink (ht : k.typ = .unlink) : exec (.unlink m) s = .next (((s.dropMsg m).onEnt k.x k.y k.line fun x =>
    { x with links := x.links &&& ~~~linkBit (opposite k.dir) }).settle k.x k.y k.line) := by
  simp [execUnlink, h.onMsg ht]

/-! ### WB and WBA (R250) -/

section WriteBack
variable {x : TreeEnt}

theorem wb_of_away (ht : k.typ = .wb) (haway : ¬ (k.x = k.tx ∧ k.y = k.ty)) :
    exec (.wb m) s = .next (s.goHop m k (routeXY k.x k.y k.tx k.ty)) := by
  simp [execWb, h.onMsg ht, haway]

theorem wb_of_home (ht : k.typ = .wb) (hhome : ¬¬ (k.x = k.tx ∧ k.y = k.ty)) :
    exec (.wb m) s = .next (((State.sectorsOf k.line k.smask).foldl State.homeWritten s).become m { k with
      typ := .wba, tx := (sliceStop k.die k.line).1, ty := (sliceStop k.die k.line).2, agent := s.homeOf k.line
      inc := s.incOf (s.homeOf k.line) }) := by
  simp [execWb, h.onMsg ht, not_not.mp hhome]

theorem wba_of_away (ht : k.typ = .wba) (hd : routeXY k.x k.y k.tx k.ty ≠ 0) :
    exec (.wba m) s = .next (s.goHop m k (routeXY k.x k.y k.tx k.ty)) := by
  simp [execWba, h.onMsg ht, hd]

variable (ht : k.typ = .wba) (hd : routeXY k.x k.y k.tx k.ty = 0)
include ht hd

/-- No eviction waits for the write-back. -/
theorem wba_of_unawaited (he : ∀ x, (s.dropMsg m).ent k.x k.y k.line = some x →
    (x.evicting && x.awaiting.getLsbD 0) = false) : exec (.wba m) s = .next (s.dropMsg m) := by
  simp only [exec_wba, execWba, h.onMsg ht, hd, ne_eq, not_true_eq_false, if_false]
  split
  · next x hx => rw [he x hx, Bool.false_and, if_neg Bool.false_ne_true]
  · rfl

/-- The eviction goes on with the last write-back it waits for. -/
theorem wba_of_awaited (he : (s.dropMsg m).ent k.x k.y k.line = some x) (hev : x.evicting = true)
    (hw : x.awaiting.getLsbD 0 = true) : exec (.wba m) s = .next
      (if (s.dropMsg m).wbOut k.die k.line then s.dropMsg m else (s.dropMsg m).pruneAnswer x 0) := by
  simp only [exec_wba, execWba, h.onMsg ht, hd, he, hev, hw]
  cases (s.dropMsg m).wbOut k.die k.line <;> rfl

end WriteBack

end State.Stands

/-- Settles O46: a stale message is dropped by its interface, and each of the others acts as its case of `State.Stands` says. -/
theorem coherenceMessages : Obligations.CoherenceMessages := by
  unfold Obligations.CoherenceMessages
  intro s m k hm
  refine ⟨exec_event_of_stale hm, fun hd => ?_⟩
  have h : s.Stands m k := ⟨hm, hd⟩
  exact ⟨h.rd_of_atLocal, h.rd_of_unsteered,
    fun _ _ ht hl htr hb => ⟨h.rd_of_notHere ht hl htr hb, fun _ => h.rd_of_entry ht hl htr hb⟩,
    fun _ => h.nh_of_entry, fun _ _ _ => h.nh_of_noEntry_back, h.nh_of_noEntry_root,
    fun _ => h.data_of_back, fun _ => h.data_of_on, fun _ => h.refuse_of_on, fun _ => h.refuse_of_back,
    h.own_of_passing, fun _ => h.own_of_goingAway, fun _ _ => h.own_of_go, fun _ _ => h.own_of_wait,
    fun _ _ => h.own_of_refuse, h.own_of_noRequest,
    h.event_of_behind, fun _ ht hb he => h.inv_of_again ht hb he, fun _ => h.inv_of_held,
    fun _ => h.prune_of_again, fun _ => h.prune_of_held, h.event_of_noEntry, fun _ => h.inv_of_idle, h.inv_of_noEntry,
    fun _ => h.ack_of_entry, fun _ => h.prune_of_idle, h.prune_of_noEntry, fun _ => h.pack_of_entry, h.unlink,
    h.wb_of_away, h.wb_of_home, h.wba_of_away,
    fun ht hr he => h.wba_of_unawaited ht hr fun x hx => by rw [he x hx, Bool.false_and],
    fun x ht hr hx hw => h.wba_of_unawaited ht hr fun y hy => by
      rw [Option.some.inj (hy.symm.trans hx), hw, Bool.and_false],
    fun _ => h.wba_of_awaited⟩

end Sys2Proof.Machine
end

section
/-!
SUPPORT. The commands of the mailbox (R286, R287): a command that the hub accepts and its checks let pass, one that waits
for the home of its bytes, and the other registers of the host port.
-/
namespace Sys2Proof.Machine

/-! ### Checks and starts -/

@[simp] theorem resultOf_nil : resultOf [] = 0 := rfl

@[simp] theorem resultOf_cons (b : Bool) (r : Nat) (cs : List (Bool × Nat)) :
    resultOf ((b, r) :: cs) = if b then r else resultOf cs := by
  cases b <;> rfl

namespace State
variable {s : State}

theorem viaIo_of_keyed (hk : s.boot.ideHost.isSome = true) (r : Host.Outcome State Fault Refusal) : s.viaIo r = r := if_pos hk

/-- A command starts where the port has its keys and none runs (R286, R302). -/
theorem starts_of_idle (hk : s.boot.ideHost.isSome = true) (hb : s.hub.busy = false) (code : BitVec 8) (args : List DWord)
    (go : State → State) : s.starts code args go = .next (go (s.mcmd code args)) := by
  rw [starts, viaIo_of_keyed hk, hb, if_neg Bool.false_ne_true]

/-- What it writes is performed before it ends (R356). -/
theorem starts_endWrites_of_idle (hk : s.boot.ideHost.isSome = true) (hb : s.hub.busy = false) (code : BitVec 8)
    (args : List DWord) (go : State → State) :
    s.starts code args (fun t => t.endWrites (go t)) = s.commandWrites code args go := starts_of_idle hk hb code args _

theorem holdRead_of_idle (hk : s.boot.ideHost.isSome = true) (hb : s.hub.busy = false) (code : BitVec 8)
    (args : List DWord) (pa n : Nat) : s.holdRead code args pa n = s.commandHeld code args pa n :=
  starts_of_idle hk hb code args _

/-- The hub runs commands: the port has its keys, none runs, and the level is above 0. -/
structure Ready (s : State) : Prop where
  keyed : s.boot.ideHost.isSome = true
  idle : s.hub.busy = false
  level : s.boot.level ≠ 0#2

namespace Ready
variable (h : s.Ready)
include h

/-- A command that its checks let pass has its effect and ends with RESULT 0. -/
theorem command {check : Nat} (hc : check = 0) (code : BitVec 8) (args : List DWord) (go : State → State) :
    s.command code args check go = s.commandDone code args go := by
  rw [State.command, starts_of_idle h.keyed h.idle, if_neg (by simp [h.level]), if_neg (not_not.mpr hc), commandDone]

variable {a b c d : DWord}

/-! ### Agents and domains (R256, R289, R292, R304) -/

theorem fenceout (ha : a.toNat < 24) (hf : s.hub.fenced.getLsbD a.toNat = false) :
    exec (.fenceout a) s = s.commandDone 0x01#8 [a] fun t => t.fenceAgent a.toNat := by
  rw [exec_fenceout, execFenceout, h.command (by simp [ha, hf])]

theorem readmit (ha : a.toNat < 24) (hf : s.hub.fenced.getLsbD a.toNat = true)
    (hq : s.hub.requalified.getLsbD a.toNat = true) :
    exec (.readmit a) s = s.commandDone 0x02#8 [a] fun t => t.readmitAgent a.toNat := by
  rw [exec_readmit, execReadmit, h.command (by simp [ha, hf, hq])]

theorem poollose (ha : a.toNat ≤ 6) : exec (.poollose a) s = s.commandDone 0x03#8 [a] fun t => t.losePool a.toNat := by
  rw [exec_poollose, execPoollose, h.command (by simp [ha])]

theorem poolset (ha : a.toNat ≤ 15) (hd : d.toNat ≤ 6 ∨ d = 0xFF#64) (hx : s.ctxs = []) :
    exec (.poolset a b c d) s = s.commandDone 0x04#8 [a, b, c, d] fun t => { t with hub := { t.hub with
      pools := if d = 0xFF#64 then t.hub.pools.erase a.toNat
        else t.hub.pools.set a.toNat (b.toNat, c.toNat, d.toNat) } } := by
  have hdom : (decide (6 < d.toNat) && d != 0xFF#64) = false := by
    rcases hd with hd | rfl
    · simp [Nat.not_lt.mpr hd]
    · simp
  rw [exec_poolset, execPoolset, h.command (by simp [ha, hdom, anyCtx, hx])]
  simp only [beq_iff_eq]

/-! ### Debugger halts (R293) -/

theorem halt (ha : a.toNat ≤ 15) : exec (.halt a) s = s.commandDone 0x05#8 [a] fun t =>
    t.setDie a.toNat { t.die a.toNat with hold := true } := by
  rw [exec_halt, execHalt, h.command (by simp [ha])]

theorem resume (ha : a.toNat ≤ 15) :
    ∃ t, exec (.resume a) s = .next t ∧ (t.die a.toNat).hold = false ∧ t.hub.result = 0#8 ∧ t.mem = s.mem := by
  rw [exec_resume, execResume, h.command (by simp [ha])]
  exact ⟨_, rfl, by simp [endCmd, die], rfl, rfl⟩

/-! ### The fabric (R297) -/

theorem fidset (h0 : a ≠ 0#64) (ha : a.toNat ≤ 4095) (hx : s.ctxs = []) :
    exec (.fidset a) s = s.commandDone 0x07#8 [a] fun t => { t with hub := { t.hub with fid := a.toNat } } := by
  rw [exec_fidset, execFidset, h.command (by simp [h0, ha, anyCtx, hx])]

theorem routeset (ha : a.toNat ≤ 4095) (hb : b.toNat ≤ 255)
    (hx : s.ctxs = [] ∨ s.removesLive a.toNat (b.setWidth 8) = false) :
    exec (.routeset a b) s = s.commandDone 0x08#8 [a, b] fun t =>
      let u : State := { t with hub := { t.hub with routes := t.hub.routes.set a.toNat (b.setWidth 8) } }
      if b.setWidth 8 = 0#8 then u.discardRoute a.toNat else u := by
  have hlive : (s.anyCtx && s.removesLive a.toNat (b.setWidth 8)) = false := by
    rcases hx with hx | hx
    · simp [anyCtx, hx]
    · simp [hx]
  rw [exec_routeset, execRouteset, h.command (by simp [ha, hb, hlive])]
  simp only [beq_iff_eq]

/-! ### Windows and regions (R278, R299, R301) -/

theorem winset_of_awaits (ha : a.toNat ≤ 255) (hr : s.hbmRange b.toNat 64 = true) (hw : s.awaits b.toNat 64 = true) :
    exec (.winset a b) s = s.commandHeld 0x09#8 [a, b] b.toNat 64 := by
  rw [exec_winset, execWinset, if_pos (by simp [h.level, ha, hr, hw]), holdRead_of_idle h.keyed h.idle]

theorem winset (ha : a.toNat ≤ 255) (hr : s.hbmRange b.toNat 64 = true) (hw : s.awaits b.toNat 64 = false)
    (hd : windowOk (s.hubRead (memKey 0 b.toNat) 64) = true) (hv : s.receiving a.toNat = false) :
    exec (.winset a b) s = s.commandDone 0x09#8 [a, b] fun t => { t with hub := { t.hub with
      windows := t.hub.windows.set a.toNat (windowOf (s.hubRead (memKey 0 b.toNat) 64)) } } := by
  rw [exec_winset, execWinset, if_neg (by simp [hw]), h.command (by simp [ha, hr, hd, hv])]

end Ready

/-- A region number that the table holds, where there is one, leaves the other checks (R299). -/
theorem execRegset_of_within {a b : DWord} (ht : ∀ t, s.hub.regtable = some t → a.toNat < t.2.1) :
    execRegset a b s =
      if s.boot.level != 0#2 && decide (a.toNat < 2 ^ 24) && s.hbmRange b.toNat 32 && s.awaits b.toNat 32 then
        s.holdRead 0x0A#8 [a, b] b.toNat 32
      else
        s.command 0x0A#8 [a, b]
          (resultOf [(decide (2 ^ 24 ≤ a.toNat) || !s.hbmRange b.toNat 32 || !regionOk (s.hubRead (memKey 0 b.toNat) 32), 1),
            ((s.hub.regtable.isNone && decide (4096 ≤ a.toNat)) || s.regionState a.toNat != 0, 2)])
          fun t => let u := t.useRegion a.toNat
            { u with hub := { u.hub with
              regions := u.hub.regions.set a.toNat (regionOf (s.hubRead (memKey 0 b.toNat) 32)) } } := by
  unfold execRegset
  cases htable : s.hub.regtable with
  | none => simp only [Bool.not_false, Bool.and_true, Bool.or_false]
  | some t => simp only [Nat.not_le.mpr (ht t htable), decide_false, Bool.not_false, Bool.and_true, Bool.or_false]

namespace Ready
variable (h : s.Ready) {a b c d : DWord}
include h

theorem regset_of_awaits (ha : a.toNat < 2 ^ 24) (ht : ∀ t, s.hub.regtable = some t → a.toNat < t.2.1)
    (hr : s.hbmRange b.toNat 32 = true) (hw : s.awaits b.toNat 32 = true) :
    exec (.regset a b) s = s.commandHeld 0x0A#8 [a, b] b.toNat 32 := by
  rw [exec_regset, execRegset_of_within ht, if_pos (by simp [h.level, ha, hr, hw, -Nat.reducePow]), holdRead_of_idle h.keyed h.idle]

theorem regset (ha : a.toNat < 2 ^ 24) (h0 : s.hub.regtable = none → a.toNat < 4096)
    (ht : ∀ t, s.hub.regtable = some t → a.toNat < t.2.1) (hr : s.hbmRange b.toNat 32 = true)
    (hw : s.awaits b.toNat 32 = false) (hd : regionOk (s.hubRead (memKey 0 b.toNat) 32) = true)
    (hfree : s.regionState a.toNat = 0) :
    exec (.regset a b) s = s.commandDone 0x0A#8 [a, b] fun t => let u := t.useRegion a.toNat
      { u with hub := { u.hub with
        regions := u.hub.regions.set a.toNat (regionOf (s.hubRead (memKey 0 b.toNat) 32)) } } := by
  have hcached : (s.hub.regtable.isNone && decide (4096 ≤ a.toNat)) = false := by simpa using h0
  rw [exec_regset, execRegset_of_within ht, if_neg (by simp [hw]),
    h.command (by simp [ha, hr, hd, hcached, hfree, -Nat.reducePow])]

theorem revoke (ha : a.toNat < 2 ^ 24) (hb : b.toNat % 8 = 0) (hr : s.hbmRange b.toNat 8 = true)
    (hv : s.regionState a.toNat = 1) :
    exec (.revoke a b) s = s.commandDone 0x0B#8 [a, b] fun t => let u := t.useRegion a.toNat
      ({ u with hub := { u.hub with
        regions := u.hub.regions.modify a.toNat (fun k => { k with st := 2 })
        revokes := u.hub.revokes.set a.toNat b.toNat } } : State).freeRegion a.toNat := by
  rw [exec_revoke, execRevoke, h.command (by simp [ha, hb, hr, hv, -Nat.reducePow])]

theorem regtable (ha : a.toNat % 4096 = 0) (hc : c.toNat % 4096 = 0)
    (hb : b.toNat % 4096 = 0 ∧ 4096 ≤ b.toNat ∧ b.toNat ≤ 2 ^ 24)
    (hd : d.toNat % 512 = 0 ∧ 512 ≤ d.toNat ∧ d.toNat ≤ 2 ^ 20) (hfree : s.anyRegion = false) :
    exec (.regtable a b c d) s = s.commandDone 0x0E#8 [a, b, c, d] fun t => { t with hub := { t.hub with
      regtable := some (a.toNat, b.toNat, c.toNat, d.toNat), regUsed := [] } } := by
  obtain ⟨hb, hb1, hb2⟩ := hb
  obtain ⟨hd, hd1, hd2⟩ := hd
  rw [exec_regtable, execRegtable, h.command (by
    simp [ha, hb, hb1, hb2, hc, hd, hd1, hd2, hfree, -Nat.reducePow])]

/-! ### SCRUB and TCLIMIT (R207, R304) -/

theorem scrub (ha : a.toNat % 64 = 0) (hb : b.toNat % 64 = 0) (hr : s.hbmRange a.toNat b.toNat = true) :
    exec (.scrub a b) s = s.commandWrites 0x0C#8 [a, b] fun t =>
      (List.range (b.toNat / 64)).foldl (fun (u : State) i =>
        ((u.discardCopies (a.toNat / 64 + i)).hubWrite (64 * (a.toNat / 64 + i)) (List.replicate 64 0#8)).setPoison
          (a.toNat / 64 + i) false) t := by
  have hkey : memKey 0 a.toNat = a.toNat := by simp [memKey]
  rw [exec_scrub, execScrub, if_neg (by simp [h.level, ha, hb, hr]), starts_endWrites_of_idle h.keyed h.idle, hkey]

theorem tclimit (ha : a.toNat ≤ 19) (hb : b.toNat ≤ 16) (hc : c.toNat ≤ 1) (hx : s.ctxs = []) :
    ∃ t, exec (.tclimit a b c) s = .next t ∧
      (∀ p, t.mesh.tclimit.contains p =
        if p = (a.toNat, b.toNat) then c == 1#64 else s.mesh.tclimit.contains p) ∧
      t.hub.result = 0#8 ∧ t.mem = s.mem := by
  rw [exec_tclimit, execTclimit, h.command (by simp [ha, hb, hc, anyCtx, hx])]
  refine ⟨_, rfl, fun p => ?_, rfl, rfl⟩
  obtain rfl | rfl : c = 0#64 ∨ c = 1#64 := by bv_omega
  · by_cases hp : p = (a.toNat, b.toNat) <;> simp [endCmd, mcmd, hp]
  · by_cases hp : p = (a.toNat, b.toNat) <;> simp [endCmd, mcmd, hp]

/-! ### Contexts (R328, R338) -/

theorem ctxcreate_of_awaits (ha : a.toNat % 128 = 0) (hr : s.hbmRange a.toNat 128 = true)
    (hw : s.awaits a.toNat 128 = true) : exec (.ctxcreate a) s = s.commandHeld 0x10#8 [a] a.toNat 128 := by
  rw [exec_ctxcreate, execCtxcreate, if_pos (by simp [h.level, ha, hr, hw]), holdRead_of_idle h.keyed h.idle]

theorem ctxcreate (ha : a.toNat % 128 = 0) (hr : s.hbmRange a.toNat 128 = true) (hw : s.awaits a.toNat 128 = false)
    (hd : ctxOk (s.hubRead (memKey 0 a.toNat) 128) = true)
    (hfree : s.ctxs.get? (wordAt (s.hubRead (memKey 0 a.toNat) 128) 8 2) = none) :
    exec (.ctxcreate a) s = s.commandDone 0x10#8 [a] fun t => { t with
      ctxs := t.ctxs.set (wordAt (s.hubRead (memKey 0 a.toNat) 128) 8 2) (ctxOf (s.hubRead (memKey 0 a.toNat) 128)) } := by
  rw [exec_ctxcreate, execCtxcreate, if_neg (by simp [hw]), h.command (by simp [ha, hr, hd, hfree])]

/-- The teardown begins, and BUSY stays set. -/
theorem ctxtear {asid : Nat} (hasid : a.toNat = asid) (ha : asid ≤ 2047) (hb : b.toNat % 64 = 0)
    (hr : s.hbmRange b.toNat 64 = true) (hlive : s.liveCtx asid = true) :
    exec (.ctxtear a b) s = .next (let t := (s.mcmd 0x11#8 [a, b]).tearDown asid b.toNat
      { t with hub := { t.hub with busy := true } }) := by
  subst hasid
  rw [exec_ctxtear, execCtxtear, if_neg (by simp [h.level, ha, hb, hr, hlive]), starts_of_idle h.keyed h.idle]

end Ready

/-! ### ATTEST, at every level (R363) -/

section Attest
variable {a b : DWord} (hk : s.boot.ideHost.isSome = true) (hidle : s.hub.busy = false) (ha : a.toNat % 64 = 0)
  (hb : b.toNat % 64 = 0)
include hk hidle ha hb

theorem attest_of_awaits (hw : s.awaits a.toNat 64 = true) :
    exec (.attest a b) s = s.commandHeld 0x12#8 [a, b] a.toNat 64 := by
  rw [exec_attest, execAttest, if_pos (by simp [ha, hb, hw]), holdRead_of_idle hk hidle]

theorem attest (hw : s.awaits a.toNat 64 = false) :
    exec (.attest a b) s = s.commandWrites 0x12#8 [a, b] fun t =>
      t.hubWrite (memKey 0 b.toNat) (s.quote (s.hubRead (memKey 0 a.toNat) 64)) := by
  have haligned : (a.toNat % 64 == 0 && b.toNat % 64 == 0) = true := by simp [ha, hb]
  simp only [exec_attest, execAttest, haligned, hw, Bool.and_false, Bool.not_true, Bool.false_eq_true, if_false]
  exact starts_endWrites_of_idle hk hidle _ _ _

end Attest

/-! ### The other registers of the host port (R286, R317, R324, R341, R364) -/

section Registers
variable {a : DWord}

/-- A write of one word of a KRES range leaves its other word. -/
theorem kresWrite_range {reg : Nat} (hl : s.hub.kresLock = false) (hr : reg < 32) :
    ∃ t, exec (.kresWrite reg a) s = .next t ∧ t.hub.kres[reg / 2]? =
      (s.hub.kres[reg / 2]?).map fun r => if reg % 2 = 0 then (a.toNat, r.2) else (r.1, a.toNat) := by
  rw [exec_kresWrite, execKresWrite, if_neg (by simp [hl]), if_neg hr.ne]
  exact ⟨_, rfl, by simp [List.getElem?_mapIdx]⟩

theorem kresWrite_lock (hl : s.hub.kresLock = false) : exec (.kresWrite 32 a) s =
    .next { s with hub := { s.hub with kresLock := a.getLsbD 0 } } := by
  rw [exec_kresWrite, execKresWrite, if_neg (by simp [hl]), if_pos rfl]

theorem counterClear (hk : s.boot.ideHost.isSome = true) (die ev : Nat) :
    exec (.counterClear die ev) s = .next { s with counters := s.counters.set (64 * die + ev) 0#64 } := by
  rw [exec_counterClear, execCounterClear, viaIo_of_keyed hk]

theorem registerWrite_fqbase (hk : s.boot.ideHost.isSome = true) (hx : s.ctxs = []) :
    exec (.registerWrite 0x110 a) s =
      .next { s with hub := { s.hub with fqbase := a &&& 0xFFFFFFFFFFFFF01F#64 } } := by
  rw [exec_registerWrite, execRegisterWrite, if_neg (by omega), viaIo_of_keyed hk, if_pos rfl, if_pos hx]

theorem registerWrite_marg (hk : s.boot.ideHost.isSome = true) {k : Nat} (hlt : k < 4) :
    exec (.registerWrite (8 + 8 * k) a) s = .next { s with hub := { s.hub with marg := s.hub.marg.set k a } } := by
  have hplace : (8 + 8 * k) / 8 - 1 = k := by omega
  rw [exec_registerWrite, execRegisterWrite, if_neg (by omega), viaIo_of_keyed hk, if_neg (by omega), if_pos (by omega), hplace]

theorem registerWrite_mig (hk : s.boot.ideHost.isSome = true) {e w : Nat} (he : e < 1024) (hw : w < 8) :
    exec (.registerWrite (0x10000 + 64 * e + 8 * w) a) s = .next (s.setMigWord e w (s.migHostWord e w a)) := by
  have hentry : (0x10000 + 64 * e + 8 * w - 0x10000) / 64 = e := by omega
  have hword : (0x10000 + 64 * e + 8 * w - 0x10000) % 64 / 8 = w := by omega
  rw [exec_registerWrite, execRegisterWrite, if_neg (by omega), viaIo_of_keyed hk, if_neg (by omega), if_neg (by omega),
    if_pos (by omega), hentry, hword]

/-- A write of MCMD with BUSY runs the command in CODE. -/
theorem registerWrite_mcmd (hb : a.getLsbD 63 = true) (hr : bits a 8 55 = 0) :
    exec (.registerWrite 0 a) s = runCode (a.extractLsb' 0 8) s.hub.marg s := by
  rw [exec_registerWrite, execRegisterWrite, if_pos rfl, mcmdWrite, if_neg (by rw [hb]; simp), if_neg (by simp [hr])]

end Registers

end State

/-- Settles O44: each command's checks pass, and it runs, waits or writes as its case of `State.Ready` says; each register is its
own case. -/
theorem mailboxCommands : Obligations.MailboxCommands := by
  unfold Obligations.MailboxCommands
  intro s a b c d keyed ready n bytes hold
  have hready : ready → s.Ready := fun ⟨hk, hb, hl⟩ => ⟨hk, hb, hl⟩
  exact ⟨fun h => (hready h).fenceout, fun h => (hready h).readmit, fun h => (hready h).poollose,
    fun h => (hready h).poolset, fun h => (hready h).halt, fun h => (hready h).resume, fun h => (hready h).fidset,
    fun h => (hready h).routeset, fun h => (hready h).winset_of_awaits, fun h => (hready h).winset,
    fun h => (hready h).regset_of_awaits, fun h => (hready h).regset, fun h => (hready h).revoke,
    fun h => (hready h).scrub, fun h => (hready h).tclimit, fun h => (hready h).regtable,
    fun h => (hready h).ctxcreate_of_awaits, fun h => (hready h).ctxcreate, fun h => (hready h).ctxtear rfl,
    State.attest_of_awaits, State.attest, fun _ => State.kresWrite_range, State.kresWrite_lock,
    fun die ev hk => State.counterClear hk die ev, State.registerWrite_fqbase, fun hk _ => State.registerWrite_marg hk,
    fun hk _ he _ => State.registerWrite_mig hk he, State.registerWrite_mcmd⟩

end Sys2Proof.Machine
end

section
/-!
SUPPORT. The events of the ports, the links, the timers and the error checks: a snoop of one sector (R251, R303), an overdue request
(R255, R289), a link that fails (R297, R298), a host access to HBM (R303, R356), and an answer from outward (R303).
-/
namespace Sys2Proof.Machine

namespace State
variable {s : State}

/-! ### Messages, snoops and idle slices (R246, R251, R254) -/

theorem malformedMessage_of_untyped {typ : BitVec 5} (h : typ = 0#5 ∨ 12 < typ.toNat) (x y : Nat) :
    exec (.malformedMessage typ x y) s = .next (s.count ((agentAt x y).getD hubDie) 14) := by
  have hlisted : ¬ (1 ≤ typ.toNat ∧ typ.toNat ≤ 12) := by
    rcases h with rfl | h
    · decide
    · omega
  rw [exec_malformedMessage, execMalformedMessage, if_neg hlisted]

theorem malformedMessage_of_typed {typ : BitVec 5} (h : 1 ≤ typ.toNat) (h' : typ.toNat ≤ 12) (x y : Nat) :
    exec (.malformedMessage typ x y) s = .next s := by
  rw [exec_malformedMessage, execMalformedMessage, if_pos ⟨h, h'⟩]

/-- A snoop comes by the pool's port, as a back-invalidation does; the others come by the host's (R303). -/
def byPoolPort (k : Snoop) : Bool := k = .biSnpInv || k = .biSnpData || k = .biSnpCur

theorem execCxlSnoop_eq (k : Snoop) (sectors : List Nat) : execCxlSnoop k sectors s =
    if !s.portOpen (byPoolPort k) then .next s else
    let mine := sectors.filter fun c => keyTier (64 * c) == (if byPoolPort k then 2 else 1)
    .next ((mine.map (· / 4)).eraseDups.foldl (fun (t : State) line =>
      t.askSnoop line ((mine.filter fun c => c / 4 == line).foldl (fun (m : BitVec 4) c => m ||| (1#4 <<< (c % 4))) 0#4)) s) := by
  cases k <;> rfl

theorem cxlSnoop_singleton {k : Snoop} {c : Nat} (ho : s.portOpen (byPoolPort k) = true)
    (ht : keyTier (64 * c) = if byPoolPort k then 2 else 1) :
    exec (.cxlSnoop k [c]) s = .next (s.askSnoop (c / 4) (1#4 <<< (c % 4))) := by
  have hmine : ([c].filter fun c => keyTier (64 * c) == (if byPoolPort k then 2 else 1)) = [c] :=
    List.filter_eq_self.mpr fun a ha => by rw [List.mem_singleton.mp ha, ht, beq_self_eq_true]
  rw [exec_cxlSnoop, execCxlSnoop_eq, ho, hmine]
  simp [List.eraseDups_cons]

theorem sliceRetention_of_idle {d n : Nat} (hd : d < 16) (hn : n < 384) (hi : s.sliceIdle d n = true)
    (hr : (d, n) ∉ s.mesh.retained) : exec (.sliceRetention d n) s =
      .next { s with mesh := { s.mesh with retained := (d, n) :: s.mesh.retained } } := by
  rw [exec_sliceRetention, execSliceRetention, if_pos (by simp [hd, hn, hi, hr])]

/-! ### Overdue requests (R255, R289) -/

section Overdue
variable {n : Nat} {r : Req} (hr : s.mesh.reqs.get? n = some r)
include hr

theorem agentSilent_of_overdue (hg : r.noGrant = false) (hp : r.reported = false) (hh : s.timerHeld r = false)
    (hc : 2 ^ 26 ≤ (s.clock r.core - r.clock).toNat) : exec (.agentSilent n) s =
      .next ((s.post (fqBytes (BitVec.ofNat 64 (keyPa (r.line * 256))) (BitVec.ofNat 64 r.agent) r.asid 7 0 r.core 0 0
        0#32)).onReq n fun q => { q with reported := true }) := by
  simp only [exec_agentSilent, execAgentSilent, hr]
  rw [if_neg (by simpa [hg, hp, hh] using hc)]

theorem poolSilent_of_overdue (ho : r.outward.isSome = true) (hp : r.outReported = false) (ht : r.line / 2 ^ 44 = 2)
    (hc : 2 ^ 27 ≤ s.hub.cycle - r.outAt) : exec (.poolSilent n) s =
      .next ((s.post (fqBytes (BitVec.ofNat 64 (keyPa (r.line * 256)))
        (BitVec.ofNat 64 ((s.poolDomain (keyPa (r.line * 256))).getD 0)) 0 9 0 0 0 0 0#32)).onReq n
          fun q => { q with outReported := true }) := by
  have hasked : r.outward.isNone = false := by rw [Option.isNone_eq_false_iff, ho]
  simp only [exec_poolSilent, execPoolSilent, hr]
  rw [if_neg (by simpa [hasked, hp, ht, -Nat.reducePow] using hc)]

end Overdue

/-! ### Loss of the pool, and links (R289, R297, R298) -/

theorem poolPortLoss_removed {n : Nat} (h : n ≤ 6) : exec (.poolPortLoss (.removed n)) s = .next (s.losePool n) := by
  rw [exec_poolPortLoss, execPoolPortLoss, if_pos h]

theorem poolPortLoss_all {c : PoolLoss} (h : c = .linkDown ∨ c = .viral) :
    exec (.poolPortLoss c) s = .next ((List.range 7).foldl State.losePool s) := by
  rcases h with rfl | rfl <;> rfl

/-- An access as the loss of a route leaves it: one that is held is noted, once. -/
def noteRouteHold (s : State) (o : Op) (a : Acc) : Acc :=
  if s.routeHolds o a && !a.counted.contains 23 then { a with counted := 23 :: a.counted } else a

theorem markHolds_ops (s before : State) : (s.markHolds before).ops =
    s.ops.map fun kv => (kv.1, { kv.2 with accs := kv.2.accs.map (s.noteRouteHold kv.2) }) := rfl

theorem uncounted_noteRouteHold (s : State) (o : Op) :
    Op.uncounted { o with accs := o.accs.map (s.noteRouteHold o) } = o.uncounted := by
  have hacc (a : Acc) : { s.noteRouteHold o a with counted := [] } = { a with counted := [] } := by
    unfold noteRouteHold
    split <;> rfl
  simp only [Op.uncounted, List.map_map, Function.comp_def, hacc]

/-- Noting the holds of accesses changes what is noted of them alone. -/
theorem get?_ops_markHolds (s before : State) (k : Nat) :
    ((s.markHolds before).ops.get? k).map Op.uncounted = (s.ops.get? k).map Op.uncounted := by
  rw [markHolds_ops, Tbl.get?_map_snd s.ops fun o => { o with accs := o.accs.map (s.noteRouteHold o) }, Option.map_map]
  exact Option.map_congr fun o _ => uncounted_noteRouteHold s o

theorem linkDown_of_up {n : Nat} (hn : n < 8) (hu : s.hub.linkUp.getLsbD n = true) :
    ∃ t, exec (.linkDown n) s = .next t ∧ t.hub.linkUp.getLsbD n = false ∧
      t.hub.held.map FqEntry.bytes = s.hub.held.map FqEntry.bytes ++ [fqBytes 0#64 (BitVec.ofNat 64 n) 0 10 0 0 0 0 0#32] ∧
      t.mem = s.mem ∧ t.blocks = s.blocks ∧ ∀ k, (t.ops.get? k).map Op.uncounted = (s.ops.get? k).map Op.uncounted := by
  rw [exec_linkDown, execLinkDown, if_neg (by simp [hu, hn])]
  refine ⟨_, rfl, ?_, List.map_append, rfl, rfl, get?_ops_markHolds _ s⟩
  show (s.hub.linkUp &&& ~~~(1#8 <<< n)).getLsbD n = false
  simp [hn]

/-! ### Host accesses to HBM (R303, R356) -/

theorem cachesOnly_foldl {α : Type} {f : State → α → State} (h : ∀ (u : State) a, u.CachesOnly (f u a)) (as : List α)
    (s : State) : s.CachesOnly (as.foldl f s) := by
  induction as generalizing s with
  | nil => exact .refl s
  | cons a as ih => exact (h s a).trans (ih (f s a))

theorem cachesOnly_askSnoop (s : State) (line : Nat) (mask : BitVec 4) : s.CachesOnly (s.askSnoop line mask) :=
  (cachesOnly_startReq s _).trans (cachesOnly_setMesh _ _)

theorem cachesOnly_callBack (s : State) (key : Nat) (w : HubWrite) : s.CachesOnly (s.callBack key w) :=
  .trans (cachesOnly_foldl (fun u _ => cachesOnly_startReq u _) _ s)
    (cachesOnly_foldl (fun u k => cachesOnly_askSnoop u (k / 4) _) _ _)

theorem hubUpdate_of_mayServe {key : Nat} {w : HubWrite} (h : s.mayServe s.hub.waiting key w = true) :
    s.hubUpdate key w = s.homeUpdate key w := if_pos h

/-- An access that may not be served yet waits behind the others, and no byte of memory changes. -/
theorem hubUpdate_of_not_mayServe {key : Nat} {w : HubWrite} (h : s.mayServe s.hub.waiting key w = false) :
    (s.hubUpdate key w).mem = s.mem ∧
      (s.hubUpdate key w).hub.waiting = s.hub.waiting ++ [{ key := key, what := w, own := false, ctx := none }] := by
  have hcalled := (cachesOnly_foldl (fun u d => cachesOnly_count u (16 + d) 25 1) (s.awaitedDies key w.len) s).trans
    (cachesOnly_callBack _ key w)
  rw [hubUpdate, if_neg (by rw [h]; exact Bool.false_ne_true)]
  exact ⟨hcalled.mem, congrArg (fun h : Hub => h.waiting ++ _) hcalled.hub⟩

section HostAccess
variable {pa : Nat} (ho : s.portOpen false = true) (hl : s.isLost (memKey 0 pa) = false)
include ho hl

theorem cxlMemAccess_write {bs : List Byte} (h0 : bs.length ≠ 0) (hr : s.hbmRange pa bs.length = true) (n : Nat) :
    exec (.cxlMemAccess pa (some bs) n) s = .next (s.hubUpdate (memKey 0 pa) (.host bs)) :=
  if_neg (by simp [h0, ho, hr, hl])

theorem cxlMemAccess_read {n : Nat} (h0 : n ≠ 0) (hr : s.hbmRange pa n = true) :
    exec (.cxlMemAccess pa none n) s = .next (s.hubUpdate (memKey 0 pa) (.share n)) :=
  if_neg (by simp [h0, ho, hr, hl])

end HostAccess

/-! ### Answers from outward (R303) -/

/-- The bytes of sectors come with an answer, where they are all there and no slice holds one, poisoned perhaps. -/
def takeAnswer (s : State) (ks : List Nat) (poisoned : Bool) (data : List Byte) : State :=
  let t := if data.length = 64 * ks.length && ks.all fun k => !s.someHolds k (· != 0) then
      ks.foldl homeWritten (((ks.mapIdx fun i k => (i, k)).foldl (fun (t : State) p =>
        t.setMemBytes (64 * p.2) ((data.drop (64 * p.1)).take 64)) s).fromOutside s.traceLen)
    else s
  if poisoned then ks.foldl (fun (t : State) k => t.setPoison k true) t else t

/-- An answer without bytes leaves the mesh and the numbering alone: it brings bytes for no sector only. -/
theorem takeAnswer_nil (s : State) (ks : List Nat) :
    (s.takeAnswer ks false []).mesh = s.mesh ∧ (s.takeAnswer ks false []).nextId = s.nextId := by
  cases ks with
  | nil => exact ⟨rfl, rfl⟩
  | cons k ks => simp [takeAnswer]

section Answer
variable {n : Nat} {r : Req} {m : Msg} (hr : s.mesh.reqs.get? n = some r) (hm : r.outward = some m)
include hr hm

/-- What the hub asked for itself has come, and the request is over. -/
theorem cxlResponse_of_noGrant {ex ps : Bool} {data : List Byte} (hown : r.own = false) (hg : r.noGrant = true)
    (ho : s.portOpen (r.line / 2 ^ 44 == 2) = true) :
    let ks := sectorsOf r.line r.smask
    let u := s.takeAnswer ks ps data
    exec (.cxlResponse n ex ps data) s =
      .next (({ u with hub := { u.hub with fetched := ks ++ u.hub.fetched.filter fun k => !ks.contains k } } : State).endReq n) := by
  simp only [exec_cxlResponse, execCxlResponse, hr, hm]
  rw [if_neg (by simp [ho, hown, -Nat.reducePow]), if_pos (by simp [hown, hg])]
  rfl

/-- Ownership of pool memory has been obtained: the request goes on at the root. -/
theorem cxlResponse_of_own {ps : Bool} {data : List Byte} (hown : r.own = true) (hs : r.swm = false)
    (ht : r.line / 2 ^ 44 = 2) (ho : s.portOpen true = true) :
    let ks := sectorsOf r.line r.smask
    let u := (s.takeAnswer ks ps data).onReq n fun q => { q with outward := none }
    exec (.cxlResponse n true ps data) s =
      .next (({ u with hub := { u.hub with outward := ks ++ u.hub.outward.filter fun k => !ks.contains k } } : State).putMsg m) := by
  simp only [exec_cxlResponse, execCxlResponse, hr, hm, hown, hs, ht, ho, beq_self_eq_true, Bool.not_true, Bool.and_false,
    Bool.false_and, Bool.or_false, Bool.false_eq_true, if_false, if_true, OfNat.ofNat_ne_zero]
  rfl

end Answer

end State

/-- Settles O47: each event is due by its premises and has the effect that its lemma above states; what waited or came is read off
the state that the lemma names. -/
theorem portAndErrorEvents : Obligations.PortAndErrorEvents := by
  unfold Obligations.PortAndErrorEvents
  intro s n
  refine ⟨fun _ x y h => State.malformedMessage_of_untyped h x y, fun _ x y h h' => State.malformedMessage_of_typed h h' x y,
    fun k c ho ht => State.cxlSnoop_singleton ho (by simpa [State.byPoolPort, or_assoc] using ht),
    fun d hd hn hi hr => State.sliceRetention_of_idle hd hn hi hr, fun r => State.agentSilent_of_overdue,
    fun r => State.poolSilent_of_overdue, State.poolPortLoss_removed, fun c => State.poolPortLoss_all, State.linkDown_of_up,
    fun _ => ⟨_, rfl, rfl, rfl⟩, rfl, fun h => congrArg _ (if_pos h), rfl, rfl, fun _ _ => rfl, fun _ => rfl, fun _ _ _ => rfl,
    ⟨_, rfl, rfl, rfl⟩, fun _ => ⟨rfl, rfl⟩, ?host, ?own, ?noGrant⟩
  case host =>
    intro w len hw h0 ho hr hl
    rcases hw with rfl | ⟨bs, rfl, rfl⟩
    · have hread := State.cxlMemAccess_read ho hl h0 hr
      exact ⟨nofun, fun _ hm => hread.trans (congrArg _ (State.hubUpdate_of_mayServe hm)),
        fun hm => ⟨_, hread, State.hubUpdate_of_not_mayServe hm⟩⟩
    · have hwrite := State.cxlMemAccess_write ho hl h0 hr bs.length
      refine ⟨fun cs hcs hm => ?_, nofun, fun hm => ⟨_, hwrite, State.hubUpdate_of_not_mayServe hm⟩⟩
      cases hcs
      exact hwrite.trans (congrArg _ (State.hubUpdate_of_mayServe hm))
  case own =>
    intro r m hr hm hown hs ht ho
    obtain ⟨hmesh, hid⟩ := s.takeAnswer_nil (State.sectorsOf r.line r.smask)
    refine ⟨_, State.cxlResponse_of_own hr hm hown hs ht ho, ?_, fun k hk => List.mem_append_left _ hk, ?_⟩
    · simp [State.putMsg, State.onReq, hmesh, Tbl.get?_modify, hr]
    · simp [State.putMsg, State.onReq, hid, Tbl.get?_set]
  case noGrant =>
    intro r m ex ps data hr hm hown hg ho
    exact ⟨_, State.cxlResponse_of_noGrant hr hm hown hg ho, by simp [State.endReq, Tbl.get?_erase],
      fun k hk => List.mem_append_left _ hk⟩

end Sys2Proof.Machine
end

section
/-!
SUPPORT. The KRES ranges (R317): how they are written before KRESLOCK is set, and a device, its KRESLOCK set, that a step resets all the
same.
-/
namespace Sys2Proof.Machine

/-- Before KRESLOCK is set no range is enforced. -/
theorem State.kresLocked_of_unlocked {s : State} (h : s.hub.kresLock = false) (key : Nat) : s.kresLocked key = false := by
  simp [State.kresLocked, h]

/-- Once it is set, a write counts one event and does nothing else. -/
theorem State.kresWrite_of_locked {s : State} (h : s.hub.kresLock = true) (reg : Nat) (v : DWord) :
    exec (.kresWrite reg v) s = .next (s.count hubDie 26) := by
  rw [exec_kresWrite, execKresWrite, if_pos h]

/-- A path B that has issued and whose instruction, which waits for path A of its issue, is a reset: no word of text encodes one, and
a state may hold it all the same. -/
def lateReset : Late :=
  { path := { pc := 0#64, lanes := 0#64, forced := false }, instr := .reset, firstId := 0, lastId := 0, counted := [] }

/-- A device with KRESLOCK set and an empty flash. Core 0 has the next slot, and a group with that path B. -/
def lockedWithLateReset : State :=
  { State.reset with
    agenda := [.slot 0]
    blocks := [(0, { Block.init with
      resident := true, started := true, groups := [(0, { Group.init with lates := [lateReset] })] })]
    hub := { Hub.init with kresLock := true } }

/-- The slot serves that path, whose instruction has its effect. -/
theorem lockedWithLateReset_latesOf : lockedWithLateReset.nextAction.2.latesOf 0 = [(0, 0, lateReset)] := by decide

theorem lockedWithLateReset_step : ∃ t, step lockedWithLateReset = .next t ∧ t.hub.kresLock = false := ⟨_, rfl, rfl⟩

/-- Refutes O60: a step that is no reset itself may run a reset that a path B waits with, and KRESLOCK is clear after it. The other
clauses hold: `State.kresLocked_of_unlocked`, `State.kresWrite_of_locked`, and for the writes `State.kresWrite_range` and
`State.kresWrite_lock`. -/
theorem not_kresStaysLocked : ¬ Obligations.KresStaysLocked := by
  unfold Obligations.KresStaysLocked
  intro h
  obtain ⟨-, hlocked⟩ := h lockedWithLateReset
  obtain ⟨t, hstep, hunlocked⟩ := lockedWithLateReset_step
  obtain ⟨-, hkept⟩ := (hlocked rfl).2 t nofun hstep
  exact Bool.noConfusion (hunlocked.symm.trans hkept)

end Sys2Proof.Machine
end

section
/-!
SUPPORT. CPY and CPYT as they issue (R261 to R263, R266, R271, R272): their checks in order, and the copies that they start.
-/
namespace Sys2Proof.Machine

/-! ### Bodies that wait, or trap after a change -/

theorem run_next_of_stall {i : Instr} {s : State} {body : DWord → Res} {ev : Option Nat} (h : MayRun i s)
    (hb : body (s.execLanes i.guard) = .stall ev) : run i s body = .next (s.result (.stalled ev)) := by
  rw [run_of_mayRun h, hb]
  rfl

theorem run_next_of_trapWith {i : Instr} {s t : State} {body : DWord → Res} {m tval : DWord} {code : Nat} (h : MayRun i s)
    (hb : body (s.execLanes i.guard) = .trapWith t m code tval) :
    run i s body = .next ((t.takeTrap s.cur.blk s.cur.grp m code tval s.cur.pc).result .trapped) := by
  rw [run_of_mayRun h, hb]
  rfl

/-! ### Control and completion words (R262, R263) -/

theorem badCtl_eq_none_iff {s : State} {m : DWord} {ctl : Lane → Word} :
    badCtl s m ctl = none ↔ ∀ i ∈ lanesOf m, bits (ctl (s.cg.lane i)) 9 23 = 0 := by
  simp [badCtl, ctlOk]

section Words
variable {s : State} {f : FmtA} {ctl : Lane → Word} (h : s.copyWords f ctl)
include h

theorem State.copyWords_badCtl : badCtl s (s.execLanes f.guard) ctl = none :=
  badCtl_eq_none_iff.mpr fun i hi => (h i hi).1

theorem State.copyWords_badPost : badPost s (s.execLanes f.guard) f = none := by
  rw [badPost]
  split
  · rfl
  · next hp => exact List.findSome?_eq_none_iff.mpr fun i hi => if_neg (by simpa using (h i hi).2 (by simpa using hp))

end Words

/-! ### Room in the engine (R266) -/

theorem engineRoom_eq_true_iff {s : State} {m : DWord} :
    engineRoom s m = true ↔ s.engineCount s.cb.core 0 + countLanes m ≤ 256 := by simp [engineRoom]

theorem finish_noEngine (s : State) (m : DWord) (words : Nat) : finish s words (noEngine s m) =
    .next (s.unplaced (decide (256 < s.engineCount s.cb.core s.cur.firstId + countLanes m)) (some 15)) :=
  finish_noRoom s words _ _

/-! ### CPY -/

/-- The ranges of CPY in the lanes of a mask, for the check of its window bytes. -/
def cpyRanges (f : FmtA) (s : State) (m : DWord) : List (DWord × Nat) :=
  (lanesOf m).flatMap fun i =>
    [((s.cg.lane i).vpair f.a.toNat, cpyLen f (s.cg.lane i)), ((s.cg.lane i).vpair f.d.toNat, cpyLen f (s.cg.lane i))] ++
      (if f.bi then [((s.cg.lane i).vpair f.c.toNat, 8)] else [])

/-- The copies of the lanes of a mask, started in order. -/
def cpyStart (f : FmtA) (s : State) (m : DWord) : State :=
  (lanesOf m).foldl (fun t i => t.startCopy (newCopy s m f i false [] ((s.cg.lane i).vpair f.a.toNat)
    ((s.cg.lane i).vpair f.d.toNat) (cpyLen f (s.cg.lane i)) (cpyCtl f (s.cg.lane i)))) s

/-- CPY once its control words are checked. -/
def cpyFrom (f : FmtA) (s : State) (m : DWord) : Res :=
  match badPost s m f with
  | some a => .trap m cMisaligned a
  | none =>
    match badWindow s (cpyRanges f s m) with
    | some a => .trap m cProtection a
    | none => if !engineRoom s m then noEngine s m else .ok (cpyStart f s m) 0#64

theorem execCpy_eq (f : FmtA) (s : State) : execCpy f s = run (.cpy f) s fun m =>
    match badCtl s m (cpyCtl f) with
    | some w => .trap m cIllegal (w.setWidth 64)
    | none => cpyFrom f s m := rfl

section Cpy
variable {f : FmtA} {s : State} (h : MayRun (.cpy f) s)
include h

theorem exec_cpy_of_badCtl {w : Word} (hc : badCtl s (s.execLanes f.guard) (cpyCtl f) = some w) :
    exec (.cpy f) s = .next (s.trappedAt (s.execLanes f.guard) cIllegal (w.setWidth 64)) := by
  rw [exec_cpy, execCpy_eq]
  exact run_trapped h (hb := by rw [hc])

variable (hc : badCtl s (s.execLanes f.guard) (cpyCtl f) = none)
include hc

theorem exec_cpy_of_ctl : exec (.cpy f) s = finish s 1 (cpyFrom f s (s.execLanes f.guard)) := by
  rw [exec_cpy, execCpy_eq, run_of_mayRun h, guard_cpy, hc]
  rfl

theorem exec_cpy_of_badPost {a : DWord} (hp : badPost s (s.execLanes f.guard) f = some a) :
    exec (.cpy f) s = .next (s.trappedAt (s.execLanes f.guard) cMisaligned a) := by
  rw [exec_cpy_of_ctl h hc, cpyFrom, hp, finish_trap, State.trappedAt]

variable (hp : badPost s (s.execLanes f.guard) f = none)
include hp

theorem exec_cpy_of_badWindow {a : DWord} (hw : badWindow s (cpyRanges f s (s.execLanes f.guard)) = some a) :
    exec (.cpy f) s = .next (s.trappedAt (s.execLanes f.guard) cProtection a) := by
  rw [exec_cpy_of_ctl h hc, cpyFrom, hp, hw, finish_trap, State.trappedAt]

variable (hw : badWindow s (cpyRanges f s (s.execLanes f.guard)) = none)
include hw

theorem exec_cpy_of_full (hr : engineRoom s (s.execLanes f.guard) = false) : exec (.cpy f) s = .next (s.unplaced
    (decide (256 < s.engineCount s.cb.core s.cur.firstId + countLanes (s.execLanes f.guard))) (some 15)) := by
  rw [exec_cpy_of_ctl h hc, cpyFrom, hp, hw, hr]
  exact finish_noEngine s _ 1

theorem exec_cpy_of_room (hr : engineRoom s (s.execLanes f.guard) = true) :
    exec (.cpy f) s = .next (s.pastWords (cpyStart f s (s.execLanes f.guard)) 1 0#64) := by
  rw [exec_cpy_of_ctl h hc, cpyFrom, hp, hw, hr]
  exact finish_ok s _ 1 _

end Cpy

/-! ### CPYT -/

/-- The address of a lane's descriptor. -/
def cpytAddr (f : FmtA) (s : State) (i : Nat) : DWord := (s.cg.lane i).vpair f.a.toNat

/-- The control word of CPYT in a lane. -/
def cpytCtl (f : FmtA) (l : Lane) : Word := l.vreg f.b.toNat

/-- The descriptors of the lanes of a mask, looked up. -/
def cpytTouches (f : FmtA) (s : State) (m : DWord) : List Touch :=
  (lanesOf m).flatMap fun i => (rangeChunks 64 (cpytAddr f s i) 128).map fun c => s.touch needR i c.1 c.2

/-- The reads of the descriptors where they lie. -/
def cpytReads (f : FmtA) (s : State) (m : DWord) (us : List Touch) : Reads :=
  (lanesOf m).map fun i => (i, cpytAddr f s i, spansOf (us.filter fun u => u.lane == i))

/-- The copies of some lanes by their descriptors, started in order from r. -/
def cpytStart (f : FmtA) (s r : State) (m : DWord) (ds : List (List Byte)) : State :=
  ((lanesOf m).zip ds).foldl (fun u d => u.startCopy (newCopy s m f d.1 true d.2 (cpytAddr f s d.1) 0#64 0
    (cpytCtl f (s.cg.lane d.1)))) r

/-- CPYT once the descriptors are read, in r, and obey R271. -/
def cpytEnter (f : FmtA) (s r : State) (m : DWord) (ds : List (List Byte)) : Res :=
  match badPost s m f with
  | some a => .trapWith r m cMisaligned a
  | none => if !engineRoom s m then noEngine s m else .ok (cpytStart f s r m ds) 0#64

/-- CPYT once the descriptors are read, in r. -/
def cpytFrom (f : FmtA) (s r : State) (m : DWord) (ds : List (List Byte)) : Res :=
  match ((lanesOf m).zip ds).find? fun d => !descOk d.2 with
  | some d => .trapWith r m cProtection (cpytAddr f s d.1)
  | none => cpytEnter f s r m ds

theorem execCpyt_eq (f : FmtA) (s : State) : execCpyt f s = run (.cpyt f) s fun m =>
    match badCtl s m (cpytCtl f) with
    | some w => .trap m cIllegal (w.setWidth 64)
    | none =>
      match (lanesOf m).find? fun i => (cpytAddr f s i).toNat % 64 ≠ 0 with
      | some i => .trap m cMisaligned (cpytAddr f s i)
      | none => serveTouches s m 0 (cpytTouches f s m) fun t us =>
        readAtIssue t 0 (cpytReads f s m us) fun r ds => cpytFrom f s r m ds := rfl

section Cpyt
variable {f : FmtA} {s : State} (h : MayRun (.cpyt f) s)
include h

theorem exec_cpyt_of_badCtl {w : Word} (hc : badCtl s (s.execLanes f.guard) (cpytCtl f) = some w) :
    exec (.cpyt f) s = .next (s.trappedAt (s.execLanes f.guard) cIllegal (w.setWidth 64)) := by
  rw [exec_cpyt, execCpyt_eq]
  exact run_trapped h (hb := by rw [hc])

variable (hc : badCtl s (s.execLanes f.guard) (cpytCtl f) = none)
include hc

theorem exec_cpyt_of_misaligned {i : Nat}
    (hi : (lanesOf (s.execLanes f.guard)).find? (fun i => (cpytAddr f s i).toNat % 64 ≠ 0) = some i) :
    exec (.cpyt f) s = .next (s.trappedAt (s.execLanes f.guard) cMisaligned (cpytAddr f s i)) := by
  rw [exec_cpyt, execCpyt_eq]
  exact run_trapped h (hb := by rw [hc, hi])

variable (ha : ∀ i ∈ lanesOf (s.execLanes f.guard), (cpytAddr f s i).toNat % 64 = 0)
include ha

theorem exec_cpyt_of_aligned : exec (.cpyt f) s = finish s 1 (serveTouches s (s.execLanes f.guard) 0
    (cpytTouches f s (s.execLanes f.guard)) fun t us =>
      readAtIssue t 0 (cpytReads f s (s.execLanes f.guard) us) fun r ds => cpytFrom f s r (s.execLanes f.guard) ds) := by
  have hnone : (lanesOf (s.execLanes f.guard)).find? (fun i => (cpytAddr f s i).toNat % 64 ≠ 0) = none :=
    List.find?_eq_none.mpr fun i hi => by simp [ha i hi]
  rw [exec_cpyt, execCpyt_eq, run_of_mayRun h, guard_cpyt, hc, hnone]
  rfl

theorem refused_cpyt : Refused (.cpyt f) s s 0 (cpytTouches f s (s.execLanes f.guard)) :=
  refused_of_serveTouches (exec_cpyt_of_aligned h hc ha)

variable (ht : ∀ t ∈ cpytTouches f s (s.execLanes f.guard), t.reaches)
include ht

theorem exec_cpyt_of_reaches :
    let noted := s.noteTouches (cpytTouches f s (s.execLanes f.guard))
    exec (.cpyt f) s = finish s 1 (readAtIssue noted.1 0 (cpytReads f s (s.execLanes f.guard) noted.2) fun r ds =>
      cpytFrom f s r (s.execLanes f.guard) ds) := by
  rw [exec_cpyt_of_aligned h hc ha, serveTouches_of_reaches s _ 0 ht]

variable {r : State × List (List Byte)}
  (hr : (s.noteTouches (cpytTouches f s (s.execLanes f.guard))).1.readsAs 0
    (cpytReads f s (s.execLanes f.guard) (s.noteTouches (cpytTouches f s (s.execLanes f.guard))).2) r)
include hr

theorem exec_cpyt_of_reads : exec (.cpyt f) s = finish s 1 (cpytFrom f s r.1 (s.execLanes f.guard) r.2) := by
  rw [exec_cpyt_of_reaches h hc ha ht, readAtIssue_of_readsAs hr]

theorem exec_cpyt_of_badDesc {d : Nat × List Byte}
    (hd : ((lanesOf (s.execLanes f.guard)).zip r.2).find? (fun d => !descOk d.2) = some d) : exec (.cpyt f) s =
      .next ((r.1.takeTrap s.cur.blk s.cur.grp (s.execLanes f.guard) cProtection (cpytAddr f s d.1) s.cur.pc).result .trapped) := by
  rw [exec_cpyt_of_reads h hc ha ht hr, cpytFrom, hd]
  rfl

variable (hd : ∀ d ∈ (lanesOf (s.execLanes f.guard)).zip r.2, descOk d.2 = true)
include hd

theorem exec_cpyt_of_desc : exec (.cpyt f) s = finish s 1 (cpytEnter f s r.1 (s.execLanes f.guard) r.2) := by
  have hnone : ((lanesOf (s.execLanes f.guard)).zip r.2).find? (fun d => !descOk d.2) = none :=
    List.find?_eq_none.mpr fun d hmem => by simp [hd d hmem]
  rw [exec_cpyt_of_reads h hc ha ht hr, cpytFrom, hnone]

theorem exec_cpyt_of_badPost {a : DWord} (hp : badPost s (s.execLanes f.guard) f = some a) : exec (.cpyt f) s =
    .next ((r.1.takeTrap s.cur.blk s.cur.grp (s.execLanes f.guard) cMisaligned a s.cur.pc).result .trapped) := by
  rw [exec_cpyt_of_desc h hc ha ht hr hd, cpytEnter, hp]
  rfl

variable (hp : badPost s (s.execLanes f.guard) f = none)
include hp

theorem exec_cpyt_of_full (hroom : engineRoom s (s.execLanes f.guard) = false) : exec (.cpyt f) s = .next (s.unplaced
    (decide (256 < s.engineCount s.cb.core s.cur.firstId + countLanes (s.execLanes f.guard))) (some 15)) := by
  rw [exec_cpyt_of_desc h hc ha ht hr hd, cpytEnter, hp, hroom]
  exact finish_noEngine s _ 1

theorem exec_cpyt_of_room (hroom : engineRoom s (s.execLanes f.guard) = true) :
    exec (.cpyt f) s = .next (s.pastWords (cpytStart f s r.1 (s.execLanes f.guard) r.2) 1 0#64) := by
  rw [exec_cpyt_of_desc h hc ha ht hr hd, cpytEnter, hp, hroom]
  exact finish_ok s _ 1 _

end Cpyt

/-- Settles O30: each clause is the way that CPY or CPYT takes where one of its checks answers. -/
theorem copiesIssue : Obligations.CopiesIssue := by
  unfold Obligations.CopiesIssue
  intro f s m l addr room full ranges ctl tctl ts noted reads
  refine ⟨fun h hx hw hr => ?cpy, fun r h hx ha ht hread hd hr => ?cpyt, fun w h => exec_cpy_of_badCtl h,
    fun w h => exec_cpyt_of_badCtl h, fun a h hc => exec_cpy_of_badPost h hc, fun i h hc => exec_cpyt_of_misaligned h hc,
    fun h hc ha => ⟨refused_cpyt h hc ha, fun ht => ?waits, fun r ht hread =>
      ⟨fun d => exec_cpyt_of_badDesc h hc ha ht hread, fun hd =>
        ⟨fun a => exec_cpyt_of_badPost h hc ha ht hread hd, fun hp hr => ?cpytFull⟩⟩⟩,
    fun a h hx => exec_cpy_of_badWindow h (State.copyWords_badCtl hx) (State.copyWords_badPost hx), fun h hx hw hr => ?cpyFull⟩
  case cpy => exact exec_cpy_of_room h (State.copyWords_badCtl hx) (State.copyWords_badPost hx) hw (engineRoom_eq_true_iff.mpr hr)
  case cpyt =>
    exact exec_cpyt_of_room h (State.copyWords_badCtl hx) ha ht hread hd (State.copyWords_badPost hx) (engineRoom_eq_true_iff.mpr hr)
  case waits => exact readWaits_of_readAtIssue (exec_cpyt_of_reaches h hc ha ht)
  case cpytFull => exact exec_cpyt_of_full h hc ha ht hread hd hp (Bool.eq_false_iff.mpr (mt engineRoom_eq_true_iff.mp hr))
  case cpyFull =>
    exact exec_cpy_of_full h (State.copyWords_badCtl hx) (State.copyWords_badPost hx) hw
      (Bool.eq_false_iff.mpr (mt engineRoom_eq_true_iff.mp hr))

end Sys2Proof.Machine
end

section
/-!
SUPPORT. CSEAL and CWAIT (R266 to R269), and the contributions of XRED and SPRED (R278 to R280, R284).
-/
namespace Sys2Proof.Machine

/-! ### CSEAL (R268) -/

section Cseal
variable {f : FmtA} {s : State} (h : MayRun (.cseal f) s)
include h

theorem exec_cseal_of_seals (hp : ∀ i ∈ lanesOf (s.execLanes f.guard), sealPasses s i = false) : exec (.cseal f) s =
    .next (s.pastWords ((lanesOf (s.execLanes f.guard)).foldl (fun t i => t.sealLane s.cur.blk s.cur.grp i) s) 1 0#64) := by
  rw [exec_cseal, execCseal]
  exact run_passed h (hb := if_neg (by simpa using hp))

theorem exec_cseal_of_passes {i : Nat} (hi : i ∈ lanesOf (s.execLanes f.guard)) (hp : sealPasses s i = true) :
    exec (.cseal f) s = .next (s.result (.stalled (some 15))) := by
  rw [exec_cseal, execCseal]
  exact run_next_of_stall h (if_pos (List.any_eq_true.mpr ⟨i, hi, hp⟩))

end Cseal

/-! ### CWAIT (R269) -/

/-- The batches that CWAIT covers in a lane and that are not DONE. -/
def cwaitLeft (f : FmtA) (s : State) (i : Nat) : List (Nat × Nat) := coveredBatches s i (rdBv f (s.cg.lane i))

/-- A covered batch of some lane is neither DONE nor FAILED. -/
def cwaitWaits (f : FmtA) (s : State) (m : DWord) : Bool :=
  (lanesOf m).any fun i => (cwaitLeft f s i).any fun b => !batchFailed s i b

/-- The lowest failed batch of a lane. -/
def cwaitFailure (f : FmtA) (s : State) (i : Nat) : Option (Nat × (Nat × Nat)) :=
  ((cwaitLeft f s i).find? (batchFailed s i)).map fun b => (i, b)

theorem execCwait_eq (f : FmtA) (s : State) : execCwait f s = run (.cwait f) s fun m =>
    if cwaitWaits f s m then .stall none
    else match (lanesOf m).findSome? (cwaitFailure f s) with
      | some r => .trapWith (s.reportBatch r.1 r.2) (laneBit r.1) (batchError s r.1 r.2).1 (batchError s r.1 r.2).2
      | none => .ok ((lanesOf m).foldl (fun t i => t.markBatches i (rdBv f (s.cg.lane i))) s) 0#64 := rfl

theorem cwaitWaits_eq_false {f : FmtA} {s : State} {m : DWord}
    (h : ∀ i ∈ lanesOf m, ∀ b ∈ cwaitLeft f s i, batchFailed s i b = true) : cwaitWaits f s m = false := by
  simpa [cwaitWaits] using h

section Failure
variable {f : FmtA} {s : State} {i : Nat}

theorem cwaitFailure_of_none (h : cwaitLeft f s i = []) : cwaitFailure f s i = none := by simp [cwaitFailure, h]

/-- Where the lowest batch that is left has failed, it is the one. -/
theorem cwaitFailure_of_failed {b : Nat × Nat} {bs : List (Nat × Nat)} (h : cwaitLeft f s i = b :: bs)
    (hb : batchFailed s i b = true) : cwaitFailure f s i = some (i, b) := by simp [cwaitFailure, h, hb]

end Failure

/-- Of the lanes of a list the first with a batch left is the one whose failure is found. -/
theorem findSome?_cwaitFailure {f : FmtA} {s : State} {is : List Nat} {i : Nat} {b : Nat × Nat} {bs : List (Nat × Nat)}
    (hi : is.find? (fun j => cwaitLeft f s j ≠ []) = some i) (hl : cwaitLeft f s i = b :: bs)
    (hb : batchFailed s i b = true) : is.findSome? (cwaitFailure f s) = some (i, b) := by
  obtain ⟨-, before, after, rfl, hbefore⟩ := List.find?_eq_some_iff_append.mp hi
  have hnone : before.findSome? (cwaitFailure f s) = none :=
    List.findSome?_eq_none_iff.mpr fun j hj => cwaitFailure_of_none (by simpa using hbefore j hj)
  rw [List.findSome?_append, hnone, Option.none_or, List.findSome?_cons_of_isSome (by simp [cwaitFailure_of_failed hl hb]),
    cwaitFailure_of_failed hl hb]

section Cwait
variable {f : FmtA} {s : State} (h : MayRun (.cwait f) s)
include h

theorem exec_cwait_of_waiting {i : Nat} (hi : i ∈ lanesOf (s.execLanes f.guard)) {b : Nat × Nat} (hb : b ∈ cwaitLeft f s i)
    (hf : batchFailed s i b = false) : exec (.cwait f) s = .next (s.result (.stalled none)) := by
  rw [exec_cwait, execCwait_eq]
  exact run_next_of_stall h
    (if_pos (List.any_eq_true.mpr ⟨i, hi, List.any_eq_true.mpr ⟨b, hb, by rw [hf]; rfl⟩⟩))

theorem exec_cwait_of_done (hl : ∀ i ∈ lanesOf (s.execLanes f.guard), cwaitLeft f s i = []) : exec (.cwait f) s =
    .next (s.pastWords ((lanesOf (s.execLanes f.guard)).foldl (fun t i => t.markBatches i (rdBv f (s.cg.lane i))) s)
      1 0#64) := by
  have hwaits : cwaitWaits f s (s.execLanes f.guard) = false := cwaitWaits_eq_false fun i hi b hb => by
    rw [hl i hi] at hb
    exact nomatch hb
  have hnone : (lanesOf (s.execLanes f.guard)).findSome? (cwaitFailure f s) = none :=
    List.findSome?_eq_none_iff.mpr fun i hi => cwaitFailure_of_none (hl i hi)
  rw [exec_cwait, execCwait_eq]
  exact run_passed h (hb := by rw [hwaits, hnone]; rfl)

theorem exec_cwait_of_failed (hf : ∀ i ∈ lanesOf (s.execLanes f.guard), ∀ b ∈ cwaitLeft f s i, batchFailed s i b = true)
    {i : Nat} (hi : (lanesOf (s.execLanes f.guard)).find? (fun j => cwaitLeft f s j ≠ []) = some i) {b : Nat × Nat}
    {bs : List (Nat × Nat)} (hl : cwaitLeft f s i = b :: bs) : exec (.cwait f) s =
      .next (((s.reportBatch i b).takeTrap s.cur.blk s.cur.grp (laneBit i) (batchError s i b).1 (batchError s i b).2
        s.cur.pc).result .trapped) := by
  have hb : batchFailed s i b = true := hf i (List.mem_of_find?_eq_some hi) b (by rw [hl]; exact List.mem_cons_self)
  rw [exec_cwait, execCwait_eq]
  refine run_next_of_trapWith h ?_
  rw [guard_cwait, cwaitWaits_eq_false hf, findSome?_cwaitFailure hi hl hb]
  rfl

end Cwait

/-- Settles O31: CSEAL seals or waits; CWAIT waits, passes, or reports the batch that its lowest lane with one left has lowest. -/
theorem copyBatches : Obligations.CopyBatches := by
  unfold Obligations.CopyBatches
  intro f s m left
  exact ⟨fun h => exec_cseal_of_seals h, fun i hi h => exec_cseal_of_passes h hi, fun h => exec_cwait_of_done h,
    fun i hi b hb h => exec_cwait_of_waiting h hi hb, fun i b bs h hf hi => exec_cwait_of_failed h hf hi⟩

/-! ### The contribution of a lane (R279, R280) -/

/-- The handle of a lane. -/
def contribHandle (f : FmtA) (s : State) (i : Nat) : Word := (s.cg.lane i).vreg f.a.toNat

/-- The contribution of a lane of the path at issue in s, numbered n. -/
def laneContrib (f : FmtA) (s : State) (elem : Lane → Nat → Word) (n i : Nat) : Contrib :=
  { id := n, fid := s.hub.fid, win := handleWin (contribHandle f s i), elem := (elem (s.cg.lane i) i).toNat, op := redOp f
    ty := f.ty, value := contribValue f (s.cg.lane i), count := 1, lane := some (s.cur.blk, s.cur.grp, i)
    launch := some s.cb.launch, msg := none, held := false }

/-- A lane whose handle names this package puts its contribution into the hub's queue. -/
def State.contributeLane (f : FmtA) (s : State) (elem : Lane → Nat → Word) (t : State) (i : Nat) : State :=
  if handleFid (contribHandle f s i) == s.hub.fid then
    { t with
      hub := { t.hub with contribs := t.hub.contribs ++ [laneContrib f s elem t.nextId i] }
      nextId := t.nextId + 1 }
  else t

theorem contribute_eq (s : State) (m : DWord) (f : FmtA) (elem : Lane → Nat → Word) : contribute s m f elem =
    match (lanesOf m).find? fun i => !handleOk s (contribHandle f s i) with
    | some i => .trap m cProtection ((contribHandle f s i).setWidth 64)
    | none =>
      if (lanesOf m).any fun i => contribWaits s (contribHandle f s i) i then .stall none
      else .ok ((lanesOf m).foldl (State.contributeLane f s elem) s) 0#64 := rfl

/-- t is s but for identities and contributions that were added. -/
def State.AddsContribs (s t : State) (cs : List (Nat × Nat × Nat × Nat × Nat × BitVec 128 × Nat)) : Prop :=
  t = { s with nextId := t.nextId, hub := { s.hub with contribs := t.hub.contribs } } ∧
    t.hub.contribs.map Contrib.what = s.hub.contribs.map Contrib.what ++ cs

theorem State.addsContribs_contributeLane (f : FmtA) (s : State) (elem : Lane → Nat → Word) (t : State) (i : Nat) :
    t.AddsContribs (State.contributeLane f s elem t i)
      (if handleFid (contribHandle f s i) == s.hub.fid then [(laneContrib f s elem 0 i).what] else []) := by
  rw [State.contributeLane]
  split
  · exact ⟨rfl, List.map_append⟩
  · exact ⟨rfl, (List.append_nil _).symm⟩

theorem State.addsContribs_foldl (f : FmtA) (s : State) (elem : Lane → Nat → Word) (is : List Nat) (t : State) :
    t.AddsContribs (is.foldl (State.contributeLane f s elem) t)
      ((is.filter fun i => handleFid (contribHandle f s i) == s.hub.fid).map fun i => (laneContrib f s elem 0 i).what) := by
  induction is generalizing t with
  | nil => exact ⟨rfl, (List.append_nil _).symm⟩
  | cons i is ih =>
    obtain ⟨hstate, hwhat⟩ := State.addsContribs_contributeLane f s elem t i
    obtain ⟨hstate', hwhat'⟩ := ih (State.contributeLane f s elem t i)
    refine ⟨by rw [List.foldl_cons, hstate', hstate], ?_⟩
    rw [List.foldl_cons, hwhat', hwhat, List.append_assoc, List.filter_cons]
    split <;> rfl

/-- Past the instruction the contributions stand, and no group but the one at issue has changed. -/
theorem State.AddsContribs.pastWords {s t : State} {cs : List (Nat × Nat × Nat × Nat × Nat × BitVec 128 × Nat)}
    (h : s.AddsContribs t cs) (words : Nat) (moved : DWord) : let u := s.pastWords t words moved
    u.hub.contribs.map Contrib.what = s.hub.contribs.map Contrib.what ++ cs ∧ u.mem = s.mem ∧ u.ops = s.ops ∧
      ∀ b g, b ≠ s.cur.blk ∨ g ≠ s.cur.grp → u.group b g = s.group b g := by
  obtain ⟨hstate, hwhat⟩ := h
  have hcur : t.cur = s.cur := by rw [hstate]
  have hmem : t.mem = s.mem := by rw [hstate]
  have hops : t.ops = s.ops := by rw [hstate]
  have hblocks : t.blocks = s.blocks := by rw [hstate]
  refine ⟨hwhat, hmem, hops, fun b g hne => ?_⟩
  have hother : t.cur.blk ≠ b ∨ t.cur.grp ≠ g := by rw [hcur]; exact hne.imp Ne.symm Ne.symm
  exact (State.group_setGroup_other t _ hother).trans (State.group_congr hblocks b g)

/-! ### XRED and SPRED (R280) -/

section Contribute
variable {i : Instr} {f : FmtA} {s : State} {elem : Lane → Nat → Word} (h : MayRun i s) (hg : i.guard = f.guard)
  (he : exec i s = run i s fun m => contribute s m f elem)
include h hg he

theorem exec_contribute_of_badHandle {j : Nat}
    (hj : (lanesOf (s.execLanes f.guard)).find? (fun i => !handleOk s (contribHandle f s i)) = some j) :
    exec i s = .next (s.trappedAt (s.execLanes f.guard) cProtection ((contribHandle f s j).setWidth 64)) := by
  rw [he]
  exact run_trapped h hg (hb := by rw [contribute_eq, hj])

variable (hok : ∀ i ∈ lanesOf (s.execLanes f.guard), handleOk s (contribHandle f s i) = true)
include hok

theorem exec_contribute_of_waiting
    (hf : ¬ ∀ i ∈ lanesOf (s.execLanes f.guard), contribWaits s (contribHandle f s i) i = false) :
    exec i s = .next (s.result (.stalled none)) := by
  have hnone : (lanesOf (s.execLanes f.guard)).find? (fun i => !handleOk s (contribHandle f s i)) = none :=
    List.find?_eq_none.mpr fun i hi => by simp [hok i hi]
  rw [he]
  refine run_next_of_stall h ?_
  rw [hg, contribute_eq, hnone]
  exact if_pos (by simpa using hf)

theorem exec_contribute_of_free (hw : wordsOf i = 1)
    (hf : ∀ i ∈ lanesOf (s.execLanes f.guard), contribWaits s (contribHandle f s i) i = false) :
    exec i s = .next (s.pastWords ((lanesOf (s.execLanes f.guard)).foldl (State.contributeLane f s elem) s) 1 0#64) := by
  have hnone : (lanesOf (s.execLanes f.guard)).find? (fun i => !handleOk s (contribHandle f s i)) = none :=
    List.find?_eq_none.mpr fun i hi => by simp [hok i hi]
  rw [he]
  refine run_passed h hg hw ?_
  rw [contribute_eq, hnone]
  exact if_neg (by simpa using hf)

end Contribute

/-- Settles O32: both add the contributions of their lanes, which differ in the element alone. -/
theorem contributions : Obligations.Contributions := by
  unfold Obligations.Contributions
  intro f s m h ok free added adds
  have hadds (elem : Lane → Nat → Word) := (State.addsContribs_foldl f s elem (lanesOf m) s).pastWords 1 0#64
  exact ⟨fun hr hok hf => ⟨_, exec_contribute_of_free hr rfl rfl hok rfl hf, hadds fun l i => rdBv f l + BitVec.ofNat 32 i⟩,
    fun hr hok hf => ⟨_, exec_contribute_of_free hr rfl rfl hok rfl hf, hadds fun l _ => l.vreg f.b.toNat⟩,
    fun _ hr => exec_contribute_of_badHandle hr rfl rfl, fun _ hr => exec_contribute_of_badHandle hr rfl rfl,
    fun hr => exec_contribute_of_waiting hr rfl rfl, fun hr => exec_contribute_of_waiting hr rfl rfl⟩

end Sys2Proof.Machine
end

section
/-!
SUPPORT. ESAVE and ERES (R274, R275): the range that each checks, what ERES reads at issue, and the entries that it queues again.
-/
namespace Sys2Proof.Machine

/-! ### A range of the elected lane (R172, R176) -/

/-- The pieces of a range, looked up for the elected lane of a mask. -/
def State.rangeTouches (s : State) (m : DWord) (need : Need) (addr : DWord) (n : Nat) : List Touch :=
  (rangeChunks 64 addr n).map fun c => s.touch need (lowest m) c.1 c.2

section Range
variable {s : State} {m addr : DWord} {align fk n : Nat} {need : Need} {go : State → List (Loc × Nat × LeafBits) → Res}

theorem matRange_of_misaligned (ha : addr.toNat % align ≠ 0) :
    matRange s m align need fk addr n go = .trap m cMisaligned addr := if_pos ha

theorem matRange_of_aligned (ha : addr.toNat % align = 0) : matRange s m align need fk addr n go =
    serveTouches s m fk (s.rangeTouches m need addr n) fun t ts => go t (spansOf ts) := if_neg (not_not_intro ha)

theorem matRange_of_reaches (ha : addr.toNat % align = 0) (ht : ∀ t ∈ s.rangeTouches m need addr n, t.reaches) :
    matRange s m align need fk addr n go =
      go (s.noteTouches (s.rangeTouches m need addr n)).1 (spansOf (s.noteTouches (s.rangeTouches m need addr n)).2) := by
  rw [matRange_of_aligned ha, serveTouches_of_reaches s m fk ht]

end Range

/-! ### ESAVE -/

/-- ESAVE once its range is served, in t: the copies leave the engine, and the stores of their record stand out. -/
def esaveFrom (f : FmtA) (s : State) (m : DWord) (t : State) (spans : List (Loc × Nat × LeafBits)) : Res :=
  .ok ((t.saveCopies s.cur.blk).openStores m f
    (pieceAccs (lowest m) (matAddr s m f) spans (s.engineRecord s.cur.blk))) 0#64

theorem execEsave_eq (f : FmtA) (s : State) : execEsave f s = run (.esave f) s fun m =>
    matRange s m 64 needW 1 (matAddr s m f) (s.engineRecord s.cur.blk).length (esaveFrom f s m) := rfl

section Esave
variable {f : FmtA} {s : State} (h : MayRun (.esave f) s)
include h

theorem exec_esave_eq_finish : exec (.esave f) s = finish s 1 (matRange s (s.execLanes f.guard) 64 needW 1
    (matAddr s (s.execLanes f.guard) f) (s.engineRecord s.cur.blk).length (esaveFrom f s (s.execLanes f.guard))) := by
  rw [exec_esave, execEsave_eq, run_of_mayRun h, guard_esave]
  rfl

theorem exec_esave_of_misaligned (ha : (matAddr s (s.execLanes f.guard) f).toNat % 64 ≠ 0) : exec (.esave f) s =
    .next (s.trappedAt (s.execLanes f.guard) cMisaligned (matAddr s (s.execLanes f.guard) f)) := by
  rw [exec_esave_eq_finish h, matRange_of_misaligned ha, finish_trap, State.trappedAt]

variable (ha : (matAddr s (s.execLanes f.guard) f).toNat % 64 = 0)
include ha

theorem refused_esave : Refused (.esave f) s s 1 (s.rangeTouches (s.execLanes f.guard) needW
    (matAddr s (s.execLanes f.guard) f) (s.engineRecord s.cur.blk).length) :=
  refused_of_serveTouches ((exec_esave_eq_finish h).trans (congrArg _ (matRange_of_aligned ha)))

theorem exec_esave_of_reaches (ht : ∀ t ∈ s.rangeTouches (s.execLanes f.guard) needW
      (matAddr s (s.execLanes f.guard) f) (s.engineRecord s.cur.blk).length, t.reaches) :
    let m := s.execLanes f.guard
    let noted := s.noteTouches (s.rangeTouches m needW (matAddr s m f) (s.engineRecord s.cur.blk).length)
    exec (.esave f) s = .next (s.pastWords ((noted.1.saveCopies s.cur.blk).openStores m f
      (pieceAccs (lowest m) (matAddr s m f) (spansOf noted.2) (s.engineRecord s.cur.blk))) 1 0#64) := by
  rw [exec_esave_eq_finish h, matRange_of_reaches ha ht]
  exact finish_ok ..

end Esave

/-! ### ERES -/

/-- The number of entries that a record's header gives. -/
def headerCount (hd : List Byte) : Nat := wordAt hd 0 8

/-- A header that breaks a rule of R275, or whose copies the engine has no room for. -/
def eresRefuses (s : State) (hd : List Byte) : Bool :=
  wordAt hd 8 8 != (s.blockId s.cb).toNat || 256 < headerCount hd || !allZero ((hd.drop 16).take 48) ||
    256 < s.engineCount s.cb.core 0 + headerCount hd

theorem eresRefuses_eq_false_iff {s : State} {hd : List Byte} : eresRefuses s hd = false ↔
    wordAt hd 8 8 = (s.blockId s.cb).toNat ∧ headerCount hd ≤ 256 ∧ allZero ((hd.drop 16).take 48) = true ∧
      s.engineCount s.cb.core 0 + headerCount hd ≤ 256 := by
  simp [eresRefuses, and_assoc]

/-- The n entries of a record, 64 bytes each. -/
def recordEntries (bs : List Byte) (n : Nat) : List (List Byte) := (List.range n).map fun i => (bs.drop (64 * i)).take 64

/-- The first of n entries that breaks a rule. -/
def badEntry (s : State) (ents : List (List Byte)) (n : Nat) : Option Nat :=
  (List.range n).find? fun i => !entryOk s (ents.getD i [])

/-- ERES once the entries are read, in v. -/
def eresQueue (s : State) (m addr : DWord) (n : Nat) (v : State) (ents : List (List Byte)) : Res :=
  match badEntry s ents n with
  | some i => .trapWith v m cProtection (addr + BitVec.ofNat 64 (64 + 64 * i))
  | none => .ok (ents.foldl (fun v e => v.requeue (copyOfEntry s e)) v) 0#64

/-- ERES once the range of its n entries is served, in u. -/
def eresEntries (s : State) (m addr : DWord) (n : Nat) (u : State) (es : List (Loc × Nat × LeafBits)) : Res :=
  readAtIssue u 0 [(lowest m, addr + 64#64, es)] fun v eb => eresQueue s m addr n v (recordEntries (eb.headD []) n)

/-- ERES once its header is read, in h. -/
def eresFrom (s : State) (m addr : DWord) (h : State) (hd : List Byte) : Res :=
  if eresRefuses s hd then .trapWith h m cProtection addr
  else if headerCount hd = 0 then .ok h 0#64
  else matRange h m 64 needR 0 (addr + 64#64) (64 * headerCount hd) (eresEntries s m addr (headerCount hd))

/-- ERES once the range of its header is served, in t. -/
def eresHeader (s : State) (m addr : DWord) (t : State) (hs : List (Loc × Nat × LeafBits)) : Res :=
  readAtIssue t 0 [(lowest m, addr, hs)] fun h hb => eresFrom s m addr h (hb.headD [])

theorem execEres_eq (f : FmtA) (s : State) : execEres f s = run (.eres f) s fun m =>
    matRange s m 64 needR 0 (matAddr s m f) 64 (eresHeader s m (matAddr s m f)) := rfl

theorem eresQueue_of_ok {s v : State} {m addr : DWord} {n : Nat} {ents : List (List Byte)}
    (h : ∀ i < n, entryOk s (ents.getD i []) = true) :
    eresQueue s m addr n v ents = .ok (ents.foldl (fun v e => v.requeue (copyOfEntry s e)) v) 0#64 := by
  have hnone : badEntry s ents n = none := List.find?_eq_none.mpr fun i hi => by
    simp only [h i (List.mem_range.mp hi), Bool.not_true, Bool.false_eq_true, not_false_eq_true]
  rw [eresQueue, hnone]

theorem eresQueue_of_bad {s v : State} {m addr : DWord} {n i : Nat} {ents : List (List Byte)} (hi : i < n)
    (hbad : entryOk s (ents.getD i []) = false) (hok : ∀ j < i, entryOk s (ents.getD j []) = true) :
    eresQueue s m addr n v ents = .trapWith v m cProtection (addr + BitVec.ofNat 64 (64 + 64 * i)) := by
  have hsome : badEntry s ents n = some i :=
    List.find?_range_eq_some.mpr ⟨by simp only [hbad, Bool.not_false], List.mem_range.mpr hi,
      fun j hj => by simp only [hok j hj, Bool.not_true, Bool.not_false]⟩
  rw [eresQueue, hsome]

section Eres
variable {f : FmtA} {s : State} (h : MayRun (.eres f) s)
include h

theorem exec_eres_eq_finish : exec (.eres f) s = finish s 1 (matRange s (s.execLanes f.guard) 64 needR 0
    (matAddr s (s.execLanes f.guard) f) 64
    (eresHeader s (s.execLanes f.guard) (matAddr s (s.execLanes f.guard) f))) := by
  rw [exec_eres, execEres_eq, run_of_mayRun h, guard_eres]
  rfl

theorem exec_eres_of_misaligned (ha : (matAddr s (s.execLanes f.guard) f).toNat % 64 ≠ 0) : exec (.eres f) s =
    .next (s.trappedAt (s.execLanes f.guard) cMisaligned (matAddr s (s.execLanes f.guard) f)) := by
  rw [exec_eres_eq_finish h, matRange_of_misaligned ha, finish_trap, State.trappedAt]

variable (ha : (matAddr s (s.execLanes f.guard) f).toNat % 64 = 0)
include ha

theorem refused_eres : Refused (.eres f) s s 0
    (s.rangeTouches (s.execLanes f.guard) needR (matAddr s (s.execLanes f.guard) f) 64) :=
  refused_of_serveTouches ((exec_eres_eq_finish h).trans (congrArg _ (matRange_of_aligned ha)))

variable (ht : ∀ t ∈ s.rangeTouches (s.execLanes f.guard) needR (matAddr s (s.execLanes f.guard) f) 64, t.reaches)
include ht

theorem exec_eres_of_reaches :
    let m := s.execLanes f.guard
    let noted := s.noteTouches (s.rangeTouches m needR (matAddr s m f) 64)
    exec (.eres f) s = finish s 1 (eresHeader s m (matAddr s m f) noted.1 (spansOf noted.2)) := by
  rw [exec_eres_eq_finish h, matRange_of_reaches ha ht]

variable {q : State × List (List Byte)}
  (hq : (s.noteTouches (s.rangeTouches (s.execLanes f.guard) needR (matAddr s (s.execLanes f.guard) f) 64)).1.readsAs 0
    [(lowest (s.execLanes f.guard), matAddr s (s.execLanes f.guard) f, spansOf
      (s.noteTouches (s.rangeTouches (s.execLanes f.guard) needR (matAddr s (s.execLanes f.guard) f) 64)).2)] q)
include hq

theorem exec_eres_of_header : exec (.eres f) s =
    finish s 1 (eresFrom s (s.execLanes f.guard) (matAddr s (s.execLanes f.guard) f) q.1 (q.2.headD [])) := by
  rw [exec_eres_of_reaches h ha ht, eresHeader, readAtIssue_of_readsAs hq]

theorem exec_eres_of_badHeader (hr : eresRefuses s (q.2.headD []) = true) : exec (.eres f) s =
    .next ((q.1.takeTrap s.cur.blk s.cur.grp (s.execLanes f.guard) cProtection (matAddr s (s.execLanes f.guard) f)
      s.cur.pc).result .trapped) := by
  rw [exec_eres_of_header h ha ht hq, eresFrom, if_pos hr]
  rfl

variable (hr : eresRefuses s (q.2.headD []) = false)
include hr

theorem exec_eres_of_empty (hn : headerCount (q.2.headD []) = 0) : exec (.eres f) s = .next (s.pastWords q.1 1 0#64) := by
  rw [exec_eres_of_header h ha ht hq, eresFrom, if_neg (Bool.eq_false_iff.mp hr), if_pos hn, finish_ok]

variable (hn : headerCount (q.2.headD []) ≠ 0)
include hn

theorem exec_eres_of_count : exec (.eres f) s = finish s 1 (matRange q.1 (s.execLanes f.guard) 64 needR 0
    (matAddr s (s.execLanes f.guard) f + 64#64) (64 * headerCount (q.2.headD []))
    (eresEntries s (s.execLanes f.guard) (matAddr s (s.execLanes f.guard) f) (headerCount (q.2.headD [])))) := by
  rw [exec_eres_of_header h ha ht hq, eresFrom, if_neg (Bool.eq_false_iff.mp hr), if_neg hn]

variable (hb : (matAddr s (s.execLanes f.guard) f + 64#64).toNat % 64 = 0)
include hb

theorem refused_eres_entries : Refused (.eres f) s q.1 0 (q.1.rangeTouches (s.execLanes f.guard) needR
    (matAddr s (s.execLanes f.guard) f + 64#64) (64 * headerCount (q.2.headD []))) :=
  refused_of_serveTouches ((exec_eres_of_count h ha ht hq hr hn).trans (congrArg _ (matRange_of_aligned hb)))

theorem exec_eres_of_entries (he : ∀ t ∈ q.1.rangeTouches (s.execLanes f.guard) needR
      (matAddr s (s.execLanes f.guard) f + 64#64) (64 * headerCount (q.2.headD [])), t.reaches) :
    let m := s.execLanes f.guard
    let noted := q.1.noteTouches (q.1.rangeTouches m needR (matAddr s m f + 64#64) (64 * headerCount (q.2.headD [])))
    exec (.eres f) s = finish s 1 (eresEntries s m (matAddr s m f) (headerCount (q.2.headD [])) noted.1 (spansOf noted.2)) := by
  rw [exec_eres_of_count h ha ht hq hr hn, matRange_of_reaches hb he]

end Eres

/-- Settles O33: ESAVE is served as every range is; ERES is so twice, each time reading at issue as every such instruction does. -/
theorem engineRecords : Obligations.EngineRecords := by
  unfold Obligations.EngineRecords
  intro f s m lane addr bs ws wn hs hn hread
  refine ⟨fun h ha => exec_esave_of_reaches h ha, fun h ha => refused_esave h ha, fun h => exec_esave_of_misaligned h,
    fun h => exec_eres_of_misaligned h, fun h ha => refused_eres h ha,
    fun h ha ht => readWaits_of_readAtIssue (exec_eres_of_reaches h ha ht), fun q h ha ht hq => ?_⟩
  intro hd n header es en eread
  have hheader : header → eresRefuses s hd = false := eresRefuses_eq_false_iff.mpr
  refine ⟨fun hbad => ?refused, fun hok => exec_eres_of_empty h ha ht hq (hheader hok),
    fun hok hcount hb => refused_eres_entries h ha ht hq (hheader hok) hcount hb, fun hok hcount hb he => ?entries⟩
  case refused =>
    exact exec_eres_of_badHeader h ha ht hq (Bool.of_not_eq_false (mt eresRefuses_eq_false_iff.mp hbad))
  case entries =>
    have hentries := exec_eres_of_entries h ha ht hq (hheader hok) hcount hb he
    refine ⟨readWaits_of_readAtIssue hentries, fun r hread' => ?_⟩
    intro ents
    have hqueue : exec (.eres f) s = finish s 1 (eresQueue s m addr n r.1 ents) :=
      hentries.trans (congrArg (finish s 1) (readAtIssue_of_readsAs hread' _))
    refine ⟨fun hall => ?queued, fun i hi hbad hbefore => ?trapped⟩
    case queued => rw [hqueue, eresQueue_of_ok hall, finish_ok]
    case trapped =>
      rw [hqueue, eresQueue_of_bad hi hbad hbefore]
      rfl

end Sys2Proof.Machine
end

section
/-!
SUPPORT. What the pull of a migrating line leaves alone (R218, R257, R324 to R327), and with it the look of an engine at an access: bytes
move, and what the caches, the mesh and the hub hold of them, and nothing else of the device changes.
-/
namespace Sys2Proof.Machine

/-- t is s but for memory, its poison, what the caches, the mesh and the hub hold and know of it, and the model's own counts. -/
def State.MovesBytes (s t : State) : Prop :=
  t = { s with
    fresh := t.fresh, nextId := t.nextId, mem := t.mem, poison := t.poison, dead := t.dead, trace := t.trace
    monitors := t.monitors, hub := t.hub, mesh := t.mesh, caches := t.caches, swm := t.swm, counters := t.counters }

namespace State.MovesBytes

theorem refl (s : State) : s.MovesBytes s := rfl

theorem trans {s t u : State} (h : s.MovesBytes t) (h' : t.MovesBytes u) : s.MovesBytes u := by
  rw [State.MovesBytes] at *
  rw [h', h]

theorem ite {s t u : State} {p : Prop} [Decidable p] (h : p → s.MovesBytes t) (h' : ¬ p → s.MovesBytes u) :
    s.MovesBytes (if p then t else u) := by
  split
  · next hp => exact h hp
  · next hp => exact h' hp

theorem foldl {α : Type} {f : State → α → State} (h : ∀ (u : State) a, u.MovesBytes (f u a)) (as : List α) (s : State) :
    s.MovesBytes (as.foldl f s) := by
  induction as generalizing s with
  | nil => exact refl s
  | cons a as ih => exact (h s a).trans (ih (f s a))

theorem of_reaches {s t : State} (h : s.ReachesMemory t) : s.MovesBytes t := by
  rw [State.MovesBytes, h]

theorem copies {s t : State} (h : s.MovesBytes t) : t.copies = s.copies := by rw [h]

end State.MovesBytes

namespace State

/-! ### Copies of software-managed sectors (R218) -/

theorem moves_setPoison (s : State) (sector : Nat) (b : Bool) : s.MovesBytes (s.setPoison sector b) := rfl
theorem moves_setMemByte (s : State) (key : Nat) (b : Byte) : s.MovesBytes (s.setMemByte key b) := rfl
theorem moves_record (s : State) (l : Loc) (n : Nat) : s.MovesBytes (s.record l n) := rfl
theorem moves_dropL1At (s : State) (core sector : Nat) : s.MovesBytes (s.dropL1At core sector) := rfl
theorem moves_dropCopy (s : State) (cache sector : Nat) : s.MovesBytes (s.dropCopy cache sector) := rfl
theorem moves_reach (s : State) (k : Nat) : s.MovesBytes (s.reach k) := rfl

theorem moves_toSlice (s : State) (die : Nat) (c : SwmCopy) : s.MovesBytes (s.toSlice die c) :=
  .ite (fun _ => .refl s) fun _ => rfl

theorem moves_evictL1Copy (s : State) (core sector : Nat) : s.MovesBytes (s.evictL1Copy core sector) := by
  unfold evictL1Copy
  split
  · exact (moves_toSlice s _ _).trans (moves_dropCopy _ _ _)
  · exact .refl s

theorem moves_writeHome (s : State) (c : SwmCopy) : s.MovesBytes (s.writeHome c) := by
  unfold writeHome
  split
  · exact .refl s
  · have hbytes (is : List Nat) (u : State) : u.MovesBytes
        (is.foldl (fun t i => t.setMemByte (64 * c.sector + i) (c.bytes.getD i 0#8)) u) :=
      .foldl (fun v _ => moves_setMemByte v _ _) is u
    exact ((moves_record s (.mem (64 * c.sector)) 64).trans (hbytes (lanesOf c.dirty) _)).trans
      (.of_reaches (reaches_homeWritten _ c.sector))

theorem moves_evictL2Copy (s : State) (die sector : Nat) : s.MovesBytes (s.evictL2Copy die sector) := by
  have hl1 (cores : List Nat) : s.MovesBytes
      (cores.foldl (fun t core => (t.evictL1Copy core sector).dropL1At core sector) s) :=
    .foldl (fun u _ => (moves_evictL1Copy u _ _).trans (moves_dropL1At _ _ _)) _ s
  unfold evictL2Copy
  dsimp only
  split
  · exact (((hl1 _).trans (moves_writeHome _ _)).trans (moves_dropCopy _ _ _)).trans (moves_reach _ _)
  · exact hl1 _

/-! ### Pulls (R326, R327) -/

theorem moves_useOutward (s : State) (ks : List Nat) : s.MovesBytes (s.useOutward ks) := rfl
theorem moves_setMigWord (s : State) (n w : Nat) (v : DWord) : s.MovesBytes (s.setMigWord n w v) := rfl

theorem moves_flushSwm (s : State) (sector : Nat) : s.MovesBytes (s.flushSwm sector) :=
  .foldl (fun u d => moves_evictL2Copy u d sector) _ s

theorem moves_pullLine (s : State) (n l : Nat) : s.MovesBytes (s.pullLine n l) := by
  have hold (ks : List Nat) : s.MovesBytes (ks.foldl (fun t k => (t.flushSwm k).spanFor (64 * k) true) s) :=
    .foldl (fun u k => (moves_flushSwm u k).trans (.of_reaches (reaches_spanFor _ (64 * k) true))) ks s
  have hnew (p : Nat → Bool) (key : Nat) (is : List Nat) (u : State) : u.MovesBytes (is.foldl
      (fun t i => (if p i then t.setPoison (key + i) true else t).homeWritten (key + i)) u) :=
    .foldl (fun v i => .trans (.ite (fun _ => moves_setPoison v (key + i) true) fun _ => .refl v)
      (.of_reaches (reaches_homeWritten _ (key + i)))) is u
  unfold pullLine
  exact ((((hold _).trans (.of_reaches (reaches_putMemBytes _ _ _))).trans (hnew _ _ _ _)).trans
    (moves_useOutward _ _)).trans (moves_setMigWord _ _ _ _)

/-- What has been pulled has moved bytes. -/
def Pulled.Moves (s : State) (p : Pulled) : Prop := ∀ t, p = .ok t → s.MovesBytes t

namespace Pulled.Moves

theorem ok {s t : State} (h : s.MovesBytes t) : Pulled.Moves s (.ok t) := fun _ e => Pulled.ok.inj e ▸ h
theorem wait (s : State) (as : List Ask) : Pulled.Moves s (.wait as) := fun _ e => Pulled.noConfusion e
theorem lost (s : State) : Pulled.Moves s .lost := fun _ e => Pulled.noConfusion e

theorem trans {s t : State} {p : Pulled} (h : s.MovesBytes t) (h' : Pulled.Moves t p) : Pulled.Moves s p :=
  fun u e => h.trans (h' u e)

end Pulled.Moves

theorem moves_pull (s : State) (n l : Nat) : Pulled.Moves s (s.pull n l) := by
  unfold pull
  split
  · exact .lost s
  · split
    · exact .ok (moves_pullLine s n l)
    · exact .wait s _

theorem moves_pullFirst (s : State) (key : Nat) : Pulled.Moves s (s.pullFirst key) := by
  unfold pullFirst
  split
  · exact .ok (.refl s)
  · split
    · exact .ok (.refl s)
    · exact moves_pull s _ _

/-- The first touch of one more line of a range. -/
def Pulled.next (key : Nat) : Pulled → Nat → Pulled
  | .ok t, i => t.pullFirst (256 * (key / 256 + i))
  | .wait as, _ => .wait as
  | .lost, _ => .lost

theorem firstTouch_eq (s : State) (key n : Nat) :
    s.firstTouch key n = (List.range ((key % 256 + n + 255) / 256)).foldl (Pulled.next key) (.ok s) := by
  rw [firstTouch]
  refine congrArg (fun f => List.foldl f (Pulled.ok s) _) (funext fun a => funext fun i => ?_)
  cases a <;> rfl

theorem moves_next {s : State} (key i : Nat) {a : Pulled} (h : Pulled.Moves s a) : Pulled.Moves s (a.next key i) := by
  cases a with
  | ok t =>
    rw [Pulled.next]
    exact .trans (h t rfl) (moves_pullFirst t _)
  | wait as => exact .wait s as
  | lost => exact .lost s

theorem moves_firstTouch (s : State) (key n : Nat) : Pulled.Moves s (s.firstTouch key n) := by
  have hfold (is : List Nat) (a : Pulled) (h : Pulled.Moves s a) : Pulled.Moves s (is.foldl (Pulled.next key) a) := by
    induction is generalizing a with
    | nil => exact h
    | cons i is ih => exact ih _ (moves_next key i h)
  rw [firstTouch_eq]
  exact hfold _ _ (.ok (.refl s))

theorem moves_pullTouch (s : State) (t : Touch) : s.MovesBytes (s.pullTouch t).1 := by
  unfold pullTouch
  split
  · next k _ _ _ =>
    split
    · split
      · exact .refl s
      · exact .refl s
      · next s1 he => exact moves_firstTouch s k t.n s1 he
    · exact .refl s
  · exact .refl s

/-- The look of an engine moves no more than the line that it pulls. -/
theorem moves_engineLook (s : State) (core asid launch : Nat) (need : Need) (va : DWord) (n : Nat) :
    s.MovesBytes (s.engineLook core asid launch need va n).1 := moves_pullTouch s _

end State

end Sys2Proof.Machine
end

section
/-!
SUPPORT. The steps of the copy engines (R263, R270, R272, R275): a copy that its engine may serve moves on, parks on a fault, or fails.
-/
namespace Sys2Proof.Machine

section Runs
variable {s : State} {k : Nat} {c : Copy} (hc : s.copies.get? k = some c) (hr : s.copyRuns c = true)
include hc hr

/-! ### A copy that moves on -/

theorem exec_copyComplete_of_unread (n : Nat) (ht : c.tensor = true) (hd : c.desc = []) :
    exec (.copyComplete k n) s = .next (s.bumpFresh.readDesc k c).1 := by
  simp only [exec_copyComplete, execCopyComplete, hc, hr, ht, hd]
  rfl

theorem exec_copyComplete_of_ready (n : Nat) (h : c.tensor = false ∨ c.desc ≠ []) :
    exec (.copyComplete k n) s = .next ((s.bumpFresh.copyPieces k n).finishCopy k) := by
  have hread : (c.tensor && c.desc == []) = false := by
    rcases h with h | h <;> simp [h]
  simp only [exec_copyComplete, execCopyComplete, hc, hr, hread]
  rfl

/-! ### A copy that parks (R270, R305) -/

/-- The state in which copy k waits for the fault entry of its access at va. -/
def State.copyParked (s : State) (k : Nat) (c : Copy) (va : DWord) (w : Bool) : State :=
  let t := s.postWait c.asid va (fqBytes va (laneBit c.lane) c.asid (if w then 5 else 4) ((s.block c.blk).groupField c.grp)
    c.core 0 0 (s.block c.blk).field) (.copy k)
  { t with copies := t.copies.modify k fun x => { x with st := .faulted s.nextId } }

theorem exec_copyFault_of_missing {va : DWord} {w : Bool} (hb : s.copyBlocked c = some (va, w, .missing)) :
    exec (.copyFault k) s = .next (s.copyParked k c va w) := by
  simp only [exec_copyFault, execCopyFault, hc, hr, hb]
  rfl

omit hr in
theorem State.copyParked_st (va : DWord) (w : Bool) :
    ((s.copyParked k c va w).copies.get? k).map Copy.st = some (.faulted s.nextId) := by
  simp [State.copyParked, State.postWait, State.post, Tbl.get?_modify, hc]

/-! ### A copy that fails (R270, R298) -/

theorem exec_copyFail_of_held {va : DWord} {w : Bool} (hb : s.copyBlocked c = some (va, w, .lost))
    (hh : c.counted.contains 23 = true) : exec (.copyFail k) s = .next s := by
  simp only [exec_copyFail, execCopyFail, hc, hr, hb, hh]
  rfl

theorem exec_copyFail_of_refused {va : DWord} {w : Bool} {t : Tr} {code : Nat} (hb : s.copyBlocked c = some (va, w, t))
    (hcode : failCode t = some code) (hh : t = .lost → c.counted.contains 23 = false) :
    exec (.copyFail k) s = .next ((s.copyPulled c).failCopy k c code va) := by
  have hheld : (t == .lost && c.counted.contains 23) = false := by
    by_cases ht : t = .lost
    · rw [hh ht, Bool.and_false]
    · simp [ht]
  simp only [exec_copyFail, execCopyFail, hc, hr, hb, hheld, hcode]
  rfl

end Runs

theorem State.copyPulled_copies (s : State) (c : Copy) : (s.copyPulled c).copies = s.copies := by
  have hgetD (o : Option State) (h : ∀ t, o = some t → t.copies = s.copies) : (o.getD s).copies = s.copies := by
    cases o with
    | none => rfl
    | some t => exact h t rfl
  refine hgetD _ fun t ht => ?_
  obtain ⟨a, -, ha⟩ := List.exists_of_findSome?_eq_some ht
  split at ha
  · exact nomatch ha
  · exact nomatch ha
  · exact Option.some.inj ha ▸ (State.moves_engineLook s _ _ _ _ _ _).copies

/-- What a copy gives back with its leave is no copy. -/
theorem State.returnLeave_get? {s : State} {k : Nat} {c d : Copy} (hd : s.copies.get? k = some d) :
    ((s.returnLeave k c).copies.get? k).isSome = true := by
  unfold State.returnLeave
  split
  · simp [State.endLeave, State.setDie, Tbl.get?_modify, hd]
  · rw [hd]
    rfl

theorem State.failCopy_st {s : State} {k : Nat} {c d : Copy} (hd : s.copies.get? k = some d) (hp : c.reported = false)
    (code : Nat) (va : DWord) :
    ((s.failCopy k c code va).copies.get? k).map Copy.st = some (.failed (BitVec.ofNat 8 code) va) := by
  obtain ⟨x, hx⟩ := Option.isSome_iff_exists.mp (State.returnLeave_get? (c := c) hd)
  simp [State.failCopy, hp, State.releaseFlag, State.onGroup, State.setGroup, State.onBlock, Tbl.get?_modify, hx]

/-- Settles O40: a copy that runs does what its lemma above says of its next access. -/
theorem copyEvents : Obligations.CopyEvents := by
  unfold Obligations.CopyEvents
  intro s k n c hc hr
  refine ⟨exec_copyComplete_of_unread hc hr n, exec_copyComplete_of_ready hc hr n, fun va w hb => ?parks,
    fun va w t code hb hrefused => ⟨fun ht => ?held, fun hh => ?fails, fun hp => ?failed⟩⟩
  case parks =>
    exact ⟨_, exec_copyFault_of_missing hc hr hb, State.copyParked_st hc va w, rfl, rfl, _, rfl, rfl, rfl⟩
  case held => exact exec_copyFail_of_held hc hr (ht ▸ hb)
  case fails =>
    refine exec_copyFail_of_refused hc hr hb ?_ hh
    rcases hrefused with ⟨rfl, rfl⟩ | ⟨rfl, rfl⟩ | ⟨rfl, rfl⟩ | ⟨rfl, rfl⟩ <;> rfl
  case failed => exact State.failCopy_st (d := c) (by rw [State.copyPulled_copies, hc]) hp code va

end Sys2Proof.Machine
end

section
/-!
SUPPORT. RTE, LAUNCH and LSTAT (R334, R351 to R353): where each executing lane goes on after its trap, and what becomes of a device-side
launch.
-/
namespace Sys2Proof.Machine

/-! ### RTE (R353) -/

/-- The executing lanes of a mask that are in no handler. -/
def outsideHandler (s : State) (m : DWord) : DWord := m &&& maskOf fun i => !(s.cg.lane i).inHandler

/-- What the fetch of an instruction waits for to which RTE brings a lane back. -/
def rteFetches (s : State) (m : DWord) : Option (List Ask) :=
  (lanesOf m).findSome? fun i => wordWaitsAt s (s.cg.lane i).epc

/-- A lane brought back to where its trap stopped it. -/
def rteLane (f : FmtA) (s : State) (l : Lane) : Lane := l.returnFrom (f.b.getLsbD 0) (wordsAt s l.epc)

theorem execRte_eq (f : FmtA) (s : State) : execRte f s = run (.rte f) s fun m =>
    if outsideHandler s m != 0#64 then .trap (outsideHandler s m) cIllegal 0#64
    else match rteFetches s m with
      | some as => .stallWith (s.askFor as)
      | none => .ok (s.onExec m fun _ l => rteLane f s l) m := rfl

theorem outsideHandler_eq_zero {s : State} {m : DWord} (h : ∀ i ∈ lanesOf m, (s.cg.lane i).inHandler = true) :
    outsideHandler s m = 0#64 := by
  refine BitVec.eq_of_getLsbD_eq fun i hi => ?_
  rw [outsideHandler, BitVec.getLsbD_and, getLsbD_maskOf _ hi, BitVec.getLsbD_zero]
  by_cases hm : m.getLsbD i = true
  · simp [h i (mem_lanesOf.mpr ⟨hi, hm⟩)]
  · simp [hm]

section Rte
variable {f : FmtA} {s : State} (h : MayRun (.rte f) s)
include h

theorem exec_rte_of_outside (ho : outsideHandler s (s.execLanes f.guard) ≠ 0#64) : exec (.rte f) s =
    .next (s.trappedAt (outsideHandler s (s.execLanes f.guard)) cIllegal 0#64) := by
  rw [exec_rte, execRte_eq]
  exact run_trapped h (hb := if_pos (by simpa using ho))

variable (hin : ∀ i ∈ lanesOf (s.execLanes f.guard), (s.cg.lane i).inHandler = true)
include hin

theorem exec_rte_of_waiting {as : List Ask} (hf : rteFetches s (s.execLanes f.guard) = some as) :
    exec (.rte f) s = .next ((s.askFor as).result (.stalled none)) := by
  rw [exec_rte, execRte_eq, run_of_mayRun h, guard_rte, outsideHandler_eq_zero hin, hf]
  rfl

theorem exec_rte_of_fetched (hf : rteFetches s (s.execLanes f.guard) = none) : exec (.rte f) s = .next
    (s.pastWords (s.onExec (s.execLanes f.guard) fun _ l => rteLane f s l) 1 (s.execLanes f.guard)) := by
  rw [exec_rte, execRte_eq]
  exact run_passed h (hb := by rw [outsideHandler_eq_zero hin, hf]; rfl)

end Rte

/-- An instruction that has moved the lanes of a mask itself leaves them where it has moved them. -/
theorem State.lane_pastWords_onExec {s : State} (hb : (s.blocks.get? s.cur.blk).isSome = true) (m : DWord)
    (g : Nat → Lane → Lane) (words : Nat) {i : Nat} (hi : i < s.cg.lanes.length) (hm : m.getLsbD i = true) :
    (s.pastWords (s.onExec m g) words m).lane s.cur.blk s.cur.grp i = g i (s.cg.lane i) := by
  let u := s.onExec m g
  have hub : (u.blocks.get? s.cur.blk).isSome = true := State.blocks_isSome_onGroup hb _ _
  have hlen : i < (u.group s.cur.blk s.cur.grp).lanes.length := by
    rw [show u.group s.cur.blk s.cur.grp = _ from State.group_onGroup_same hb _ _, List.length_mapIdx]
    exact hi
  have hstay : (u.stillOrdinary (s.cur.lanes &&& ~~~m)).getLsbD i = false := by
    simp [State.stillOrdinary, hm]
  have hpast := State.lane_onLanes_same u s.cur.blk s.cur.grp (u.stillOrdinary (s.cur.lanes &&& ~~~m))
    (fun _ l => { l with pc := u.cur.pc + BitVec.ofNat 64 (8 * words) }) i hub hlen
  rw [hstay, if_neg Bool.false_ne_true] at hpast
  have hmoved := State.lane_onLanes_same s s.cur.blk s.cur.grp m g i hb hi
  rw [if_pos hm] at hmoved
  exact hpast.trans hmoved

/-- Settles O37: where every lane is in its handler and no fetch waits, the lanes are those of `rteLane`. -/
theorem returnFromTrap : Obligations.ReturnFromTrap := by
  unfold Obligations.ReturnFromTrap
  intro f s m out fetches
  refine ⟨fun as h hin hf => exec_rte_of_waiting h hin hf, fun h hiss hin hf => ?_, fun h => exec_rte_of_outside h⟩
  refine ⟨_, exec_rte_of_fetched h hin hf, rfl, rfl, fun i hi hm => ?_⟩
  intro l r
  have hr : r = rteLane f s l := State.lane_pastWords_onExec hiss.1 m (fun _ x => rteLane f s x) 1 hi hm
  rw [hr]
  refine ⟨?pc, rfl, rfl, rfl, rfl⟩
  case pc => simp [rteLane, Lane.returnFrom]

/-! ### LAUNCH (R334, R351) -/

/-- LAUNCH once the check of its launch has what it needs, in t. -/
def launchAnswer (f : FmtA) (s : State) (m : DWord) (t : State) (body : Option (List Byte)) : State :=
  let r := t.deviceLaunch (s.cg.ureg f.a.toNat) (s.cg.ureg (f.a.toNat + 1)) (s.cg.ureg (f.a.toNat + 2)) body
  (r.1.putU f.d.toNat 64 (BitVec.ofNat 64 r.2)).onExec m fun _ l => l.setP f.b.toNat (r.2 == 0)

/-- LAUNCH once its descriptor is read, in t. -/
def launchFrom (f : FmtA) (s : State) (m : DWord) (t : State) (body : Option (List Byte)) : Res :=
  match t.launchWaits s.cb.asid (t.deviceCheck (s.cg.ureg f.a.toNat) (s.cg.ureg (f.a.toNat + 1)) body) with
  | some as => .stallWith (s.askFor as)
  | none => .ok (launchAnswer f s m t body) 0#64

theorem execLaunch_eq (f : FmtA) (s : State) : execLaunch f s = run (.launch f) s fun m =>
    if (lanesOf m).any fun i => !s.laneQuiet s.cur.blk s.cur.grp i then .stall none
    else readDescriptor s m (s.cg.ureg f.a.toNat) (launchFrom f s m) := rfl

section Descriptor
variable {s : State} {m desc : DWord} (go : State → Option (List Byte) → Res)

theorem readDescriptor_of_waits {as : List Ask} (ha : desc.toNat % 64 = 0)
    (hw : s.virtWaits s.cb.core s.cb.asid needR desc 64 = some as) :
    readDescriptor s m desc go = .stallWith (s.askFor as) := by
  rw [readDescriptor, if_neg (not_not_intro ha), hw]

theorem readDescriptor_of_served {ts : List Touch} (ha : desc.toNat % 64 = 0)
    (hw : s.virtWaits s.cb.core s.cb.asid needR desc 64 = none)
    (hl : (s.virtLook s.cb.core s.cb.asid needR desc 64).2 = some ts) : readDescriptor s m desc go =
      readAtIssue (s.virtLook s.cb.core s.cb.asid needR desc 64).1 0 [(lowest m, desc, spansOf ts)]
        fun t bs => go t bs.head? := by
  rw [readDescriptor, if_neg (not_not_intro ha), hw]
  simp only [hl]

/-- Once the descriptor is what it is, the check goes on with it. -/
theorem readDescriptor_of_is {t : State} {body : Option (List Byte)} (h : s.descriptorIs m desc t body) :
    readDescriptor s m desc go = go t body := by
  rcases h with ⟨ha, rfl, rfl⟩ | ⟨ha, hw, hl, rfl, rfl⟩ | ⟨ha, hw, ts, hl, bs, hread, rfl⟩
  · exact if_pos ha
  · rw [readDescriptor, if_neg (not_not_intro ha), hw]
    simp only [hl]
  · rw [readDescriptor_of_served go ha hw hl, readAtIssue_of_readsAs hread]

end Descriptor

section Launch
variable {f : FmtA} {s : State} (h : MayRun (.launch f) s)
include h

theorem exec_launch_of_busy {i : Nat} (hi : i ∈ lanesOf (s.execLanes f.guard))
    (hq : s.laneQuiet s.cur.blk s.cur.grp i = false) : exec (.launch f) s = .next (s.result (.stalled none)) := by
  rw [exec_launch, execLaunch_eq]
  exact run_next_of_stall h (if_pos (List.any_eq_true.mpr ⟨i, hi, by rw [hq]; rfl⟩))

variable (hq : ∀ i ∈ lanesOf (s.execLanes f.guard), s.laneQuiet s.cur.blk s.cur.grp i = true)
include hq

theorem exec_launch_of_quiet : exec (.launch f) s = finish s 1
    (readDescriptor s (s.execLanes f.guard) (s.cg.ureg f.a.toNat) (launchFrom f s (s.execLanes f.guard))) := by
  rw [exec_launch, execLaunch_eq, run_of_mayRun h]
  exact congrArg _ (if_neg (by simpa using hq))

theorem exec_launch_of_walk {as : List Ask} (ha : (s.cg.ureg f.a.toNat).toNat % 64 = 0)
    (hw : s.virtWaits s.cb.core s.cb.asid needR (s.cg.ureg f.a.toNat) 64 = some as) :
    exec (.launch f) s = .next ((s.askFor as).result (.stalled none)) := by
  rw [exec_launch_of_quiet h hq, readDescriptor_of_waits _ ha hw]
  rfl

theorem readWaits_launch {ts : List Touch} (ha : (s.cg.ureg f.a.toNat).toNat % 64 = 0)
    (hw : s.virtWaits s.cb.core s.cb.asid needR (s.cg.ureg f.a.toNat) 64 = none)
    (hl : (s.virtLook s.cb.core s.cb.asid needR (s.cg.ureg f.a.toNat) 64).2 = some ts) : ReadWaits (.launch f) s
      (s.virtLook s.cb.core s.cb.asid needR (s.cg.ureg f.a.toNat) 64).1 0
      [(lowest (s.execLanes f.guard), s.cg.ureg f.a.toNat, spansOf ts)] :=
  readWaits_of_readAtIssue ((exec_launch_of_quiet h hq).trans (congrArg _ (readDescriptor_of_served _ ha hw hl)))

variable {t : State} {body : Option (List Byte)}
  (hd : s.descriptorIs (s.execLanes f.guard) (s.cg.ureg f.a.toNat) t body)
include hd

theorem exec_launch_of_descriptor : exec (.launch f) s = finish s 1 (launchFrom f s (s.execLanes f.guard) t body) := by
  rw [exec_launch_of_quiet h hq, readDescriptor_of_is _ hd]

/-- What the check waits for is asked for in s, not in the state that the read of the descriptor has led to. -/
theorem exec_launch_of_waiting {as : List Ask} (hw : t.launchWaits s.cb.asid
      (t.deviceCheck (s.cg.ureg f.a.toNat) (s.cg.ureg (f.a.toNat + 1)) body) = some as) :
    exec (.launch f) s = .next ((s.askFor as).result (.stalled none)) := by
  rw [exec_launch_of_descriptor h hq hd, launchFrom, hw]
  rfl

theorem exec_launch_of_ready (hw : t.launchWaits s.cb.asid
      (t.deviceCheck (s.cg.ureg f.a.toNat) (s.cg.ureg (f.a.toNat + 1)) body) = none) :
    exec (.launch f) s = .next (s.pastWords (launchAnswer f s (s.execLanes f.guard) t body) 1 0#64) := by
  rw [exec_launch_of_descriptor h hq hd, launchFrom, hw, finish_ok]

end Launch

/-- What a launch that is accepted leaves. -/
theorem State.deviceLaunch_of_ok {t : State} {desc caddr cval : DWord} {body : Option (List Byte)} {l : Launch}
    (hc : checkLaunch t t.cb.asid (t.deviceCheck desc caddr body) = .ok l) : t.deviceLaunch desc caddr cval body =
      ((t.launchLook t.cb.asid (t.deviceCheck desc caddr body)).addLaunch
        { l with cval := cval, device := issuer t, prio := (t.launch t.cb.launch).prio
                 eff := (t.launch t.cb.launch).prio, st := .waiting }, 0) := by
  rw [State.deviceLaunch]
  simp only [hc]

/-- What one that is refused leaves. -/
theorem State.deviceLaunch_of_error {t : State} {desc caddr cval : DWord} {body : Option (List Byte)} {code : Nat}
    (hc : checkLaunch t t.cb.asid (t.deviceCheck desc caddr body) = .error code) : t.deviceLaunch desc caddr cval body =
      ((t.launchLook t.cb.asid (t.deviceCheck desc caddr body)).failWord t.cb.asid 0 (issuer t) desc caddr 1 code, code) := by
  rw [State.deviceLaunch]
  simp only [hc]

/-! ### LSTAT (R352) -/

theorem exec_lstat_of_mayRun {f : FmtA} {s : State} (h : MayRun (.lstat f) s) : exec (.lstat f) s =
    .next (s.pastWords (s.putU f.d.toNat 64 (launchStat s f.b.toNat)) 1 0#64) := by
  rw [exec_lstat, execLstat]
  exact run_passed h (hb := rfl)

/-! ### A launch whose completion word waits for a table -/

/-- LAUNCH from the uniform registers from s4 on, into s10 and predicate 1. -/
def farLaunchForm : FmtA := { guard := 0x7F#8, d := 10#10, a := 4#10, b := 1#10, c := 0#10, bi := false, xs := 0#2, u := false }

/-- Page tables at 0x2000: the lowest GiB is mapped to itself, and the table of the entry at 0x3008 lies in host memory. At 0x6000, the
descriptor of a launch of one cohort of 64 lanes. -/
def farLaunchMem : Memory :=
  [(0x2000, 0x01#8), (0x2001, 0x30#8), (0x3000, 0x01#8), (0x3001, 0x40#8), (0x3008, 0x01#8), (0x3009, 0x70#8), (0x300F, 0x04#8),
    (0x4000, 0xB9#8), (0x6001, 0x10#8), (0x6020, 1#8), (0x6024, 64#8), (0x6026, 8#8), (0x602C, 1#8)]

/-- A group of one lane, the descriptor's address in s4, and in s5 a completion word's that only that table maps. -/
def farLaunchGroup : Group :=
  { Group.init with
    lanes := [{ Lane.init with
      kind := .ordinary, pc := 0x1008#64, pos := some { hdr := 0x1000#64, len := 4, seta := 15#4, setb := 15#4 } }]
    s := [(4, 0x6000#64), (5, 0x8000000000#64)], active := true }

/-- That group at its LAUNCH; the sector of the descriptor is in its die's slice. -/
def farLaunch : State :=
  { State.reset with
    cur := { Cursor.init with blk := 0, lanes := 1#64, pc := 0x1008#64, before := farLaunchGroup, firstId := 1 }
    mem := farLaunchMem
    ctxs := [(0, { Ctx.init with root := 0x2000 })]
    blocks := [(0, { Block.init with
      resident := true, started := true, regs := 64, lanes := 64, groups := [(0, farLaunchGroup)] })]
    hub := { Hub.init with hbmFrames := 2 ^ 24 }
    mesh := { Mesh.init with sect := [(16 * 0x180, 1#3)] }
    boot := { Boot.init with level := 3#2, passed := BitVec.allOnes 25, ideHost := some 0#64 } }

/-- Where its descriptor lies. -/
def farLaunchLook : State × Option (List Touch) := farLaunch.virtLook 0 0 needR 0x6000#64 64

/-- The read of its descriptor. -/
def farLaunchReads : Reads := [(0, 0x6000#64, spansOf (farLaunchLook.2.getD []))]

/-- The state that the read leads to, and its bytes. -/
def farLaunchRead : State × List (List Byte) :=
  ((farLaunchLook.1.readReady 0 farLaunchReads).1.readBytes 0 farLaunchReads).getD (farLaunch, [])

/-- What the check waits for once the descriptor is read. -/
def farLaunchAsks : Option (List Ask) :=
  farLaunchRead.1.launchWaits 0 (farLaunchRead.1.deviceCheck 0x6000#64 0x8000000000#64 farLaunchRead.2.head?)

theorem farLaunch_mayRun : MayRun (.launch farLaunchForm) farLaunch := by
  constructor <;> decide +kernel

theorem farLaunch_quiet : ∀ i ∈ lanesOf (farLaunch.execLanes farLaunchForm.guard),
    farLaunch.laneQuiet farLaunch.cur.blk farLaunch.cur.grp i = true := by decide +kernel

theorem farLaunch_descriptorIs :
    farLaunch.descriptorIs (farLaunch.execLanes farLaunchForm.guard) 0x6000#64 farLaunchRead.1 farLaunchRead.2.head? := by
  have hbytes : (farLaunchLook.1.readReady 0 farLaunchReads).1.readBytes 0 farLaunchReads = some farLaunchRead := by
    obtain ⟨q, hq⟩ := Option.isSome_iff_exists.mp
      (show ((farLaunchLook.1.readReady 0 farLaunchReads).1.readBytes 0 farLaunchReads).isSome = true by decide +kernel)
    rw [farLaunchRead, hq, Option.getD_some]
  exact .inr (.inr ⟨by decide, by decide +kernel, farLaunchLook.2.getD [], by decide +kernel, farLaunchRead.2,
    ⟨by decide +kernel, by decide +kernel, by decide +kernel, hbytes⟩, rfl⟩)

/-- Asking in the one state or in the other: the read of the descriptor has left its translation in the cluster's TLB. -/
theorem farLaunch_waits : ∃ as, farLaunchAsks = some as ∧ (farLaunch.askFor as).clusters = [] ∧
    (farLaunchRead.1.askFor as).clusters ≠ [] := by
  have hclusters : ∃ as ∈ farLaunchAsks, (farLaunch.askFor as).clusters = [] ∧ (farLaunchRead.1.askFor as).clusters ≠ [] := by
    decide +kernel
  exact hclusters

/-- Refutes O36: where its check waits, LAUNCH asks for what it waits for in the state before it read its descriptor, so that nothing of
that read stays. The other clauses hold: `exec_launch_of_ready` with `State.deviceLaunch_of_ok` and `State.deviceLaunch_of_error`,
`exec_launch_of_walk`, `readWaits_launch`, `exec_launch_of_busy` and `exec_lstat_of_mayRun`; of the one that fails,
`exec_launch_of_waiting` says what is so. -/
theorem not_deviceLaunches : ¬ Obligations.DeviceLaunches := by
  unfold Obligations.DeviceLaunches
  intro h
  obtain ⟨hlaunch, -⟩ := h farLaunchForm farLaunch
  obtain ⟨as, has, hbefore, hafter⟩ := farLaunch_waits
  obtain ⟨hwaits, -⟩ := hlaunch farLaunch_mayRun farLaunch_quiet _ _ farLaunch_descriptorIs
  have hmodel := exec_launch_of_waiting farLaunch_mayRun farLaunch_quiet farLaunch_descriptorIs has
  have hsame := Host.Outcome.next.inj (hmodel.symm.trans (hwaits as has))
  exact hafter ((congrArg State.clusters hsame).symm.trans hbefore)

end Sys2Proof.Machine
end

section
/-!
SUPPORT. What comes from other packages and from remote machines: a packet of a message (R283), a contribution at its window (R282, R284),
a window that has all it expects (R278), and the messages of a connection (R299 to R301).
-/
namespace Sys2Proof.Machine

namespace State
variable {s : State}

/-! ### Packets (R283) -/

/-- A message as a packet of it has come. -/
def afterPacket (s : State) (p : Packet) : State := (s.setInbound ((s.inboundOf p).add p)).applyPacket p

section Packet
variable {p : Packet}

theorem prawellPacket_of_repeated (h : (s.inboundOf p).got.contains p.seq = true ∨ (s.inboundOf p).count ≤ p.seq) :
    exec (.prawellPacket p) s = .next s := by
  rw [exec_prawellPacket, execPrawellPacket, if_pos (by simpa using h)]

variable (hn : (s.inboundOf p).got.contains p.seq = false) (hc : p.seq < (s.inboundOf p).count)
include hn hc

theorem prawellPacket_of_new : exec (.prawellPacket p) s = .next
    (if ((s.afterPacket p).inboundOf p).got.length < (s.inboundOf p).count then s.afterPacket p
     else (s.afterPacket p).wholeMessage ((s.afterPacket p).inboundOf p)) := by
  have hnew : ¬ ((s.inboundOf p).got.contains p.seq || decide ((s.inboundOf p).count ≤ p.seq)) = true := by
    rw [hn, Bool.false_or, decide_eq_true_eq]
    omega
  rw [exec_prawellPacket, execPrawellPacket, if_neg hnew]
  rfl

theorem prawellPacket_of_partial (hl : ((s.afterPacket p).inboundOf p).got.length < (s.inboundOf p).count) :
    exec (.prawellPacket p) s = .next (s.afterPacket p) := by
  rw [prawellPacket_of_new hn hc, if_pos hl]

theorem prawellPacket_of_last (hl : (s.inboundOf p).count ≤ ((s.afterPacket p).inboundOf p).got.length) :
    exec (.prawellPacket p) s = .next ((s.afterPacket p).wholeMessage ((s.afterPacket p).inboundOf p)) := by
  rw [prawellPacket_of_new hn hc, if_neg (Nat.not_lt.mpr hl)]

end Packet

/-! ### Contributions at their window (R278, R282, R284) -/

section Contribution
variable {c : Contrib} (hq : s.hub.contribs.find? (fun x => x.id == c.id) = some c)
include hq

theorem contributionApply_of_noWindow (hw : s.hub.windows.get? c.win = none) :
    exec (.contributionApply c.id) s = .next ((s.dropContrib c.id).count hubDie 22) := by
  simp only [exec_contributionApply, execContributionApply, hq, hw]

variable {w : Window} (hw : s.hub.windows.get? c.win = some w)
include hw

theorem contributionApply_of_full (hf : fullWindow w = true) :
    exec (.contributionApply c.id) s = .next ((s.dropContrib c.id).count hubDie 21) := by
  simp only [exec_contributionApply, execContributionApply, hq, hw]
  rw [if_pos hf]

variable (hf : fullWindow w = false)
include hf

theorem contributionApply_of_bad (hb : s.contribBad w c = true) :
    exec (.contributionApply c.id) s = .next ((s.dropContrib c.id).noteContrib c w true) := by
  simp only [exec_contributionApply, execContributionApply, hq, hw]
  rw [if_neg (Bool.eq_false_iff.mp hf), if_pos hb]

variable (hb : s.contribBad w c = false)
include hb

theorem contributionApply_of_waiting (ht : s.contribTurn c = .wait) : exec (.contributionApply c.id) s = .next s := by
  simp only [exec_contributionApply, execContributionApply, hq, hw]
  rw [if_neg (Bool.eq_false_iff.mp hf), if_neg (Bool.eq_false_iff.mp hb), if_pos (beq_iff_eq.mpr ht)]

variable (ht : s.contribTurn c ≠ .wait)
include ht

theorem contributionApply_of_heldHome (hh : s.homesServe (memKey 0 (elemPa w c.elem)) (elemSize w.ty) = false) :
    exec (.contributionApply c.id) s = .next (s.holdContrib c (memKey 0 (elemPa w c.elem))) := by
  simp only [exec_contributionApply, execContributionApply, hq, hw]
  rw [if_neg (Bool.eq_false_iff.mp hf), if_neg (Bool.eq_false_iff.mp hb), if_neg (mt beq_iff_eq.mp ht), if_pos (by rw [hh]; rfl)]

variable (hh : s.homesServe (memKey 0 (elemPa w c.elem)) (elemSize w.ty) = true)
include hh

theorem contributionApply_of_away {t : State} (hc : s.callHome [sectorOf (memKey 0 (elemPa w c.elem))] = some t) :
    exec (.contributionApply c.id) s = .next t := by
  simp only [exec_contributionApply, execContributionApply, hq, hw]
  rw [if_neg (Bool.eq_false_iff.mp hf), if_neg (Bool.eq_false_iff.mp hb), if_neg (mt beq_iff_eq.mp ht), if_neg (by rw [hh]; decide), hc]

theorem contributionApply_of_athome (hc : s.callHome [sectorOf (memKey 0 (elemPa w c.elem))] = none) :
    exec (.contributionApply c.id) s = .next
      ((((s.applyElem w c).contribTook s.traceLen s c).dropContrib c.id).noteContrib c w false) := by
  simp only [exec_contributionApply, execContributionApply, hq, hw]
  rw [if_neg (Bool.eq_false_iff.mp hf), if_neg (Bool.eq_false_iff.mp hb), if_neg (mt beq_iff_eq.mp ht), if_neg (by rw [hh]; decide), hc]

end Contribution

theorem noteContrib_of_alone {c : Contrib} (hm : c.msg = none) (w : Window) (bad : Bool) : s.noteContrib c w bad =
    s.countContrib c.win { w with
      received := w.received + c.count, discarded := w.discarded + if bad then c.count else 0 } := by
  rw [noteContrib, hm]

/-! ### A window that has all it expects (R278, R356) -/

theorem countContrib_of_short {v : Window} (h : v.received < v.expect) (k : Nat) : s.countContrib k v = s.setWindow k v :=
  if_pos h

theorem countContrib_of_served {v : Window} (h : v.expect ≤ v.received) (hd : s.resultDies v = []) (k : Nat) :
    s.countContrib k v = s.finishWindow k v := by
  rw [countContrib, if_neg (Nat.not_lt.mpr h), if_pos hd]

theorem countContrib_of_held {v : Window} (h : v.expect ≤ v.received) (hd : s.resultDies v ≠ []) (k : Nat) :
    s.countContrib k v = (s.resultDies v).foldl (fun (t : State) d => t.count (16 + d) 25) (s.setWindow k v) := by
  rw [countContrib, if_neg (Nat.not_lt.mpr h), if_neg hd]

/-- Counts of events are all that changes. -/
theorem foldl_count_keeps (event : Nat) (ds : List Nat) (t : State) :
    (ds.foldl (fun (t : State) d => t.count (16 + d) event) t).hub = t.hub ∧
    (ds.foldl (fun (t : State) d => t.count (16 + d) event) t).mem = t.mem := by
  induction ds generalizing t with
  | nil => exact ⟨rfl, rfl⟩
  | cons d ds ih => exact ih (t.count (16 + d) event)

theorem countContrib_held_keeps {v : Window} (h : v.expect ≤ v.received) (hd : s.resultDies v ≠ []) (k : Nat) :
    (s.countContrib k v).hub.windows.get? k = some v ∧ (s.countContrib k v).mem = s.mem := by
  obtain ⟨hhub, hmem⟩ := foldl_count_keeps 25 (s.resultDies v) (s.setWindow k v)
  rw [countContrib_of_held h hd, hhub, hmem]
  exact ⟨by rw [setWindow, Tbl.get?_set, if_pos rfl], rfl⟩

/-! ### The messages of a connection (R299 to R301) -/

section Message
variable {m : RemoteMsg}

theorem remoteMessage_of_passed (h : s.remotePassed m = true) : exec (.remoteMessage m) s = .next s := by
  rw [exec_remoteMessage, execRemoteMessage, if_pos h]

theorem remoteMessage_of_refused {r : Remote} (hk : s.hub.remotes.find? (fun x => x.conn == m.conn && x.seq == m.seq) = some r)
    (hr : r.refused.isSome = true) : exec (.remoteMessage m) s = .next s := by
  by_cases hp : s.remotePassed m = true
  · exact remoteMessage_of_passed hp
  · simp only [exec_remoteMessage, execRemoteMessage, hk]
    rw [if_neg hp, if_pos hr]

variable (hp : s.remotePassed m = false)
include hp

theorem remoteMessage_of_first (hk : s.hub.remotes.find? (fun x => x.conn == m.conn && x.seq == m.seq) = none) :
    exec (.remoteMessage m) s = .next
      (if (s.connAt m.conn).isNone ∧ s.connLimit ≤ s.hub.connPlace.length then s.answerRefused m .key else s.firstPacket m) := by
  simp only [exec_remoteMessage, execRemoteMessage, hk]
  rw [if_neg (Bool.eq_false_iff.mp hp)]
  by_cases hl : (s.connAt m.conn).isNone ∧ s.connLimit ≤ s.hub.connPlace.length
  · rw [if_pos hl, if_pos (by simpa using hl)]
  · rw [if_neg hl, if_neg (by simpa using hl)]

theorem remoteMessage_of_later {r : Remote} (hk : s.hub.remotes.find? (fun x => x.conn == m.conn && x.seq == m.seq) = some r)
    (hr : r.refused = none) : exec (.remoteMessage m) s = .next (s.laterPacket r m) := by
  simp only [exec_remoteMessage, execRemoteMessage, hk]
  rw [if_neg (Bool.eq_false_iff.mp hp), if_neg (by rw [hr]; decide)]

end Message

/-- A write whose packets have stopped: it is refused, and nothing of it will be written. -/
def remoteStopped (s : State) (r : Remote) : State :=
  { s with hub := { s.hub with
      remotes := s.hub.remotes.map (fun k => if k.id == r.id then { k with refused := some .timeout, bytes := [] } else k)
      timedOut := s.hub.timedOut + 1 } }

theorem remoteWriteTimeout_of_stopped {r : Remote} {conn seq : Nat}
    (hk : s.hub.remotes.find? (fun x => x.conn == conn && x.seq == seq) = some r) (hr : r.refused = none) (hw : r.write = true)
    (hg : r.got.length < r.packets) (hl : 2 ^ 27 ≤ s.hub.cycle - r.lastAt) :
    exec (.remoteWriteTimeout conn seq) s = .next ((s.remoteStopped r).endInflight r.region) := by
  have hdue : ¬ (r.refused.isSome || !r.write || remoteWhole r || decide (s.hub.cycle - r.lastAt < 2 ^ 27)) = true := by
    rw [remoteWhole, hr, hw, decide_eq_false (Nat.not_le.mpr hg), decide_eq_false (Nat.not_lt.mpr hl)]
    decide
  simp only [exec_remoteWriteTimeout, execRemoteWriteTimeout, hk]
  rw [if_neg hdue]
  rfl

section Finish
variable {r : Remote} (hm : s.hub.remotes.find? (fun x => x.id == r.id) = some r)
include hm

theorem remoteMessageFinish_of_later (hc : s.connAt r.conn ≠ some r.seq) : exec (.remoteMessageFinish r.id) s = .next s := by
  simp only [exec_remoteMessageFinish, execRemoteMessageFinish, hm]
  rw [if_pos (bne_iff_ne.mpr hc)]

theorem remoteMessageFinish_of_partial (hr : r.refused = none) (hw : remoteWhole r = false) :
    exec (.remoteMessageFinish r.id) s = .next s := by
  by_cases hc : s.connAt r.conn = some r.seq
  · simp only [exec_remoteMessageFinish, execRemoteMessageFinish, hm]
    rw [if_neg (mt bne_iff_ne.mp (not_not_intro hc)), if_neg (by rw [hr]; decide), if_pos (by rw [hw]; rfl)]
  · exact remoteMessageFinish_of_later hm hc

variable (hc : s.connAt r.conn = some r.seq)
include hc

theorem remoteMessageFinish_of_refused (hr : r.refused.isSome = true) :
    exec (.remoteMessageFinish r.id) s = .next (s.dropRemote r) := by
  simp only [exec_remoteMessageFinish, execRemoteMessageFinish, hm]
  rw [if_neg (mt bne_iff_ne.mp (not_not_intro hc)), if_pos hr]

variable (hr : r.refused = none) (hw : remoteWhole r = true)
include hr hw

theorem remoteMessageFinish_of_unserved (ha : s.homeAsks (memKey 0 r.base) r.length ≠ []) :
    exec (.remoteMessageFinish r.id) s = .next (s.askFor (s.homeAsks (memKey 0 r.base) r.length)) := by
  simp only [exec_remoteMessageFinish, execRemoteMessageFinish, hm]
  rw [if_neg (mt bne_iff_ne.mp (not_not_intro hc)), if_neg (by rw [hr]; decide), if_neg (by rw [hw]; decide), if_pos ha]

variable (ha : s.homeAsks (memKey 0 r.base) r.length = [])
include ha

theorem remoteMessageFinish_of_away {t : State}
    (ht : s.callHome (if r.write then rangeOf (memKey 0 r.base) r.length else []) = some t) :
    exec (.remoteMessageFinish r.id) s = .next t := by
  simp only [exec_remoteMessageFinish, execRemoteMessageFinish, hm]
  rw [if_neg (mt bne_iff_ne.mp (not_not_intro hc)), if_neg (by rw [hr]; decide), if_neg (by rw [hw]; decide),
    if_neg (not_not_intro ha), ht]

theorem remoteMessageFinish_of_athome
    (ht : s.callHome (if r.write then rangeOf (memKey 0 r.base) r.length else []) = none) :
    exec (.remoteMessageFinish r.id) s = .next (((s.performRemote r).dropRemote r).endInflight r.region) := by
  simp only [exec_remoteMessageFinish, execRemoteMessageFinish, hm]
  rw [if_neg (mt bne_iff_ne.mp (not_not_intro hc)), if_neg (by rw [hr]; decide), if_neg (by rw [hw]; decide),
    if_neg (not_not_intro ha), ht]

end Finish

end State

/-- Settles O48: by the outcomes of a packet, of a contribution at its window and of a message's packet and end. -/
theorem inboundEvents : Obligations.InboundEvents := by
  intro s p m r c w i j rest key here asks queued known mine
  refine ⟨State.prawellPacket_of_repeated, State.prawellPacket_of_partial, State.prawellPacket_of_last,
    State.contributionApply_of_noWindow, fun hq hw => ⟨State.contributionApply_of_full hq hw, fun hf hb =>
      ⟨State.contributionApply_of_bad hq hw hf hb, fun hm => State.noteContrib_of_alone hm w true⟩, fun hf hb ht hh hc =>
      ⟨State.contributionApply_of_athome hq hw hf hb ht hh hc, fun hm => State.noteContrib_of_alone hm w false⟩⟩,
    fun hq hw hf hb => ⟨State.contributionApply_of_waiting hq hw hf hb, State.contributionApply_of_heldHome hq hw hf hb,
      fun t ht hh => State.contributionApply_of_away hq hw hf hb ht hh⟩,
    fun k v h => State.countContrib_of_short h k,
    fun k v h => ⟨fun hd => State.countContrib_of_served h hd k, fun hd => State.countContrib_held_keeps h hd k⟩,
    State.remoteMessage_of_passed, State.remoteMessage_of_refused, State.remoteMessage_of_first,
    fun hp hk hr => State.remoteMessage_of_later hp hk hr,
    fun conn seq => State.remoteWriteTimeout_of_stopped, State.remoteMessageFinish_of_unserved,
    State.remoteMessageFinish_of_athome, fun hm hc hr hw ha t => State.remoteMessageFinish_of_away hm hc hr hw ha,
    State.remoteMessageFinish_of_later, State.remoteMessageFinish_of_partial, State.remoteMessageFinish_of_refused⟩

end Sys2Proof.Machine
end

section
/-!
SUPPORT. Reset (R357, R358, R362), bring-up and training (R355, R296), a step of the service level (R354, R355), and what goes on when a
memory die serves, which leaves all but the hub's memory as it is (R356).
-/
namespace Sys2Proof.Machine

/-! ### What was held for a memory die goes on (R356) -/

/-- t is s but for memory, what the mesh, the caches and the hub know of it, the model's own counts, and what the hub has held. -/
def State.ServesHeld (s t : State) : Prop :=
  t = { s with
    fresh := t.fresh, nextId := t.nextId, mem := t.mem, dead := t.dead, trace := t.trace, monitors := t.monitors, mesh := t.mesh
    caches := t.caches, counters := t.counters
    hub := { s.hub with
      spans := t.hub.spans, hostHeld := t.hub.hostHeld, waiting := t.hub.waiting, noted := t.hub.noted
      activating := t.hub.activating, mig := t.hub.mig, windows := t.hub.windows } }

namespace State.ServesHeld
variable {s t : State}

theorem refl (s : State) : s.ServesHeld s := rfl

theorem trans {u : State} (h : s.ServesHeld t) (h' : t.ServesHeld u) : s.ServesHeld u := by
  rw [State.ServesHeld] at *
  rw [h', h]

theorem ite {u : State} {p : Prop} [Decidable p] (h : p → s.ServesHeld t) (h' : ¬ p → s.ServesHeld u) :
    s.ServesHeld (if p then t else u) := by
  split
  · next hp => exact h hp
  · next hp => exact h' hp

theorem foldl {α : Type} {f : State → α → State} (h : ∀ (u : State) a, u.ServesHeld (f u a)) (as : List α) (s : State) :
    s.ServesHeld (as.foldl f s) := by
  induction as generalizing s with
  | nil => exact refl s
  | cons a as ih => exact (h s a).trans (ih (f s a))

theorem of_reaches (h : s.ReachesMemory t) : s.ServesHeld t := by rw [State.ServesHeld, h]

theorem boot (h : s.ServesHeld t) : t.boot = s.boot := by rw [h]
theorem blocks (h : s.ServesHeld t) : t.blocks = s.blocks := by rw [h]
theorem cmd (h : s.ServesHeld t) : t.hub.cmd = s.hub.cmd := by rw [h]
theorem msix1 (h : s.ServesHeld t) : t.hub.msix1 = s.hub.msix1 := by rw [h]
theorem fenced (h : s.ServesHeld t) : t.hub.fenced = s.hub.fenced := by rw [h]
theorem requalified (h : s.ServesHeld t) : t.hub.requalified = s.hub.requalified := by rw [h]

end State.ServesHeld

/-- The hub holds no access, and no window that has all it expects. -/
def Hub.Still (h : Hub) : Prop := h.waiting = [] ∧ ∀ w ∈ h.windows, w.2.done = true ∨ State.fullWindow w.2 = false

namespace State
variable {s : State}

theorem serves_serveEach (s : State) (hs kept : List HeldWrite) : s.ServesHeld (s.serveEach hs kept) := by
  induction hs generalizing s kept with
  | nil => rfl
  | cons h hs ih =>
    exact .ite (fun _ => .trans (.of_reaches (reaches_homeUpdate s h.key h.what)) (ih _ kept))
      fun _ => .trans (.of_reaches (reaches_callBack s h.key h.what)) (ih _ (kept ++ [h]))

theorem serves_serveWaiting (s : State) : s.ServesHeld s.serveWaiting :=
  .trans (t := { s with hub := { s.hub with noted := s.hub.noted.filter fun k => !s.sectorServes k } }) rfl
    (serves_serveEach _ _ _)

theorem serves_setMigWord (s : State) (n w : Nat) (v : DWord) : s.ServesHeld (s.setMigWord n w v) := rfl

theorem serves_beginMig (s : State) (n : Nat) : s.ServesHeld (s.beginMig n) :=
  .ite (fun _ => serves_setMigWord s n 3 _) fun _ => .refl s

theorem serves_serveActivations (s : State) : s.ServesHeld s.serveActivations :=
  .trans (t := { s with hub := { s.hub with
    activating := s.hub.activating.filter fun n => !(s.hub.activating.filter s.leafServes).contains n } }) rfl
    (.foldl serves_beginMig _ _)

theorem serves_hubPut (s : State) (pa : Nat) (bs : List Byte) : s.ServesHeld (s.hubPut pa bs) :=
  .ite (fun _ => .of_reaches (reaches_hubUpdate s _ _)) fun _ => .refl s

theorem serves_hubPutWord (s : State) (pa : Nat) (v : DWord) (id : Nat) : s.ServesHeld (s.hubPutWord pa v id) :=
  .ite (fun _ => .of_reaches (reaches_hubUpdate s _ _)) fun _ => .refl s

theorem serves_writeOut (s : State) (w : Window) : s.ServesHeld (s.writeOut w) :=
  .ite (fun _ => .foldl (fun u _ => serves_hubPut u _ _) _ s) fun _ => .refl s

theorem serves_finishWindow (s : State) (win : Nat) (w : Window) : s.ServesHeld (s.finishWindow win w) :=
  .trans (.trans (serves_writeOut s w) (serves_hubPutWord _ _ _ _)) rfl

theorem serves_serveWindows (s : State) : s.ServesHeld s.serveWindows :=
  .foldl (fun u (p : Nat × Window) => serves_finishWindow u p.1 p.2) _ s

theorem serves_held (s : State) : s.ServesHeld s.serveWaiting.serveActivations.serveWindows :=
  ((serves_serveWaiting s).trans (serves_serveActivations _)).trans (serves_serveWindows _)

/-- Without a command at work, what goes on is what the hub has held. -/
theorem serveHeld_of_nothing (h : s.hub.cmd = .nothing) :
    s.serveHeld = s.serveWaiting.serveActivations.serveWindows := by
  rw [serveHeld, (serves_held s).cmd.trans h]

theorem serves_serveHeld (h : s.hub.cmd = .nothing) : s.ServesHeld s.serveHeld := by
  rw [serveHeld_of_nothing h]
  exact serves_held s

theorem serveWindows_of_still (h : ∀ w ∈ s.hub.windows, w.2.done = true ∨ fullWindow w.2 = false) : s.serveWindows = s := by
  have hnone : (s.hub.windows.filter fun p => !p.2.done && fullWindow p.2 && s.resultDies p.2 == []) = [] := by
    refine List.filter_eq_nil_iff.mpr fun w hw => ?_
    rcases h w hw with hd | hf
    · simp [hd]
    · simp [hf]
  rw [serveWindows, hnone]
  rfl

/-- An activation changes the table of migrations alone. -/
theorem beginMigs_keep (ns : List Nat) (s : State) : (ns.foldl beginMig s).mem = s.mem ∧
    (ns.foldl beginMig s).hub.windows = s.hub.windows := by
  induction ns generalizing s with
  | nil => exact ⟨rfl, rfl⟩
  | cons n ns ih =>
    obtain ⟨hm, hw⟩ := ih (s.beginMig n)
    have hone : (s.beginMig n).mem = s.mem ∧ (s.beginMig n).hub.windows = s.hub.windows := by
      unfold beginMig
      split <;> exact ⟨rfl, rfl⟩
    exact ⟨hm.trans hone.1, hw.trans hone.2⟩

theorem serveHeld_mem_of_still (hc : s.hub.cmd = .nothing) (h : s.hub.Still) : s.serveHeld.mem = s.mem := by
  obtain ⟨hwait, hwin⟩ := h
  have hserve : s.serveWaiting = { s with hub := { s.hub with noted := s.hub.noted.filter fun k => !s.sectorServes k, waiting := [] } } := by
    rw [serveWaiting, hwait]
    rfl
  obtain ⟨hmem, hwindows⟩ : s.serveWaiting.serveActivations.mem = s.mem ∧
      s.serveWaiting.serveActivations.hub.windows = s.hub.windows := by
    rw [hserve]
    exact beginMigs_keep _ _
  rw [serveHeld_of_nothing hc, serveWindows_of_still (by rw [hwindows]; exact hwin), hmem]

/-! ### Reset (R357, R358, R362) -/

/-- The state with another BOOTSTAT. -/
def withBootstat (s : State) (bits : BitVec 4) : State := { s with boot := { s.boot with bootstat := bits } }

/-- Right after a reset no die has failed, and no channel is stuck: a record must name a compute die and a memory die. -/
theorem bootBits_of_fresh (hl : s.boot.level = 0#2) (hs : s.boot.stuck = []) : s.bootBits =
    s.withBootstat (s.boot.bootstat ||| if s.bringupLost then 4#4 else 0#4) := by
  have hstuck : s.boot.stuck.any s.tableHas = false := by rw [hs]; rfl
  simp only [bootBits, withBootstat, hl, hstuck, beq_self_eq_true, Bool.true_and, Bool.false_eq_true, if_false, BitVec.or_zero]

theorem bringupLost_of_noRecord (hf : s.boot.failed = 0#25) (hr : s.boot.record = none) : s.bringupLost = false := by
  rw [bringupLost, hf, hr, BitVec.getLsbD_zero, Option.isSome_none, Bool.false_and, Bool.or_false]

/-- The hub is admitted by no record. -/
theorem admitted_getLsbD {r : List Byte} (hr : s.boot.record = some r) {a : Nat} (ha : a < hubDie) :
    s.admitted.getLsbD a = (recordAgents r).getLsbD a := by
  have hhub : (1#25 <<< hubDie).getLsbD a = false := by
    rw [BitVec.getLsbD_shiftLeft, decide_eq_true ha, Bool.not_true, Bool.and_false, Bool.false_and]
  rw [admitted, hr, BitVec.getLsbD_or, hhub, Bool.or_false]
  rfl

theorem someAdmitted_of_unfailed {r : List Byte} (hr : s.boot.record = some r) (hf : s.boot.failed = 0#25) {first n : Nat}
    (hn : first + n ≤ hubDie) : s.someAdmitted first n (fun a => !s.boot.failed.getLsbD a) =
      (List.range n).any fun i => (recordAgents r).getLsbD (first + i) := by
  have hone (i : Nat) (hi : i ∈ List.range n) : (s.admitted.getLsbD (first + i) && !s.boot.failed.getLsbD (first + i)) =
      (recordAgents r).getLsbD (first + i) := by
    have hlt := List.mem_range.mp hi
    rw [hf, BitVec.getLsbD_zero, Bool.not_false, Bool.and_true, admitted_getLsbD hr (by omega)]
  rw [someAdmitted, Bool.eq_iff_iff, List.any_eq_true, List.any_eq_true]
  exact exists_congr fun i => and_congr_right fun hi => by rw [hone i hi]

theorem bringupLost_of_record {r : List Byte} (hr : s.boot.record = some r) (hf : s.boot.failed = 0#25) : s.bringupLost =
    !((List.range 16).any (recordAgents r).getLsbD && (List.range 8).any fun i => (recordAgents r).getLsbD (16 + i)) := by
  have hcompute := someAdmitted_of_unfailed hr hf (first := 0) (n := 16) (by decide)
  have hmemory := someAdmitted_of_unfailed hr hf (first := 16) (n := 8) (by decide)
  simp only [Nat.zero_add] at hcompute
  rw [bringupLost, hcompute, hmemory, hr, hf, BitVec.getLsbD_zero, Bool.false_or, Option.isSome_some, Bool.true_and, Bool.not_and]

/-- Nothing is known of the dies. -/
def Untrained (s : State) : Prop := s.boot.level = 0#2 ∧ s.boot.stuck = [] ∧ s.boot.failed = 0#25 ∧ s.boot.bootstat = 0#4

theorem untrained_fresh0 (s : State) : s.fresh0.Untrained := ⟨rfl, rfl, rfl, rfl⟩

theorem bootUp_of_noRecord (hu : s.Untrained) (h : s.bootRecord = none) (hr : s.boot.record = none) :
    s.bootUp = s.withBootstat 1#4 := by
  obtain ⟨hl, hs, hf, hb⟩ := hu
  have hboot : s.bootUp = (s.withBootstat (s.boot.bootstat ||| 1#4)).bootBits := by rw [bootUp, h]; rfl
  have hstat : s.boot.bootstat ||| 1#4 = 1#4 := by rw [hb]; decide
  have hlost : (s.withBootstat 1#4).bringupLost = false := bringupLost_of_noRecord hf hr
  rw [hboot, hstat, bootBits_of_fresh (s := s.withBootstat 1#4) hl hs, hlost, if_neg Bool.false_ne_true, BitVec.or_zero]
  rfl

/-- The state with a record in force. -/
def withRecord (s : State) (r : List Byte) (bits : BitVec 4) : State :=
  { s with
    boot := { s.boot with record := some r, recMeasure := (List.range 64).map (Config.sha512 r), bootstat := bits }
    hub := { s.hub with kres := recordKres r, kresLock := true } }

theorem bootUp_of_record {r : List Byte} (hu : s.Untrained) (h : s.bootRecord = some r) : s.bootUp = s.withRecord r
    (if (List.range 16).any (recordAgents r).getLsbD && (List.range 8).any fun i => (recordAgents r).getLsbD (16 + i)
      then 0#4 else 4#4) := by
  obtain ⟨hl, hs, hf, hb⟩ := hu
  have hboot : s.bootUp = (s.withRecord r s.boot.bootstat).bootBits := by rw [bootUp, h]; rfl
  have hbits (b : Bool) : 0#4 ||| (if !b then 4#4 else 0#4) = if b then 0#4 else 4#4 := by cases b <;> decide
  have hlost := bringupLost_of_record (s := s.withRecord r s.boot.bootstat) rfl hf
  have hstat : (s.withRecord r s.boot.bootstat).boot.bootstat = 0#4 := hb
  rw [hboot, bootBits_of_fresh (s := s.withRecord r s.boot.bootstat) hl hs, hlost, hstat, hbits]
  rfl

theorem fresh0_bootRecord (s : State) : s.fresh0.bootRecord = s.bootRecord := by
  have hslot (n : Nat) : s.fresh0.slotOf n = s.slotOf n :=
    congrArg (fun f : Cells 8 => f.getMany (n * 0x10000) configBytes) (show s.fresh0.boot.flash = s.boot.flash from rfl)
  simp only [bootRecord, hslot]

theorem reset_of_noRecord (h : s.bootRecord = none) : exec .reset s = .next (s.resetAs
    { Boot.init with flash := s.boot.flash, bootstat := 1#4 } State.reset.hub) := by
  rw [exec_reset, execReset, bootUp_of_noRecord s.untrained_fresh0 (s.fresh0_bootRecord.trans h) rfl]
  rfl

theorem reset_of_record {r : List Byte} (h : s.bootRecord = some r) : exec .reset s = .next (s.resetAs { Boot.init with
      flash := s.boot.flash, record := some r, recMeasure := (List.range 64).map (Config.sha512 r)
      bootstat := if (List.range 16).any (recordAgents r).getLsbD && (List.range 8).any fun i => (recordAgents r).getLsbD (16 + i)
        then 0#4 else 4#4 }
      { State.reset.hub with kres := recordKres r, kresLock := true }) := by
  rw [exec_reset, execReset, bootUp_of_record s.untrained_fresh0 (s.fresh0_bootRecord.trans h)]
  rfl

/-! ### Bring-up and training (R292, R296, R355) -/

/-- A die has passed its bring-up; a compute die leaves reset. -/
def passedDie (s : State) (a : Nat) : State :=
  let t : State := { s with boot := { s.boot with passed := s.boot.passed ||| (1#25 <<< a) } }
  if a < 16 then t.setDie a { t.freshDie a with hold := (t.die a).hold } else t

theorem passedDie_keeps (s : State) (a : Nat) : (s.passedDie a).boot = { s.boot with passed := s.boot.passed ||| (1#25 <<< a) } ∧
    (s.passedDie a).mem = s.mem ∧ (s.passedDie a).hub = s.hub := by
  unfold passedDie
  dsimp only
  split <;> exact ⟨rfl, rfl, rfl⟩

theorem bringupOutcome_of_decided {a : Nat} (h : s.decided a = true) (passed : Bool) : s.bringupOutcome a passed = s := if_pos h

theorem bringupOutcome_of_passed {a : Nat} (h : s.decided a = false) : s.bringupOutcome a true = (s.passedDie a).serveHeld := by
  rw [bringupOutcome, if_neg (Bool.eq_false_iff.mp h), if_pos rfl]
  rfl

theorem bringupOutcome_of_failed {a : Nat} (h : s.decided a = false) : s.bringupOutcome a false =
    ({ s with boot := { s.boot with failed := s.boot.failed ||| (1#25 <<< a) } } : State).bootBits := by
  rw [bringupOutcome, if_neg (Bool.eq_false_iff.mp h), if_neg Bool.false_ne_true]

/-- What a die's bring-up leaves where no command is at work. -/
theorem bringupOutcome_keeps {a : Nat} (hc : s.hub.cmd = .nothing) :
    (s.bringupOutcome a true).boot.passed = (if s.decided a then s.boot.passed else s.boot.passed ||| (1#25 <<< a)) ∧
    (s.bringupOutcome a true).boot.failed = s.boot.failed ∧ (s.bringupOutcome a true).hub.fenced = s.hub.fenced ∧
    (s.bringupOutcome a true).hub.requalified = s.hub.requalified := by
  by_cases hd : s.decided a = true
  · rw [bringupOutcome_of_decided hd, if_pos hd]
    exact ⟨rfl, rfl, rfl, rfl⟩
  · rw [bringupOutcome_of_passed (Bool.eq_false_iff.mpr hd), if_neg hd]
    obtain ⟨hboot, -, hhub⟩ := s.passedDie_keeps a
    have h := serves_serveHeld (s := s.passedDie a) (by rw [hhub, hc])
    rw [h.boot, h.fenced, h.requalified, hboot, hhub]
    exact ⟨rfl, rfl, rfl, rfl⟩

section Bringup
variable {a : Nat} (ha : a ≤ hubDie) (hm : s.admitted.getLsbD a = true)
include ha hm

theorem dieBringupDone_of_admitted (passed : Bool) : exec (.dieBringupDone a passed) s = .next
    (if passed && (s.bringupOutcome a passed).hub.fenced.getLsbD a then
      { s.bringupOutcome a passed with hub := { (s.bringupOutcome a passed).hub with
          requalified := (s.bringupOutcome a passed).hub.requalified ||| (1#25 <<< a) } }
     else s.bringupOutcome a passed) := by
  have hadm : ¬ (decide (hubDie < a) || !s.admitted.getLsbD a) = true := by
    rw [hm, decide_eq_false (Nat.not_lt.mpr ha)]
    decide
  rw [exec_dieBringupDone, execDieBringupDone, if_neg hadm]

theorem dieBringupDone_unfenced (hf : s.hub.fenced.getLsbD a = false) (hc : s.hub.cmd = .nothing) :
    exec (.dieBringupDone a true) s = .next (s.bringupOutcome a true) := by
  obtain ⟨-, -, hfenced, -⟩ := bringupOutcome_keeps (a := a) hc
  rw [dieBringupDone_of_admitted ha hm, hfenced, hf]
  rfl

theorem dieBringupDone_fenced (hf : s.hub.fenced.getLsbD a = true) (hc : s.hub.cmd = .nothing) :
    exec (.dieBringupDone a true) s = .next { s.bringupOutcome a true with hub := { (s.bringupOutcome a true).hub with
      requalified := s.hub.requalified ||| (1#25 <<< a) } } := by
  obtain ⟨-, -, hfenced, hrequal⟩ := bringupOutcome_keeps (a := a) hc
  rw [dieBringupDone_of_admitted ha hm, hfenced, hf, hrequal]
  rfl

theorem dieBringupDone_failed : exec (.dieBringupDone a false) s = .next (s.bringupOutcome a false) := by
  rw [dieBringupDone_of_admitted ha hm, Bool.false_and, if_neg Bool.false_ne_true]

end Bringup

theorem bringupOutcome_mem_of_still {a : Nat} (hd : s.decided a = false) (hc : s.hub.cmd = .nothing) (h : s.hub.Still) :
    (s.bringupOutcome a true).mem = s.mem := by
  obtain ⟨-, hmem, hhub⟩ := s.passedDie_keeps a
  rw [bringupOutcome_of_passed hd, serveHeld_mem_of_still (by rw [hhub, hc]) (by rw [hhub]; exact h), hmem]

section Training
variable {ch : Nat} (hch : ch < 512) (hm : s.admitted.getLsbD (16 + ch / 64) = true)
include hch hm

theorem channelTrained_half (hn : ch ∉ s.boot.half) : exec (.channelTrained ch false true) s =
    .next { s with boot := { s.boot with half := ch :: s.boot.half } } := by
  have hadm : ¬ (512 ≤ ch ∨ (!s.admitted.getLsbD (16 + ch / 64)) = true) := by simp [hch, hm]
  rw [exec_channelTrained, execChannelTrained, if_neg (by simpa using hadm), if_pos (show (!false) = true from rfl),
    if_pos (by simp [hn])]

theorem channelTrained_full (hh : ch ∈ s.boot.half) (hf : ch ∉ s.boot.full) (hs : ch ∉ s.boot.stuck) :
    exec (.channelTrained ch true true) s = .next { s with boot := { s.boot with full := ch :: s.boot.full } } := by
  have hadm : ¬ (512 ≤ ch ∨ (!s.admitted.getLsbD (16 + ch / 64)) = true) := by simp [hch, hm]
  rw [exec_channelTrained, execChannelTrained, if_neg (by simpa using hadm), if_neg (show ¬ (!true) = true by decide),
    if_neg (by simp [hh, hf, hs]), if_pos rfl]

end Training

/-! ### The service level (R354, R355) -/

/-- The state one level up, before what was held goes on. -/
def climbed (s : State) : State :=
  let t := if s.boot.level == 0#2 then s.fillTable else s
  ({ t with
    boot := { t.boot with level := t.boot.level + 1#2 }
    hub := { t.hub with msix1 := t.hub.msix1 + 1 } } : State).bootBits

theorem serviceLevelStep_of_may (h : s.mayClimb = true) : exec .serviceLevelStep s = .next s.climbed.serveHeld := by
  rw [exec_serviceLevelStep, execServiceLevelStep, if_pos h]
  rfl

theorem serviceLevelStep_of_mayNot (h : s.mayClimb = false) : exec .serviceLevelStep s = .next s := by
  rw [exec_serviceLevelStep, execServiceLevelStep, if_neg (Bool.eq_false_iff.mp h)]

theorem fillTable_eq (s : State) : ∃ table frames rest, s.fillTable =
    { s with hub := { s.hub with interleave := table, hbmFrames := frames, stranded := rest } } := ⟨_, _, _, rfl⟩

theorem climbed_boot (s : State) : s.climbed.boot.level = s.boot.level + 1#2 := by
  obtain ⟨table, frames, rest, hf⟩ := s.fillTable_eq
  unfold climbed
  rw [hf]
  dsimp only
  split <;> rfl

theorem climbed_hub (s : State) : s.climbed.hub.msix1 = s.hub.msix1 + 1 ∧ s.climbed.hub.waiting = s.hub.waiting ∧
    s.climbed.hub.cmd = s.hub.cmd ∧ s.climbed.hub.windows = s.hub.windows := by
  obtain ⟨table, frames, rest, hf⟩ := s.fillTable_eq
  unfold climbed
  rw [hf]
  dsimp only
  split <;> exact ⟨rfl, rfl, rfl, rfl⟩

theorem climbed_keeps (s : State) : s.climbed.mem = s.mem ∧ s.climbed.blocks = s.blocks := by
  obtain ⟨table, frames, rest, hf⟩ := s.fillTable_eq
  unfold climbed
  rw [hf]
  dsimp only
  split <;> exact ⟨rfl, rfl⟩

theorem climbed_still (h : s.hub.Still) : s.climbed.hub.Still := by
  obtain ⟨-, hwait, -, hwin⟩ := s.climbed_hub
  rw [Hub.Still, hwait, hwin]
  exact h

end State

/-- Settles O49: by the states that a reset, a bring-up, a training and a step of the level lead to, and by what the service of a memory
die leaves alone. -/
theorem bootEvents : Obligations.BootEvents := by
  intro s a ch still
  refine ⟨?_, fun ha hm => ⟨s.bringupOutcome a true, ?_, fun hd => State.bringupOutcome_of_decided hd true, fun hd =>
      ⟨s.passedDie a, State.bringupOutcome_of_passed hd, ?_⟩⟩, fun ha hm hf hd hc =>
      ⟨_, State.dieBringupDone_unfenced ha hm hf hc, ?_⟩, fun ha hm _ hd => ⟨_, State.dieBringupDone_failed ha hm, ?_⟩,
    fun ha hm hf hc => ⟨_, State.dieBringupDone_fenced ha hm hf hc, rfl, ?_⟩,
    fun hch hm hn => ⟨_, State.channelTrained_half hch hm hn, rfl, rfl⟩,
    fun hch hm hh hf hs => ⟨_, State.channelTrained_full hch hm hh hf hs, rfl⟩,
    fun h => ⟨s.climbed, State.serviceLevelStep_of_may h, s.climbed_boot, ?_⟩,
    fun h hc => ⟨_, State.serviceLevelStep_of_may h, ?_⟩, State.serviceLevelStep_of_mayNot⟩
  · cases h : s.bootRecord with
    | none => exact State.reset_of_noRecord h
    | some r => exact State.reset_of_record h
  · rw [State.dieBringupDone_of_admitted ha hm, Bool.true_and]
  · obtain ⟨hboot, hmem, hhub⟩ := s.passedDie_keeps a
    exact ⟨by rw [hboot], by rw [hboot], hmem, hhub⟩
  · obtain ⟨hp, hfail, -, -⟩ := State.bringupOutcome_keeps (s := s) (a := a) hc
    rw [hd] at hp
    exact ⟨hp, hfail, State.bringupOutcome_mem_of_still hd hc⟩
  · rw [State.bringupOutcome_of_failed hd]
    exact ⟨rfl, rfl, rfl⟩
  · obtain ⟨hp, hfail, -, -⟩ := State.bringupOutcome_keeps (s := s) (a := a) hc
    exact ⟨hp, hfail⟩
  · obtain ⟨hmsi, hwait, hcmd, -⟩ := s.climbed_hub
    obtain ⟨hmem, hblocks⟩ := s.climbed_keeps
    exact ⟨hmsi, hmem, hblocks, hwait, hcmd⟩
  · obtain ⟨hmsi, -, hcmd, -⟩ := s.climbed_hub
    obtain ⟨hmem, hblocks⟩ := s.climbed_keeps
    have hs := State.serves_serveHeld (hcmd.trans hc)
    exact ⟨by rw [hs.boot, s.climbed_boot], hs.msix1.trans hmsi,
      fun h => (State.serveHeld_mem_of_still (hcmd.trans hc) (State.climbed_still h)).trans hmem, hs.blocks.trans hblocks⟩

end Sys2Proof.Machine
end

section
/-!
SUPPORT. The refusals of the mailbox (R286, R287, R354): a command that has no effect because another runs or the port has no keys, one at
level 0, and one that a check of its rule refuses.
-/
namespace Sys2Proof.Machine

namespace State
variable {s : State}

/-! ### Commands that have no effect (R286, R302) -/

/-- No command starts: the port has no keys, or one runs. -/
def Deaf (s : State) : Prop := s.boot.ideHost.isSome = true → s.hub.busy = true

namespace Deaf
variable (h : s.Deaf)
include h

theorem starts (code : BitVec 8) (args : List DWord) (go : State → State) : s.starts code args go = .next s := by
  unfold State.starts viaIo
  split
  · next hk => rw [if_pos (h hk)]
  · rfl

theorem command (code : BitVec 8) (args : List DWord) (check : Nat) (go : State → State) :
    s.command code args check go = .next s := h.starts code args _

theorem holdRead (code : BitVec 8) (args : List DWord) (pa n : Nat) : s.holdRead code args pa n = .next s := h.starts code args _

variable (a b c d : DWord)

theorem fenceout : execFenceout a s = .next s := h.command _ _ _ _
theorem readmit : execReadmit a s = .next s := h.command _ _ _ _
theorem poollose : execPoollose a s = .next s := h.command _ _ _ _
theorem poolset : execPoolset a b c d s = .next s := h.command _ _ _ _
theorem halt : execHalt a s = .next s := h.command _ _ _ _
theorem resume : execResume a s = .next s := h.command _ _ _ _
theorem fidset : execFidset a s = .next s := h.command _ _ _ _
theorem routeset : execRouteset a b s = .next s := h.command _ _ _ _
theorem revoke : execRevoke a b s = .next s := h.command _ _ _ _
theorem tclimit : execTclimit a b c s = .next s := h.command _ _ _ _
theorem regtable : execRegtable a b c d s = .next s := h.command _ _ _ _

/-- A command that may have to read memory first (R356). -/
theorem reads {p : Prop} [Decidable p] {code : BitVec 8} {args : List DWord} {pa n check : Nat} {go : State → State} :
    (if p then s.holdRead code args pa n else s.command code args check go) = .next s := by
  rw [h.holdRead, h.command, ite_self]

theorem winset : execWinset a b s = .next s := h.reads
theorem regset : execRegset a b s = .next s := h.reads
theorem ctxcreate : execCtxcreate a s = .next s := h.reads

theorem scrub : execScrub a b s = .next s := by
  unfold execScrub
  dsimp only
  rw [h.command, h.starts, ite_self]

theorem ctxtear : execCtxtear a b s = .next s := by
  unfold execCtxtear
  dsimp only
  rw [h.command, h.starts, ite_self]

theorem attest : execAttest a b s = .next s := by
  unfold execAttest
  dsimp only
  rw [h.holdRead, h.starts, ite_self]

theorem runCode (code : BitVec 8) (m : List DWord) : runCode code m s = .next s := by
  unfold Machine.runCode
  dsimp only
  split
  · exact h.fenceout _
  · exact h.readmit _
  · exact h.poollose _
  · exact h.poolset _ _ _ _
  · exact h.halt _
  · exact h.resume _
  · exact h.fidset _
  · exact h.routeset _ _
  · exact h.winset _ _
  · exact h.regset _ _
  · exact h.revoke _ _
  · exact h.scrub _ _
  · exact h.tclimit _ _ _
  · exact h.regtable _ _ _ _
  · exact h.ctxcreate _
  · exact h.ctxtear _ _
  · exact h.attest _ _
  · exact h.command _ _ _ _

theorem mcmdWrite (v : DWord) : s.mcmdWrite v = .next s := by
  unfold State.mcmdWrite
  dsimp only
  split
  · exact h.starts _ _ _
  · split
    · exact h.command _ _ _ _
    · exact h.runCode _ _

end Deaf

theorem viaIo_of_unkeyed (hk : ¬ s.boot.ideHost.isSome = true) (r : Host.Outcome State Fault Refusal) : s.viaIo r = .next s :=
  if_neg hk

theorem registerWrite_of_unkeyed (hk : ¬ s.boot.ideHost.isSome = true) (off : Nat) (v : DWord) :
    exec (.registerWrite off v) s = .next s := by
  rw [exec_registerWrite, execRegisterWrite]
  split
  · exact Deaf.mcmdWrite (fun h => absurd h hk) v
  · exact viaIo_of_unkeyed hk _

/-! ### Commands at level 0 (R286, R354) -/

/-- The mailbox alone changes: a command has been refused. -/
def refused (s : State) (code : BitVec 8) (args : List DWord) (r : Nat) : Host.Outcome State Fault Refusal :=
  .next ((s.mcmd code args).endCmd r)

section LevelZero
variable (hk : s.boot.ideHost.isSome = true) (hb : s.hub.busy = false) (hl : s.boot.level = 0#2)
include hk hb hl

theorem command_of_levelZero (code : BitVec 8) (args : List DWord) (check : Nat) (go : State → State) :
    s.command code args check go = s.refused code args 2 := by
  rw [command, starts_of_idle hk hb, if_pos (beq_iff_eq.mpr hl), refused]

variable (a b : DWord)

/-- No command waits for its bytes at level 0. -/
theorem winset_of_levelZero : exec (.winset a b) s = s.refused 0x09#8 [a, b] 2 := by
  rw [exec_winset, execWinset, command_of_levelZero hk hb hl, if_neg (by simp [hl])]

theorem regset_of_levelZero : exec (.regset a b) s = s.refused 0x0A#8 [a, b] 2 := by
  rw [exec_regset, execRegset]
  dsimp only
  rw [command_of_levelZero hk hb hl, if_neg (by simp [hl])]

theorem ctxcreate_of_levelZero : exec (.ctxcreate a) s = s.refused 0x10#8 [a] 2 := by
  rw [exec_ctxcreate, execCtxcreate, command_of_levelZero hk hb hl, if_neg (by simp [hl])]

theorem scrub_of_levelZero : exec (.scrub a b) s = s.refused 0x0C#8 [a, b] 2 := by
  rw [exec_scrub, execScrub]
  dsimp only
  rw [if_pos (by simp [hl]), command_of_levelZero hk hb hl]

theorem ctxtear_of_levelZero : exec (.ctxtear a b) s = s.refused 0x11#8 [a, b] 2 := by
  rw [exec_ctxtear, execCtxtear]
  dsimp only
  rw [if_pos (by simp [hl]), command_of_levelZero hk hb hl]

end LevelZero

/-! ### Commands that a check refuses (R286, R287) -/

namespace Ready
variable (h : s.Ready)
include h

theorem command_refused {check : Nat} (r : Nat) (hc : check = r + 1) (code : BitVec 8) (args : List DWord)
    (go : State → State) : s.command code args check go = s.refused code args (r + 1) := by
  rw [State.command, starts_of_idle h.keyed h.idle, if_neg (by simp [h.level]), hc, if_pos (Nat.succ_ne_zero r), refused]

variable {a b c d : DWord}

/-! #### Agents, domains and dies -/

theorem fenceout_out_of_range (ha : 24 ≤ a.toNat) : exec (.fenceout a) s = s.refused 0x01#8 [a] 1 := by
  rw [exec_fenceout, execFenceout, h.command_refused 0 (by simp [ha])]

theorem readmit_out_of_range (ha : 24 ≤ a.toNat) : exec (.readmit a) s = s.refused 0x02#8 [a] 1 := by
  rw [exec_readmit, execReadmit, h.command_refused 0 (by simp [ha])]

theorem fenceout_fenced (ha : a.toNat < 24) (hf : s.hub.fenced.getLsbD a.toNat = true) :
    exec (.fenceout a) s = s.refused 0x01#8 [a] 2 := by
  rw [exec_fenceout, execFenceout, h.command_refused 1 (by simp [ha, hf])]

theorem readmit_unqualified (ha : a.toNat < 24)
    (hf : s.hub.fenced.getLsbD a.toNat = false ∨ s.hub.requalified.getLsbD a.toNat = false) :
    exec (.readmit a) s = s.refused 0x02#8 [a] 2 := by
  have hno : (!s.hub.fenced.getLsbD a.toNat || !s.hub.requalified.getLsbD a.toNat) = true := by simpa using hf
  rw [exec_readmit, execReadmit, h.command_refused 1 (by rw [hno]; simp [ha])]

theorem poollose_out_of_range (ha : 6 < a.toNat) : exec (.poollose a) s = s.refused 0x03#8 [a] 1 := by
  rw [exec_poollose, execPoollose, h.command_refused 0 (by simp [ha])]

theorem poolset_out_of_range (ha : 15 < a.toNat ∨ (6 < d.toNat ∧ d ≠ 0xFF#64)) :
    exec (.poolset a b c d) s = s.refused 0x04#8 [a, b, c, d] 1 := by
  have hbad : (decide (15 < a.toNat) || decide (6 < d.toNat) && d != 0xFF#64) = true := by simpa using ha
  rw [exec_poolset, execPoolset, h.command_refused 0 (by rw [hbad]; rfl)]

theorem poolset_live (ha : a.toNat ≤ 15) (hd : d.toNat ≤ 6 ∨ d = 0xFF#64) (hx : s.ctxs ≠ []) :
    exec (.poolset a b c d) s = s.refused 0x04#8 [a, b, c, d] 3 := by
  have hdom : (decide (6 < d.toNat) && d != 0xFF#64) = false := by
    rcases hd with hd | rfl
    · simp [Nat.not_lt.mpr hd]
    · simp
  rw [exec_poolset, execPoolset, h.command_refused 2 (by simp [ha, hdom, anyCtx, hx])]

theorem halt_out_of_range (ha : 15 < a.toNat) : exec (.halt a) s = s.refused 0x05#8 [a] 1 := by
  rw [exec_halt, execHalt, h.command_refused 0 (by simp [ha])]

theorem resume_out_of_range (ha : 15 < a.toNat) : exec (.resume a) s = s.refused 0x06#8 [a] 1 := by
  rw [exec_resume, execResume, h.command_refused 0 (by simp [ha])]

/-! #### The fabric -/

theorem fidset_out_of_range (ha : a = 0#64 ∨ 4095 < a.toNat) : exec (.fidset a) s = s.refused 0x07#8 [a] 1 := by
  have hbad : (a == 0#64 || decide (4095 < a.toNat)) = true := by simpa using ha
  rw [exec_fidset, execFidset, h.command_refused 0 (by rw [hbad]; rfl)]

theorem fidset_live (h0 : a ≠ 0#64) (ha : a.toNat ≤ 4095) (hx : s.ctxs ≠ []) : exec (.fidset a) s = s.refused 0x07#8 [a] 3 := by
  rw [exec_fidset, execFidset, h.command_refused 2 (by simp [h0, ha, anyCtx, hx])]

theorem routeset_out_of_range (ha : 4095 < a.toNat ∨ 255 < b.toNat) : exec (.routeset a b) s = s.refused 0x08#8 [a, b] 1 := by
  have hbad : (decide (4095 < a.toNat) || decide (255 < b.toNat)) = true := by simpa using ha
  rw [exec_routeset, execRouteset]
  dsimp only
  rw [h.command_refused 0 (by rw [hbad]; rfl)]

theorem routeset_live (ha : a.toNat ≤ 4095) (hb : b.toNat ≤ 255) (hx : s.ctxs ≠ [])
    (hr : s.removesLive a.toNat (b.setWidth 8) = true) : exec (.routeset a b) s = s.refused 0x08#8 [a, b] 3 := by
  rw [exec_routeset, execRouteset]
  dsimp only
  rw [h.command_refused 2 (by simp [ha, hb, anyCtx, hx, hr])]

/-! #### Windows and regions -/

/-- A command that reads its descriptor once its home serves. -/
theorem reads_refused {p : Bool} (hp : p = false) {check : Nat} (r : Nat) (hc : check = r + 1) {code : BitVec 8}
    {args : List DWord} {pa n : Nat} {go : State → State} :
    (if p then s.holdRead code args pa n else s.command code args check go) = s.refused code args (r + 1) := by
  rw [hp, if_neg Bool.false_ne_true, h.command_refused r hc]

theorem winset_bad (ha : 255 < a.toNat ∨ s.hbmRange b.toNat 64 = false ∨
    (s.awaits b.toNat 64 = false ∧ windowOk (s.hubRead (memKey 0 b.toNat) 64) = false)) :
    exec (.winset a b) s = s.refused 0x09#8 [a, b] 1 := by
  rw [exec_winset, execWinset]
  refine h.reads_refused ?_ 0 ?_ <;> rcases ha with ha | ha | ⟨ha, hw⟩
  · simp [Nat.not_le.mpr ha]
  · simp [ha]
  · simp [ha]
  · simp [ha]
  · simp [ha]
  · simp [hw]

theorem winset_receiving (ha : a.toNat ≤ 255) (hb : s.hbmRange b.toNat 64 = true) (hw : s.awaits b.toNat 64 = false)
    (hok : windowOk (s.hubRead (memKey 0 b.toNat) 64) = true) (hr : s.receiving a.toNat = true) :
    exec (.winset a b) s = s.refused 0x09#8 [a, b] 2 := by
  rw [exec_winset, execWinset]
  exact h.reads_refused (by simp [hw]) 1 (by simp [ha, hb, hok, hr])

/-- A region number that the tables have no entry for. -/
def beyondTable (s : State) (r : Nat) : Bool := match s.hub.regtable with | some t => decide (t.2.1 ≤ r) | none => false

omit h in
theorem beyondTable_of_some {r : Nat} {t : Nat × Nat × Nat × Nat} (ht : s.hub.regtable = some t) :
    beyondTable s r = decide (t.2.1 ≤ r) := by rw [beyondTable, ht]

omit h in
theorem beyondTable_eq_false {r : Nat} (ht : ∀ t, s.hub.regtable = some t → r < t.2.1) : beyondTable s r = false := by
  unfold beyondTable
  split
  · next t he => exact decide_eq_false (Nat.not_le.mpr (ht t he))
  · rfl

omit h in
theorem execRegset_eq (a b : DWord) (s : State) : execRegset a b s =
    if (s.boot.level != 0#2 && decide (a.toNat < 2 ^ 24) && !beyondTable s a.toNat && s.hbmRange b.toNat 32 && s.awaits b.toNat 32)
    then s.holdRead 0x0A#8 [a, b] b.toNat 32
    else s.command 0x0A#8 [a, b]
      (resultOf [(decide (2 ^ 24 ≤ a.toNat) || beyondTable s a.toNat || !s.hbmRange b.toNat 32 ||
          !regionOk (s.hubRead (memKey 0 b.toNat) 32), 1),
        ((s.hub.regtable.isNone && decide (4096 ≤ a.toNat)) || s.regionState a.toNat != 0, 2)])
      fun t => let u := t.useRegion a.toNat
        { u with hub := { u.hub with regions := u.hub.regions.set a.toNat (regionOf (s.hubRead (memKey 0 b.toNat) 32)) } } := rfl

theorem regset_bad (ha : 2 ^ 24 ≤ a.toNat ∨ (∃ r, s.hub.regtable = some r ∧ r.2.1 ≤ a.toNat) ∨ s.hbmRange b.toNat 32 = false ∨
    (s.awaits b.toNat 32 = false ∧ regionOk (s.hubRead (memKey 0 b.toNat) 32) = false)) :
    exec (.regset a b) s = s.refused 0x0A#8 [a, b] 1 := by
  rw [exec_regset, execRegset_eq]
  refine h.reads_refused ?_ 0 ?_ <;> rcases ha with ha | ⟨r, hr, ha⟩ | ha | ⟨ha, hw⟩
  · rw [decide_eq_false (Nat.not_lt.mpr ha)]
    simp
  · simp [beyondTable_of_some hr, ha]
  · simp [ha]
  · simp [ha]
  · rw [decide_eq_true ha]
    simp
  · simp [beyondTable_of_some hr, ha]
  · simp [ha]
  · simp [hw]

theorem regset_taken (ha : a.toNat < 2 ^ 24) (ht : ∀ r, s.hub.regtable = some r → a.toNat < r.2.1)
    (hb : s.hbmRange b.toNat 32 = true) (hw : s.awaits b.toNat 32 = false)
    (hok : regionOk (s.hubRead (memKey 0 b.toNat) 32) = true)
    (hs : (s.hub.regtable = none ∧ 4096 ≤ a.toNat) ∨ s.regionState a.toNat ≠ 0) :
    exec (.regset a b) s = s.refused 0x0A#8 [a, b] 2 := by
  have hbad : ((s.hub.regtable.isNone && decide (4096 ≤ a.toNat)) || s.regionState a.toNat != 0) = true := by
    simpa [Option.isNone_iff_eq_none] using hs
  rw [exec_regset, execRegset_eq]
  refine h.reads_refused (by simp [hw]) 1 ?_
  rw [hbad, beyondTable_eq_false ht, decide_eq_false (Nat.not_le.mpr ha)]
  simp [hb, hok]

theorem revoke_bad (ha : 2 ^ 24 ≤ a.toNat ∨ b.toNat % 8 ≠ 0 ∨ s.hbmRange b.toNat 8 = false) :
    exec (.revoke a b) s = s.refused 0x0B#8 [a, b] 1 := by
  have hbad : (decide (2 ^ 24 ≤ a.toNat) || b.toNat % 8 != 0 || !s.hbmRange b.toNat 8) = true := by
    simpa only [Bool.or_eq_true, decide_eq_true_eq, bne_iff_ne, Bool.not_eq_true', or_assoc] using ha
  rw [exec_revoke, execRevoke]
  dsimp only
  rw [h.command_refused 0 (by rw [hbad]; rfl)]

theorem revoke_invalid (ha : a.toNat < 2 ^ 24) (hb : b.toNat % 8 = 0) (hr : s.hbmRange b.toNat 8 = true)
    (hs : s.regionState a.toNat ≠ 1) : exec (.revoke a b) s = s.refused 0x0B#8 [a, b] 2 := by
  rw [exec_revoke, execRevoke]
  dsimp only
  rw [h.command_refused 1 (by rw [decide_eq_false (Nat.not_le.mpr ha)]; simp [hb, hr, hs])]

/-! #### Tables, SCRUB and TCLIMIT -/

theorem scrub_bad (ha : a.toNat % 64 ≠ 0 ∨ b.toNat % 64 ≠ 0 ∨ s.hbmRange a.toNat b.toNat = false) :
    exec (.scrub a b) s = s.refused 0x0C#8 [a, b] 1 := by
  have hbad : (a.toNat % 64 != 0 || b.toNat % 64 != 0 || !s.hbmRange a.toNat b.toNat) = true := by
    simpa only [Bool.or_eq_true, bne_iff_ne, Bool.not_eq_true', or_assoc] using ha
  rw [exec_scrub, execScrub]
  dsimp only
  rw [hbad, Bool.or_true, if_pos rfl, h.command_refused 0 rfl]

theorem tclimit_out_of_range (ha : 19 < a.toNat ∨ 16 < b.toNat ∨ 1 < c.toNat) :
    exec (.tclimit a b c) s = s.refused 0x0D#8 [a, b, c] 1 := by
  have hbad : (decide (19 < a.toNat) || decide (16 < b.toNat) || decide (1 < c.toNat)) = true := by
    simpa only [Bool.or_eq_true, decide_eq_true_eq, or_assoc] using ha
  rw [exec_tclimit, execTclimit]
  dsimp only
  rw [h.command_refused 0 (by rw [hbad]; rfl)]

theorem tclimit_live (ha : a.toNat ≤ 19) (hb : b.toNat ≤ 16) (hc : c.toNat ≤ 1) (hx : s.ctxs ≠ []) :
    exec (.tclimit a b c) s = s.refused 0x0D#8 [a, b, c] 3 := by
  rw [exec_tclimit, execTclimit]
  dsimp only
  rw [h.command_refused 2 (by simp [ha, hb, hc, anyCtx, hx])]

theorem regtable_bad (ha : a.toNat % 4096 ≠ 0 ∨ c.toNat % 4096 ≠ 0 ∨ b.toNat % 4096 ≠ 0 ∨ b.toNat < 4096 ∨ 2 ^ 24 < b.toNat ∨
    d.toNat % 512 ≠ 0 ∨ d.toNat < 512 ∨ 2 ^ 20 < d.toNat) :
    exec (.regtable a b c d) s = s.refused 0x0E#8 [a, b, c, d] 1 := by
  have hbad : (a.toNat % 4096 != 0 || c.toNat % 4096 != 0 || b.toNat % 4096 != 0 || decide (b.toNat < 4096) ||
      decide (2 ^ 24 < b.toNat) || d.toNat % 512 != 0 || decide (d.toNat < 512) || decide (2 ^ 20 < d.toNat)) = true := by
    simpa only [Bool.or_eq_true, bne_iff_ne, decide_eq_true_eq, or_assoc] using ha
  rw [exec_regtable, execRegtable]
  dsimp only
  rw [h.command_refused 0 (by rw [hbad]; rfl)]

theorem regtable_inUse (ha : a.toNat % 4096 = 0) (hc : c.toNat % 4096 = 0)
    (hb : b.toNat % 4096 = 0 ∧ 4096 ≤ b.toNat ∧ b.toNat ≤ 2 ^ 24) (hd : d.toNat % 512 = 0 ∧ 512 ≤ d.toNat ∧ d.toNat ≤ 2 ^ 20)
    (hr : s.anyRegion = true) : exec (.regtable a b c d) s = s.refused 0x0E#8 [a, b, c, d] 2 := by
  obtain ⟨hb0, hb1, hb2⟩ := hb
  obtain ⟨hd0, hd1, hd2⟩ := hd
  have hok : (a.toNat % 4096 != 0 || c.toNat % 4096 != 0 || b.toNat % 4096 != 0 || decide (b.toNat < 4096) ||
      decide (2 ^ 24 < b.toNat) || d.toNat % 512 != 0 || decide (d.toNat < 512) || decide (2 ^ 20 < d.toNat)) = false := by
    rw [ha, hc, hb0, hd0, decide_eq_false (Nat.not_lt.mpr hb1), decide_eq_false (Nat.not_lt.mpr hb2),
      decide_eq_false (Nat.not_lt.mpr hd1), decide_eq_false (Nat.not_lt.mpr hd2)]
    rfl
  rw [exec_regtable, execRegtable]
  dsimp only
  rw [h.command_refused 1 (by rw [hok, hr]; rfl)]

/-! #### Contexts and ATTEST -/

theorem ctxcreate_bad (ha : a.toNat % 128 ≠ 0 ∨ s.hbmRange a.toNat 128 = false ∨
    (s.awaits a.toNat 128 = false ∧ ctxOk (s.hubRead (memKey 0 a.toNat) 128) = false)) :
    exec (.ctxcreate a) s = s.refused 0x10#8 [a] 1 := by
  rw [exec_ctxcreate, execCtxcreate]
  refine h.reads_refused ?_ 0 ?_ <;> rcases ha with ha | ha | ⟨ha, hw⟩
  · simp [ha]
  · simp [ha]
  · simp [ha]
  · simp [ha]
  · simp [ha]
  · simp [hw]

theorem ctxcreate_live (ha : a.toNat % 128 = 0) (hb : s.hbmRange a.toNat 128 = true) (hw : s.awaits a.toNat 128 = false)
    (hok : ctxOk (s.hubRead (memKey 0 a.toNat) 128) = true)
    (hc : (s.ctxs.get? (wordAt (s.hubRead (memKey 0 a.toNat) 128) 8 2)).isSome = true) :
    exec (.ctxcreate a) s = s.refused 0x10#8 [a] 2 := by
  rw [exec_ctxcreate, execCtxcreate]
  exact h.reads_refused (by simp [hw]) 1 (by simp [ha, hb, hok, hc])

/-- A teardown that its check refuses. -/
theorem ctxtear_refused (r : Nat) (hc : resultOf [(decide (2047 < a.toNat) || b.toNat % 64 != 0 || !s.hbmRange b.toNat 64, 1),
    (!s.liveCtx a.toNat, 2)] = r + 1) : exec (.ctxtear a b) s = s.refused 0x11#8 [a, b] (r + 1) := by
  rw [exec_ctxtear, execCtxtear]
  dsimp only
  rw [hc, decide_eq_true (Nat.succ_ne_zero r), Bool.or_true, if_pos rfl, h.command_refused r rfl]

theorem ctxtear_bad (ha : 2047 < a.toNat ∨ b.toNat % 64 ≠ 0 ∨ s.hbmRange b.toNat 64 = false) :
    exec (.ctxtear a b) s = s.refused 0x11#8 [a, b] 1 := by
  have hbad : (decide (2047 < a.toNat) || b.toNat % 64 != 0 || !s.hbmRange b.toNat 64) = true := by
    simpa only [Bool.or_eq_true, bne_iff_ne, decide_eq_true_eq, Bool.not_eq_true', or_assoc] using ha
  exact h.ctxtear_refused 0 (by rw [hbad]; rfl)

theorem ctxtear_dead (ha : a.toNat ≤ 2047) (hb : b.toNat % 64 = 0) (hr : s.hbmRange b.toNat 64 = true)
    (hl : s.liveCtx a.toNat = false) : exec (.ctxtear a b) s = s.refused 0x11#8 [a, b] 2 :=
  h.ctxtear_refused 1 (by simp [ha, hb, hr, hl])

omit h in
theorem attest_misaligned (hk : s.boot.ideHost.isSome = true) (hb : s.hub.busy = false)
    (ha : a.toNat % 64 ≠ 0 ∨ b.toNat % 64 ≠ 0) : exec (.attest a b) s = s.refused 0x12#8 [a, b] 1 := by
  have hbad : (a.toNat % 64 == 0 && b.toNat % 64 == 0) = false := by
    rcases ha with ha | ha <;> simp [ha]
  rw [exec_attest, execAttest]
  rw [hbad, Bool.false_and, if_neg Bool.false_ne_true, starts_of_idle hk hb]
  rfl

/-! #### Codes that are not listed (R287) -/

theorem runCode_unlisted {code : BitVec 8} (hc : code = 0#8 ∨ code = 0xF#8 ∨ 0x12#8 < code) (m : List DWord) :
    runCode code m s = s.refused code [] 1 := by
  have hnat : code.toNat = 0 ∨ code.toNat = 15 ∨ 18 < code.toNat := by
    rcases hc with rfl | rfl | hc
    · exact .inl rfl
    · exact .inr (.inl rfl)
    · exact .inr (.inr hc)
  unfold runCode
  dsimp only
  split
  case h_18 => exact h.command_refused 0 rfl code [] id
  all_goals omega

theorem registerWrite_unlisted (hv : a.getLsbD 63 = true) (hz : bits a 8 55 = 0)
    (hc : a.extractLsb' 0 8 = 0#8 ∨ a.extractLsb' 0 8 = 0xF#8 ∨ 0x12#8 < a.extractLsb' 0 8) :
    exec (.registerWrite 0 a) s = s.refused (a.extractLsb' 0 8) [] 1 := by
  rw [exec_registerWrite, execRegisterWrite, if_pos rfl, mcmdWrite]
  rw [if_neg (by simp [hv]), if_neg (by simp [hz]), h.runCode_unlisted hc]

end Ready

end State

/-- Settles O45: by what a command that does not start, one at level 0 and one that its rule refuses leave behind. -/
theorem mailboxRefusals : Obligations.MailboxRefusals := by
  intro s a b c d t keyed ready n bytes still
  have hready (hr : ready) : s.Ready := ⟨hr.1, hr.2.1, hr.2.2⟩
  have hdeaf (h : s.Deaf) : still :=
    ⟨h.fenceout a, h.readmit a, h.poollose a, h.poolset a b c d, h.halt a, h.resume a, h.fidset a, h.routeset a b, h.winset a b,
      h.regset a b, h.revoke a b, h.scrub a b, h.tclimit a b c, h.regtable a b c d, h.ctxcreate a, h.ctxtear a b, h.attest a b⟩
  refine ⟨fun hb => hdeaf fun _ => hb, fun hk => ⟨hdeaf fun h => absurd h hk, fun off => State.registerWrite_of_unkeyed hk off a⟩,
    fun hk hb hl => ?_,
    fun hr ha => ⟨(hready hr).fenceout_out_of_range ha, (hready hr).readmit_out_of_range ha⟩,
    fun hr => (hready hr).fenceout_fenced, fun hr => (hready hr).readmit_unqualified, fun hr => (hready hr).poollose_out_of_range,
    fun hr => (hready hr).poolset_out_of_range, fun hr => (hready hr).poolset_live,
    fun hr ha => ⟨(hready hr).halt_out_of_range ha, (hready hr).resume_out_of_range ha⟩,
    fun hr => (hready hr).fidset_out_of_range, fun hr => (hready hr).fidset_live, fun hr => (hready hr).routeset_out_of_range,
    fun hr => (hready hr).routeset_live, fun hr => (hready hr).winset_bad, fun hr => (hready hr).winset_receiving,
    fun hr => (hready hr).regset_bad, fun hr => (hready hr).regset_taken, fun hr => (hready hr).revoke_bad,
    fun hr => (hready hr).revoke_invalid, fun hr => (hready hr).scrub_bad, fun hr => (hready hr).tclimit_out_of_range,
    fun hr => (hready hr).tclimit_live, fun hr => (hready hr).regtable_bad, fun hr => (hready hr).regtable_inUse,
    fun hr => (hready hr).ctxcreate_bad, fun hr => (hready hr).ctxcreate_live, fun hr => (hready hr).ctxtear_bad,
    fun hr => (hready hr).ctxtear_dead, State.Ready.attest_misaligned, fun hr => (hready hr).registerWrite_unlisted⟩
  have hzero := State.command_of_levelZero hk hb hl
  exact ⟨(exec_fenceout a s).trans (hzero _ _ _ _), (exec_readmit a s).trans (hzero _ _ _ _),
    (exec_poollose a s).trans (hzero _ _ _ _), (exec_poolset a b c d s).trans (hzero _ _ _ _),
    (exec_halt a s).trans (hzero _ _ _ _), (exec_resume a s).trans (hzero _ _ _ _), (exec_fidset a s).trans (hzero _ _ _ _),
    (exec_routeset a b s).trans (hzero _ _ _ _), State.winset_of_levelZero hk hb hl a b,
    State.regset_of_levelZero hk hb hl a b, (exec_revoke a b s).trans (hzero _ _ _ _), State.scrub_of_levelZero hk hb hl a b,
    (exec_tclimit a b c s).trans (hzero _ _ _ _), (exec_regtable a b c d s).trans (hzero _ _ _ _),
    State.ctxcreate_of_levelZero hk hb hl a, State.ctxtear_of_levelZero hk hb hl a b⟩

end Sys2Proof.Machine
end

section
/-!
SUPPORT. The fault queue and its answers (R305, R307, R308, R341), TINV (R321), and the migration engine (R325, R326).
-/
namespace Sys2Proof.Machine

namespace State
variable {s : State}

/-! ### What a write of the hub leaves at its home (R330, R341) -/

/-- The caches follow a write of the hub; the bytes that it wrote stand. -/
theorem homesWritten_keep (secs : List Nat) (t : State) :
    (secs.foldl (fun t i => t.homeWritten i) t).mem = t.mem ∧ (secs.foldl (fun t i => t.homeWritten i) t).dead = t.dead ∧
    (secs.foldl (fun t i => t.homeWritten i) t).deadId = t.deadId := by
  induction secs generalizing t with
  | nil => exact ⟨rfl, rfl, rfl⟩
  | cons i secs ih =>
    have hw := cachesOnly_homeWritten t i
    obtain ⟨hm, hd, hi⟩ := ih (t.homeWritten i)
    exact ⟨hm.trans hw.mem, hd.trans hw.dead, hi.trans hw.deadId⟩

/-- Every byte of a write at its home reads as it was written, and is specified. -/
theorem homeWrite_writes (s : State) (key : Nat) (bs : List Byte) {i : Nat} (hi : i < bs.length) :
    (s.homeWrite key bs).memByte (key + i) = bs.getD i 0#8 ∧ (s.homeWrite key bs).isDead (key + i) = false := by
  unfold homeWrite
  dsimp only
  obtain ⟨hm, hd, hid⟩ := homesWritten_keep (rangeOf key bs.length)
    (((rangeOf key bs.length).foldl (fun t i => (t.spanFor (64 * i) true).recallSector i) s).setMemBytes key bs)
  rw [memByte_congr hm hd hid, isDead_congr hd, memByte_setMemBytes _ _ _ _ hi, List.getD_eq_getElem _ _ hi]
  exact ⟨rfl, isDead_putMemBytes _ key i bs hi⟩

theorem hubWrite_of_serves {key : Nat} {bs : List Byte} (h : s.mayServe s.hub.waiting key (.bytes bs) = true) :
    s.hubWrite key bs = s.homeWrite key bs := if_pos h

/-! ### The queue and its answers (R305, R307, R308, R341) -/

/-- The place of the next entry in the ring. -/
def fqPlace (s : State) (lg : Nat) : Nat :=
  memKey 1 ((bits s.hub.fqbase 12 52 * 4096 + 32 * (s.hub.fqtail.toNat % 2 ^ lg)) % 2 ^ 52)

/-- The entry with its SEQ. -/
def fqEntry (s : State) (e : FqEntry) : List Byte := e.bytes ++ toBytes 4 s.hub.seq.toNat

/-- The registers of the queue, and its entries that wait for an answer, after an append. -/
def appended (t s : State) (e : FqEntry) (rest : List FqEntry) : State :=
  { t with hub := { t.hub with
      held := rest, fqtail := s.hub.fqtail + 1#64, seq := s.hub.seq + 1#32, msix0 := s.hub.msix0 + 1
      outst := t.hub.outst.map fun o => if o.id == e.id then { o with seq := some s.hub.seq } else o } }

theorem faultEntryAppend_of_room {e : FqEntry} {rest : List FqEntry} {lg : Nat} (hh : s.hub.held = e :: rest)
    (hl : s.fqLog = some lg) (hf : s.fqFull lg = false) :
    exec .faultEntryAppend s = .next (appended (s.hubWrite (s.fqPlace lg) (s.fqEntry e)) s e rest) := by
  simp only [exec_faultEntryAppend, execFaultEntryAppend, hh, hl]
  rw [if_neg (Bool.eq_false_iff.mp hf)]
  rfl

/-- A record that is not malformed and names an entry. -/
def WellResolved (s : State) (v : DWord) : Prop :=
  bits v 62 2 < 2 ∧ bits v 32 30 = 0 ∧ s.coveredBy (v.extractLsb' 0 32) ≠ []

section Keyed
variable (hk : s.boot.ideHost.isSome = true) {v : DWord}
include hk

theorem resolveRecord_of_well (h : s.WellResolved v) :
    exec (.resolveRecord v) s = .next (s.answer (bits v 62 2 == 1) (s.coveredBy (v.extractLsb' 0 32))) := by
  obtain ⟨hv, hz, hos⟩ := h
  rw [exec_resolveRecord, execResolveRecord, viaIo_of_keyed hk, if_neg (by simp [hv, hz, hos])]

theorem resolveRecord_of_bad (h : ¬ s.WellResolved v) : exec (.resolveRecord v) s = .next (s.count hubDie 24) := by
  have hbad : (decide (2 ≤ bits v 62 2) || bits v 32 30 != 0 || s.coveredBy (v.extractLsb' 0 32) == []) = true := by
    by_contra hn
    simp only [Bool.or_eq_true, decide_eq_true_eq, bne_iff_ne, beq_iff_eq, not_or, not_le, not_not] at hn
    obtain ⟨⟨hv, hz⟩, hos⟩ := hn
    exact h ⟨hv, hz, hos⟩
  rw [exec_resolveRecord, execResolveRecord, viaIo_of_keyed hk, if_pos hbad]

theorem fqheadWrite_of_keyed : exec (.fqheadWrite v) s = .next { s with hub := { s.hub with fqhead := v } } := by
  rw [exec_fqheadWrite, execFqheadWrite, viaIo_of_keyed hk]

end Keyed

/-! ### TINV (R321) -/

/-- The reserved bits are zero, and no invalidation is at work. -/
def TinvFree (s : State) (v : DWord) : Prop := bits v 56 5 = 0 ∧ s.tinvBusy = false

section Tinv
variable {kind : Nat} {v : DWord}

theorem tinvWrite_of_blocked (h : ¬ s.TinvFree v) (kind : Nat) : s.tinvWrite kind v = s := by
  have hno : bits v 61 2 ≠ kind ∨ (bits v 56 5 != 0) = true ∨ s.tinvBusy = true := by
    by_contra hn
    simp only [not_or, bne_iff_ne, not_not, Bool.not_eq_true] at hn
    exact h ⟨hn.2.1, hn.2.2⟩
  rw [tinvWrite, if_pos (by simpa [or_assoc] using hno)]

variable (hk : bits v 61 2 = kind) (hf : s.TinvFree v)
include hk hf

theorem tinvWrite_of_fields (hv : v.getLsbD 63 = false) : s.tinvWrite kind v = { s with hub := { s.hub with tinv := v } } := by
  obtain ⟨hz, hb⟩ := hf
  rw [tinvWrite, if_neg (by simp [hk, hz, hb]), if_pos (by rw [hv]; rfl)]

theorem tinvWrite_of_start (hv : v.getLsbD 63 = true) : s.tinvWrite kind v =
    (let w := ((s.inval (Inval.of v)).markStale (Inval.of v)).dropFetched
     { w with hub := { w.hub with tinv := v &&& 0x7FFFFFFFFFFFFFFF#64, tinvOps := s.removedUsers (Inval.of v) } }) := by
  obtain ⟨hz, hb⟩ := hf
  rw [tinvWrite, if_neg (by simp [hk, hz, hb]), if_neg (by rw [hv]; decide)]

end Tinv

section
variable (hk : s.boot.ideHost.isSome = true) (v : DWord)
include hk

theorem tinvPage_of_keyed : exec (.tinvPage v) s = .next (s.tinvWrite 0 v) := viaIo_of_keyed hk _
theorem tinvAsid_of_keyed : exec (.tinvAsid v) s = .next (s.tinvWrite 1 v) := viaIo_of_keyed hk _
theorem tinvAll_of_keyed : exec (.tinvAll v) s = .next (s.tinvWrite 2 v) := viaIo_of_keyed hk _

end

/-- A register whose write changes nothing, keys or none. -/
theorem viaIo_next_self (s : State) : s.viaIo (.next s) = .next s := ite_self _

theorem tinv_of_blocked {v : DWord} (h : ¬ s.TinvFree v) :
    exec (.tinvPage v) s = .next s ∧ exec (.tinvAsid v) s = .next s ∧ exec (.tinvAll v) s = .next s := by
  simp only [exec_tinvPage, exec_tinvAsid, exec_tinvAll, execTinvPage, execTinvAsid, execTinvAll, tinvWrite_of_blocked h,
    viaIo_next_self, and_self]

/-! ### Migration (R325, R326) -/

section Activate
variable {n : Nat} (hn : n < 1024) (hi : s.migState n = 0) (hk : s.boot.ideHost.isSome = true)
include hn hi hk

theorem migrationActivate_of_idle : exec (.migrationActivate n) s =
    .next (if s.leafServes n then s.beginMig n else s.holdActivation n) := by
  have hok : ¬ (decide (1024 ≤ n) || s.migState n != 0) = true := by simp [hi, hn]
  rw [exec_migrationActivate, execMigrationActivate, viaIo_of_keyed hk, if_neg (by simpa using hok)]

theorem migrationActivate_of_serves (hs : s.leafServes n = true) :
    exec (.migrationActivate n) s = .next (if s.migRefused n then s else s.setMigState n 1) := by
  rw [migrationActivate_of_idle hn hi hk, if_pos hs, beginMig, hi]
  cases s.migRefused n <;> rfl

theorem migrationActivate_of_away (hs : s.leafServes n = false) :
    exec (.migrationActivate n) s = .next (s.holdActivation n) := by
  rw [migrationActivate_of_idle hn hi hk, if_neg (Bool.eq_false_iff.mp hs)]

end Activate

section Pull
variable {n line : Nat} (ha : s.migState n = 1)
include ha

theorem migrationPull_of_done (hp : s.nextPull n = none) : exec (.migrationPull n line) s =
    .next (if s.homeAsks (memKey 0 (s.migWord n 2).toNat) 8 = [] then s.finishMig n
      else s.askFor (s.homeAsks (memKey 0 (s.migWord n 2).toNat) 8)) := by
  simp only [exec_migrationPull, execMigrationPull, hp]
  rw [if_neg (by simp [ha])]

variable (hp : s.nextPull n = some line) (hl : s.isLost (s.migOld n) = false)
include hp hl

theorem migrationPull_of_owned (hq : s.pullAsks n line = [] ∧ s.pullQuiet n line = true) :
    exec (.migrationPull n line) s = .next (s.pullLine n line) := by
  have hpull : s.pull n line = .ok (s.pullLine n line) := by
    rw [pull, if_neg (Bool.eq_false_iff.mp hl), if_pos (by simp [hq])]
  simp only [exec_migrationPull, execMigrationPull, hp, hpull]
  rw [if_neg (by simp [ha]), if_neg (by simp)]

theorem migrationPull_of_waiting (hq : ¬ (s.pullAsks n line = [] ∧ s.pullQuiet n line = true)) :
    exec (.migrationPull n line) s = .next (s.askFor (s.pullAsks n line)) := by
  have hpull : s.pull n line = .wait (s.pullAsks n line) := by
    rw [pull, if_neg (Bool.eq_false_iff.mp hl), if_neg (by simpa using hq)]
  simp only [exec_migrationPull, execMigrationPull, hp, hpull]
  rw [if_neg (by simp [ha]), if_neg (by simp)]

end Pull

end State

/-- Settles O43: by what an append, a record, an invalidation, an activation and a pull leave behind. -/
theorem faultAndTranslationEvents : Obligations.FaultAndTranslationEvents := by
  intro s v n os tinv free starts fields stored well keyed
  refine ⟨fun e rest lg hh hl hf hs => ?_, fun hk h => State.resolveRecord_of_well hk h,
    fun hk h => State.resolveRecord_of_bad hk h,
    fun hk => State.fqheadWrite_of_keyed hk,
    fun hk hv hkind => ⟨_, State.tinvPage_of_keyed hk v, State.tinvWrite_of_start hkind hv.2 hv.1⟩,
    fun hk hv hkind => ⟨_, State.tinvAsid_of_keyed hk v, State.tinvWrite_of_start hkind hv.2 hv.1⟩,
    fun hk hv hkind => ⟨_, State.tinvAll_of_keyed hk v, State.tinvWrite_of_start hkind hv.2 hv.1⟩,
    fun hk hv => ⟨fun hkind => ?_, fun hkind => ?_, fun hkind => ?_⟩, State.tinv_of_blocked,
    fun hn hi hk => ⟨State.migrationActivate_of_serves hn hi hk, State.migrationActivate_of_away hn hi hk⟩,
    fun line ha hp hl => ⟨fun h1 h2 => State.migrationPull_of_owned ha hp hl ⟨h1, h2⟩, State.migrationPull_of_waiting ha hp hl⟩,
    fun line => State.migrationPull_of_done, fun hk => ?_⟩
  · have hw : s.hubWrite (s.fqPlace lg) (s.fqEntry e) = s.homeWrite (s.fqPlace lg) (s.fqEntry e) := State.hubWrite_of_serves hs
    have houtst : (s.homeWrite (s.fqPlace lg) (s.fqEntry e)).hub.outst = s.hub.outst := by
      rw [State.reaches_homeWrite s (s.fqPlace lg) (s.fqEntry e)]
    refine ⟨_, (State.faultEntryAppend_of_room hh hl hf).trans (by rw [hw]), fun i hi => ?_, rfl, rfl, rfl, rfl, ?_⟩
    · exact State.homeWrite_writes s (s.fqPlace lg) (s.fqEntry e) hi
    · exact congrArg (List.map _) houtst
  · rw [State.tinvPage_of_keyed hk, State.tinvWrite_of_fields hkind hv.2 hv.1]
  · rw [State.tinvAsid_of_keyed hk, State.tinvWrite_of_fields hkind hv.2 hv.1]
  · rw [State.tinvAll_of_keyed hk, State.tinvWrite_of_fields hkind hv.2 hv.1]
  · exact ⟨State.viaIo_of_unkeyed hk _, State.viaIo_of_unkeyed hk _, State.viaIo_of_unkeyed hk _, State.viaIo_of_unkeyed hk _,
      State.viaIo_of_unkeyed hk _, State.viaIo_of_unkeyed hk _⟩

end Sys2Proof.Machine
end

section
/-!
SUPPORT. The command processor and the dispatcher (R331 to R340): what each of their events comes to, and what a look at a dependence word
leaves alone.
-/
namespace Sys2Proof.Machine

theorem Tbl.get?_mapVals {α : Type} (t : Tbl α) (f : Nat → α → α) (a : Nat) :
    Tbl.get? (t.map fun kv => (kv.1, f kv.1 kv.2)) a = (Tbl.get? t a).map (f a) := by
  induction t with
  | nil => rfl
  | cons kv rest ih =>
    obtain ⟨k, v⟩ := kv
    simp only [List.map_cons, Tbl.get?, ih]
    split
    · next h => rw [h]; rfl
    · rfl

namespace State
variable {s : State}

/-! ### What a look at a dependence word leaves alone (R336) -/

/-- The launches are as they were. -/
def SparesLaunches (s t : State) : Prop := t.launches = s.launches

namespace SparesLaunches

theorem refl (s : State) : s.SparesLaunches s := rfl

theorem trans {t u : State} (h : s.SparesLaunches t) (h' : t.SparesLaunches u) : s.SparesLaunches u := Eq.trans h' h

theorem ite {t u : State} {p : Prop} [Decidable p] (h : s.SparesLaunches t) (h' : s.SparesLaunches u) :
    s.SparesLaunches (if p then t else u) := by
  split
  · exact h
  · exact h'

theorem foldl {α : Type} {f : State → α → State} (h : ∀ (u : State) a, u.SparesLaunches (f u a)) (as : List α) (s : State) :
    s.SparesLaunches (as.foldl f s) := by
  induction as generalizing s with
  | nil => exact refl s
  | cons a as ih => exact (h s a).trans (ih (f s a))

theorem of_moves {t : State} (h : s.MovesBytes t) : s.SparesLaunches t := by rw [SparesLaunches, h]

end SparesLaunches

theorem moves_pullTouches (s : State) (ts : List Touch) : s.MovesBytes (pullTouches s ts).1 := by
  have hfold (us : List Touch) (a : State × List Touch) (h : s.MovesBytes a.1) : s.MovesBytes
      (us.foldl (fun (a : State × List Touch) t => let q := a.1.pullTouch t; (q.1, a.2 ++ [q.2])) a).1 := by
    induction us generalizing a with
    | nil => exact h
    | cons u us ih => exact ih _ (h.trans (moves_pullTouch a.1 u))
  exact hfold ts (s, []) (.refl s)

theorem spares_askHub (s : State) (k : Nat) : s.SparesLaunches (s.askHub k) := .ite (.refl s) rfl

theorem spares_noteServe (s : State) (k : Nat) : s.SparesLaunches (s.noteServe k) := .ite (.refl s) rfl

theorem spares_askFor (s : State) (as : List Ask) : s.SparesLaunches (s.askFor as) := by
  refine .foldl (fun u a => ?_) as s
  cases a with
  | read k => exact spares_askHub u k
  | own k => exact .of_moves (.of_reaches (reaches_startReq u _))
  | serve k => exact spares_noteServe u k
  | pull k =>
    dsimp only
    split
    · next t he => exact .of_moves (moves_firstTouch u k 8 t he)
    · exact .refl u

theorem spares_noteSwm (s : State) (tr : Tr) : s.SparesLaunches (s.noteSwm tr) := by
  unfold noteSwm
  split
  · exact .ite rfl (.refl s)
  · exact .refl s

theorem spares_virtNote (s : State) (asid : Nat) (t : Touch) : s.SparesLaunches (s.virtNote hubCore asid t) := by
  rw [virtNote, if_neg (by decide)]
  split
  · exact (spares_noteSwm s t.tr).trans rfl
  · exact .refl s

theorem spares_virtLook (s : State) (asid : Nat) (need : Need) (va : DWord) (n : Nat) :
    s.SparesLaunches (s.virtLook hubCore asid need va n).1 := by
  have hpull := SparesLaunches.of_moves (moves_pullTouches s (s.virtTouches hubCore asid need va n))
  unfold virtLook
  dsimp only
  split
  · exact .refl s
  · split
    · exact hpull
    · exact hpull.trans (.foldl (fun u t => spares_virtNote u asid t) _ _)

theorem spares_spend (s : State) (ks : List Nat) : s.SparesLaunches (s.spend ks) := .ite (.refl s) rfl

theorem spares_spendLook (s : State) (asid : Nat) (va : DWord) (n : Nat) : s.SparesLaunches (s.spendLook asid va n) :=
  .ite (.refl s) (spares_spend s _)

theorem spend_mem (s : State) (ks : List Nat) : (s.spend ks).mem = s.mem := by
  unfold spend
  split <;> rfl

theorem spendLook_mem (s : State) (asid : Nat) (va : DWord) (n : Nat) : (s.spendLook asid va n).mem = s.mem := by
  unfold spendLook
  split
  · rfl
  · exact spend_mem s _

theorem spares_grantMonitor (s : State) (core : Nat) (loc : Loc) (w : Watcher) :
    s.SparesLaunches (s.grantMonitor core loc w) := .ite rfl rfl

theorem spares_watchDep (s : State) (launch asid : Nat) (d : DWord × DWord) :
    s.SparesLaunches (s.watchDep launch asid d) := by
  have hlook := spares_virtLook s asid needR d.1 8
  unfold watchDep
  split
  · exact spares_askFor s _
  · split
    · next t u us he =>
      rw [he] at hlook
      split
      · exact (hlook.trans (spares_spendLook t _ _ _)).trans (spares_grantMonitor _ _ _ _)
      · exact hlook
    · next t _ he =>
      rw [he] at hlook
      exact hlook

/-- The dependence words of a launch that are met are looked at no more. -/
def metLooked (s : State) (h : Nat) : State :=
  ((s.launch h).deps.filter (s.depMet (s.launch h).asid)).foldl
    (fun (u : State) d => u.spendLook (s.launch h).asid d.1 8) s

theorem metLooked_launches (s : State) (h : Nat) : (s.metLooked h).launches = s.launches :=
  SparesLaunches.foldl (fun u (d : DWord × DWord) => spares_spendLook u _ d.1 8) _ s

theorem metLooked_mem (s : State) (h : Nat) : (s.metLooked h).mem = s.mem := by
  have hfold (asid : Nat) (ds : List (DWord × DWord)) (t : State) :
      (ds.foldl (fun (u : State) d => u.spendLook asid d.1 8) t).mem = t.mem := by
    induction ds generalizing t with
    | nil => rfl
    | cons d ds ih => exact (ih _).trans (spendLook_mem t _ _ _)
  exact hfold _ _ s

/-! ### A launch that is READY (R336, R337, R339) -/

/-- A launch as the dispatcher notes whether it finds room. -/
def roomNoted (s : State) (h : Nat) (l : Launch) : Launch :=
  if l.st == .ready then
    { l with roomFrom := if s.toPlace h && s.fitsSomewhere h then none else l.roomFrom.or (some s.hub.cycle) }
  else l

theorem noteRoom_launches (s : State) :
    s.noteRoom.launches = s.launches.map fun kl => (kl.1, s.roomNoted kl.1 kl.2) := by
  refine List.map_congr_left fun kl _ => ?_
  unfold roomNoted
  split <;> rfl

theorem roomNoted_keeps (s : State) (h : Nat) (l : Launch) : (s.roomNoted h l).st = l.st ∧ (s.roomNoted h l).deps = l.deps := by
  unfold roomNoted
  split <;> exact ⟨rfl, rfl⟩

theorem noteRoom_launch {h : Nat} {l : Launch} (hl : s.launches.get? h = some l) :
    (s.noteRoom.launch h).st = l.st ∧ (s.noteRoom.launch h).deps = l.deps := by
  rw [launch, Tbl.getD, noteRoom_launches, Tbl.get?_mapVals, hl]
  exact s.roomNoted_keeps h l

theorem launch_onLaunch_same {h : Nat} (hh : (s.launches.get? h).isSome = true) (f : Launch → Launch) :
    (s.onLaunch h f).launches.get? h = some (f (s.launch h)) := by
  obtain ⟨l, hl⟩ := Option.isSome_iff_exists.mp hh
  rw [onLaunch_launches, Tbl.get?_modify, if_pos rfl, launch, Tbl.getD, hl]
  rfl

theorem launch_onLaunch_other {h j : Nat} (hj : j ≠ h) (f : Launch → Launch) : (s.onLaunch h f).launch j = s.launch j := by
  rw [launch, launch, Tbl.getD, Tbl.getD, onLaunch_launches, Tbl.get?_modify, if_neg (Ne.symm hj)]

theorem makeReady_noteRoom_launch {h : Nat} (hh : (s.launches.get? h).isSome = true) :
    ((s.makeReady h).noteRoom.launch h).st = .ready ∧ ((s.makeReady h).noteRoom.launch h).deps = [] :=
  noteRoom_launch (s := s.makeReady h) (launch_onLaunch_same hh fun k =>
    { k with deps := [], st := .ready, ageFrom := s.hub.cycle, roomFrom := none, readyOrder := s.nextId, turn := s.nextId })

/-! ### Records (R331, R334) and dependences (R336) -/

section Record
variable {a q : Nat} {c : Ctx} {base n : Nat} {head : DWord} (hc : s.ctxs.get? a = some c)
  (hq : c.queues[q]? = some (base, n, head)) (ht : c.tearing = none) (hh : s.queueHeld a q = false)
include hc hq ht hh

/-- The place of the record at HEAD. -/
@[reducible] def recordSlot (base n : Nat) (head : DWord) : Nat := memKey 0 (base + 128 + 128 * (head.toNat % 2 ^ n))

theorem launchRecord_of_unreadTail (hb : s.homeAsks (memKey 0 base) 8 ≠ []) :
    exec (.launchRecord a q) s = .next (s.askFor (s.homeAsks (memKey 0 base) 8)) := by
  simp only [exec_launchRecord, execLaunchRecord, hc, hq]
  rw [if_neg (by rw [ht, hh]; decide), if_pos hb]

variable (hb : s.homeAsks (memKey 0 base) 8 = [])
include hb

theorem launchRecord_of_empty (he : s.memDWord (memKey 0 base) = head) :
    exec (.launchRecord a q) s = .next (s.watchQueue a q base) := by
  simp only [exec_launchRecord, execLaunchRecord, hc, hq]
  rw [if_neg (by rw [ht, hh]; decide), if_neg (not_not_intro hb), if_pos (beq_iff_eq.mpr he)]

variable (he : s.memDWord (memKey 0 base) ≠ head)
include he

theorem launchRecord_of_unreadSlot (hs : s.homeAsks (recordSlot base n head) 128 ≠ []) :
    exec (.launchRecord a q) s = .next (s.askFor (s.homeAsks (recordSlot base n head) 128)) := by
  simp only [exec_launchRecord, execLaunchRecord, hc, hq]
  rw [if_neg (by rw [ht, hh]; decide), if_neg (not_not_intro hb), if_neg (mt beq_iff_eq.mp he), if_pos hs]

variable (hs : s.homeAsks (recordSlot base n head) 128 = [])
include hs

theorem launchRecord_of_waiting {as : List Ask} (hr : s.recordWaits a (s.hubRead (recordSlot base n head) 128) = some as) :
    exec (.launchRecord a q) s = .next (s.askFor as) := by
  simp only [exec_launchRecord, execLaunchRecord, hc, hq]
  rw [if_neg (by rw [ht, hh]; decide), if_neg (not_not_intro hb), if_neg (mt beq_iff_eq.mp he), if_neg (not_not_intro hs), hr]

theorem launchRecord_of_read (hr : s.recordWaits a (s.hubRead (recordSlot base n head) 128) = none) :
    exec (.launchRecord a q) s = .next (((s.hubWrite (memKey 0 (base + 8)) (toBytes 8 (head + 1#64).toNat)).onCtx a fun x =>
      { x with queues := x.queues.set q (base, n, head + 1#64) }).submit a q
        (s.hubRead (recordSlot base n head) 128)).noteRoom := by
  simp only [exec_launchRecord, execLaunchRecord, hc, hq]
  rw [if_neg (by rw [ht, hh]; decide), if_neg (not_not_intro hb), if_neg (mt beq_iff_eq.mp he), if_neg (not_not_intro hs), hr]

end Record

/-- The dependence words of a launch that are not met. -/
def depsLeft (s : State) (h : Nat) : List (DWord × DWord) := (s.launch h).deps.filter fun d => !s.depMet (s.launch h).asid d

/-- Each of them is watched. -/
def depsWatched (s : State) (h : Nat) : State :=
  (s.depsLeft h).foldl (fun (u : State) d => u.watchDep h (s.launch h).asid d) (s.metLooked h)

theorem depsWatched_launches (s : State) (h : Nat) : (s.depsWatched h).launches = s.launches :=
  SparesLaunches.trans (s.metLooked_launches h)
    (.foldl (fun u (d : DWord × DWord) => spares_watchDep u h (s.launch h).asid d) (s.depsLeft h) _)

theorem depsWatched_of_all {h : Nat} (hl : s.depsLeft h = []) : s.depsWatched h = s.metLooked h := by
  rw [depsWatched, hl]
  rfl

section Dependences
variable {h : Nat} (hst : (s.launch h).st = .waiting) (hdev : (s.launch h).device = none)
include hst hdev

theorem dependenceMet_of_waiting : exec (.dependenceMet h) s = .next
    (if s.depsLeft h = [] then ((s.depsWatched h).makeReady h).noteRoom
     else (s.depsWatched h).onLaunch h fun k => { k with deps := s.depsLeft h }) := by
  rw [exec_dependenceMet, execDependenceMet]
  dsimp only
  rw [if_neg (by rw [hst, hdev]; decide)]
  rfl

theorem dependenceMet_of_all (hl : s.depsLeft h = []) :
    exec (.dependenceMet h) s = .next ((s.metLooked h).makeReady h).noteRoom := by
  rw [dependenceMet_of_waiting hst hdev, if_pos hl, depsWatched_of_all hl]

theorem dependenceMet_of_some (hin : (s.launches.get? h).isSome = true) (hl : s.depsLeft h ≠ []) :
    ∃ t, exec (.dependenceMet h) s = .next t ∧ (t.launch h).deps = s.depsLeft h ∧ (t.launch h).st = .waiting ∧
      ∀ j ≠ h, t.launch j = s.launch j := by
  have hlaunch (j : Nat) : (s.depsWatched h).launch j = s.launch j := by rw [launch, launch, depsWatched_launches]
  have hget := launch_onLaunch_same (s := s.depsWatched h) (by rw [depsWatched_launches]; exact hin)
    fun k => { k with deps := s.depsLeft h }
  refine ⟨_, by rw [dependenceMet_of_waiting hst hdev, if_neg hl], ?_, ?_, fun j hj => ?_⟩
  · rw [launch, Tbl.getD, hget]
    rfl
  · rw [launch, Tbl.getD, hget]
    exact (congrArg Launch.st (hlaunch h)).trans hst
  · rw [launch_onLaunch_other hj, hlaunch]

end Dependences

/-! ### The dispatcher: placing, ageing and starting (R22, R226, R337) -/

theorem cohortPlace_of_fit {h : Nat} {cores : List Nat} {t : State} (hp : s.hub.placeHalt = false) (hw : s.toPlace h = true)
    (hn : cores.length = (s.launch h).blocks) (hd : cores.Nodup)
    (hc : ∀ c ∈ cores, c < Config.numCores ∧ clusterOf c = clusterOf (cores.headD 0))
    (hi : s.inService (clusterOf (cores.headD 0) / 16) = true) (hs : s.spreadOk h (clusterOf (cores.headD 0) / 16) = true)
    (ht : s.hasTurn h (clusterOf (cores.headD 0)) = true) (hput : s.putCohort h cores = some t) :
    exec (.cohortPlace h cores) s = .next ({ t.onLaunch h fun x =>
      { x with
        nextCohort := x.nextCohort + 1, st := if x.cohorts ≤ x.nextCohort + 1 then .running else .dispatching
        eff := x.prio, ageFrom := s.hub.cycle, roomFrom := none, turn := t.nextId
        residentOrder := if x.nextCohort = 0 then t.nextId else x.residentOrder } with nextId := t.nextId + 1 } : State).noteRoom := by
  have hcores : cores.all (fun c => decide (c < Config.numCores) && clusterOf c == clusterOf (cores.headD 0)) = true :=
    List.all_eq_true.mpr fun c hm => by rw [decide_eq_true (hc c hm).1, (hc c hm).2, beq_self_eq_true]; rfl
  rw [exec_cohortPlace, execCohortPlace]
  dsimp only
  rw [if_neg (by rw [hp, hw, decide_eq_false (not_not_intro hn), decide_eq_true hd, hcores, hi, hs, ht]; decide), hput]

theorem priorityAge_of_due {h : Nat} (hst : (s.launch h).st = .ready ∨ (s.launch h).st = .dispatching)
    (hc : (s.launch h).nextCohort < (s.launch h).cohorts) (he : (s.launch h).eff < 7)
    (ha : 2 ^ 20 ≤ s.hub.cycle - (s.launch h).ageFrom) : exec (.priorityAge h) s =
      .next (s.onLaunch h fun x => { x with eff := x.eff + 1, ageFrom := x.ageFrom + 2 ^ 20 }) := by
  have hwait : ((s.launch h).st == .ready || (s.launch h).st == .dispatching) = true := by simpa using hst
  rw [exec_priorityAge, execPriorityAge]
  rw [if_pos (by rw [hwait, decide_eq_true hc, decide_eq_true he, decide_eq_true ha]; rfl)]

theorem blockStart_of_placed {k : Nat} (hr : (s.block k).resident = true) (hst : (s.block k).started = false)
    (hl : (s.block k).leaving = false) (hg : ∃ kg ∈ (s.block k).groups, kg.2.stopped = false)
    (hi : s.inService (dieOf (s.block k).core) = true) : exec (.blockStart k) s = .next
      (let r := s.bumpFresh.stageRun k (((s.launch (s.block k).launch).stages.map fun e => e.len + 1).sum + 1)
       if r.2 then (r.1.bumpId.onBlock k fun x => { x with started := true, startOrder := r.1.nextId }).touchDomains
          (s.block k).asid [dieOf (s.block k).core]
       else r.1) := by
  have hgroups : (s.block k).groups.all (fun kg => kg.2.stopped) = false := by
    obtain ⟨kg, hm, hk⟩ := hg
    exact List.all_eq_false.mpr ⟨kg, hm, by rw [hk]; decide⟩
  rw [exec_blockStart, execBlockStart]
  dsimp only
  rw [if_neg (by rw [hr, hst, hl, hgroups, hi]; decide)]

/-! ### Pre-emption and restoration (R339, R340) -/

theorem blockPreempt_of_due {k : Nat} (hl : (s.block k).leaving = false) (hd : s.preemptDue k = true) :
    exec (.blockPreempt k) s = .next ((s.shareOf k).foldl (fun t j => t.onBlock j fun x => { x with leaving := true }) s) := by
  rw [exec_blockPreempt, execBlockPreempt, if_neg (Bool.eq_false_iff.mp hl), if_pos hd]

theorem blockPreempt_of_quiet {k : Nat} (hl : (s.block k).leaving = true) (hq : ∀ j ∈ s.shareOf k, s.saveQuiet j = true)
    (hf : (s.shareOf k).length ≤ (s.freeFrames (s.block k).asid).length) :
    exec (.blockPreempt k) s = .next (s.saveShare k).noteRoom := by
  have hquiet : (s.shareOf k).all (fun j => s.saveQuiet j) = true := List.all_eq_true.mpr hq
  rw [exec_blockPreempt, execBlockPreempt, if_pos hl, if_pos (by rw [hquiet, decide_eq_true hf]; rfl)]

theorem blockRestore_of_fit {k core : Nat} {t : State} (hf : (s.block k).frame.isSome = true)
    (hr : (s.block k).resident = false) (hc : core < Config.numCores) (hcl : clusterOf core = (s.block k).cluster)
    (hi : s.inService (dieOf core) = true) (hlive : s.liveCtx (s.block k).asid = true)
    (ht : s.hasTurn (s.block k).launch (s.block k).cluster = true) (hno : s.hasFrames core (s.block k).launch = false)
    (he : s.engineTakes core (s.savedShare k) = true) (ha : ∀ j ∈ s.savedShare k, s.frameAsks j = [])
    (hput : s.putShare core (s.savedShare k) = some t) : exec (.blockRestore k core) s =
      .next ((s.savedShare k).foldl (fun u j => u.resumeBlock j (s.frameIntact j)) t).noteRoom := by
  have hframe : (s.block k).frame.isNone = false := by rw [← Option.not_isSome, hf]; rfl
  have hfar : ((s.savedShare k).flatMap fun j => s.frameAsks j) = [] := List.flatMap_eq_nil_iff.mpr ha
  rw [exec_blockRestore, execBlockRestore]
  dsimp only
  rw [if_neg (by rw [hframe, hr, decide_eq_false (Nat.not_le.mpr hc), decide_eq_false (not_not_intro hcl), hi, hlive, ht, hno]; decide),
    if_neg (by rw [he]; decide), if_neg (not_not_intro hfar), hput]

/-! ### Ends (R26, R335, R336, R338) -/

theorem blockEnd_of_over {k : Nat} {x : Block} (hx : s.blocks.get? k = some x) (ho : s.blockOver k = true) :
    exec (.blockEnd k) s = .next ((s.dropBlock k).onLaunch x.launch fun y =>
      { y with failCode := match y.failCode with | some c => some c | none => s.unreported k }).noteRoom := by
  simp only [exec_blockEnd, execBlockEnd, hx]
  rw [if_neg (by rw [ho]; decide)] <;> rfl

section Complete
variable {h : Nat} (hlive : s.liveCtx (s.launch h).asid = true) (hst : (s.launch h).st = .running)
  (ho : s.launchOver h = true) (hf : s.ladderFirst h = false)
include hlive hst ho hf

theorem launchComplete_of_walked (hw : s.wordWaits (s.launch h).asid (s.launch h).caddr = none) : exec (.launchComplete h) s =
    .next ((s.finishLaunch h (s.endCode h)).onLaunch h fun x => { x with st := .done }) := by
  rw [exec_launchComplete, execLaunchComplete, if_neg (by rw [hlive]; decide), if_pos (by rw [hst, ho, hf]; decide)]
  simp only [hw]

theorem launchComplete_of_waiting {as : List Ask} (hw : s.wordWaits (s.launch h).asid (s.launch h).caddr = some as) :
    exec (.launchComplete h) s = .next (s.askFor as) := by
  rw [exec_launchComplete, execLaunchComplete, if_neg (by rw [hlive]; decide), if_pos (by rw [hst, ho, hf]; decide)]
  simp only [hw]

end Complete

theorem teardownReport_of_blocks {a : Nat} (ht : (s.ctx a).tearing.isSome = true) (hb : ∃ kb ∈ s.blocks, kb.2.asid = a) :
    exec (.teardownReport a) s = .next (s.tearRest a) := by
  obtain ⟨⟨report, counts⟩, htear⟩ := Option.isSome_iff_exists.mp ht
  have hany : (s.blocks.any fun kb => kb.2.asid == a) = true := by simpa using hb
  simp only [exec_teardownReport, execTeardownReport, htear]
  rw [if_pos hany]

/-- The context is gone: its report is written, or held at its home. -/
def reported (s : State) (a report : Nat) (counts : List Nat) : State :=
  let bs := (List.range 8).flatMap fun i => toBytes 8 (counts.getD i 0)
  let t := (s.hubWrite (memKey 0 report) bs).ownFrom s.hub.waiting.length
  let held := decide (s.hub.waiting.length < t.hub.waiting.length)
  { t with
    ctxs := t.ctxs.erase a
    hub := { t.hub with busy := held, cmd := if held then .writes else t.hub.cmd, result := 0#8 } }

theorem teardownReport_of_gone {a report : Nat} {counts : List Nat} (ht : (s.ctx a).tearing = some (report, counts))
    (hb : ∀ kb ∈ s.blocks, kb.2.asid ≠ a) (ho : ∀ o ∈ s.ops, o.2.asid ≠ a) :
    exec (.teardownReport a) s = .next (s.reported a report counts) := by
  have hblocks : (s.blocks.any fun kb => kb.2.asid == a) = false :=
    List.any_eq_false.mpr fun kb hm => mt beq_iff_eq.mp (hb kb hm)
  have hops : (s.ops.any fun o => o.2.asid == a) = false := List.any_eq_false.mpr fun o hm => mt beq_iff_eq.mp (ho o hm)
  simp only [exec_teardownReport, execTeardownReport, ht]
  rw [if_neg (Bool.eq_false_iff.mp hblocks), if_neg (Bool.eq_false_iff.mp hops)]
  rfl

end State

/-- Settles O42: by what each event of the command processor and of the dispatcher comes to. -/
theorem launchEvents : Obligations.LaunchEvents := by
  intro s a q h k core cores l b
  refine ⟨fun c base n head hc hq ht hh => ⟨State.launchRecord_of_read hc hq ht hh, State.launchRecord_of_empty hc hq ht hh,
      State.launchRecord_of_unreadTail hc hq ht hh, State.launchRecord_of_unreadSlot hc hq ht hh,
      fun as hb he hs hr => State.launchRecord_of_waiting hc hq ht hh hb he hs hr⟩,
    fun hst hdev hin => ⟨fun hl => ?_, fun hl => State.dependenceMet_of_some hst hdev hin hl⟩,
    fun t hp hw hn hd hc hi hs ht hput => State.cohortPlace_of_fit hp hw hn hd hc hi hs ht hput,
    State.blockStart_of_placed, State.priorityAge_of_due, State.blockPreempt_of_due, State.blockPreempt_of_quiet,
    fun t hf hr hc hcl hi hlive ht hno he ha hput => State.blockRestore_of_fit hf hr hc hcl hi hlive ht hno he ha hput,
    fun x hx ho => State.blockEnd_of_over hx ho, fun hlive hst ho hf => ⟨State.launchComplete_of_walked hlive hst ho hf,
      fun as hw => State.launchComplete_of_waiting hlive hst ho hf hw⟩,
    State.teardownReport_of_blocks, fun report counts ht hb ho => State.teardownReport_of_gone ht hb ho⟩
  obtain ⟨hready, hdeps⟩ := State.makeReady_noteRoom_launch (s := s.metLooked h) (h := h) (by rw [s.metLooked_launches]; exact hin)
  exact ⟨State.dependenceMet_of_all hst hdev hl, s.metLooked_mem h, hready, hdeps⟩

end Sys2Proof.Machine
end

section
/-!
SUPPORT. The canonical form of the stores (log entry 2): every function that makes a state of another one keeps it.
-/
namespace Sys2Proof.Machine

/-! ### The canonical form -/

/-- The stores of the device are in their canonical form. -/
def State.Canonical (s : State) : Prop := s.wf = true

namespace State.Canonical

/-- Whatever else of a state is replaced. -/
theorem update {s : State} {agenda tick fresh nextId cur deadId cores dies clusters blocks ops trace monitors copies ctxs launches
    rings cbars hub trees msgs reqs stale serving persist inc tclimit retained stamp caches swm swmFrames boot} (h : s.Canonical) :
    State.Canonical { s with
      agenda, tick, fresh, nextId, cur, deadId, cores, dies, clusters, blocks, ops, trace, monitors, copies, ctxs, launches
      rings, cbars, hub, caches, swm, swmFrames, boot
      mesh := { s.mesh with trees, msgs, reqs, stale, serving, persist, inc, tclimit, retained, stamp } } :=
  wf_congr h rfl rfl rfl rfl rfl

theorem ite {s t : State} {p : Prop} [Decidable p] (h : s.Canonical) (h' : t.Canonical) : (if p then s else t).Canonical := by
  split
  · exact h
  · exact h'

theorem pair {α : Type} {s : State} {a : α} (h : s.Canonical) : (s, a).1.Canonical := h

theorem fst_ite {α : Type} {x y : State × α} {p : Prop} [Decidable p] (h : x.1.Canonical) (h' : y.1.Canonical) :
    (if p then x else y).1.Canonical := by
  split
  · exact h
  · exact h'

theorem foldl {α : Type} {f : State → α → State} {as : List α} {s : State} (h : s.Canonical)
    (hf : ∀ u a, u.Canonical → (f u a).Canonical) : (as.foldl f s).Canonical := by
  induction as generalizing s with
  | nil => exact h
  | cons a as ih => exact ih (hf s a h)

theorem fst_foldl {α β : Type} {f : State × β → α → State × β} {as : List α} {x : State × β} (h : x.1.Canonical)
    (hf : ∀ y a, y.1.Canonical → (f y a).1.Canonical) : (as.foldl f x).1.Canonical := by
  induction as generalizing x with
  | nil => exact h
  | cons a as ih => exact ih (hf x a h)

theorem of_eq {α : Type} {x : State × α} {t : State} {a : α} (h : x.1.Canonical) (e : x = (t, a)) : t.Canonical := by
  rw [e] at h
  exact h

end State.Canonical

/-- The answer of a step has its stores in their canonical form. -/
inductive KeepsStores : Host.Outcome State Fault Refusal → Prop
  | next {s : State} (h : s.Canonical) : KeepsStores (.next s)
  | fault {f : Fault} : KeepsStores (.fault f)
  | refused {r : Refusal} : KeepsStores (.refused r)

namespace KeepsStores

theorem ite {x y : Host.Outcome State Fault Refusal} {p : Prop} [Decidable p] (h : KeepsStores x) (h' : KeepsStores y) :
    KeepsStores (if p then x else y) := by
  split
  · exact h
  · exact h'

theorem of_eq {x : Host.Outcome State Fault Refusal} {t : State} (h : KeepsStores x) (e : x = .next t) : t.Canonical := by
  cases h with
  | next h => exact Host.Outcome.next.inj e ▸ h
  | fault => cases e
  | refused => cases e

end KeepsStores

/-- The end of an instruction has the stores in their canonical form. -/
inductive Res.Canonical : Res → Prop
  | ok {s : State} {moved : DWord} (h : s.Canonical) : Res.Canonical (.ok s moved)
  | trap {lanes : DWord} {code : Nat} {tval : DWord} : Res.Canonical (.trap lanes code tval)
  | trapWith {s : State} {lanes : DWord} {code : Nat} {tval : DWord} (h : s.Canonical) : Res.Canonical (.trapWith s lanes code tval)
  | park {lanes : DWord} {entries : List (DWord × DWord × Nat)} : Res.Canonical (.park lanes entries)
  | stall {ev : Option Nat} : Res.Canonical (.stall ev)
  | stallWith {s : State} (h : s.Canonical) : Res.Canonical (.stallWith s)
  | behind : Res.Canonical .behind
  | fault {f : Fault} : Res.Canonical (.fault f)

theorem Res.Canonical.ite {x y : Res} {p : Prop} [Decidable p] (h : x.Canonical) (h' : y.Canonical) :
    (if p then x else y).Canonical := by
  split
  · exact h
  · exact h'

/-- What has been pulled leaves the stores in their canonical form. -/
inductive State.Pulled.Canonical : State.Pulled → Prop
  | ok {s : State} (h : s.Canonical) : State.Pulled.Canonical (.ok s)
  | wait {as : List Ask} : State.Pulled.Canonical (.wait as)
  | lost : State.Pulled.Canonical .lost

namespace State.Pulled.Canonical

theorem ite {x y : Pulled} {p : Prop} [Decidable p] (h : x.Canonical) (h' : y.Canonical) : (if p then x else y).Canonical := by
  split
  · exact h
  · exact h'

theorem foldl {α : Type} {f : Pulled → α → Pulled} {as : List α} {x : Pulled} (h : x.Canonical)
    (hf : ∀ y a, y.Canonical → (f y a).Canonical) : (as.foldl f x).Canonical := by
  induction as generalizing x with
  | nil => exact h
  | cons a as ih => exact ih (hf x a h)

theorem of_ok {x : Pulled} {t : State} (h : x.Canonical) (e : x = .ok t) : t.Canonical := by
  cases h with
  | ok h => exact Pulled.ok.inj e ▸ h
  | wait => cases e
  | lost => cases e

end State.Pulled.Canonical

/-- An attempt at a group's paths ends with the stores in their canonical form. -/
inductive Attempt.Canonical : Attempt → Prop
  | idle : Attempt.Canonical .idle
  | miss {lines : List DWord} : Attempt.Canonical (.miss lines)
  | stall {s : State} {why : List (DWord × Option Nat)} (h : s.Canonical) : Attempt.Canonical (.stall s why)
  | issue {o : Host.Outcome State Fault Refusal} (h : KeepsStores o) : Attempt.Canonical (.issue o)

theorem Attempt.Canonical.ite {x y : Attempt} {p : Prop} [Decidable p] (h : x.Canonical) (h' : y.Canonical) :
    (if p then x else y).Canonical := by
  split
  · exact h
  · exact h'

/-- A request met at its home leaves the stores in their canonical form. -/
inductive State.Admit.Canonical : State.Admit → Prop
  | go {s : State} (h : s.Canonical) : State.Admit.Canonical (.go s)
  | wait {s : State} (h : s.Canonical) : State.Admit.Canonical (.wait s)
  | refuse {s : State} (h : s.Canonical) : State.Admit.Canonical (.refuse s)

theorem State.Admit.Canonical.ite {x y : Admit} {p : Prop} [Decidable p] (h : x.Canonical) (h' : y.Canonical) :
    (if p then x else y).Canonical := by
  split
  · exact h
  · exact h'

/-- A state, where there is one, has its stores in their canonical form. -/
inductive CanonicalIfSome : Option State → Prop
  | none : CanonicalIfSome none
  | some {s : State} (h : s.Canonical) : CanonicalIfSome (some s)

namespace CanonicalIfSome

theorem ite {x y : Option State} {p : Prop} [Decidable p] (h : CanonicalIfSome x) (h' : CanonicalIfSome y) :
    CanonicalIfSome (if p then x else y) := by
  split
  · exact h
  · exact h'

theorem foldl {α : Type} {f : Option State → α → Option State} {as : List α} {x : Option State} (h : CanonicalIfSome x)
    (hf : ∀ y a, CanonicalIfSome y → CanonicalIfSome (f y a)) : CanonicalIfSome (as.foldl f x) := by
  induction as generalizing x with
  | nil => exact h
  | cons a as ih => exact ih (hf x a h)

theorem of_eq {x : Option State} {t : State} (h : CanonicalIfSome x) (e : x = Option.some t) : t.Canonical := by
  cases h with
  | none => cases e
  | some h => exact Option.some.inj e ▸ h

end CanonicalIfSome

/-- What a step of a block's staging leaves has its stores in their canonical form. -/
inductive Staged.Canonical : Staged → Prop
  | more {s : State} (h : s.Canonical) : Staged.Canonical (.more s)
  | wait {s : State} (h : s.Canonical) : Staged.Canonical (.wait s)
  | over {s : State} (h : s.Canonical) : Staged.Canonical (.over s)

theorem Staged.Canonical.ite {x y : Staged} {p : Prop} [Decidable p] (h : x.Canonical) (h' : y.Canonical) :
    (if p then x else y).Canonical := by
  split
  · exact h
  · exact h'

section
variable {s : State} {a : Acc} {swm : Bool} {m v va : DWord} {bs : List Byte} {ks sectors : List Nat} {asid b cache cl cls core
  die g id k key l line md n owner req sector since y : Nat} {fl : Option Nat} {w : Want} {clock : Word}


/-! ### The reset state -/

namespace State.Canonical

theorem reset : State.reset.Canonical := reset_wf

end State.Canonical

/-! ### The parts of the state -/

namespace State.Canonical

theorem setCore {c : Nat} {k : Core} (h : s.Canonical) : (s.setCore c k).Canonical := h.update

theorem setCluster {c : Nat} {k : Cluster} (h : s.Canonical) : (s.setCluster c k).Canonical := h.update

theorem onBlock {f : Block → Block} (h : s.Canonical) : (s.onBlock b f).Canonical := h.update

theorem setGroup {k : Group} (h : s.Canonical) : (s.setGroup b g k).Canonical := h.update

theorem onGroup {f : Group → Group} (h : s.Canonical) : (s.onGroup b g f).Canonical := h.update

theorem onLanes {f : Nat → Lane → Lane} (h : s.Canonical) : (s.onLanes b g m f).Canonical := h.update

theorem onCtx {a : Nat} {f : Ctx → Ctx} (h : s.Canonical) : (s.onCtx a f).Canonical := h.update

theorem onLaunch {f : Launch → Launch} (h : s.Canonical) : (s.onLaunch l f).Canonical := h.update

theorem setRing {r : Ring} (h : s.Canonical) : (s.setRing k r).Canonical := .ite h.update h.update

theorem count {ev n : Nat} (h : s.Canonical) : (s.count die ev n).Canonical := wf_count die ev n h

theorem bumpId (h : s.Canonical) : s.bumpId.Canonical := h.update

theorem bumpFresh (h : s.Canonical) : s.bumpFresh.Canonical := h.update

theorem reach (h : s.Canonical) : (s.reach sector).Canonical := h.update

theorem setMemByte {b : Byte} (h : s.Canonical) : (s.setMemByte key b).Canonical := wf_setMemByte key b h

theorem putMemBytes (h : s.Canonical) : (s.putMemBytes key bs).Canonical := wf_putMemBytes key bs h

theorem setMemBytes (h : s.Canonical) : (s.setMemBytes key bs).Canonical := wf_setMemBytes key bs h

theorem killSector (h : s.Canonical) : (s.killSector sector).Canonical := wf_killSector sector h

theorem fromOutside (h : s.Canonical) : (s.fromOutside since).Canonical := h.update

theorem asRelease (h : s.Canonical) : (s.asRelease since id).Canonical := h.update

theorem setLoc {l : Loc} (h : s.Canonical) : (s.setLoc l bs).Canonical := wf_setLoc l bs h

end State.Canonical

/-! ### Where an address leads -/

namespace State.Canonical

theorem setPoison {b : Bool} (h : s.Canonical) : (s.setPoison sector b).Canonical := wf_setPoison sector b h

theorem touchDomains {ds : List Nat} (h : s.Canonical) : (s.touchDomains asid ds).Canonical := h.update

theorem spend (h : s.Canonical) : (s.spend sectors).Canonical := .ite h h.update

theorem spendWalk (h : s.Canonical) : (s.spendWalk asid va).Canonical := .ite h h.spend

theorem noteSwm {x : Tr} (h : s.Canonical) : (s.noteSwm x).Canonical := by
  unfold State.noteSwm
  split
  · exact .ite h.update h
  · exact h

theorem fillTlb {x : Tr} (h : s.Canonical) : (s.fillTlb core asid va x).Canonical := by
  unfold State.fillTlb
  dsimp only
  split
  · exact .ite h h.spendWalk.setCluster
  · exact h

end State.Canonical

/-! ### The caches -/

namespace State.Canonical

theorem setCache {c : Cache} (h : s.Canonical) : (s.setCache k c).Canonical := h.update

theorem countServe {d : CDone} (h : s.Canonical) : (s.countServe die d).Canonical :=
  .ite (.count (.ite h.count h)) (.ite h.count h)

theorem dropCopy (h : s.Canonical) : (s.dropCopy cache sector).Canonical := h.update

theorem putCopy {c : SwmCopy} (h : s.Canonical) : (s.putCopy c).Canonical := h.update

theorem keepHome (h : s.Canonical) : (s.keepHome key n).Canonical := .ite h h.update

theorem touchMsc {ctx : Nat} (h : s.Canonical) : (s.touchMsc md line cls clock owner ctx).Canonical :=
  .ite h.update.countServe h.update.countServe

theorem refitMsc {md fuel : Nat} (h : s.Canonical) : (s.refitMsc md line fuel).Canonical := by
  induction fuel generalizing s with
  | zero => exact h
  | succ fuel ih =>
    unfold State.refitMsc
    dsimp only
    split
    · exact h
    · refine .ite h ?_
      split
      · exact ih (.count h.update)
      · exact h

theorem homeWritten {s0 : State} (h : s0.Canonical) : (s0.homeWritten sector).Canonical :=
  .ite (.refitMsc (.setCache (.ite h h.update))) (.ite h h.update)

theorem writeHome {c : SwmCopy} (h : s.Canonical) : (s.writeHome c).Canonical :=
  .ite h (.homeWritten (.foldl h.update fun _ _ hu => hu.setMemByte))

theorem toSlice {c : SwmCopy} (h : s.Canonical) : (s.toSlice die c).Canonical := .ite h h.update

theorem evictL1Copy (h : s.Canonical) : (s.evictL1Copy core sector).Canonical := by
  unfold State.evictL1Copy
  split
  · exact h.toSlice.dropCopy
  · exact h

theorem dropL1At (h : s.Canonical) : (s.dropL1At core sector).Canonical := h.update

theorem evictL2Copy (h : s.Canonical) : (s.evictL2Copy die sector).Canonical := by
  unfold State.evictL2Copy
  dsimp only
  split
  · exact .reach (.dropCopy (.writeHome (.foldl h fun _ _ hu => hu.evictL1Copy.dropL1At)))
  · exact .foldl h fun _ _ hu => hu.evictL1Copy.dropL1At

theorem setSect {st : Nat} (h : s.Canonical) : (s.setSect die sector st).Canonical := wf_setSect die sector st h

theorem freeL2Way (h : s.Canonical) : (s.freeL2Way die line).Canonical := .ite h (.ite h.update h)

theorem discardCopies (h : s.Canonical) : (s.discardCopies sector).Canonical :=
  .foldl (.foldl h.update fun _ _ hu => hu.update) fun _ _ hu => hu.freeL2Way

theorem loseL1Line {l : CLine} (h : s.Canonical) : (s.loseL1Line core l).Canonical := .foldl h fun _ _ hu => hu.evictL1Copy

theorem dropAlias {pline : Nat} {keep : CLine → Bool} (h : s.Canonical) : (s.dropAlias cl pline keep).Canonical :=
  .foldl h fun _ _ hu => .ite (.setCache (.foldl hu fun _ _ hu1 => hu1.loseL1Line)) hu

theorem aliasL1 {vline : Nat} {pline : Nat} (h : s.Canonical) : (s.aliasL1 core asid vline pline).Canonical := by
  unfold State.aliasL1
  dsimp only
  refine .ite h.dropAlias.setCluster ?_
  refine .setCluster ?_
  refine .ite ?_ h.dropAlias
  split
  · exact h.dropAlias.dropAlias
  · exact h.dropAlias

theorem touchL1 {va : Nat} {alloc : Bool} {refill : Bool} {leaf : LeafBits} (h : s.Canonical) :
    (s.touchL1 core asid va key cls clock owner alloc refill leaf).Canonical :=
  .ite h (.foldl (.countServe (.setCache (.ite h.aliasL1 h))) fun _ _ hu => hu.loseL1Line)

end State.Canonical

/-! ### The mesh as the other parts use it -/

namespace State.Canonical

theorem loseSector (h : s.Canonical) : (s.loseSector die sector).Canonical := h.update.setSect.freeL2Way.reach

theorem useOutward (h : s.Canonical) : (s.useOutward sectors).Canonical := h.update

theorem dropEverywhere (h : s.Canonical) : (s.dropEverywhere sector).Canonical := .foldl h fun _ _ hu => .ite hu.loseSector hu

theorem leaveRetention (h : s.Canonical) : (s.leaveRetention die line).Canonical := .ite h.update.count h

theorem recallSector (h : s.Canonical) : (s.recallSector sector).Canonical :=
  .ite (.dropEverywhere (.foldl h fun _ _ hu => hu.leaveRetention)) (.homeWritten (.dropEverywhere (.foldl h fun _ _ hu =>
      hu.leaveRetention)))

theorem send {m : Msg} (h : s.Canonical) : (s.send m).Canonical := h.update

theorem enterPersist {stop : Nat} (h : s.Canonical) : (s.enterPersist stop req).Canonical := .ite h h.update

theorem sendReq {r : Req} (h : s.Canonical) : (s.sendReq id r).Canonical := .ite h.update.enterPersist h.update

theorem startReq {r : Req} (h : s.Canonical) : (s.startReq r).Canonical := .ite h h.update.sendReq

theorem askSnoop {mask : BitVec 4} (h : s.Canonical) : (s.askSnoop line mask).Canonical := h.startReq.update

theorem askRead (h : s.Canonical) : (s.askRead die sector core asid w).Canonical := h.startReq

theorem askOwn {whole : Bool} (h : s.Canonical) : (s.askOwn die sector core asid whole w).Canonical := h.startReq

theorem askHome (h : s.Canonical) : (s.askHome sector core asid).Canonical := h.startReq

theorem writeBack {smask : BitVec 4} (h : s.Canonical) : (s.writeBack die line smask).Canonical := h.update

theorem evictL2Line (h : s.Canonical) : (s.evictL2Line die line).Canonical :=
  .ite (.foldl h fun _ _ hu => .evictL2Copy (.ite hu.loseSector hu)) (.writeBack (.leaveRetention (.foldl h fun _ _ hu =>
      .evictL2Copy (.ite hu.loseSector hu))))

theorem wayL2 (h : s.Canonical) : (s.wayL2 die line).Canonical := .ite h (.setCache (.foldl h fun _ _ hu => hu.evictL2Line))

theorem touchL2 {toL1 : Bool} (h : s.Canonical) : (s.touchL2 die core asid key cls clock owner toL1).Canonical :=
  .countServe (.setCache (.foldl h fun _ _ hu => hu.evictL2Line))

theorem homeReads (h : s.Canonical) : (s.homeReads line asid w).Canonical := .ite h.touchMsc h

theorem fetchPeer (h : s.Canonical) : (s.fetchPeer key n).Canonical := .ite h.setMemBytes.fromOutside.bumpFresh h

theorem setSpan {p : Span} (h : s.Canonical) : (s.setSpan key p).Canonical := h.update

theorem spanFor {own : Bool} (h : s.Canonical) : (s.spanFor key own).Canonical := by
  unfold State.spanFor
  dsimp only
  refine .ite (.setSpan (.ite h h.fetchPeer)) ?_
  split
  · exact h
  · exact .ite (.update (.ite h (.bumpFresh (.foldl h.setMemBytes.fromOutside fun _ _ hu => hu.homeWritten)))) (.setSpan (.ite
      h (.bumpFresh (.foldl h.setMemBytes.fromOutside fun _ _ hu => hu.homeWritten))))

theorem askSwm (h : s.Canonical) : (s.askSwm die core asid sector).Canonical := .ite h h.update

theorem takeL2Copy (h : s.Canonical) : (s.takeL2Copy die sector).Canonical := h.wayL2.putCopy

theorem fillL2Copy (h : s.Canonical) : (s.fillL2Copy die core asid sector w).1.Canonical := by
  unfold State.fillL2Copy
  dsimp only
  refine .fst_ite h.pair ?_
  split
  · exact .fst_ite h.update.spanFor.homeReads.takeL2Copy.pair h.update.pair
  · exact .fst_ite h.update.pair h.update.fetchPeer.takeL2Copy.pair
  · exact h.update.askSwm.pair

theorem fillSwm {va : Nat} (h : s.Canonical) : (s.fillSwm core asid va sector w).1.Canonical := by
  unfold State.fillSwm
  dsimp only
  exact .fst_ite h.dropAlias.pair (.fst_ite h.dropAlias.fillL2Copy h.dropAlias.fillL2Copy.putCopy.pair)

theorem sliceHas (h : s.Canonical) : (s.sliceHas core asid sector swm w).1.Canonical :=
  .fst_ite h.fillL2Copy (.fst_ite h.askRead.pair h.pair)

theorem askHub (h : s.Canonical) : (s.askHub sector).Canonical := .ite h h.update

theorem noteServe (h : s.Canonical) : (s.noteServe sector).Canonical := .ite h h.update.count

theorem dropFetched (h : s.Canonical) : s.dropFetched.Canonical := h.update

theorem toHost (h : s.Canonical) : (s.toHost ks).Canonical := h.update

theorem shareOut (h : s.Canonical) : (s.shareOut k).Canonical := by
  unfold State.shareOut
  dsimp only
  refine .foldl (.ite h h.update) fun u a hu => ?_
  split
  · exact hu.setSect
  · exact hu.leaveRetention
  · exact hu.leaveRetention.setSect
  · exact hu

theorem homeWrite (h : s.Canonical) : (s.homeWrite key bs).Canonical :=
  .foldl (.setMemBytes (.foldl h fun _ _ hu => hu.spanFor.recallSector)) fun _ _ hu => hu.homeWritten

theorem homeUpdate {x : HubWrite} (h : s.Canonical) : (s.homeUpdate key x).Canonical := by
  unfold State.homeUpdate
  split
  · exact h.homeWrite
  · exact h.homeWrite.fromOutside.toHost
  · exact h.homeWrite.asRelease
  · exact h.homeWrite
  · exact h.homeWrite
  · exact .toHost (.foldl h fun _ _ hu => hu.shareOut)

theorem callBack {w : HubWrite} (h : s.Canonical) : (s.callBack key w).Canonical :=
  .foldl (.foldl h fun _ _ hu => hu.askHome) fun _ _ hu => hu.askSnoop

theorem hubUpdate {w : HubWrite} (h : s.Canonical) : (s.hubUpdate key w).Canonical :=
  .ite h.homeUpdate (.update (.callBack (.foldl h fun _ _ hu => hu.count)))

theorem hubWrite (h : s.Canonical) : (s.hubWrite key bs).Canonical := h.hubUpdate

theorem serveEach {hs kept : List HeldWrite} (h : s.Canonical) : (s.serveEach hs kept).Canonical := by
  induction hs generalizing s kept with
  | nil => exact h.update
  | cons w hs ih => exact .ite (ih h.homeUpdate) (ih h.callBack)

theorem serveWaiting (h : s.Canonical) : s.serveWaiting.Canonical := h.update.serveEach

end State.Canonical

/-! ### Pages pulled on first touch -/

namespace State.Canonical

theorem setMigWord {w : Nat} (h : s.Canonical) : (s.setMigWord n w v).Canonical := h.update

theorem tearLine (h : s.Canonical) : (s.tearLine line).Canonical :=
  .update (.foldl (.foldl h fun _ _ hu => .ite hu.leaveRetention hu) fun _ _ hu => hu.recallSector)

theorem flushSwm (h : s.Canonical) : (s.flushSwm sector).Canonical := .foldl h fun _ _ hu => hu.evictL2Copy

theorem pullLine (h : s.Canonical) : (s.pullLine n l).Canonical :=
  .setMigWord (.useOutward (.foldl (.putMemBytes (.foldl h fun _ _ hu => hu.flushSwm.spanFor)) fun _ _ hu => .homeWritten (.ite
      hu.setPoison hu)))

theorem pull (h : s.Canonical) : (s.pull n l).Canonical := .ite .lost (.ite (.ok h.pullLine) .wait)

theorem pullFirst (h : s.Canonical) : (s.pullFirst key).Canonical := by
  unfold State.pullFirst
  split
  · exact .ok h
  · exact .ite (.ok h) h.pull

theorem firstTouch (h : s.Canonical) : (s.firstTouch key n).Canonical := by
  unfold State.firstTouch
  refine .foldl (.ok h) fun y a hy => ?_
  cases hy with
  | ok hu => exact hu.pullFirst
  | wait => exact .wait
  | lost => exact .lost

theorem askFor {as : List Ask} (h : s.Canonical) : (s.askFor as).Canonical := by
  unfold State.askFor
  refine .foldl h fun u a hu => ?_
  split
  · exact hu.askHub
  · exact hu.askHome
  · exact hu.noteServe
  · split
    · next he => exact hu.firstTouch.of_ok he
    · exact hu

theorem throughMig {leaf : DWord} {level : Nat} (h : s.Canonical) : (s.throughMig leaf level key n).Canonical :=
  .ite h.firstTouch (.ok h)

end State.Canonical

/-! ### Reading program text -/

namespace State.Canonical

theorem addLine {l : ILine} (h : s.Canonical) : (s.addLine core l).Canonical := h.update

end State.Canonical

/-! ### Completion flags and the reconvergence table -/

namespace State.Canonical

theorem releaseFlag (h : s.Canonical) : (s.releaseFlag b g fl).Canonical := h.update

theorem assignFlag (h : s.Canonical) : (s.assignFlag b g fl).Canonical := h.update

end State.Canonical

end

end Sys2Proof.Machine
end

section
/-!
SUPPORT. The canonical form of the stores: faults and traps, and how every instruction ends.
-/
namespace Sys2Proof.Machine

section
variable {s : State} {epc lanes m va : DWord} {f : FmtA} {asid b code g n off r : Nat}

/-! ### Faults, traps and the frame of every instruction -/

namespace State.Canonical

theorem postWait {bytes : List Byte} {w : Waiter} (h : s.Canonical) : (s.postWait asid va bytes w).Canonical := h.update

theorem statusAdd (h : s.Canonical) : (s.statusAdd asid off n).Canonical := by
  unfold State.statusAdd
  split
  · exact h.hubUpdate
  · exact h

theorem statusBadscale (h : s.Canonical) : (s.statusBadscale asid).Canonical := by
  unfold State.statusBadscale
  split
  · exact h.hubUpdate
  · exact h

theorem stopGroup {failed : Bool} (h : s.Canonical) : (s.stopGroup b g code lanes epc failed).Canonical :=
  .ite h h.update.statusAdd.onLaunch

theorem parkGroup {pc : DWord} {entries : List (DWord × DWord × Nat)} (h : s.Canonical) :
    (s.parkGroup b g lanes pc entries).Canonical :=
  .onGroup (.fst_foldl h.pair fun _ _ hu => hu.postWait.pair)

theorem stopAt {tval : DWord} (h : s.Canonical) : (s.stopAt b g code lanes tval epc).Canonical := .ite h h.update.stopGroup

theorem stopAll (h : s.Canonical) : (s.stopAll b g code).Canonical := .ite h h.update.stopGroup

theorem takeTrap {tval : DWord} (h : s.Canonical) : (s.takeTrap b g lanes code tval epc).Canonical := by
  unfold State.takeTrap
  dsimp only
  refine .ite h.stopAt (.ite h.stopGroup ?_)
  split
  · exact h.update
  · exact h.parkGroup.onGroup
  · exact h.askFor.onGroup
  · exact h.stopGroup

theorem resumeTrap {p : PendTrap} (h : s.Canonical) : (s.resumeTrap b g p).Canonical := h.update.takeTrap

theorem retireLanes (h : s.Canonical) : (s.retireLanes b g m).Canonical := h.update

theorem onExec {f : Nat → Lane → Lane} (h : s.Canonical) : (s.onExec m f).Canonical := h.update

theorem result {r : Result} (h : s.Canonical) : (s.result r).Canonical := h.update

end State.Canonical

theorem finish_canonical {words : Nat} {r : Res} (h : s.Canonical) (hr : r.Canonical) : KeepsStores (finish s words r) := by
  cases hr with
  | ok ht => exact .next ht.update
  | trap => exact .next h.takeTrap.result
  | trapWith ht => exact .next ht.takeTrap.result
  | park => exact .next h.parkGroup.result
  | stall => exact .next h.update
  | stallWith ht => exact .next ht.update
  | behind => exact .next h.update
  | fault => exact .fault

theorem run_canonical {i : Instr} {body : DWord → Res} (h : s.Canonical) (hbody : ∀ a, (body a).Canonical) :
    KeepsStores (run i s body) := by
  unfold run
  dsimp only
  refine .ite (finish_canonical h .trap) (.ite (finish_canonical h (.ok h)) (.ite (finish_canonical h .stall) ?_))
  split
  · exact finish_canonical h .trap
  · exact .ite (finish_canonical h .trap) (finish_canonical h (hbody _))

/-! ### Instructions that compute in registers -/

namespace State.Canonical

theorem putU {w : Nat} {x : DWord} (h : s.Canonical) : (s.putU r w x).Canonical := h.update

theorem putD {w : Nat} {val : Group → Lane → Nat → DWord} (h : s.Canonical) : (s.putD f m w val).Canonical :=
  .ite h.update h.update

end State.Canonical

theorem alu_canonical {w : Nat} {val : Group → Lane → Nat → DWord} (h : s.Canonical) : (alu s f m w val).Canonical := .ok h.putD

theorem aluThree_canonical {op : Word → Word → Word → Word} (h : s.Canonical) : (aluThree s f m op).Canonical := alu_canonical h

/-! ### Integer arithmetic -/

theorem aluCarry_canonical {op : Nat → Nat → Nat → Nat × Bool} (h : s.Canonical) : (aluCarry s f m op).Canonical :=
  .ite .trap (.ite (.ok h.update) (.ok h.update))

theorem execIaddc_canonical (h : s.Canonical) : KeepsStores (execIaddc f s) := run_canonical h fun _ => aluCarry_canonical h

theorem execIsubb_canonical (h : s.Canonical) : KeepsStores (execIsubb f s) := run_canonical h fun _ => aluCarry_canonical h

theorem execTern_canonical {f : FmtL} (h : s.Canonical) : KeepsStores (execTern f s) :=
  run_canonical h fun _ => aluThree_canonical h

/-! ### Conversions and packing -/

namespace State.Canonical

theorem putRange {val : Group → Lane → Nat → List Nat} (h : s.Canonical) : (s.putRange f m val).Canonical :=
  .ite h.update h.update

end State.Canonical

theorem execQblk_canonical (h : s.Canonical) : KeepsStores (execQblk f s) := run_canonical h fun _ => .ok h.putRange

theorem execDqblk_canonical (h : s.Canonical) : KeepsStores (execDqblk f s) :=
  run_canonical h fun _ => .ok (.ite h.putRange.statusBadscale h.putRange)

end

end Sys2Proof.Machine
end

section
/-!
SUPPORT. The canonical form of the stores: instruction fetch, control, and memory operations as they complete.
-/
namespace Sys2Proof.Machine

section
variable {s : State} {a : Acc} {acq far pin rel sx : Bool} {lanes m va : DWord} {f : FmtA} {accs : List Acc} {bs : List Byte}
  {ts : List Touch} {loc : Loc} {asid b code core dest g id key lane n op sector since : Nat} {o : Op} {kind : OpKind} {t :
  Touch} {e : TreeEnt}

/-! ### The instruction cache -/

namespace State.Canonical

theorem fillLine (h : s.Canonical) : (s.fillLine core asid va).1.Canonical := by
  unfold State.fillLine
  dsimp only
  refine .fst_ite h.pair ?_
  split
  · split
    · exact h.pair
    · exact h.askFor.pair
    · next he =>
        have ht := h.throughMig.of_ok he
        exact .fst_ite (.pair (.addLine (.touchL2 (.fst_foldl ht.fillTlb.noteSwm.touchDomains.pair fun _ _ hu =>
            hu.sliceHas.pair)))) (.fst_foldl ht.fillTlb.noteSwm.touchDomains.pair fun _ _ hu => hu.sliceHas.pair)
  · exact h.askFor.pair
  · exact h.pair

theorem pinHere (h : s.Canonical) : (s.pinHere core asid va).Canonical := by
  unfold State.pinHere
  split
  · exact h
  · exact .ite h (.ite h.count h.update)

theorem bringLine (h : s.Canonical) : (s.bringLine core asid pin va).1.Canonical := .fst_ite h.fillLine.pinHere.pair h.fillLine

theorem bringLines {vas : List DWord} (h : s.Canonical) : (s.bringLines core asid pin vas).1.Canonical := by
  induction vas generalizing s with
  | nil => exact h
  | cons va vas ih => exact .fst_ite (ih h.bringLine) h.bringLine

theorem fillNext (h : s.Canonical) : (s.fillNext b g).Canonical := by
  unfold State.fillNext
  dsimp only
  split
  · exact h
  · exact .ite h (.ite h.bringLines.onGroup h.bringLines)

end State.Canonical

/-! ### Block headers, branches and moves -/

theorem checkTargets_canonical {target : Nat → DWord} {ok : Unit → Res} (h : s.Canonical) (hok : ∀ a, (ok a).Canonical) :
    (checkTargets s m target ok).Canonical := by
  unfold checkTargets
  dsimp only
  refine .ite (.stallWith h.askFor) ?_
  split
  · exact .fault
  · split
    · exact .trap
    · exact .ite .park (hok _)

namespace State.Canonical

theorem startBlock {hd : Header} (h : s.Canonical) : (s.startBlock hd m).Canonical :=
  .onGroup (.onExec (.ite h (.ite h.update.count h.update)))

end State.Canonical

theorem execBlockHeader_canonical {hd : Header} (h : s.Canonical) : KeepsStores (execBlockHeader hd s) :=
  finish_canonical h (by
    refine .ite (.ok h.update) (.ite (.trapWith h.update) (.ite .stall (.ite (.ok h.update.startBlock) ?_)))
    split
    · exact .trapWith h.update
    · exact .park
    · exact .fault
    · exact .stallWith h.askFor
    · exact .ok h.update.startBlock)

theorem execNop_canonical (h : s.Canonical) : KeepsStores (execNop s) := run_canonical h fun _ => .ok h

theorem branchOnce_canonical {f : FmtB} {go : Lane → DWord → Lane} (h : s.Canonical) : (branchOnce s f m go).Canonical := by
  unfold branchOnce
  dsimp only
  split
  · exact .trap
  · exact .park
  · exact checkTargets_canonical h fun _ => .ok h.update

theorem branchEach_canonical {f : FmtB} {go : Lane → DWord → Lane} (h : s.Canonical) : (branchEach s f m go).Canonical :=
  checkTargets_canonical h fun _ => .ok h.update

theorem execBra_canonical {f : FmtB} (h : s.Canonical) : KeepsStores (execBra f s) :=
  run_canonical h fun _ => branchOnce_canonical h

theorem execBrx_canonical {f : FmtB} (h : s.Canonical) : KeepsStores (execBrx f s) :=
  run_canonical h fun _ => branchEach_canonical h

theorem execRet_canonical {f : FmtB} (h : s.Canonical) : KeepsStores (execRet f s) :=
  run_canonical h fun _ => branchEach_canonical h

theorem execCall_canonical {f : FmtB} (h : s.Canonical) : KeepsStores (execCall f s) :=
  run_canonical h fun _ => branchOnce_canonical h

theorem execCallx_canonical {f : FmtB} (h : s.Canonical) : KeepsStores (execCallx f s) :=
  run_canonical h fun _ => branchEach_canonical h

namespace State.Canonical

theorem countAbandoned (h : s.Canonical) : (s.countAbandoned m).Canonical := .ite h.count h

end State.Canonical

theorem execExitLanes_canonical {f : FmtB} (h : s.Canonical) : KeepsStores (execExitLanes f s) :=
  run_canonical h fun _ => .ok h.countAbandoned.retireLanes

theorem execYieldGroup_canonical {f : FmtB} (h : s.Canonical) : KeepsStores (execYieldGroup f s) :=
  run_canonical h fun _ => .ok h.update

theorem execPmov_canonical (h : s.Canonical) : KeepsStores (execPmov f s) := run_canonical h fun _ => .ok h.update

theorem aluIndex_canonical {val : Lane → Except ℤ Word} (h : s.Canonical) : (aluIndex s f m val).Canonical := by
  unfold aluIndex
  split
  · exact .trap
  · exact .ok h.update

theorem execXset_canonical (h : s.Canonical) : KeepsStores (execXset f s) := run_canonical h fun _ => aluIndex_canonical h

theorem execXidx_canonical (h : s.Canonical) : KeepsStores (execXidx f s) := run_canonical h fun _ => aluIndex_canonical h

theorem execXadd_canonical (h : s.Canonical) : KeepsStores (execXadd f s) := run_canonical h fun _ => aluIndex_canonical h

theorem execVtos_canonical (h : s.Canonical) : KeepsStores (execVtos f s) := run_canonical h fun _ => .ite .trap (.ok h.update)

theorem execStov_canonical (h : s.Canonical) : KeepsStores (execStov f s) := run_canonical h fun _ => .ok h.update

/-! ### What memory instructions share -/

theorem judgeEarly_canonical {kind : Nat} {r : Res} (e : judgeEarly m kind ts = some r) : r.Canonical := by
  unfold judgeEarly at e
  dsimp only at e
  split at e
  · cases e
    exact .trap
  · split at e <;> cases e
    exact .park

theorem judgeLate_canonical {r : Res} (h : s.Canonical) (e : judgeLate s m ts = some r) : r.Canonical := by
  unfold judgeLate at e
  split at e
  · cases e
    exact .trapWith h
  · split at e
    · cases e
      exact .trapWith h
    · obtain ⟨t, -, ht⟩ := List.exists_of_findSome?_eq_some e
      split at ht <;> cases ht
      exact .fault

namespace State.Canonical

theorem pullTouch (h : s.Canonical) : (s.pullTouch t).1.Canonical := by
  unfold State.pullTouch
  split
  · refine .fst_ite ?_ h.pair
    split
    · exact h.pair
    · exact h.pair
    · next he => exact (h.firstTouch.of_ok he).pair
  · exact h.pair

end State.Canonical

theorem pullTouches_canonical (h : s.Canonical) : (pullTouches s ts).1.Canonical :=
  .fst_foldl h.pair fun _ _ hu => hu.pullTouch.pair

namespace State.Canonical

theorem noteTouch (h : s.Canonical) : (s.noteTouch t).Canonical := by
  unfold State.noteTouch
  dsimp only
  split
  · exact h.fillTlb.noteSwm.touchDomains
  · exact h

theorem noteTouches (h : s.Canonical) : (s.noteTouches ts).1.Canonical := .pair (.foldl h fun _ _ hu => hu.noteTouch)

theorem askTouches (h : s.Canonical) : (s.askTouches ts).Canonical := h.askFor

end State.Canonical

theorem unlessWaits_canonical {go : Res} (h : s.Canonical) (hgo : go.Canonical) : (unlessWaits s ts go).Canonical :=
  .ite (.stallWith h.askTouches) hgo

theorem serveTouches_canonical {kind : Nat} {go : State → List Touch → Res} (h : s.Canonical)
    (hgo : ∀ u us, u.Canonical → (go u us).Canonical) : (serveTouches s m kind ts go).Canonical :=
  unlessWaits_canonical h (by
    split
    · next e => exact judgeEarly_canonical e
    · refine unlessWaits_canonical (pullTouches_canonical h) ?_
      split
      · next e => exact judgeLate_canonical (pullTouches_canonical h) e
      · exact hgo _ _ (pullTouches_canonical h).noteTouches)

namespace State.Canonical

theorem countHold {seen : List Nat} (h : s.Canonical) : (s.countHold core loc seen).1.Canonical := by
  unfold State.countHold
  split
  · exact .fst_ite h.pair h.count.pair
  · exact h.pair

theorem countHolds (h : s.Canonical) : (s.countHolds core accs).1.Canonical := by
  unfold State.countHolds
  dsimp only
  refine .fst_foldl h.pair fun u a hu => ?_
  split
  · exact hu.countHold.pair
  · exact hu.pair

theorem openAt (h : s.Canonical) : (s.openAt o).Canonical := .assignFlag (.update (.fst_ite h.countHolds h.pair))

theorem openOp {f : FmtM} {clock : Bool} {last : Bool} (h : s.Canonical) :
    (s.openOp m f kind dest far clock acq rel last accs).Canonical :=
  .ite (.openAt (.openAt (.ite h.update h))) (.openAt (.ite h.update h))

end State.Canonical

/-! ### The candidate execution -/

namespace State.Canonical

theorem took {z : Ev} {p : Nat} (h : s.Canonical) : (s.took since z p).Canonical := h.update

end State.Canonical

/-! ### Memory operations as they complete -/

namespace State.Canonical

theorem swmWrite (h : s.Canonical) : (s.swmWrite core key bs).Canonical := by
  unfold State.swmWrite
  dsimp only
  split
  · exact .ite h.update h.update
  · exact h.setMemBytes

theorem prepareMem (h : s.Canonical) : (s.prepareMem o a key).1.Canonical := by
  unfold State.prepareMem
  dsimp only
  refine .fst_ite (.fst_ite (.pair (.ite h h.update)) (.fst_ite (.pair (.askHome (.ite h h.update))) (.fst_ite (.pair (.ite h
      h.update)) (.pair (.spanFor (.ite h h.update)))))) ?_
  refine .fst_ite h.fillSwm ?_
  refine .fst_ite ?_ (.fst_ite h.askRead.pair (.pair (.ite h h.leaveRetention)))
  split
  · exact h.setSect.pair
  · exact h.leaveRetention.pair
  · exact h.askOwn.pair

theorem prepare (h : s.Canonical) : (s.prepare o a).1.Canonical := by
  unfold State.prepare
  split
  · exact .fst_ite h.update.pair h.pair
  · exact h.prepareMem

theorem accWrite (h : s.Canonical) : (s.accWrite o a bs).Canonical := by
  unfold State.accWrite
  split
  · exact .ite h.setMemBytes (.ite h.swmWrite h.keepHome.setMemBytes)
  · exact h.setLoc

theorem touchCaches (h : s.Canonical) : (s.touchCaches o a).Canonical := by
  unfold State.touchCaches
  dsimp only
  split
  · exact h
  · exact .ite (.ite h.homeReads.homeWritten h) (.ite (.evictL1Copy (.touchL1 (.ite h h.touchL2))) (.touchL1 (.ite h
      h.touchL2)))

theorem deliver (h : s.Canonical) : (s.deliver o a bs sx).Canonical := h.update

theorem discard (h : s.Canonical) : (s.discard sector).Canonical :=
  .killSector (.foldl h.dropEverywhere.discardCopies.update fun _ _ hu => hu.update.freeL2Way)

theorem cwbSector (h : s.Canonical) : (s.cwbSector core sector).Canonical := by
  unfold State.cwbSector
  dsimp only
  split
  · split
    · refine .putCopy ?_
      refine .writeHome ?_
      split
      · split
        · exact h.toSlice.putCopy
        · exact h.toSlice
      · exact h
    · refine .writeHome ?_
      split
      · split
        · exact h.toSlice.putCopy
        · exact h.toSlice
      · exact h
  · split
    · split
      · exact h.toSlice.putCopy
      · exact h.toSlice
    · exact h

theorem cinvSector (h : s.Canonical) : (s.cinvSector core sector).Canonical :=
  .ite (.reach (.freeL2Way (.dropCopy (.ite h.update h)))) (.ite h.update h)

theorem performAtom {sgn : Bool} {back : Bool} (h : s.Canonical) : (s.performAtom o a op sgn back).Canonical :=
  .ite h.accWrite.touchCaches.deliver h.accWrite.touchCaches

theorem performReady {p : Nat} (h : s.Canonical) : (s.performReady p o a).Canonical := by
  unfold State.performReady
  split
  · exact h.touchCaches.deliver
  · exact h.accWrite.touchCaches
  · exact h.accWrite.touchCaches
  · exact h.performAtom
  · exact h.performAtom
  · exact h

theorem prefetch {l2 : Bool} (h : s.Canonical) : (s.prefetch o a l2).1.Canonical := by
  unfold State.prefetch
  dsimp only
  split
  · exact h.pair
  · exact .fst_ite (.fst_ite h.sliceHas.touchL2.pair h.sliceHas) (.fst_ite h.prepareMem.touchCaches.pair h.prepareMem)

theorem countDirect (h : s.Canonical) : (s.countDirect o a).1.Canonical := by
  unfold State.countDirect
  split
  · exact .fst_ite h.countHold h.pair
  · exact h.countHold

theorem noteHold (h : s.Canonical) : (s.noteHold id o a).Canonical := h.countDirect.update

theorem failOp (h : s.Canonical) : (s.failOp id o code a).Canonical := h.stopAt.update.releaseFlag

theorem bringAcc (h : s.Canonical) : (s.bringAcc id o a pin).1.Canonical := by
  unfold State.bringAcc
  dsimp only
  split
  · exact h.bringLines.pair
  · exact .pair (.ite h.bringLines h.bringLines.update)

theorem performAcc {p : Nat} (h : s.Canonical) : (s.performAcc p id o a).1.Canonical := by
  unfold State.performAcc
  dsimp only
  split
  · exact h.pair
  · exact .pair (.foldl h fun _ _ hu => hu.cwbSector)
  · exact .pair (.foldl h fun _ _ hu => hu.cinvSector)
  · exact .pair (.foldl h fun _ _ hu => hu.discard)
  · exact .pair (.foldl h fun _ _ hu => hu.discard)
  · exact h.bringAcc
  · exact .pair (.foldl h fun _ _ hu => hu.update)
  · exact h.prefetch
  · refine .fst_ite h.prepare.noteHold.pair ?_
    split
    · exact h.prepare.failOp.pair
    · exact h.prepare.performReady.pair

theorem performTurn (h : s.Canonical) : (s.performTurn id o a).1.Canonical :=
  .fst_ite h.pair (.fst_ite h.performAcc.took.pair h.performAcc)

theorem markDone (h : s.Canonical) : (s.markDone id a).Canonical := h.update

theorem performList {as : List Acc} (h : s.Canonical) : (s.performList id o as).Canonical := by
  induction as generalizing s with
  | nil => exact h
  | cons a as ih => exact .ite h (ih (.ite h.performTurn.markDone h.performTurn))

theorem spendOutward {as : List Acc} (h : s.Canonical) : (s.spendOutward id o as).Canonical := h.update

theorem markClean (h : s.Canonical) : (s.markClean id a).Canonical := h.update

theorem seeOutward {as : List Acc} (h : s.Canonical) : (s.seeOutward id o as).Canonical := by
  induction as generalizing s with
  | nil => exact h
  | cons a as ih =>
    have hp : (s.prepare o a).1.Canonical := h.prepare
    exact .ite h (.ite (ih h) (.ite (ih hp) (.ite (.ite (ih hp) hp.failOp) (ih hp.markClean))))

theorem countDone {before : Op} (h : s.Canonical) : (s.countDone before id).Canonical := by
  unfold State.countDone
  dsimp only
  split
  · exact h.update
  · exact h

theorem closeOp (h : s.Canonical) : (s.closeOp id).Canonical := by
  unfold State.closeOp
  split
  · exact .ite h.update h
  · exact h

theorem completeOp (h : s.Canonical) : (s.completeOp op lanes).Canonical := by
  cases e : s.ops.get? op with
  | none =>
    simp only [State.completeOp, e]
    exact h
  | some o =>
    simp only [State.completeOp, e]
    split
    · exact h.seeOutward
    · exact .ite h.seeOutward h.seeOutward.bumpFresh.performList.spendOutward.countDone.closeOp

theorem issueTook {leaf : LeafBits} (h : s.Canonical) : (s.issueTook lane loc n leaf).Canonical := h.update

end State.Canonical

theorem execMemoryOpComplete_canonical (h : s.Canonical) : KeepsStores (execMemoryOpComplete op lanes s) := .next h.completeOp

end

end Sys2Proof.Machine
end

section
/-!
SUPPORT. The canonical form of the stores: waiting, the matrix unit and the copy engines.
-/
namespace Sys2Proof.Machine

section
variable {s : State} {a : Acc} {isB swm : Bool} {c : Copy} {addr m va : DWord} {f : FmtA} {accs : List Acc} {bs : List Byte}
  {loc : Loc} {asid b blk code core dest die first fk g grp i id lane launch n nud off op sector x : Nat} {need : Need} {fl :
  Option Nat} {p : Path} {reads : Reads} {t : Touch} {e : TreeEnt}

/-! ### WAITC, barriers and sleep -/

namespace State.Canonical

theorem dropMonitor {w : Watcher} (h : s.Canonical) : (s.dropMonitor w).Canonical := h.update

theorem grantMonitor {w : Watcher} (h : s.Canonical) : (s.grantMonitor core loc w).Canonical := .ite h.update h.update

theorem refreshL2 (h : s.Canonical) : (s.refreshL2 die sector).Canonical := by
  unfold State.refreshL2
  split
  · exact h
  · exact .ite h.update h.update

theorem readAtSlice {afresh : Bool} (h : s.Canonical) : (s.readAtSlice core asid loc swm afresh n).1.Canonical := by
  unfold State.readAtSlice
  dsimp only
  split
  · exact .fst_ite h.update.pair h.pair
  · exact .fst_ite (.pair (.sliceHas (.ite h.refreshL2 h))) (.pair (.sliceHas (.ite h.refreshL2 h)))

theorem waitOn {w : Watch} (h : s.Canonical) : (s.waitOn b g i w).Canonical := h.update

theorem tryWait {w0 : Watch} (h : s.Canonical) : (s.tryWait b g i w0 loc swm).Canonical := by
  unfold State.tryWait
  dsimp only
  split
  · exact h.update
  · split
    · exact .ite h.readAtSlice.took.dropMonitor.onLanes (.ite h.readAtSlice.grantMonitor.waitOn.count
        h.readAtSlice.grantMonitor.waitOn)
    · exact h.readAtSlice.countHold.waitOn

end State.Canonical

theorem execWaitc_canonical (h : s.Canonical) : KeepsStores (execWaitc f s) :=
  run_canonical h fun _ => by
    dsimp only
    split
    · exact .trap
    · exact serveTouches_canonical h (fun _ _ ht => .ok (.foldl ht.update fun _ _ hu => hu.update.tryWait))

namespace State.Canonical

theorem recheck (h : s.Canonical) : (s.recheck b g i).Canonical := by
  unfold State.recheck
  dsimp only
  split
  · refine .ite h ?_
    split
    · refine .tryWait ?_
      split
      · exact h.pullTouch.spendWalk.noteSwm.touchDomains
      · exact h.pullTouch
    · exact h.takeTrap
    · exact h.takeTrap
    · exact .ite h.countHold.waitOn h.takeTrap
    · exact h.pullTouch.takeTrap
    · exact h.update.parkGroup
    · exact h
    · exact h.askFor
  · exact h

end State.Canonical

theorem execWaitcTrigger_canonical (h : s.Canonical) : KeepsStores (execWaitcTrigger sector s) :=
  .next (by
    refine .foldl h fun u a hu => ?_
    split
    · exact .ite hu hu.recheck
    · exact hu)

theorem execWaitcPoll_canonical (h : s.Canonical) : KeepsStores (execWaitcPoll blk grp lane s) := by
  unfold execWaitcPoll
  dsimp only
  split
  · exact .ite (.next h.recheck) (.next h)
  · exact .next h

namespace State.Canonical

theorem markPhase {bs : List (Nat × Block)} {w : Wait} {scope : Nat} (h : s.Canonical) :
    (s.markPhase bs w scope).Canonical := by
  unfold State.markPhase
  dsimp only
  split <;> exact h.update

end State.Canonical

theorem execBarrierPhaseComplete_canonical {cohort : Bool} {bar : Nat} (h : s.Canonical) :
    KeepsStores (execBarrierPhaseComplete cohort blk bar s) :=
  .ite (.ite (.next (.update (.foldl h.markPhase fun _ _ hu => hu.update))) (.next h)) (.ite (.next h.markPhase.onBlock) (.next
      h))

theorem execSleepExpire_canonical (h : s.Canonical) : KeepsStores (execSleepExpire blk grp lane s) := by
  unfold execSleepExpire
  split
  · exact .ite (.next h.update) (.next h)
  · exact .next h

/-! ### Matrix instructions as they issue -/

theorem noRoom_canonical {byA : Bool} {ev : Option Nat} : (noRoom s byA ev).Canonical := .ite .behind .stall

namespace State.Canonical

theorem enqueue {kind : MKind} {spans : List (Loc × Nat × LeafBits)} {prog : Nat} (h : s.Canonical) :
    (s.enqueue m fl nud kind addr spans prog).Canonical :=
  h.update

end State.Canonical

theorem acceptOp_canonical {t : State} {kind : MKind} {spans : List (Loc × Nat × LeafBits)} (h1 : t.Canonical) :
    (acceptOp s t m f kind addr spans).Canonical :=
  .ite noRoom_canonical (.ok h1.update)

theorem matRange_canonical {align : Nat} {go : State → List (Loc × Nat × LeafBits) → Res} (h : s.Canonical)
    (hgo : ∀ u a, u.Canonical → (go u a).Canonical) : (matRange s m align need fk addr n go).Canonical :=
  .ite .trap (serveTouches_canonical h (fun _ _ ht => hgo _ _ ht))

theorem matMemory_canonical {kind : MKind} (h : s.Canonical) : (matMemory s m f need fk n kind).Canonical :=
  matRange_canonical h (fun _ _ ht => acceptOp_canonical ht)

theorem inMatrixBlock_canonical {configured : Bool} {go : Unit → Res} (hgo : ∀ a, (go a).Canonical) :
    (inMatrixBlock s m configured go).Canonical :=
  .ite (hgo _) .trap

theorem execTcfg_canonical (h : s.Canonical) : KeepsStores (execTcfg f s) :=
  run_canonical h fun _ => inMatrixBlock_canonical (fun _ => .ite .trap (acceptOp_canonical h.update))

theorem execOmclaim_canonical (h : s.Canonical) : KeepsStores (execOmclaim f s) :=
  run_canonical h fun _ => inMatrixBlock_canonical (fun _ => .ite .trap (acceptOp_canonical h.update))

theorem execOmrel_canonical (h : s.Canonical) : KeepsStores (execOmrel f s) :=
  run_canonical h fun _ => inMatrixBlock_canonical (fun _ => .ite .trap (acceptOp_canonical h.update))

theorem execOmld_canonical (h : s.Canonical) : KeepsStores (execOmld isB f s) :=
  run_canonical h fun _ => inMatrixBlock_canonical (fun _ => .ite .trap (matMemory_canonical h))

theorem execOmst_canonical (h : s.Canonical) : KeepsStores (execOmst isB f s) :=
  run_canonical h fun _ => inMatrixBlock_canonical (fun _ => .ite .trap (matMemory_canonical h))

theorem execMma_canonical (h : s.Canonical) : KeepsStores (execMma f s) :=
  run_canonical h fun _ => inMatrixBlock_canonical (fun _ => .ite .trap (.ite .trap (.ite .trap (.ite .trap (.ite .behind (.ite
      .stall (.ite (.trapWith h.update) (acceptOp_canonical h.update))))))))

theorem execAcz_canonical (h : s.Canonical) : KeepsStores (execAcz f s) :=
  run_canonical h fun _ => inMatrixBlock_canonical (fun _ => acceptOp_canonical h)

theorem execAcld_canonical (h : s.Canonical) : KeepsStores (execAcld f s) :=
  run_canonical h fun _ => inMatrixBlock_canonical (fun _ => matMemory_canonical h)

theorem execAcst_canonical (h : s.Canonical) : KeepsStores (execAcst f s) :=
  run_canonical h fun _ => inMatrixBlock_canonical (fun _ => matMemory_canonical h)

theorem execAcrd_canonical (h : s.Canonical) : KeepsStores (execAcrd f s) :=
  run_canonical h fun _ => inMatrixBlock_canonical (fun _ => acceptOp_canonical h)

theorem execMsave_canonical (h : s.Canonical) : KeepsStores (execMsave f s) :=
  run_canonical h fun _ => inMatrixBlock_canonical (fun _ => matMemory_canonical h)

namespace State.Canonical

theorem issueReady {ps : List (DWord × Loc × Nat × LeafBits)} (h : s.Canonical) : (s.issueReady lane nud ps).1.Canonical :=
  .fst_foldl h.pair fun _ _ hu => hu.prepare.pair

theorem readNote (h : s.Canonical) : (s.readNote reads).Canonical :=
  .foldl h fun _ _ hu => .ite hu.countDirect hu.countDirect.onGroup

theorem readReady (h : s.Canonical) : (s.readReady nud reads).1.Canonical := .fst_foldl h.pair fun _ _ hu => hu.issueReady.pair

theorem readPiece {r : Option (State × List Byte)} {p : DWord × Loc × Nat × LeafBits} (h : ∀ q ∈ r, q.1.Canonical) :
    ∀ q ∈ State.readPiece nud lane r p, q.1.Canonical := by
  intro q hq
  obtain ⟨u, hu, e⟩ := Option.bind_eq_some_iff.mp hq
  have hc : u.1.Canonical := h u hu
  dsimp only at e
  split at e <;> cases e
  exact hc.issueTook.touchCaches

theorem readPieces {r : Option (State × List Byte)} {ps : List (DWord × Loc × Nat × LeafBits)} (h : ∀ q ∈ r, q.1.Canonical) :
    ∀ q ∈ ps.foldl (State.readPiece nud lane) r, q.1.Canonical := by
  induction ps generalizing r with
  | nil => exact h
  | cons p ps ih => exact ih (readPiece h)

theorem readRanges {r : Option (State × List (List Byte))} (h : ∀ q ∈ r, q.1.Canonical) :
    ∀ q ∈ reads.foldl (fun a r => a.bind fun q =>
      ((spanPieces r.2.1 r.2.2).foldl (State.readPiece nud r.1) (some (q.1, []))).map fun x => (x.1, q.2 ++ [x.2])) r,
      q.1.Canonical := by
  induction reads generalizing r with
  | nil => exact h
  | cons rd reads ih =>
    refine ih fun q hq => ?_
    obtain ⟨u, hu, e⟩ := Option.bind_eq_some_iff.mp hq
    obtain ⟨x, hx, rfl⟩ := Option.map_eq_some_iff.mp e
    exact readPieces (fun _ hv => Option.some.inj hv ▸ h u hu) x hx

theorem readBytes {q : State × List (List Byte)} (h : s.Canonical) (e : s.readBytes nud reads = some q) : q.1.Canonical :=
  readRanges (fun _ hv => Option.some.inj hv ▸ h) q e

end State.Canonical

theorem readAtIssue_canonical {go : State → List (List Byte) → Res} (h : s.Canonical)
    (hgo : ∀ u ds, u.Canonical → (go u ds).Canonical) : (readAtIssue s nud reads go).Canonical := by
  unfold readAtIssue
  dsimp only
  refine .ite .behind (.ite (.stallWith h) (.ite (.stallWith h.readReady.readNote) ?_))
  split
  · exact .stallWith h.readReady
  · next q e => exact hgo _ _ (h.readReady.readBytes e)

namespace State.Canonical

theorem restoreRecord {r : MRecord} (h : s.Canonical) : (s.restoreRecord m fl nud addr r).Canonical :=
  .fst_foldl h.update.pair fun _ _ hu => hu.enqueue.pair

end State.Canonical

theorem execMres_canonical (h : s.Canonical) : KeepsStores (execMres f s) :=
  run_canonical h fun _ => inMatrixBlock_canonical (fun _ => matRange_canonical h (fun _ _ ht => .ite .stall
      (readAtIssue_canonical ht (fun _ _ ht => .ite (.trapWith ht) (.ite noRoom_canonical (.ok ht.restoreRecord))))))

/-! ### The matrix unit at work -/

namespace State.Canonical

theorem askLeave {engine : Bool} (h : s.Canonical) : (s.askLeave core engine id).Canonical := .ite h.update.count h.update

theorem onMop {f : MOp → MOp} (h : s.Canonical) : (s.onMop core id f).Canonical := h.update

theorem closeMop {o : MOp} (h : s.Canonical) : (s.closeMop core o).Canonical := .ite h.update h.update

theorem stopMmas {before : Nat} (h : s.Canonical) : (s.stopMmas core blk before).Canonical :=
  .foldl h.update fun _ _ hu => hu.closeMop

theorem takeChunk {o : MOp} (h : s.Canonical) : (s.takeChunk core o off bs).Canonical := by
  unfold State.takeChunk
  dsimp only
  split
  · exact h.update
  · exact h.update
  · exact h

theorem moveChunk {o : MOp} (h : s.Canonical) : (s.moveChunk core o).1.Canonical := by
  unfold State.moveChunk
  dsimp only
  split
  · exact h.pair
  · refine .fst_ite h.pair (.fst_ite h.prepare.countDirect.onMop.pair ?_)
    refine .pair ?_
    refine .onMop ?_
    refine .took ?_
    split
    · exact .ite (.discard (.touchCaches (.ite h.prepare.accWrite h.prepare.takeChunk))) (.touchCaches (.ite h.prepare.accWrite
        h.prepare.takeChunk))
    · exact .touchCaches (.ite h.prepare.accWrite h.prepare.takeChunk)

theorem moveChunks {n : Nat} (h : s.Canonical) : (s.moveChunks core id n).Canonical := by
  induction n generalizing s with
  | zero => exact h
  | succ n ih =>
    unfold State.moveChunks
    split
    · exact h
    · exact .ite (ih h.moveChunk) h.moveChunk

theorem rowSteps {o : MOp} {pb : List Byte} {n : Nat} (h : s.Canonical) : (s.rowSteps core o pb n).Canonical := by
  induction n generalizing s with
  | zero => exact h
  | succ n ih =>
    unfold State.rowSteps
    split
    · exact h
    · exact .ite h (ih (.onMop (.ite h.update.statusBadscale h.update)))

theorem wipeSlots (h : s.Canonical) : (s.wipeSlots blk first n).Canonical := h.update

theorem deliverRows {o : MOp} {t : Nat} {rows : List (Nat × Nat)} (h : s.Canonical) :
    (s.deliverRows core o t dest rows).Canonical :=
  .foldl h fun _ _ hu => hu.update

theorem clearTiles (h : s.Canonical) : (s.clearTiles core first n).Canonical := h.update

theorem closeIfMoved (h : s.Canonical) : (s.closeIfMoved core id).Canonical := by
  unfold State.closeIfMoved
  split
  · exact .ite h.closeMop h
  · exact h

end State.Canonical

theorem execMatrixOpBegin_canonical (h : s.Canonical) : KeepsStores (execMatrixOpBegin core op s) := by
  unfold execMatrixOpBegin
  dsimp only
  split
  · exact .next h
  · exact .ite (.next h) (.next (by
        split
        · exact .ite h.update.askLeave h.update
        · exact h.update.stopMmas
        · exact h.update))

theorem execMatrixOpComplete_canonical {rows : Nat} (h : s.Canonical) : KeepsStores (execMatrixOpComplete core op rows s) := by
  unfold execMatrixOpComplete
  split
  · exact .next h
  · refine .ite (.next h) (.next ?_)
    split
    case h_1 => exact h.clearTiles.closeMop
    case h_2 | h_3 => exact h.wipeSlots.closeMop
    case h_4 => exact h.clearTiles.closeMop
    case h_5 => exact h.deliverRows.closeMop
    case h_6 => exact h.setCore.closeMop
    case h_7 =>
      refine .ite h ?_
      dsimp only
      split
      · exact .ite h.rowSteps.closeMop h.rowSteps
      · exact h.rowSteps
    case h_8 | h_9 | h_10 | h_11 | h_12 => exact h.bumpFresh.moveChunks.closeIfMoved

theorem execLeaveGrant_canonical (h : s.Canonical) : KeepsStores (execLeaveGrant die s) := by
  unfold execLeaveGrant
  dsimp only
  split
  · exact .next h
  · exact .ite (.next h) (.next (.ite h.update h.update))

/-! ### The copy engines -/

namespace State.Canonical

theorem pendBar {up : Bool} (h : s.Canonical) : (s.pendBar c up).Canonical := .ite h.update h

theorem acceptCopy (h : s.Canonical) : (s.acceptCopy c).Canonical := .ite h.update.askLeave h.update

theorem returnLeave (h : s.Canonical) : (s.returnLeave id c).Canonical := .ite h.update h

theorem failCopy (h : s.Canonical) : (s.failCopy id c code addr).Canonical :=
  .ite h.returnLeave.releaseFlag.update h.returnLeave.releaseFlag.update

theorem doneCopy (h : s.Canonical) : (s.doneCopy id c).Canonical := h.returnLeave.releaseFlag.pendBar.update

theorem engineLook (h : s.Canonical) : (s.engineLook core asid launch need va n).1.Canonical := h.pullTouch.pair

theorem engineNote (h : s.Canonical) : (s.engineNote core asid t).Canonical := by
  unfold State.engineNote
  split
  · exact h.fillTlb.noteSwm.touchDomains
  · exact h

theorem engineWrite {x : Op × Acc} (h : s.Canonical) : (s.engineWrite x bs).Canonical := h.accWrite

theorem copyPrepare {xs : List (Op × Acc)} (h : s.Canonical) : (s.copyPrepare id xs).1.Canonical :=
  .fst_foldl h.pair fun _ _ hu => .fst_ite hu.prepare.pair hu.prepare.countDirect.update.pair

theorem copyPiece (h : s.Canonical) : (s.copyPiece id c).1.Canonical := by
  unfold State.copyPiece
  dsimp only
  split
  · exact .fst_ite h.pair (.fst_ite h.engineLook.engineLook.copyPrepare
      h.engineLook.engineLook.copyPrepare.took.engineNote.engineNote.touchCaches.engineWrite.took.touchCaches.update.pair)
  · exact h.askTouches.pair

theorem copyPieces {n : Nat} (h : s.Canonical) : (s.copyPieces id n).Canonical := by
  induction n generalizing s with
  | zero => exact h
  | succ n ih =>
    unfold State.copyPieces
    split
    · exact h
    · exact .ite h (.ite (ih h.copyPiece) h.copyPiece)

theorem readDesc (h : s.Canonical) : (s.readDesc id c).1.Canonical :=
  .fst_ite h.askTouches.pair (.fst_ite h.pair (.fst_ite (.copyPrepare (.fst_foldl h.pair fun _ _ hu => hu.engineLook.pair))
      (.fst_ite (.pair (.failCopy (.foldl (.foldl (.foldl (.copyPrepare (.fst_foldl h.pair fun _ _ hu => hu.engineLook.pair))
      fun _ _ hu => hu.update) fun _ _ hu => hu.engineNote) fun _ _ hu => hu.touchCaches))) (.pair (.ite (.askLeave (.update
      (.foldl (.foldl (.foldl (.copyPrepare (.fst_foldl h.pair fun _ _ hu => hu.engineLook.pair)) fun _ _ hu => hu.update) fun
      _ _ hu => hu.engineNote) fun _ _ hu => hu.touchCaches))) (.update (.foldl (.foldl (.foldl (.copyPrepare (.fst_foldl
      h.pair fun _ _ hu => hu.engineLook.pair)) fun _ _ hu => hu.update) fun _ _ hu => hu.engineNote) fun _ _ hu =>
      hu.touchCaches)))))))

theorem postWord (h : s.Canonical) : (s.postWord id c).1.Canonical := by
  unfold State.postWord
  dsimp only
  split
  · exact .fst_ite h.pair (.fst_ite h.engineLook.copyPrepare
      h.engineLook.copyPrepare.engineNote.engineWrite.took.touchCaches.pair)
  · exact h.askTouches.pair

theorem finishCopy (h : s.Canonical) : (s.finishCopy id).Canonical := by
  unfold State.finishCopy
  dsimp only
  split
  · exact h
  · exact .ite h (.ite h.doneCopy (.ite h.postWord.doneCopy h.postWord))

theorem copyLook {a : DWord × Nat × Bool} (h : s.Canonical) : (s.copyLook c a).1.Canonical := h.engineLook

theorem copyPulled (h : s.Canonical) : (s.copyPulled c).Canonical := by
  unfold State.copyPulled
  cases e : (nextAccesses c).findSome? _ with
  | none => exact h
  | some u =>
    obtain ⟨a, -, ha⟩ := List.exists_of_findSome?_eq_some e
    split at ha <;> cases ha
    exact h.copyLook

theorem dropMops {p : Nat → MOp → Bool} (h : s.Canonical) : (s.dropMops p).Canonical :=
  .foldl h fun _ _ hu => .foldl hu fun _ _ hu1 => hu1.closeMop

theorem abandon (h : s.Canonical) : (s.abandon asid).Canonical := .update (.dropMops (.foldl h fun _ _ hu => hu.returnLeave))

theorem addTear {more : List Nat} (h : s.Canonical) : (s.addTear asid more).Canonical := h.update

theorem atBoundary (h : s.Canonical) : (s.atBoundary b g).Canonical := .ite h h.update.abandon

end State.Canonical

/-! ### Engine instructions as they issue -/

theorem noEngine_canonical : (noEngine s m).Canonical := noRoom_canonical

namespace State.Canonical

theorem startCopy (h : s.Canonical) : (s.startCopy c).Canonical := h.acceptCopy.pendBar

end State.Canonical

theorem execCpy_canonical (h : s.Canonical) : KeepsStores (execCpy f s) :=
  run_canonical h fun _ => by
    dsimp only
    split
    · exact .trap
    · split
      · exact .trap
      · split
        · exact .trap
        · exact .ite noEngine_canonical (.ok (.foldl h fun _ _ hu => hu.startCopy))

theorem execCpyt_canonical (h : s.Canonical) : KeepsStores (execCpyt f s) :=
  run_canonical h fun _ => by
    dsimp only
    split
    · exact .trap
    · split
      · exact .trap
      · exact serveTouches_canonical h (fun _ _ ht => readAtIssue_canonical ht (fun _ _ ht => (by
            split
            · exact .trapWith ht
            · split
              · exact .trapWith ht
              · exact .ite noEngine_canonical (.ok (.foldl ht fun _ _ hu => hu.startCopy)))))

theorem execCseal_canonical (h : s.Canonical) : KeepsStores (execCseal f s) :=
  run_canonical h fun _ => .ite .stall (.ok (.foldl h fun _ _ hu => hu.update))

theorem execCwait_canonical (h : s.Canonical) : KeepsStores (execCwait f s) :=
  run_canonical h fun _ => by
    dsimp only
    refine .ite .stall ?_
    split
    · exact .trapWith h.update
    · exact .ok (.foldl h fun _ _ hu => hu.update)

theorem contribute_canonical {elem : Lane → Nat → Word} (h : s.Canonical) : (contribute s m f elem).Canonical := by
  unfold contribute
  dsimp only
  split
  · exact .trap
  · exact .ite .stall (.ok (.foldl h fun _ _ hu => .ite hu.update hu))

theorem execXred_canonical (h : s.Canonical) : KeepsStores (execXred f s) := run_canonical h fun _ => contribute_canonical h

theorem execSpred_canonical (h : s.Canonical) : KeepsStores (execSpred f s) := run_canonical h fun _ => contribute_canonical h

namespace State.Canonical

theorem saveCopies (h : s.Canonical) : (s.saveCopies b).Canonical := .foldl h fun _ _ hu => hu.returnLeave.update

theorem openStores (h : s.Canonical) : (s.openStores m f accs).Canonical := h.openAt

end State.Canonical

theorem execEsave_canonical (h : s.Canonical) : KeepsStores (execEsave f s) :=
  run_canonical h fun _ => matRange_canonical h (fun _ _ ht => .ok ht.saveCopies.openStores)

namespace State.Canonical

theorem requeue (h : s.Canonical) : (s.requeue c).Canonical := by
  unfold State.requeue
  dsimp only
  split
  · exact h.update
  · exact h.update.pendBar

end State.Canonical

theorem execEres_canonical (h : s.Canonical) : KeepsStores (execEres f s) :=
  run_canonical h fun _ => matRange_canonical h (fun _ _ ht => readAtIssue_canonical ht (fun _ _ ht => .ite (.trapWith ht)
      (.ite (.ok ht) (matRange_canonical ht (fun _ _ ht => readAtIssue_canonical ht (fun _ _ ht => (by
    dsimp only
    split
    · exact .trapWith ht
    · exact .ok (.foldl ht fun _ _ hu => hu.requeue))))))))

end

end Sys2Proof.Machine
end

section
/-!
SUPPORT. The canonical form of the stores: the hub, the ladder, memory instructions, and a group's attempt at its chosen paths.
-/
namespace Sys2Proof.Machine

section
variable {s : State} {a : Acc} {acq far isB rel sx : Bool} {caddr desc lanes m v va : DWord} {f : FmtA} {before : Group} {ex :
  Instr → State → Host.Outcome State Fault Refusal} {asid b blk cache cls code core dest fk g grp key launch n owner pa rung
  : Nat} {need : Need} {kind : OpKind} {p : Path} {t : Touch} {e : TreeEnt}

/-! ### The accesses of the hub -/

namespace State.Canonical

theorem virtNote (h : s.Canonical) : (s.virtNote core asid t).Canonical := by
  unfold State.virtNote
  refine .ite h.engineNote ?_
  split
  · exact h.noteSwm.touchDomains
  · exact h

theorem virtLook (h : s.Canonical) : (s.virtLook core asid need va n).1.Canonical :=
  .fst_ite h.pair (.fst_ite ((pullTouches_canonical h).pair) (.pair (.foldl (pullTouches_canonical h) fun _ _ hu =>
      hu.virtNote)))

theorem spendLook (h : s.Canonical) : (s.spendLook asid va n).Canonical := .ite h h.spend

theorem heldFor (h : s.Canonical) : (s.heldFor asid n).Canonical := h.update

theorem ownFrom (h : s.Canonical) : (s.ownFrom n).Canonical := h.update

theorem virtWrite (h : s.Canonical) : (s.virtWrite asid va v launch).1.Canonical := by
  unfold State.virtWrite
  dsimp only
  split
  · split
    · exact h.virtLook.spendWalk.hubUpdate.heldFor.pair
    · exact h.virtLook.pair
  · exact h.virtLook.pair

theorem post11 {device : Option (Nat × Nat × Word)} {word : DWord} {flags : Nat} (h : s.Canonical) :
    (s.post11 asid device desc word flags).Canonical :=
  h.update

theorem putWord {word : DWord} (h : s.Canonical) : (s.putWord asid launch caddr word).1.Canonical :=
  .fst_ite h.pair (.fst_ite h.pair h.virtWrite)

theorem failWord {device : Option (Nat × Nat × Word)} (h : s.Canonical) :
    (s.failWord asid launch device desc caddr cls code).Canonical :=
  .ite h h.putWord.post11.statusAdd

end State.Canonical

/-! ### Launch descriptors -/

namespace State.Canonical

theorem launchLook {c : LCheck} (h : s.Canonical) : (s.launchLook asid c).Canonical := by
  unfold State.launchLook
  split
  · exact .foldl h fun _ _ hu => hu.virtLook.spendLook
  · exact h

theorem addLaunch {l : Launch} (h : s.Canonical) : (s.addLaunch l).Canonical := h.update

end State.Canonical

/-! ### The ladder -/

theorem execEsc_canonical (h : s.Canonical) : KeepsStores (execEsc f s) :=
  run_canonical h fun _ => by
    dsimp only
    split
    · exact .trap
    · exact .ite .trap (.ite .stall (.ite .stall (.ok h.setRing.retireLanes)))

theorem execLdone_canonical (h : s.Canonical) : KeepsStores (execLdone f s) :=
  run_canonical h fun _ => by
    dsimp only
    split
    · exact .trap
    · exact .ite .trap (.ite .stall (serveTouches_canonical h (fun _ _ ht => .ok ht.update)))

theorem execLqry_canonical (h : s.Canonical) : KeepsStores (execLqry f s) :=
  run_canonical h fun _ => by
    split
    · exact .trap
    · exact .ite .trap (.ok h.update)

theorem execLdrain_canonical (h : s.Canonical) : KeepsStores (execLdrain f s) :=
  run_canonical h fun _ => by
    dsimp only
    split
    · exact .trap
    · exact .ite .trap (.ok h.setRing)

/-! ### Instructions of the system -/

theorem execTrap_canonical {f : FmtI} (h : s.Canonical) : KeepsStores (execTrap f s) := run_canonical h fun _ => .trap

theorem execBkpt_canonical {f : FmtI} (h : s.Canonical) : KeepsStores (execBkpt f s) := run_canonical h fun _ => .trap

theorem execSysr_canonical {f : FmtI} (h : s.Canonical) : KeepsStores (execSysr f s) := run_canonical h fun _ => .ok h.update

theorem execSysw_canonical {f : FmtI} (h : s.Canonical) : KeepsStores (execSysw f s) :=
  run_canonical h fun _ => .ite .trap (.ite .trap (.ok h.update))

namespace State.Canonical

theorem deviceLaunch {cval : DWord} {body : Option (List Byte)} (h : s.Canonical) :
    (s.deviceLaunch desc caddr cval body).1.Canonical := by
  unfold State.deviceLaunch
  dsimp only
  split
  · exact h.launchLook.failWord.pair
  · exact h.launchLook.addLaunch.pair

end State.Canonical

theorem readDescriptor_canonical {go : State → Option (List Byte) → Res} (h : s.Canonical) (hgo : ∀ u a, u.Canonical →
    (go u a).Canonical) : (readDescriptor s m desc go).Canonical := by
  unfold readDescriptor
  dsimp only
  refine .ite (hgo _ _ h) ?_
  split
  · exact .stallWith h.askFor
  · split
    · exact hgo _ _ h.virtLook
    · exact readAtIssue_canonical h.virtLook (fun _ _ ht => hgo _ _ ht)

theorem execLaunch_canonical (h : s.Canonical) : KeepsStores (execLaunch f s) :=
  run_canonical h fun _ => .ite .stall (readDescriptor_canonical h (fun _ _ ht => (by
    dsimp only
    split
    · exact .stallWith h.askFor
    · exact .ok ht.deviceLaunch.putU.onExec)))

theorem execLstat_canonical (h : s.Canonical) : KeepsStores (execLstat f s) := run_canonical h fun _ => .ok h.update

theorem execRte_canonical (h : s.Canonical) : KeepsStores (execRte f s) :=
  run_canonical h fun _ => by
    dsimp only
    refine .ite .trap ?_
    split
    · exact .stallWith h.askFor
    · exact .ok h.update

/-! ### Exchanges across lanes -/

theorem exchange_canonical {src : Lane → Nat → Nat} (h : s.Canonical) : (exchange s f m src).Canonical :=
  .ite .stall (.ok h.update)

theorem execQswap_canonical (h : s.Canonical) : KeepsStores (execQswap f s) := run_canonical h fun _ => exchange_canonical h

theorem execQbcast_canonical (h : s.Canonical) : KeepsStores (execQbcast f s) := run_canonical h fun _ => exchange_canonical h

theorem execGshfl_canonical (h : s.Canonical) : KeepsStores (execGshfl f s) := run_canonical h fun _ => exchange_canonical h

theorem execRedux_canonical (h : s.Canonical) : KeepsStores (execRedux f s) :=
  run_canonical h fun _ => .ite (.ok h.update) (alu_canonical h)

theorem execBar_canonical (h : s.Canonical) : KeepsStores (execBar f s) := run_canonical h fun _ => .ok h.update

theorem execCbar_canonical (h : s.Canonical) : KeepsStores (execCbar f s) := run_canonical h fun _ => .ite .trap (.ok h.update)

theorem execSleep_canonical (h : s.Canonical) : KeepsStores (execSleep f s) := run_canonical h fun _ => .ok h.update

/-! ### Memory instructions as they issue -/

theorem memGeneric_canonical {f : FmtM} {addr : Nat → DWord} {last : Bool} {data : Lane → BitVec 128 × DWord}
    (h : s.Canonical) : (memGeneric s m f need fk addr kind dest acq rel last data far).Canonical := by
  unfold memGeneric
  dsimp only
  split
  · exact .trap
  · exact serveTouches_canonical h (fun _ _ ht => .ok ht.openOp)

theorem execLd_canonical {f : FmtM} (h : s.Canonical) : KeepsStores (execLd sx f s) :=
  run_canonical h fun _ => memGeneric_canonical h

theorem execSt_canonical {f : FmtM} (h : s.Canonical) : KeepsStores (execSt f s) :=
  run_canonical h fun _ => memGeneric_canonical h

theorem execLdv_canonical {f : FmtM} (h : s.Canonical) : KeepsStores (execLdv f s) :=
  run_canonical h fun _ => memGeneric_canonical h

theorem execStv_canonical {f : FmtM} (h : s.Canonical) : KeepsStores (execStv f s) :=
  run_canonical h fun _ => memGeneric_canonical h

theorem memLocal_canonical {f : FmtM} {data : Lane → BitVec 128 × DWord} (h : s.Canonical) :
    (memLocal s m f kind dest acq rel data).Canonical := by
  unfold memLocal
  dsimp only
  split
  · exact .trap
  · split
    · exact .trap
    · exact .ok h.openOp

theorem execSld_canonical {f : FmtM} (h : s.Canonical) : KeepsStores (execSld sx f s) :=
  run_canonical h fun _ => memLocal_canonical h

theorem execSst_canonical {f : FmtM} (h : s.Canonical) : KeepsStores (execSst f s) :=
  run_canonical h fun _ => memLocal_canonical h

theorem execAtom_canonical {op : BitVec 5} {f : FmtM} (h : s.Canonical) : KeepsStores (execAtom far op f s) :=
  run_canonical h fun _ => memGeneric_canonical h

theorem execRed_canonical {op : BitVec 5} {f : FmtM} (h : s.Canonical) : KeepsStores (execRed far op f s) :=
  run_canonical h fun _ => memGeneric_canonical h

theorem execPref_canonical {f : FmtM} (h : s.Canonical) : KeepsStores (execPref f s) :=
  run_canonical h fun _ => unlessWaits_canonical h (unlessWaits_canonical (pullTouches_canonical h) (.ok
      (((pullTouches_canonical h).noteTouches).openOp)))

theorem memRange_canonical {f : FmtM} (h : s.Canonical) : (memRange s m f kind).Canonical :=
  unlessWaits_canonical h (unlessWaits_canonical (pullTouches_canonical h) (.ok (((pullTouches_canonical
      h).noteTouches).openOp)))

theorem execCwb_canonical {f : FmtM} (h : s.Canonical) : KeepsStores (execCwb f s) :=
  run_canonical h fun _ => memRange_canonical h

theorem execCinv_canonical {f : FmtM} (h : s.Canonical) : KeepsStores (execCinv f s) :=
  run_canonical h fun _ => memRange_canonical h

theorem execCdisc_canonical {f : FmtM} (h : s.Canonical) : KeepsStores (execCdisc f s) :=
  run_canonical h fun _ => by
    split
    · exact .trap
    · exact serveTouches_canonical h (fun _ _ ht => .ok ht.openOp)

theorem memText_canonical {f : FmtM} (h : s.Canonical) : (memText s m f kind).Canonical := .ok h.openOp

theorem execIpf_canonical {f : FmtM} (h : s.Canonical) : KeepsStores (execIpf f s) :=
  run_canonical h fun _ => memText_canonical h

theorem execIpin_canonical {f : FmtM} (h : s.Canonical) : KeepsStores (execIpin f s) :=
  run_canonical h fun _ => memText_canonical h

theorem execIunpin_canonical {f : FmtM} (h : s.Canonical) : KeepsStores (execIunpin f s) :=
  run_canonical h fun _ => memText_canonical h

theorem execFence_canonical {f : FmtM} (h : s.Canonical) : KeepsStores (execFence f s) := run_canonical h fun _ => .ok h.openOp

/-! ### What registers are computed from -/

namespace State.Canonical

theorem tracked {i : Instr} (h : s.Canonical) (hex : ∀ a u, u.Canonical → KeepsStores (ex a u)) :
    KeepsStores (s.tracked ex i) := by
  unfold State.tracked
  refine .ite (hex _ _ h) ?_
  split
  · next he =>
      have ht := (hex _ _ h.update).of_eq he
      exact .ite (.next ht.update) (.next ht.update)
  · exact hex _ _ h.update

end State.Canonical

/-! ### A group's attempt at its chosen paths -/

namespace State.Canonical

theorem startPath {firstId : Nat} {lastId : Nat} {follows : Bool} (h : s.Canonical) :
    (s.startPath b g p before firstId lastId isB follows).Canonical :=
  .update (.ite h.update h)

theorem perform {x : Prep} (h : s.Canonical) (hex : ∀ a u, u.Canonical → KeepsStores (ex a u)) :
    KeepsStores (s.perform ex x) := by
  unfold State.perform
  split
  · exact h.tracked (fun _ _ ht => hex _ _ ht)
  · exact finish_canonical h.update .trap
  · exact finish_canonical h .park
  · exact .next h.update
  · exact .fault

theorem issued (h : s.Canonical) : (s.issued b g m).Canonical := h.update.atBoundary

theorem unstarted (h : s.Canonical) : (s.unstarted b g before).Canonical := h.update

theorem parkFor {es : List (DWord × DWord × Nat)} (h : s.Canonical) : (s.parkFor b g before p lanes es).Canonical :=
  h.parkGroup.result.unstarted

theorem postpone {l : Late} (h : s.Canonical) : (s.postpone b g l).Canonical := h.update

theorem afterA {firstId : Nat} {lastId : Nat} (h : s.Canonical) : (s.afterA b g p before firstId lastId).Canonical :=
  h.startPath

/-- Of a state that waits for path B, the requests that path B has made stay. -/
theorem keepRequests {t : State} {nextId : Nat} (h : s.Canonical) (ht : t.Canonical) :
    State.Canonical { s with mesh := t.mesh, nextId } := by
  obtain ⟨hmem, hpoison, hdead, hcounters, -⟩ := s.wf_iff.mp h
  obtain ⟨-, -, -, -, hsect⟩ := t.wf_iff.mp ht
  exact (wf_iff _).mpr ⟨hmem, hpoison, hdead, hcounters, hsect⟩

theorem stalledState {o : Host.Outcome State Fault Refusal} (h : s.Canonical) (ho : KeepsStores o) :
    (Machine.stalledState s p o).Canonical := by
  cases ho with
  | next ht => exact .ite h ht.update
  | fault => exact h
  | refused => exact h

/-- The paths of a group are attempted by a way of performing instructions that keeps the canonical form. -/
theorem attempt {ps : List Path} (h : s.Canonical) (hex : ∀ a u, u.Canonical → KeepsStores (ex a u)) :
    (s.attempt ex b g ps).Canonical := by
  have hfirst (q : Path) (isB : Bool) : KeepsStores
      ((s.startPath b g q (s.group b g) s.nextId s.nextId isB false).perform ex (s.prep b g q)) := h.startPath.perform hex
  cases ps with
  | nil => exact .idle
  | cons pa rest =>
    unfold State.attempt
    have ha := hfirst pa false
    cases rest with
    | nil =>
      refine .ite .miss (.ite (.stall (h.stalledState ha)) (.issue ?_))
      dsimp only
      generalize (s.startPath b g pa _ _ _ _ _).perform ex _ = ra at ha ⊢
      cases ha with
      | next ht =>
        refine .next ?_
        split
        · exact ht.unstarted
        · exact ht.issued
      | fault => exact .fault
      | refused => exact .refused
    | cons pb _ =>
      have hb := hfirst pb true
      refine .ite .miss (.ite (.stall ((h.stalledState hb).stalledState ha)) ?_)
      dsimp only
      generalize (s.startPath b g pa _ _ _ _ _).perform ex _ = ra at ha ⊢
      generalize (s.startPath b g pb _ _ _ _ _).perform ex _ = rb at hb ⊢
      cases ha with
      | fault => exact .issue .fault
      | refused => exact .issue .refused
      | next ht =>
        cases hb with
        | fault => exact .issue .fault
        | refused => exact .issue .refused
        | next hu =>
          dsimp only
          split
          · exact .issue (.next ht.unstarted)
          · exact .issue (.next hu.unstarted)
          · split
            · next e =>
              have hv := (ht.afterA.perform hex).of_eq e
              split
              · exact .stall (h.keepRequests hv)
              · exact .issue (.next h.startPath.parkFor)
              · split
                · exact .issue (.next ht.afterA.postpone.issued)
                · exact .stall h
              · exact .issue (.next hv.issued)
            · exact .issue (ht.afterA.perform hex)
          · exact .issue (.next ht.issued)

theorem tryLate {l : Late} (h : s.Canonical) (hex : ∀ a u, u.Canonical → KeepsStores (ex a u)) :
    KeepsStores (s.tryLate ex b g l) := by
  unfold State.tryLate
  dsimp only
  split
  · next he =>
      have ht := (h.update.afterA.tracked (fun _ _ ht => hex _ _ ht)).of_eq he
      split
      · exact .next ht.update
      · exact .next h
      · exact .next ht.update
  · exact h.update.afterA.tracked (fun _ _ ht => hex _ _ ht)

end State.Canonical

/-! ### The room of a core -/

namespace State.Canonical

theorem arrive {b : Block} (h : s.Canonical) : (s.arrive key b).Canonical := h.update

end State.Canonical

/-! ### The steps of a core besides its issues -/

namespace State.Canonical

theorem swapOut (h : s.Canonical) : (s.swapOut b g).Canonical := by
  unfold State.swapOut
  split
  · exact h
  · exact h.update

end State.Canonical

theorem execQuantumExpire_canonical (h : s.Canonical) : KeepsStores (execQuantumExpire blk grp s) :=
  .ite (.next h.swapOut) (.next h)

theorem execGroupSwap_canonical (h : s.Canonical) : KeepsStores (execGroupSwap blk grp s) := .ite (.next h.swapOut) (.next h)

theorem execIcacheFill_canonical (h : s.Canonical) : KeepsStores (execIcacheFill blk grp s) := by
  unfold execIcacheFill
  dsimp only
  split
  · exact .ite (.next (.ite h.fillLine.onGroup h.fillLine)) (.next h)
  · split
    · exact .next (.ite h.fillLine.count h.fillLine)
    · exact .next h.fillNext

theorem execRingHoldExpire_canonical (h : s.Canonical) : KeepsStores (execRingHoldExpire core launch rung s) := by
  unfold execRingHoldExpire
  dsimp only
  split
  · split
    · exact .ite (.next h.setRing) (.next h)
    · exact .next h
  · exact .next h

namespace State.Canonical

theorem packed {r : Rung} (h : s.Canonical) : (s.packed core launch rung r).Canonical := h.setRing.arrive.touchDomains

end State.Canonical

theorem execPackedGroupStart_canonical (h : s.Canonical) : KeepsStores (execPackedGroupStart core launch rung s) := by
  unfold execPackedGroupStart
  dsimp only
  split
  · split
    · exact .ite (.next h.packed.count) (.next h)
    · exact .next h
  · exact .next h

theorem execLadderDoneWrite_canonical (h : s.Canonical) : KeepsStores (execLadderDoneWrite launch s) := by
  unfold execLadderDoneWrite
  dsimp only
  split
  · refine .ite (.next h) ?_
    split
    · exact .next h.askFor
    · exact .next (.onLaunch (.ite h.virtWrite h.virtWrite.post11))
  · exact .next h

theorem execOwnerIdleExpire_canonical (h : s.Canonical) : KeepsStores (execOwnerIdleExpire cache owner s) :=
  .ite (.next h.update) (.next h)

end

end Sys2Proof.Machine
end

section
/-!
SUPPORT. The canonical form of the stores: blocks placed, saved and ended, launches, and the fault queue.
-/
namespace Sys2Proof.Machine

section
variable {s : State} {a : Acc} {c : Copy} {tinv v : DWord} {ks : List Nat} {asid b blk cl code core die g i id key launch line
  n owner queue x : Nat} {o : Op} {t : Touch}

/-! ### Launch records, placement and staging -/

namespace State.Canonical

theorem submit {r : List Byte} (h : s.Canonical) : (s.submit asid queue r).Canonical := by
  unfold State.submit
  dsimp only
  split
  · exact h.virtLook.launchLook.spendLook.failWord
  · exact h.virtLook.launchLook.spendLook.addLaunch

theorem watchQueue {base : Nat} (h : s.Canonical) : (s.watchQueue asid queue base).Canonical := h.grantMonitor

theorem watchDep {d : DWord × DWord} (h : s.Canonical) : (s.watchDep launch asid d).Canonical := by
  unfold State.watchDep
  split
  · exact h.askFor
  · split
    · next he =>
        have ht := h.virtLook.of_eq he
        split
        · exact ht.spendLook.grantMonitor
        · exact ht
    · next he => exact h.virtLook.of_eq he

theorem flushL1 (h : s.Canonical) : (s.flushL1 core).Canonical := .setCache (.foldl h fun _ _ hu => hu.evictL1Copy)

theorem setRole {role : DWord} (h : s.Canonical) : (s.setRole core role).Canonical := .ite h h.flushL1.setCore

theorem putOn {b : Block} (h : s.Canonical) : CanonicalIfSome (s.putOn core key b) := by
  unfold State.putOn
  dsimp only
  split
  · exact .none
  · refine .ite .none ?_
    split
    · exact .none
    · exact .ite (.some (.arrive (.ite h.setRole h))) .none

theorem putCohort {cores : List Nat} (h : s.Canonical) : CanonicalIfSome (s.putCohort launch cores) := by
  refine .foldl (.some h) fun x a hx => ?_
  cases hx with
  | none => exact .none
  | some ht => exact ht.putOn

theorem noteRoom (h : s.Canonical) : s.noteRoom.Canonical := h.update

end State.Canonical

theorem execLaunchRecord_canonical (h : s.Canonical) : KeepsStores (execLaunchRecord asid queue s) := by
  unfold execLaunchRecord
  dsimp only
  split
  · exact .next h
  · split
    · exact .next h
    · refine .ite (.next h) (.ite (.next h.askFor) (.ite (.next h.watchQueue) (.ite (.next h.askFor) ?_)))
      split
      · exact .next h.askFor
      · exact .next h.hubWrite.onCtx.submit.noteRoom

namespace State.Canonical

theorem makeReady (h : s.Canonical) : (s.makeReady launch).Canonical := h.update

theorem arrives (h : s.Canonical) : (s.arrives launch).Canonical := .ite h.update h.update.statusAdd.addTear

theorem arriveLaunches (h : s.Canonical) : s.arriveLaunches.Canonical := .ite h (.noteRoom (.foldl h fun _ _ hu => hu.arrives))

end State.Canonical

theorem execDependenceMet_canonical (h : s.Canonical) : KeepsStores (execDependenceMet launch s) :=
  .ite (.next h) (.next (.ite (.noteRoom (.makeReady (.foldl (.foldl h fun _ _ hu => hu.spendLook) fun _ _ hu => hu.watchDep)))
      (.onLaunch (.foldl (.foldl h fun _ _ hu => hu.spendLook) fun _ _ hu => hu.watchDep))))

theorem execCohortPlace_canonical {cores : List Nat} (h : s.Canonical) : KeepsStores (execCohortPlace launch cores s) := by
  unfold execCohortPlace
  dsimp only
  refine .ite (.next h) ?_
  split
  · exact .next h
  · next he =>
      have ht := h.putCohort.of_eq he
      exact .next ht.update

theorem execPriorityAge_canonical (h : s.Canonical) : KeepsStores (execPriorityAge launch s) := .ite (.next h.update) (.next h)

namespace State.Canonical

theorem stopStaging {src : DWord} (h : s.Canonical) : (s.stopStaging blk code src).Canonical :=
  .foldl h fun _ _ hu => hu.update.stopGroup

theorem stageStep (h : s.Canonical) : (s.stageStep blk).Canonical := by
  unfold State.stageStep
  dsimp only
  split
  · exact .over h
  · refine .ite (.wait h) ?_
    split
    · exact .over h.update
    · refine .ite (.more h.update) ?_
      split
      · exact .ite (.wait h.engineLook.prepare.countDirect.onBlock) (.more
          h.engineLook.prepare.engineNote.touchCaches.setLoc.onBlock)
      · exact .wait h.update
      · exact .wait h.stopStaging
      · exact .wait h.stopStaging
      · exact .wait h.stopStaging
      · exact .wait h.engineLook.stopStaging
      · exact .wait h
      · exact .wait h.askFor

theorem stageRun {n : Nat} (h : s.Canonical) : (s.stageRun blk n).1.Canonical := by
  induction n generalizing s with
  | zero => exact h
  | succ n ih =>
    have hs : (s.stageStep blk).Canonical := h.stageStep
    unfold State.stageRun
    generalize s.stageStep blk = x at hs
    obtain ht | ht | ht := hs
    · exact ih ht
    · exact ht
    · exact ht

end State.Canonical

theorem execBlockStart_canonical (h : s.Canonical) : KeepsStores (execBlockStart blk s) :=
  .ite (.next h) (.next (.ite h.update.stageRun.bumpId.onBlock.touchDomains h.update.stageRun))

/-! ### Pre-emption and restoration -/

namespace State.Canonical

theorem writeFrame {slot : Nat} {seed : Nat} (h : s.Canonical) : (s.writeFrame key slot seed).Canonical :=
  .foldl h fun _ _ hu => hu.hubWrite

theorem parkCopies (h : s.Canonical) : (s.parkCopies blk).Canonical := .foldl h fun _ _ hu => hu.returnLeave.update

theorem parkMmas (h : s.Canonical) : (s.parkMmas blk).Canonical := .setCore (.foldl h.update fun _ _ hu => .ite hu.update hu)

theorem dropOwner (h : s.Canonical) : (s.dropOwner core owner).Canonical := h.update

theorem releasePins (h : s.Canonical) : (s.releasePins cl asid).Canonical := .ite h h.update

theorem dropMonitors (h : s.Canonical) : (s.dropMonitors blk).Canonical := h.update

theorem saveBlock {slot : Nat} {share : Nat} (h : s.Canonical) : (s.saveBlock blk slot share).Canonical :=
  h.update.parkMmas.writeFrame.parkCopies.onBlock.dropOwner.dropMonitors.releasePins.onCtx

theorem saveShare (h : s.Canonical) : (s.saveShare blk).Canonical := by
  unfold State.saveShare
  dsimp only
  refine .foldl ?_ fun _ _ hu => hu.saveBlock
  refine .bumpId ?_
  split
  · exact h.update
  · exact h

end State.Canonical

theorem execBlockPreempt_canonical (h : s.Canonical) : KeepsStores (execBlockPreempt blk s) :=
  .ite (.ite (.next h.saveShare.noteRoom) (.next h)) (.ite (.next (.foldl h fun _ _ hu => hu.update)) (.next h.update))

namespace State.Canonical

theorem rewake (h : s.Canonical) : (s.rewake blk g i).Canonical := by
  unfold State.rewake
  split
  · exact h.update
  · exact h.update.recheck
  · exact h

theorem resumeBlock {intact : Bool} (h : s.Canonical) : (s.resumeBlock blk intact).Canonical :=
  .ite (.foldl (.touchDomains (.onBlock (.onCtx (.foldl h.update fun _ _ hu => hu.setRing)))) fun _ _ hu => .ite hu.rewake hu)
      (.foldl (.touchDomains (.onBlock (.onCtx (.foldl h.update fun _ _ hu => hu.setRing)))) fun _ _ hu => hu.stopAll)

theorem putShare (h : s.Canonical) : CanonicalIfSome (s.putShare core ks) := by
  refine .foldl (.some h) fun x a hx => ?_
  cases hx with
  | none => exact .none
  | some ht => exact ht.putOn

end State.Canonical

theorem execBlockRestore_canonical (h : s.Canonical) : KeepsStores (execBlockRestore blk core s) := by
  unfold execBlockRestore
  dsimp only
  refine .ite (.next h) (.ite (.next h) (.ite (.next h.askFor) ?_))
  split
  · exact .next h
  · next he =>
      have ht := h.putShare.of_eq he
      exact .next (.noteRoom (.foldl ht fun _ _ hu => hu.resumeBlock))

/-! ### The end of blocks and launches -/

namespace State.Canonical

theorem dropBlock (h : s.Canonical) : (s.dropBlock blk).Canonical := by
  unfold State.dropBlock
  dsimp only
  refine .ite ?_ ?_
  · split
    · exact .onCtx (.ite (.ite h.update.releasePins h.update.releasePins.setCore) h.update)
    · exact .ite (.ite h.update.releasePins h.update.releasePins.setCore) h.update
  · refine .update ?_
    split
    · exact .onCtx (.ite (.ite h.update.releasePins h.update.releasePins.setCore) h.update)
    · exact .ite (.ite h.update.releasePins h.update.releasePins.setCore) h.update

end State.Canonical

theorem execBlockEnd_canonical (h : s.Canonical) : KeepsStores (execBlockEnd blk s) := by
  unfold execBlockEnd
  split
  · exact .next h
  · exact .ite (.next h) (.next h.dropBlock.onLaunch.noteRoom)

namespace State.Canonical

theorem finishLaunch {code : Option (BitVec 8)} (h : s.Canonical) : (s.finishLaunch launch code).Canonical := by
  unfold State.finishLaunch
  dsimp only
  split
  · exact h.failWord
  · exact .ite h.putWord h.putWord.post11

end State.Canonical

theorem execLaunchComplete_canonical (h : s.Canonical) : KeepsStores (execLaunchComplete launch s) := by
  unfold execLaunchComplete
  dsimp only
  refine .ite (.next h) ?_
  refine .ite ?_ ?_
  · split
    · exact .next h.askFor
    · exact .next h.finishLaunch.onLaunch
  · refine .ite ?_ (.next h)
    split
    · exact .next h.askFor
    · exact .next h.finishLaunch.onLaunch

/-! ### The fault queue, translations and migration -/

namespace State.Canonical

theorem viaIo {r : Host.Outcome State Fault Refusal} (h : s.Canonical) (hr : KeepsStores r) : KeepsStores (s.viaIo r) :=
  .ite hr (.next h)

end State.Canonical

theorem execFaultEntryAppend_canonical (h : s.Canonical) : KeepsStores (execFaultEntryAppend s) := by
  unfold execFaultEntryAppend
  dsimp only
  split
  · exact .ite (.next h) (.next h.hubWrite.update)
  · exact .next h

theorem execFqheadWrite_canonical {head : DWord} (h : s.Canonical) : KeepsStores (execFqheadWrite head s) :=
  h.viaIo (.next h.update)

namespace State.Canonical

theorem retryGroup (h : s.Canonical) : (s.retryGroup b g id).Canonical := .ite h h.update

theorem retryOne {o : Outst} (h : s.Canonical) : (s.retryOne o).Canonical := by
  unfold State.retryOne
  split
  · exact h.retryGroup
  · exact h.update
  · exact h.update

theorem failOne {o : Outst} (h : s.Canonical) : (s.failOne o).Canonical := by
  unfold State.failOne
  dsimp only
  split
  · exact .ite h.stopAt h
  · split
    · exact .ite h.failCopy h
    · exact h
  · exact h.stopStaging

theorem answer {fail : Bool} {os : List Outst} (h : s.Canonical) : (s.answer fail os).Canonical := by
  refine .foldl h.update fun u o hu => ?_
  split
  · exact hu.failOne
  · exact hu.retryOne

end State.Canonical

theorem execResolveRecord_canonical {rslv : DWord} (h : s.Canonical) : KeepsStores (execResolveRecord rslv s) :=
  h.viaIo (.next (.ite h.count h.answer))

namespace State.Canonical

theorem markStale {i : Inval} (h : s.Canonical) : (s.markStale i).Canonical := h.update

theorem invalCluster {i : Inval} (h : s.Canonical) : (s.invalCluster i cl).Canonical := by
  unfold State.invalCluster
  extract_lets c gone t
  have ht : t.Canonical := .foldl h fun u a hu =>
    .ite (.foldl hu fun _ _ hv => hv.loseL1Line) (.setCache (.foldl hu fun _ _ hv => hv.loseL1Line))
  clear_value t
  exact ht.setCluster.update

theorem inval {i : Inval} (h : s.Canonical) : (s.inval i).Canonical := .foldl h fun _ _ hu => hu.invalCluster

theorem tinvWrite {kind : Nat} (h : s.Canonical) : (s.tinvWrite kind v).Canonical :=
  .ite h (.ite h.update h.inval.markStale.dropFetched.update)

end State.Canonical

theorem execTinvPage_canonical (h : s.Canonical) : KeepsStores (execTinvPage tinv s) := h.viaIo (.next h.tinvWrite)

theorem execTinvAsid_canonical (h : s.Canonical) : KeepsStores (execTinvAsid tinv s) := h.viaIo (.next h.tinvWrite)

theorem execTinvAll_canonical (h : s.Canonical) : KeepsStores (execTinvAll tinv s) := h.viaIo (.next h.tinvWrite)

namespace State.Canonical

theorem setMigState {st : Nat} (h : s.Canonical) : (s.setMigState n st).Canonical := h.update

theorem finishMig (h : s.Canonical) : (s.finishMig n).Canonical := h.hubWrite.setMigState.hubUpdate

theorem beginMig (h : s.Canonical) : (s.beginMig n).Canonical := .ite h.update h

theorem holdActivation (h : s.Canonical) : (s.holdActivation n).Canonical := .ite h (.update (.foldl h fun _ _ hu => hu.count))

theorem serveActivations (h : s.Canonical) : s.serveActivations.Canonical := .foldl h.update fun _ _ hu => hu.beginMig

end State.Canonical

theorem execMigrationActivate_canonical (h : s.Canonical) : KeepsStores (execMigrationActivate n s) :=
  h.viaIo (.next (.ite h (.ite h.beginMig h.holdActivation)))

theorem execMigrationPull_canonical (h : s.Canonical) : KeepsStores (execMigrationPull n line s) := by
  unfold execMigrationPull
  dsimp only
  refine .ite (.next h) ?_
  split
  · exact .next (.ite h.finishMig h.askFor)
  · refine .ite (.next h) ?_
    split
    · next he =>
        have ht := h.pull.of_ok he
        exact .next ht
    · exact .next h.askFor
    · exact .next h

theorem execKresWrite_canonical {reg : Nat} (h : s.Canonical) : KeepsStores (execKresWrite reg v s) :=
  .ite (.next h.count) (.ite (.next h.update) (.next h.update))

theorem execCounterClear_canonical {ev : Nat} (h : s.Canonical) : KeepsStores (execCounterClear die ev s) := by
  obtain ⟨hmem, hpoison, hdead, hcounters, hsect⟩ := s.wf_iff.mp h
  have hclear : Cells.wf (s.counters.set (64 * die + ev) 0#64) = true := Cells.wf_set _ _ _ hcounters
  exact h.viaIo (.next ((State.wf_iff _).mpr ⟨hmem, hpoison, hdead, hclear, hsect⟩))

end

end Sys2Proof.Machine
end

section
/-!
SUPPORT. The canonical form of the stores: the coherence messages, and agents lost, removed and re-admitted.
-/
namespace Sys2Proof.Machine

section
variable {s : State} {sectors : List Nat} {agent asid d die fenced fid id k line md n pa req x y : Nat} {e : TreeEnt}

/-! ### The routers and their trees -/

namespace State.Canonical

theorem dropMsg (h : s.Canonical) : (s.dropMsg id).Canonical := h.update

theorem putMsg {m : Msg} (h : s.Canonical) : (s.putMsg m).Canonical := h.update

theorem become {m : Msg} (h : s.Canonical) : (s.become id m).Canonical := h.update

theorem onReq {f : Req → Req} (h : s.Canonical) : (s.onReq id f).Canonical := h.update

theorem noteReceiver (h : s.Canonical) : (s.noteReceiver req x y).Canonical := by
  unfold State.noteReceiver
  dsimp only
  split
  · exact h.update
  · exact h

theorem touchEnt (h : s.Canonical) : (s.touchEnt x y line).Canonical := h.update

theorem goHop {m : Msg} (h : s.Canonical) : (s.goHop id m d).Canonical :=
  .ite (.ite h.update.noteReceiver.enterPersist h.update.noteReceiver) h.update

theorem onMsg {t : MsgType} {f : State → Msg → State} (h : s.Canonical) (hf : ∀ u a, u.Canonical → (f u a).Canonical) :
    KeepsStores (s.onMsg id t f) := by
  unfold State.onMsg
  split
  · exact .next h
  · exact .ite (.next h) (.ite (.next h.update.count) (.next (hf _ _ h)))

theorem putEnt (h : s.Canonical) : (s.putEnt e).Canonical := h.update

theorem onEnt {f : TreeEnt → TreeEnt} (h : s.Canonical) : (s.onEnt x y line f).Canonical := h.update

theorem tellParent (h : s.Canonical) : (s.tellParent e).Canonical := .ite h h.update

theorem leaveTree (h : s.Canonical) : (s.leaveTree e).Canonical := h.update.tellParent

theorem settle (h : s.Canonical) : (s.settle x y line).Canonical := by
  unfold State.settle
  split
  · exact h
  · exact .ite h.leaveTree h

theorem answerAsker {m : Msg} {gone : Bool} (h : s.Canonical) : (s.answerAsker e m gone).Canonical :=
  .ite h.update.tellParent h.update

theorem dropSectors {m : BitVec 4} (h : s.Canonical) : (s.dropSectors die line m).1.Canonical :=
  .pair (.ite (.foldl h fun _ _ hu => .ite hu.loseSector hu) (.leaveRetention (.foldl h fun _ _ hu => .ite hu.loseSector hu)))

theorem pruneDone (h : s.Canonical) : (s.pruneDone e).Canonical := .ite h.leaveTree h.update.answerAsker

theorem beginPrune {origin : Bool} {eviction : Nat} {asker : Nat} (h : s.Canonical) :
    (s.beginPrune e origin eviction asker).Canonical := by
  unfold State.beginPrune
  dsimp only
  refine .ite ?_ ?_
  · refine .pruneDone ?_
    refine .foldl ?_ fun _ _ hu => hu.update
    refine .onEnt ?_
    split
    · exact .ite h.dropSectors h.dropSectors.writeBack
    · exact h
  · refine .foldl ?_ fun _ _ hu => hu.update
    refine .onEnt ?_
    split
    · exact .ite h.dropSectors h.dropSectors.writeBack
    · exact h

theorem evictEnt (h : s.Canonical) : (s.evictEnt e).Canonical := .ite h.update h.update.beginPrune

theorem pruneAnswer (h : s.Canonical) : (s.pruneAnswer e d).Canonical := .ite h.update.pruneDone h.update

theorem makeEnt (h : s.Canonical) : (s.makeEnt x y line e).1.Canonical := by
  unfold State.makeEnt
  split
  · exact h.update.pair
  · exact h.evictEnt.pair
  · exact h.pair

theorem graft {up : Nat} {root : Bool} {toCatcher : Bool} (h : s.Canonical) :
    (s.graft x y line d up root toCatcher).1.Canonical := by
  unfold State.graft
  split
  · exact .fst_ite h.pair (.fst_ite h.update.pair h.update.pair)
  · exact h.makeEnt

theorem endReq (h : s.Canonical) : (s.endReq id).Canonical := h.update

theorem performWaiting (h : s.Canonical) : (s.performWaiting die sectors).Canonical := by
  unfold State.performWaiting
  dsimp only
  refine .foldl ?_ fun _ _ hu => .ite hu.copyPieces.finishCopy hu
  refine .foldl ?_ fun _ _ hu => .foldl hu fun _ _ hu1 => hu1.moveChunks.closeIfMoved
  refine .foldl h.update fun u a hu => ?_
  split
  · exact .ite hu hu.completeOp
  · exact hu

theorem deliverData {m : Msg} (h : s.Canonical) : (s.deliverData id m).Canonical := by
  unfold State.deliverData
  dsimp only
  split
  · exact h.update
  · exact .performWaiting (.endReq (.ite h.update (.foldl h.update.wayL2 fun _ _ hu => .ite hu.setSect hu)))

theorem resend {counted : Bool} (h : s.Canonical) : (s.resend req counted).Canonical := by
  unfold State.resend
  dsimp only
  split
  · exact h
  · exact h.update.sendReq

theorem sendData {m : Msg} {grant : BitVec 3} (h : s.Canonical) : (s.sendData id m grant agent).Canonical := by
  unfold State.sendData
  dsimp only
  split <;> exact h.update

theorem refuseMsg {m : Msg} {counted : Bool} (h : s.Canonical) : (s.refuseMsg id m counted).Canonical := by
  unfold State.refuseMsg
  dsimp only
  split
  · exact h.update
  · exact .ite h.update.resend h.update

theorem goTo {m : Msg} {p : Nat × Nat} (h : s.Canonical) : (s.goTo id m p).Canonical := h.update

theorem clearTransient {m : Msg} (h : s.Canonical) : (s.clearTransient m).Canonical := h.update.settle

end State.Canonical

/-! ### The coherence messages -/

namespace State.Canonical

theorem noteHome {m : Msg} (h : s.Canonical) : (s.noteHome m).Canonical := by
  unfold State.noteHome
  split
  · exact .ite h h.update
  · exact h

theorem refuseOrWait {m : Msg} (h : s.Canonical) : (s.refuseOrWait id m).Canonical := .ite h h.refuseMsg

theorem homeReadFor {m : Msg} (h : s.Canonical) : (s.homeReadFor m).Canonical := by
  unfold State.homeReadFor
  split
  · exact h.homeReads
  · exact h

theorem homeSupply {m : Msg} (h : s.Canonical) : (s.homeSupply id m).Canonical :=
  .ite h (.ite (.ite h h.update) (.ite h (.sendData (.homeReadFor (.foldl h fun _ _ hu => hu.spanFor)))))

theorem notHere {m : Msg} {p : Nat × BitVec 5 × Nat} (h : s.Canonical) : (s.notHere id m p).Canonical := h.update.count

theorem steer {m : Msg} (h : s.Canonical) : (s.steer id m e).Canonical := by
  unfold State.steer
  dsimp only
  split
  · exact h
  · split
    · exact h.update
    · exact h.update.goHop
    · split
      · exact h.update.settle.notHere
      · exact .ite (.ite h h.update.homeSupply) h.update.goHop

theorem catchRead {m : Msg} (h : s.Canonical) : (s.catchRead id m e).Canonical := h.update.steer

theorem meetHome {m : Msg} (h : s.Canonical) : (s.meetHome id m).Canonical :=
  .ite (.wait (.ite h.noteHome h.noteHome.update.count))
    (.ite (.ite (.go h.noteHome.enterPersist) (.wait h.noteHome.enterPersist)) (.ite (.refuse h.noteHome) (.go h.noteHome)))

theorem readAtHome {m : Msg} (h : s.Canonical) : (s.readAtHome id m).Canonical := by
  have hm : (s.meetHome id m).Canonical := h.meetHome
  unfold State.readAtHome
  generalize s.meetHome id m = x at hm
  cases hm with
  | wait ht => exact ht
  | refuse ht => exact ht.refuseMsg
  | go ht =>
    refine .ite ht ?_
    split
    · exact .ite ht.refuseOrWait ht.catchRead
    · exact ht.homeSupply

theorem readOnWay {m : Msg} (h : s.Canonical) : (s.readOnWay id m).Canonical := by
  unfold State.readOnWay
  dsimp only
  refine .ite h.readAtHome ?_
  split
  · exact h.goHop
  · exact .ite h.goHop (.ite h.refuseMsg (.ite h.goHop (.ite h h.catchRead)))

theorem readSteered {m : Msg} {p : Nat × BitVec 5 × Nat} (h : s.Canonical) : (s.readSteered id m p).Canonical := by
  unfold State.readSteered
  dsimp only
  refine .ite h (.ite h.notHere ?_)
  split
  · exact h.notHere
  · exact .ite h.refuseOrWait h.steer

theorem holderRead {m : Msg} (h : s.Canonical) : (s.holderRead id m).Canonical := by
  unfold State.holderRead
  dsimp only
  refine .ite (.ite h.refuseOrWait h.update.count) ?_
  refine .ite (.refuseMsg (.ite (.foldl h fun _ _ hu => hu.loseSector) (.onEnt (.foldl h fun _ _ hu => hu.loseSector)))) ?_
  refine .sendData ?_
  split
  · refine .touchDomains ?_
    refine .ite h ?_
    refine .foldl h.leaveRetention fun u a hu => ?_
    split
    · exact hu.setSect
    · exact hu.setSect
    · exact hu
  · refine .ite h ?_
    refine .foldl h.leaveRetention fun u a hu => ?_
    split
    · exact hu.setSect
    · exact hu.setSect
    · exact hu

end State.Canonical

theorem execRd_canonical {m : Nat} (h : s.Canonical) : KeepsStores (execRd m s) :=
  h.onMsg (fun _ _ ht => (by
    refine .ite ht.holderRead ?_
    split
    · exact ht.readOnWay
    · exact ht.readSteered))

theorem execNh_canonical {m : Nat} (h : s.Canonical) : KeepsStores (execNh m s) :=
  h.onMsg (fun _ _ ht => (by
    split
    · exact ht.steer
    · split
      · exact ht.notHere
      · exact ht.update))

namespace State.Canonical

theorem rejoin {m : Msg} {old : Option TreeEnt} (h : s.Canonical) : (s.rejoin m old).Canonical := by
  unfold State.rejoin
  split
  · exact .ite h.update h
  · exact h

theorem untry (h : s.Canonical) : (s.untry x y line d).Canonical := h.update

end State.Canonical

theorem execData_canonical {m : Nat} (h : s.Canonical) : KeepsStores (execData m s) :=
  h.onMsg (fun _ _ ht => (by
    dsimp only
    split
    · exact ht.clearTransient.goTo
    · exact .ite ht.graft (.ite (.deliverData (.ite ht.graft.untry.rejoin.clearTransient.update.serveWaiting
        ht.graft.untry.rejoin.clearTransient)) (.goHop (.ite ht.graft.untry.rejoin.clearTransient.update.serveWaiting
        ht.graft.untry.rejoin.clearTransient)))))

theorem execRefuse_canonical {m : Nat} (h : s.Canonical) : KeepsStores (execRefuse m s) :=
  h.onMsg (fun _ _ ht => (by
    dsimp only
    split
    · exact ht.clearTransient.goTo
    · exact .ite ht.clearTransient.dropMsg.resend ht.clearTransient.goHop))

namespace State.Canonical

theorem grantOwn {dirty : BitVec 4} (h : s.Canonical) : (s.grantOwn line req dirty).Canonical := by
  unfold State.grantOwn
  dsimp only
  split
  · exact h.update.settle
  · exact .ite (.serveWaiting (.ite (.useOutward (.foldl h.update.settle fun _ _ hu => hu.homeWritten)) (.foldl h.update.settle
      fun _ _ hu => hu.homeWritten))) (.performWaiting (.send (.foldl (.wayL2 (.useOutward (.ite h.homeReads h))) fun _ _ hu =>
      hu.spanFor.setSect)))

theorem ackUp (h : s.Canonical) : (s.ackUp e).Canonical := by
  unfold State.ackUp
  dsimp only
  refine .ite (.ite (.grantOwn (.ite h.update h.update)) (.answerAsker (.touchEnt (.ite h.update h.update)))) ?_
  split
  · exact .ite (.evictEnt (.ite (.grantOwn (.ite h.update h.update)) (.answerAsker (.touchEnt (.ite h.update h.update)))))
      (.ite (.grantOwn (.ite h.update h.update)) (.answerAsker (.touchEnt (.ite h.update h.update))))
  · exact .ite (.grantOwn (.ite h.update h.update)) (.answerAsker (.touchEnt (.ite h.update h.update)))

theorem invalidateMore {m : Msg} (h : s.Canonical) : (s.invalidateMore e m).Canonical := by
  unfold State.invalidateMore
  dsimp only
  refine .send ?_
  refine .foldl ?_ fun _ _ hu => hu.update
  refine .onEnt ?_
  split
  · exact h.dropSectors
  · exact h.pair

theorem invalidate {smask : BitVec 4} {exempt : Option Nat} {asker : Nat} (h : s.Canonical) :
    (s.invalidate e req smask exempt asker).Canonical := by
  unfold State.invalidate
  dsimp only
  refine .ite ?_ ?_
  · refine .ackUp ?_
    refine .foldl ?_ fun _ _ hu => hu.update
    refine .putEnt ?_
    split
    · exact .fst_ite h.pair h.dropSectors
    · exact h.pair
  · refine .foldl ?_ fun _ _ hu => hu.update
    refine .putEnt ?_
    split
    · exact .fst_ite h.pair h.dropSectors
    · exact h.pair

theorem serveOwn {m : Msg} {r : Req} (h : s.Canonical) : (s.serveOwn id m r).Canonical := by
  unfold State.serveOwn
  dsimp only
  refine .ite h.refuseOrWait (.ite h.refuseOrWait (.ite h (.ite h.refuseMsg (.ite h (.ite h (.ite h.update ?_))))))
  split
  · exact .invalidate (.update (.dropMsg (.ite h.update h)))
  · exact .grantOwn (.update (.dropMsg (.ite h.update h)))

theorem ownOnWay {m : Msg} (h : s.Canonical) : (s.ownOnWay id m).Canonical := .ite h.refuseMsg h.goHop

end State.Canonical

theorem execOwn_canonical {m : Nat} (h : s.Canonical) : KeepsStores (execOwn m s) := by
  refine h.onMsg fun u k hu => .ite hu.ownOnWay ?_
  have hm : (u.meetHome m k).Canonical := hu.meetHome
  generalize u.meetHome m k = x at hm ⊢
  split
  · exact hu.update
  · cases hm with
    | wait ht => exact ht
    | refuse ht => exact ht.refuseMsg
    | go ht => exact ht.serveOwn

theorem execInv_canonical {m : Nat} (h : s.Canonical) : KeepsStores (execInv m s) :=
  h.onMsg (fun _ _ ht => (by
    refine .ite ht ?_
    split
    · exact ht.update
    · exact .ite ht.update.invalidateMore (.ite ht ht.update.invalidate)))

theorem execAck_canonical {m : Nat} (h : s.Canonical) : KeepsStores (execAck m s) :=
  h.onMsg (fun _ _ ht => (by
    dsimp only
    split
    · exact ht.update
    · exact .ite ht.update.ackUp ht.update))

theorem execPrune_canonical {m : Nat} (h : s.Canonical) : KeepsStores (execPrune m s) :=
  h.onMsg (fun _ _ ht => (by
    refine .ite ht ?_
    split
    · exact ht.update
    · exact .ite ht.update (.ite ht ht.update.beginPrune)))

theorem execPack_canonical {m : Nat} (h : s.Canonical) : KeepsStores (execPack m s) :=
  h.onMsg (fun _ _ ht => (by
    split
    · exact ht.update
    · exact ht.update.pruneAnswer))

theorem execUnlink_canonical {m : Nat} (h : s.Canonical) : KeepsStores (execUnlink m s) :=
  h.onMsg (fun _ _ ht => ht.update.settle)

theorem execWb_canonical {m : Nat} (h : s.Canonical) : KeepsStores (execWb m s) :=
  h.onMsg (fun _ _ ht => .ite ht.goHop (.become (.foldl ht fun _ _ hu => hu.homeWritten)))

theorem execWba_canonical {m : Nat} (h : s.Canonical) : KeepsStores (execWba m s) :=
  h.onMsg (fun _ _ ht => (by
    dsimp only
    refine .ite ht.goHop ?_
    split
    · exact .ite ht.update.pruneAnswer ht.update
    · exact ht.update))

theorem execMalformedMessage_canonical {typ : BitVec 5} (h : s.Canonical) : KeepsStores (execMalformedMessage typ x y s) :=
  .ite (.next h) (.next h.count)

theorem execCxlSnoop_canonical {k : Snoop} (h : s.Canonical) : KeepsStores (execCxlSnoop k sectors s) :=
  .ite (.next h) (.next (.foldl h fun _ _ hu => hu.askSnoop))

theorem execSliceRetention_canonical {slice : Nat} (h : s.Canonical) : KeepsStores (execSliceRetention die slice s) :=
  .ite (.next h.update) (.next h)

theorem execAgentSilent_canonical (h : s.Canonical) : KeepsStores (execAgentSilent req s) := by
  unfold execAgentSilent
  dsimp only
  split
  · exact .next h
  · exact .ite (.next h) (.next h.update)

theorem execPoolSilent_canonical (h : s.Canonical) : KeepsStores (execPoolSilent req s) := by
  unfold execPoolSilent
  dsimp only
  split
  · exact .next h
  · exact .ite (.next h) (.next h.update)

theorem execCxlResponse_canonical {exclusive : Bool} {poisoned : Bool} {data : List Byte} (h : s.Canonical) :
    KeepsStores (execCxlResponse req exclusive poisoned data s) := by
  unfold execCxlResponse
  dsimp only
  split
  · exact .next h
  · split
    · exact .next h
    · exact .ite (.next h) (.ite (.next (.endReq (.update (.ite (.foldl (.ite (.foldl (.fromOutside (.foldl h fun _ _ hu =>
        hu.setMemBytes)) fun _ _ hu => hu.homeWritten) h) fun _ _ hu => hu.setPoison) (.ite (.foldl (.fromOutside (.foldl h fun
        _ _ hu => hu.setMemBytes)) fun _ _ hu => hu.homeWritten) h))))) (.ite (.next (.endReq (.foldl (.ite (.foldl (.ite
        (.foldl (.fromOutside (.foldl h fun _ _ hu => hu.setMemBytes)) fun _ _ hu => hu.homeWritten) h) fun _ _ hu =>
        hu.setPoison) (.ite (.foldl (.fromOutside (.foldl h fun _ _ hu => hu.setMemBytes)) fun _ _ hu => hu.homeWritten) h))
        fun _ _ hu => hu.takeL2Copy))) (.next (.ite (.putMsg (.ite (.update (.onReq (.ite (.foldl (.ite (.foldl (.fromOutside
        (.foldl h fun _ _ hu => hu.setMemBytes)) fun _ _ hu => hu.homeWritten) h) fun _ _ hu => hu.setPoison) (.ite (.foldl
        (.fromOutside (.foldl h fun _ _ hu => hu.setMemBytes)) fun _ _ hu => hu.homeWritten) h)))) (.ite (.update (.onReq (.ite
        (.foldl (.ite (.foldl (.fromOutside (.foldl h fun _ _ hu => hu.setMemBytes)) fun _ _ hu => hu.homeWritten) h) fun _ _
        hu => hu.setPoison) (.ite (.foldl (.fromOutside (.foldl h fun _ _ hu => hu.setMemBytes)) fun _ _ hu => hu.homeWritten)
        h)))) (.onReq (.ite (.foldl (.ite (.foldl (.fromOutside (.foldl h fun _ _ hu => hu.setMemBytes)) fun _ _ hu =>
        hu.homeWritten) h) fun _ _ hu => hu.setPoison) (.ite (.foldl (.fromOutside (.foldl h fun _ _ hu => hu.setMemBytes)) fun
        _ _ hu => hu.homeWritten) h)))))) (.sendData (.putMsg (.ite (.update (.onReq (.ite (.foldl (.ite (.foldl (.fromOutside
        (.foldl h fun _ _ hu => hu.setMemBytes)) fun _ _ hu => hu.homeWritten) h) fun _ _ hu => hu.setPoison) (.ite (.foldl
        (.fromOutside (.foldl h fun _ _ hu => hu.setMemBytes)) fun _ _ hu => hu.homeWritten) h)))) (.ite (.update (.onReq (.ite
        (.foldl (.ite (.foldl (.fromOutside (.foldl h fun _ _ hu => hu.setMemBytes)) fun _ _ hu => hu.homeWritten) h) fun _ _
        hu => hu.setPoison) (.ite (.foldl (.fromOutside (.foldl h fun _ _ hu => hu.setMemBytes)) fun _ _ hu => hu.homeWritten)
        h)))) (.onReq (.ite (.foldl (.ite (.foldl (.fromOutside (.foldl h fun _ _ hu => hu.setMemBytes)) fun _ _ hu =>
        hu.homeWritten) h) fun _ _ hu => hu.setPoison) (.ite (.foldl (.fromOutside (.foldl h fun _ _ hu => hu.setMemBytes)) fun
        _ _ hu => hu.homeWritten) h)))))))))))

theorem execCxlMemAccess_canonical {write : Option (List Byte)} (h : s.Canonical) :
    KeepsStores (execCxlMemAccess pa write n s) :=
  .ite (.next h) (.next h.hubUpdate)

/-! ### Lost domains and agents removed -/

namespace State.Canonical

theorem dropAccs {p : Op → Acc → Bool} (h : s.Canonical) : (s.dropAccs p).Canonical := .foldl h.update fun _ _ hu => hu.closeOp

theorem stopLost (h : s.Canonical) : (s.stopLost asid).Canonical :=
  .foldl h fun _ _ hu => .onBlock (.foldl hu fun _ _ hu1 => hu1.stopAll)

theorem failLost (h : s.Canonical) : (s.failLost asid).Canonical := .update (.foldl h fun _ _ hu => hu.failCopy)

theorem endLost (h : s.Canonical) : (s.endLost asid).Canonical := .ite h.update h.update.statusAdd

theorem contextLost (h : s.Canonical) : (s.contextLost asid).Canonical := h.stopLost.failLost.endLost

theorem touchCrossing {gone : Loc → Bool} (h : s.Canonical) : (s.touchCrossing d gone).Canonical :=
  .foldl (.foldl h fun _ _ hu => hu.update) fun _ _ hu => hu.update

theorem failInFlight {gone : Loc → Bool} (h : s.Canonical) : (s.failInFlight gone).Canonical := by
  unfold State.failInFlight
  dsimp only
  refine .foldl ?_ fun _ _ hu => .foldl hu fun _ _ hu1 => hu1.stopAt
  refine .foldl h fun u a hu => ?_
  split
  · refine .ite hu ?_
    split
    · exact hu.failOp
    · exact hu
  · exact hu

theorem loseDomain (h : s.Canonical) : (s.loseDomain d).Canonical :=
  .ite h (.dropMops (.dropAccs (.failInFlight (.foldl h.update.touchCrossing fun _ _ hu => hu.contextLost))))

theorem dropMsgs {p : Msg → Bool} (h : s.Canonical) : (s.dropMsgs fenced p).Canonical := .foldl h.update fun _ _ hu => hu.count

theorem cutLink {n : Nat} (h : s.Canonical) : (s.cutLink x y line d n).Canonical := by
  induction n generalizing s x y d with
  | zero => exact h
  | succ n ih =>
    unfold State.cutLink
    dsimp only
    split
    · exact h.update
    · exact .ite (.ite h.update (ih h.update)) h.update

theorem cutLaid {m : Msg} (h : s.Canonical) : (s.cutLaid m).Canonical := .ite h h.cutLink

theorem forgetReq (h : s.Canonical) : (s.forgetReq fenced id).Canonical :=
  .foldl (.update (.foldl h.dropMsgs fun _ _ hu => hu.cutLaid)) fun _ _ hu => hu.update.settle

theorem giveUp (h : s.Canonical) : (s.giveUp fenced id).Canonical := .endReq (.ite h.forgetReq h.forgetReq.update)

theorem sendAgain (h : s.Canonical) : (s.sendAgain fenced id).Canonical := by
  unfold State.sendAgain
  split
  · exact .ite h h.forgetReq.sendReq
  · exact h

theorem clearDieCaches (h : s.Canonical) : (s.clearDieCaches die).Canonical := h.update

theorem fenceCompute (h : s.Canonical) : (s.fenceCompute die).Canonical := by
  unfold State.fenceCompute
  dsimp only
  refine .foldl ?_ fun _ _ hu => hu.sendAgain
  refine .foldl ?_ fun _ _ hu => .ite hu.pruneAnswer hu.cutLink
  refine .foldl ?_ fun _ _ hu => hu.giveUp
  refine .clearDieCaches ?_
  refine .foldl h fun u a hu => ?_
  refine .loseSector ?_
  refine .ite hu ?_
  split
  · exact hu.update
  · exact hu.setPoison

theorem fenceMemory (h : s.Canonical) : (s.fenceMemory agent).Canonical :=
  .foldl (.foldl (.update (.dropMsgs (.foldl (.foldl h fun _ _ hu => hu.loseSector) fun _ _ hu => hu.discardCopies))) fun _ _
      hu => hu.update) fun _ _ hu => hu.sendAgain

theorem fenceAgent {a : Nat} (h : s.Canonical) : (s.fenceAgent a).Canonical :=
  .loseDomain (.update (.ite h.fenceCompute h.fenceMemory))

theorem restartLine (h : s.Canonical) : (s.restartLine line).Canonical := .foldl h.tearLine.update fun _ _ hu => hu.sendReq

theorem freshCompute (h : s.Canonical) : (s.freshCompute die).Canonical :=
  .update (.foldl h.update fun _ _ hu => hu.restartLine)

theorem freshMemory (h : s.Canonical) : (s.freshMemory md).Canonical := by
  obtain ⟨hmem, hpoison, hdead, hcounters, hsect⟩ := s.wf_iff.mp h
  exact (wf_iff _).mpr ⟨hmem, Cells.wf_filter _ _ hpoison, hdead, hcounters, hsect⟩

theorem readmitAgent {a : Nat} (h : s.Canonical) : (s.readmitAgent a).Canonical := .update (.ite h.freshCompute h.freshMemory)

theorem discardRoute (h : s.Canonical) : (s.discardRoute fid).Canonical :=
  .foldl (.foldl (.foldl (.dropMops (.dropAccs (.foldl (.foldl h fun _ _ hu => hu.stopAt) fun _ _ hu => .foldl hu fun _ _ hu1
      => hu1.stopAt))) fun _ _ hu => hu.stopAt) fun _ _ hu => hu.failCopy) fun _ _ hu => hu.giveUp

end State.Canonical

end

end Sys2Proof.Machine
end

section
/-!
SUPPORT. The canonical form of the stores: windows, the mailbox, the links, reset and bring-up.
-/
namespace Sys2Proof.Machine

section
variable {s : State} {a : Acc} {desc m v : DWord} {f : FmtA} {bs : List Byte} {args : List DWord} {ks : List Nat} {agent asid b
  cache copy die fid first id k key line n off pa r since win x y : Nat} {t : Touch} {e : TreeEnt}

/-! ### Reduction windows -/

namespace State.Canonical

theorem callHome (h : s.Canonical) : CanonicalIfSome (s.callHome ks) := by
  unfold State.callHome
  split
  · exact .none
  · exact .some (.foldl h fun _ _ hu => hu.askHome)

theorem hubPut (h : s.Canonical) : (s.hubPut pa bs).Canonical := .ite h.hubWrite h

theorem hubPutWord (h : s.Canonical) : (s.hubPutWord pa v id).Canonical := .ite h.hubUpdate h

theorem setWindow {w : Window} (h : s.Canonical) : (s.setWindow win w).Canonical := h.update

theorem applyElem {w : Window} {c : Contrib} (h : s.Canonical) : (s.applyElem w c).Canonical := h.hubWrite

theorem writeOut {w : Window} (h : s.Canonical) : (s.writeOut w).Canonical := .ite (.foldl h fun _ _ hu => hu.hubPut) h

theorem finishWindow {w : Window} (h : s.Canonical) : (s.finishWindow win w).Canonical := h.writeOut.hubPutWord.setWindow

theorem countContrib {w : Window} (h : s.Canonical) : (s.countContrib win w).Canonical :=
  .ite h.update (.ite h.finishWindow (.foldl h.update fun _ _ hu => hu.count))

theorem serveWindows (h : s.Canonical) : s.serveWindows.Canonical := .foldl h fun _ _ hu => hu.finishWindow

end State.Canonical

/-! ### The mailbox and its commands -/

namespace State.Canonical

theorem endCmd (h : s.Canonical) : (s.endCmd r).Canonical := h.update

theorem starts {code : BitVec 8} {go : State → State} (h : s.Canonical) (hgo : ∀ u, u.Canonical → (go u).Canonical) :
    KeepsStores (s.starts code args go) :=
  h.viaIo (.next (.ite h (hgo _ h.update)))

theorem endWrites {t : State} (h1 : t.Canonical) : (s.endWrites t).Canonical := .ite h1.update h1.update

theorem command {code : BitVec 8} {check : Nat} {go : State → State} (h : s.Canonical) (hgo : ∀ u, u.Canonical →
    (go u).Canonical) : KeepsStores (s.command code args check go) :=
  h.starts (fun _ ht => .ite ht.update (.ite ht.update ((hgo _ ht).endCmd)))

theorem holdRead {code : BitVec 8} (h : s.Canonical) : KeepsStores (s.holdRead code args pa n) :=
  h.starts (fun _ ht => ht.update.askFor)

end State.Canonical

theorem execFenceout_canonical {agent : DWord} (h : s.Canonical) : KeepsStores (execFenceout agent s) :=
  h.command (fun _ ht => ht.fenceAgent)

theorem execReadmit_canonical {agent : DWord} (h : s.Canonical) : KeepsStores (execReadmit agent s) :=
  h.command (fun _ ht => ht.readmitAgent)

namespace State.Canonical

theorem losePool (h : s.Canonical) : (s.losePool k).Canonical := .foldl h.loseDomain fun _ _ hu => hu.giveUp

end State.Canonical

theorem execPoollose_canonical {dom : DWord} (h : s.Canonical) : KeepsStores (execPoollose dom s) :=
  h.command (fun _ ht => ht.losePool)

theorem execPoolset_canonical {range : DWord} {base : DWord} {size : DWord} {dom : DWord} (h : s.Canonical) :
    KeepsStores (execPoolset range base size dom s) :=
  h.command (fun _ ht => ht.update)

theorem execHalt_canonical {die : DWord} (h : s.Canonical) : KeepsStores (execHalt die s) := h.command (fun _ ht => ht.update)

theorem execResume_canonical {die : DWord} (h : s.Canonical) : KeepsStores (execResume die s) :=
  h.command (fun _ ht => ht.update)

theorem execFidset_canonical {fid : DWord} (h : s.Canonical) : KeepsStores (execFidset fid s) :=
  h.command (fun _ ht => ht.update)

theorem execRouteset_canonical {fid : DWord} {mask : DWord} (h : s.Canonical) : KeepsStores (execRouteset fid mask s) :=
  h.command (fun _ ht => .ite ht.update.discardRoute ht.update)

theorem execWinset_canonical {win : DWord} (h : s.Canonical) : KeepsStores (execWinset win desc s) :=
  .ite h.holdRead (h.command (fun _ ht => ht.update))

namespace State.Canonical

theorem spillRegion (h : s.Canonical) : (s.spillRegion r).Canonical := by
  unfold State.spillRegion
  dsimp only
  split
  · exact h.update.hubWrite
  · exact h.update

theorem spillConn {c : Nat} (h : s.Canonical) : (s.spillConn c).Canonical := by
  unfold State.spillConn
  dsimp only
  split
  · exact h.update.hubWrite
  · exact h.update

theorem useRegion (h : s.Canonical) : (s.useRegion r).Canonical := .ite h (.ite h.update h.update.spillRegion)

theorem useConn {c : Nat} (h : s.Canonical) : (s.useConn c first).Canonical := .ite h.update h.update.spillConn

end State.Canonical

theorem execRegset_canonical {region : DWord} {entry : DWord} (h : s.Canonical) : KeepsStores (execRegset region entry s) :=
  .ite h.holdRead (h.command (fun _ ht => ht.useRegion.update))

namespace State.Canonical

theorem freeRegion (h : s.Canonical) : (s.freeRegion r).Canonical := by
  unfold State.freeRegion
  split
  · exact .ite h.update.hubWrite h
  · exact h

end State.Canonical

theorem execRevoke_canonical {region : DWord} {cword : DWord} (h : s.Canonical) : KeepsStores (execRevoke region cword s) :=
  h.command (fun _ ht => ht.useRegion.update.freeRegion)

theorem execRegtable_canonical {rbase : DWord} {rcount : DWord} {cbase : DWord} {ccount : DWord} (h : s.Canonical) :
    KeepsStores (execRegtable rbase rcount cbase ccount s) :=
  h.command (fun _ ht => ht.update)

theorem execScrub_canonical {base : DWord} {len : DWord} (h : s.Canonical) : KeepsStores (execScrub base len s) :=
  .ite (h.command (fun _ ht => ht)) (h.starts (fun _ ht => .endWrites (.foldl ht fun _ _ hu =>
      hu.discardCopies.hubWrite.setPoison)))

theorem execTclimit_canonical {x : DWord} {y : DWord} {on : DWord} (h : s.Canonical) : KeepsStores (execTclimit x y on s) :=
  h.command (fun _ ht => ht.update)

theorem execCtxcreate_canonical (h : s.Canonical) : KeepsStores (execCtxcreate desc s) :=
  .ite h.holdRead (h.command (fun _ ht => ht.update))

namespace State.Canonical

theorem dropWork {stays : Block → Bool} (h : s.Canonical) : (s.dropWork asid stays).Canonical :=
  .update (.foldl (.dropAccs (.foldl h.abandon fun _ _ hu => hu.dropBlock)) fun _ _ hu => hu.update)

theorem dropEntries (h : s.Canonical) : (s.dropEntries asid).Canonical := h.update

theorem discardLaunches (h : s.Canonical) : (s.discardLaunches asid).Canonical := .ite h.update h.update.statusAdd

theorem dropWords (h : s.Canonical) : (s.dropWords asid).Canonical := h.update

theorem freeCtx {stays : Block → Bool} (h : s.Canonical) : (s.freeCtx asid stays).Canonical :=
  .dropWords (.markStale (.inval (.foldl h.discardLaunches.dropWork.dropEntries fun _ _ hu => hu.update)))

theorem tearDown {report : Nat} (h : s.Canonical) : (s.tearDown asid report).Canonical := h.freeCtx.onCtx

theorem tearRest (h : s.Canonical) : (s.tearRest asid).Canonical := h.update.freeCtx

end State.Canonical

theorem execCtxtear_canonical {asid : DWord} {report : DWord} (h : s.Canonical) : KeepsStores (execCtxtear asid report s) :=
  .ite (h.command (fun _ ht => ht)) (h.starts (fun _ ht => ht.tearDown.update))

theorem execTeardownReport_canonical (h : s.Canonical) : KeepsStores (execTeardownReport asid s) := by
  unfold execTeardownReport
  dsimp only
  split
  · exact .next h
  · exact .ite (.next h.tearRest) (.ite (.next h) (.next h.hubWrite.ownFrom.update))

theorem execAttest_canonical {nonce : DWord} {out : DWord} (h : s.Canonical) : KeepsStores (execAttest nonce out s) :=
  .ite h.holdRead (h.starts (fun _ ht => .ite ht.update ht.hubWrite.endWrites))

theorem runCode_canonical {code : BitVec 8} {m : List DWord} (h : s.Canonical) : KeepsStores (runCode code m s) := by
  unfold runCode
  dsimp only
  split
  · exact execFenceout_canonical h
  · exact execReadmit_canonical h
  · exact execPoollose_canonical h
  · exact execPoolset_canonical h
  · exact execHalt_canonical h
  · exact execResume_canonical h
  · exact execFidset_canonical h
  · exact execRouteset_canonical h
  · exact execWinset_canonical h
  · exact execRegset_canonical h
  · exact execRevoke_canonical h
  · exact execScrub_canonical h
  · exact execTclimit_canonical h
  · exact execRegtable_canonical h
  · exact execCtxcreate_canonical h
  · exact execCtxtear_canonical h
  · exact execAttest_canonical h
  · exact h.command (fun _ ht => ht)

namespace State.Canonical

theorem serveHeld (h : s.Canonical) : s.serveHeld.Canonical := by
  unfold State.serveHeld
  dsimp only
  split
  · exact h.serveWaiting.serveActivations.serveWindows
  · exact .ite h.serveWaiting.serveActivations.serveWindows h.serveWaiting.serveActivations.serveWindows.update.endCmd
  · split
    · next he => exact (runCode_canonical h.serveWaiting.serveActivations.serveWindows.update).of_eq he
    · exact h.serveWaiting.serveActivations.serveWindows

theorem mcmdWrite (h : s.Canonical) : KeepsStores (s.mcmdWrite v) :=
  .ite (h.starts (fun _ ht => ht)) (.ite (h.command (fun _ ht => ht)) (runCode_canonical h))

end State.Canonical

theorem execRegisterWrite_canonical (h : s.Canonical) : KeepsStores (execRegisterWrite off v s) := by
  unfold execRegisterWrite
  split
  · exact h.mcmdWrite
  · refine h.viaIo (.next ?_)
    split
    · exact .ite h.update h
    · split
      · exact h.update
      · split
        · exact h.setMigWord
        · exact h

/-! ### The links -/

theorem execPoolPortLoss_canonical {c : PoolLoss} (h : s.Canonical) : KeepsStores (execPoolPortLoss c s) := by
  unfold execPoolPortLoss
  split
  · exact .next (.ite h.losePool h)
  · exact .next (.foldl h fun _ _ hu => hu.losePool)
  · exact .next (.foldl h fun _ _ hu => hu.losePool)

theorem execLinkDown_canonical {link : Nat} (h : s.Canonical) : KeepsStores (execLinkDown link s) :=
  .ite (.next h) (.next h.update.count)

theorem execLinkUp_canonical {link : Nat} (h : s.Canonical) : KeepsStores (execLinkUp link s) := .next h.update

namespace State.Canonical

theorem lowerLine (h : s.Canonical) : (s.lowerLine line).Canonical := by
  unfold State.lowerLine
  refine .ite h.restartLine ?_
  refine .foldl h fun u a hu => ?_
  refine .foldl hu fun u a hu1 => ?_
  split
  · exact hu1.setSect
  · exact hu1.leaveRetention
  · exact hu1.leaveRetention.setSect
  · exact hu1

theorem spanChange {page : Nat} {grant : Nat} (h : s.Canonical) : (s.spanChange fid page grant).Canonical := by
  unfold State.spanChange
  extract_lets key erase
  have herase (t : State) (ht : t.Canonical) : (erase t).Canonical := ht.update
  split
  · exact h
  · exact .ite h (.ite (herase _ (.foldl h fun _ _ hu => hu.restartLine)) (.setSpan (.foldl h fun _ _ hu => hu.lowerLine)))
  · split
    · exact herase _ h.spanFor
    · refine .setSpan (.foldl h.spanFor fun u a hu => ?_)
      split
      · exact hu.restartLine
      · exact hu.lowerLine
  · exact h

theorem applyPacket {p : Packet} (h : s.Canonical) : (s.applyPacket p).Canonical := by
  unfold State.applyPacket
  split
  · exact h
  · exact h.update
  · exact h.spanChange

theorem noteContrib {k : Contrib} {w : Window} {bad : Bool} (h : s.Canonical) : (s.noteContrib k w bad).Canonical := by
  unfold State.noteContrib
  dsimp only
  split
  · exact h.countContrib
  · exact h.update

theorem wholeMessage {i : Inbound} (h : s.Canonical) : (s.wholeMessage i).Canonical := by
  unfold State.wholeMessage
  dsimp only
  refine .update ?_
  refine .foldl (.fromOutside (.foldl h.update fun _ _ hu => hu.hubPut)) fun u a hu => ?_
  split
  · exact .ite hu hu.countContrib
  · exact hu

theorem dropContrib {c : Nat} (h : s.Canonical) : (s.dropContrib c).Canonical := h.update

theorem contribTook {before : State} {k : Contrib} (h : s.Canonical) : (s.contribTook since before k).Canonical := by
  unfold State.contribTook
  split <;> exact h.update

theorem holdContrib {k : Contrib} (h : s.Canonical) : (s.holdContrib k key).Canonical := .ite h h.update.count

end State.Canonical

theorem execPrawellPacket_canonical {p : Packet} (h : s.Canonical) : KeepsStores (execPrawellPacket p s) :=
  .ite (.next h) (.next (.ite h.update.applyPacket h.update.applyPacket.wholeMessage))

theorem execContributionApply_canonical {c : Nat} (h : s.Canonical) : KeepsStores (execContributionApply c s) := by
  unfold execContributionApply
  dsimp only
  split
  · exact .next h
  · split
    · exact .next h.update.count
    · refine .ite (.next h.update.count) ?_
      refine .ite (.next h.update.noteContrib) ?_
      refine .ite (.next h) ?_
      refine .ite (.next h.holdContrib) ?_
      split
      · next t he => exact .next (h.callHome.of_eq he)
      · exact .next h.applyElem.contribTook.dropContrib.noteContrib

namespace State.Canonical

theorem inflight {f : Nat → Nat} (h : s.Canonical) : (s.inflight r f).Canonical := h.useRegion.update

theorem answerRefused {m : RemoteMsg} {k : Refuse} (h : s.Canonical) : (s.answerRefused m k).Canonical := h.update

theorem firstPacket {m : RemoteMsg} (h : s.Canonical) : (s.firstPacket m).Canonical := by
  unfold State.firstPacket
  dsimp only
  split
  · exact h.useRegion.useConn.update.answerRefused
  · exact h.useRegion.useConn.update.inflight

theorem laterPacket {r : Remote} {m : RemoteMsg} (h : s.Canonical) : (s.laterPacket r m).Canonical := .ite h h.update

theorem endInflight (h : s.Canonical) : (s.endInflight r).Canonical := h.inflight.freeRegion

theorem performRemote {r : Remote} (h : s.Canonical) : (s.performRemote r).Canonical :=
  .ite (.fromOutside (.foldl h fun _ _ hu => hu.hubWrite)) h

theorem dropRemote {r : Remote} (h : s.Canonical) : (s.dropRemote r).Canonical := h.useConn.update

end State.Canonical

theorem execRemoteMessage_canonical {m : RemoteMsg} (h : s.Canonical) : KeepsStores (execRemoteMessage m s) := by
  unfold execRemoteMessage
  refine .ite (.next h) ?_
  split
  · exact .next (.ite h h.laterPacket)
  · exact .ite (.next h.update) (.next h.firstPacket)

theorem execRemoteWriteTimeout_canonical {conn : Nat} {seq : Nat} (h : s.Canonical) :
    KeepsStores (execRemoteWriteTimeout conn seq s) := by
  unfold execRemoteWriteTimeout
  dsimp only
  split
  · exact .next h
  · exact .ite (.next h) (.next h.update.endInflight)

theorem execRemoteMessageFinish_canonical (h : s.Canonical) : KeepsStores (execRemoteMessageFinish id s) := by
  unfold execRemoteMessageFinish
  split
  · exact .next h
  · refine .ite (.next h) (.ite (.next h.dropRemote) (.ite (.next h) (.ite (.next h.askFor) ?_)))
    split
    · next he =>
        have ht := h.callHome.of_eq he
        exact .next ht
    · exact .next h.performRemote.dropRemote.endInflight

/-! ### Reset, bring-up and errors -/

namespace State.Canonical

theorem fresh0 (h : s.Canonical) : s.fresh0.Canonical := by
  obtain ⟨hmem, -⟩ := s.wf_iff.mp h
  obtain ⟨-, hrest⟩ := State.reset.wf_iff.mp reset
  exact (wf_iff _).mpr ⟨Memory.wf_filter _ _ hmem, hrest⟩

theorem bootBits (h : s.Canonical) : s.bootBits.Canonical := h.update

theorem bootUp (h : s.Canonical) : s.bootUp.Canonical := by
  unfold State.bootUp
  refine .bootBits ?_
  split <;> exact h.update

end State.Canonical

theorem execReset_canonical (h : s.Canonical) : KeepsStores (execReset s) := .next h.fresh0.bootUp

namespace State.Canonical

theorem bringupOutcome {passed : Bool} (h : s.Canonical) : (s.bringupOutcome agent passed).Canonical :=
  .ite h (.ite (.serveHeld (.ite h.update h.update)) h.update)

end State.Canonical

theorem execDieBringupDone_canonical {passed : Bool} (h : s.Canonical) : KeepsStores (execDieBringupDone agent passed s) :=
  .ite (.next h) (.next (.ite h.bringupOutcome.update h.bringupOutcome))

theorem execChannelTrained_canonical {ch : Nat} {full : Bool} {ok : Bool} (h : s.Canonical) :
    KeepsStores (execChannelTrained ch full ok s) :=
  .ite (.next h) (.ite (.next (.ite h.update h)) (.ite (.next h) (.ite (.next h.update) (.next h.update))))

namespace State.Canonical

theorem fillTable (h : s.Canonical) : s.fillTable.Canonical := by
  obtain ⟨_, _, _, e⟩ := s.fillTable_eq
  rw [e]
  exact h.update

theorem climb (h : s.Canonical) : s.climb.Canonical := .serveHeld (.bootBits (.update (.ite h.fillTable h)))

end State.Canonical

theorem execServiceLevelStep_canonical (h : s.Canonical) : KeepsStores (execServiceLevelStep s) := .next (.ite h.climb h)

theorem execEccCorrected_canonical (h : s.Canonical) : KeepsStores (execEccCorrected die s) := .next (.ite h.count h)

namespace State.Canonical

theorem stopPoisoned (h : s.Canonical) : (s.stopPoisoned b).Canonical := .foldl h fun _ _ hu => hu.stopAll

theorem poisonLines {lines : List Nat} (h : s.Canonical) : (s.poisonLines lines).Canonical :=
  .foldl h fun _ _ hu => .foldl hu fun _ _ hu1 => hu1.setPoison

theorem tagError {set : Nat} {way : Nat} (h : s.Canonical) : (s.tagError cache set way).Canonical := by
  unfold State.tagError
  dsimp only
  split
  · exact h
  · exact .ite (.foldl h.poisonLines fun _ _ hu => hu.loseSector) h.poisonLines.setCache

theorem treeError {set : Nat} {way : Nat} (h : s.Canonical) : (s.treeError x y set way).Canonical := by
  unfold State.treeError
  split
  · exact h
  · exact h.poisonLines.restartLine

theorem itagError {cluster : Nat} {entry : Nat} (h : s.Canonical) : (s.itagError cluster entry).Canonical := by
  unfold State.itagError
  dsimp only
  split
  · exact h
  · exact h.poisonLines.setCluster

end State.Canonical

theorem execEccUncorrectable_canonical {at_ : EccPlace} (h : s.Canonical) : KeepsStores (execEccUncorrectable at_ s) := by
  unfold execEccUncorrectable
  split
  · exact .next h.setPoison
  · exact .next h.stopPoisoned
  · exact .next h.tagError
  · exact .next h.itagError
  · exact .next h.treeError
  · exact .next h.update

theorem execIdeKeyExchange_canonical {pool : Bool} {key : DWord} (h : s.Canonical) :
    KeepsStores (execIdeKeyExchange pool key s) :=
  .next (.serveHeld (.ite h.update h.update))

/-! ### Copies as they move -/

theorem execCopyComplete_canonical (h : s.Canonical) : KeepsStores (execCopyComplete copy n s) := by
  unfold execCopyComplete
  split
  · exact .next h
  · exact .ite (.next h) (.ite (.next h.update.readDesc) (.next h.update.copyPieces.finishCopy))

theorem execCopyFault_canonical (h : s.Canonical) : KeepsStores (execCopyFault copy s) := by
  unfold execCopyFault
  dsimp only
  split
  · exact .next h
  · refine .ite (.next h) ?_
    split
    · exact .next h.update
    · exact .next h

theorem execCopyFail_canonical (h : s.Canonical) : KeepsStores (execCopyFail copy s) := by
  unfold execCopyFail
  split
  · exact .next h
  · refine .ite (.next h) ?_
    split
    · refine .ite (.next h) ?_
      split
      · exact .next h.copyPulled.failCopy
      · exact .next h
    · exact .next h

/-! ### The moves of other parts -/

theorem execMovi_canonical {f : FmtI} (h : s.Canonical) : KeepsStores (execMovi f s) :=
  run_canonical h fun _ => .ite (.ok h.update) (.ok h.update)

theorem execMovw_canonical {f : FmtW} (h : s.Canonical) : KeepsStores (execMovw f s) :=
  run_canonical h fun _ => .ite (.ok h.update) (.ok h.update)

theorem moveFrom_canonical {w : Nat} {val : Lane → Nat → DWord} (h : s.Canonical) : (moveFrom s f m w val).Canonical :=
  .ite (.ite .trap (.ok h.update)) (.ok h.update)

theorem execMovSpecial_canonical (h : s.Canonical) : KeepsStores (execMovSpecial f s) :=
  run_canonical h fun _ => moveFrom_canonical h

theorem execMovIndex_canonical (h : s.Canonical) : KeepsStores (execMovIndex f s) :=
  run_canonical h fun _ => moveFrom_canonical h

end

end Sys2Proof.Machine
end

section
/-!
SUPPORT. Every step keeps the canonical form of the stores (O59): each instruction and event, the issue slots, and the clock.
-/
namespace Sys2Proof.Machine

section
variable {s : State} {a : Acc} {lanes m : DWord} {b code core g k launch x : Nat} {o : Op} {e : TreeEnt}

/-! ### What an instruction or an event does -/

/-- One that delivers a value, or traps, leaves the stores. -/
theorem exec_canonical_of_valueTo {i : Instr} {f : FmtA} {w : Nat} (hv : valueTo i = some (f, w)) (h : s.Canonical) :
    KeepsStores (exec i s) := by
  obtain ⟨body, hrun, -, hbody⟩ := valueTo_delivers hv s
  rw [hrun]
  refine run_canonical h fun m => ?_
  obtain ⟨val, e⟩ | ⟨lanes, code, tval, e⟩ := hbody m
  · rw [e]
    exact alu_canonical h
  · rw [e]
    exact .trap

/-- One that delivers a predicate leaves the stores. -/
theorem exec_canonical_of_predicateTo {i : Instr} {f : FmtA} (hp : predicateTo i = some f) (h : s.Canonical) :
    KeepsStores (exec i s) := by
  obtain ⟨body, hrun, -, hbody⟩ := predicateTo_delivers hp s
  rw [hrun]
  refine run_canonical h fun m => ?_
  obtain ⟨val, e⟩ := hbody m
  rw [e]
  exact .ok h.onExec

/-- What each instruction and each event makes of the state has the stores in their canonical form. -/
theorem exec_canonical {i : Instr} (h : s.Canonical) : KeepsStores (exec i s) := by
  cases i with
  | blockHeader => exact execBlockHeader_canonical h
  | nop => exact execNop_canonical h
  | iaddc => exact execIaddc_canonical h
  | isubb => exact execIsubb_canonical h
  | tern => exact execTern_canonical h
  | qblk => exact execQblk_canonical h
  | dqblk => exact execDqblk_canonical h
  | pmov => exact execPmov_canonical h
  | xset => exact execXset_canonical h
  | xidx => exact execXidx_canonical h
  | xadd => exact execXadd_canonical h
  | vtos => exact execVtos_canonical h
  | stov => exact execStov_canonical h
  | movi => exact execMovi_canonical h
  | movw => exact execMovw_canonical h
  | movSpecial => exact execMovSpecial_canonical h
  | movIndex => exact execMovIndex_canonical h
  | qswap => exact execQswap_canonical h
  | qbcast => exact execQbcast_canonical h
  | gshfl => exact execGshfl_canonical h
  | redux => exact execRedux_canonical h
  | bra => exact execBra_canonical h
  | brx => exact execBrx_canonical h
  | call => exact execCall_canonical h
  | callx => exact execCallx_canonical h
  | ret => exact execRet_canonical h
  | exitLanes => exact execExitLanes_canonical h
  | yieldGroup => exact execYieldGroup_canonical h
  | bar => exact execBar_canonical h
  | cbar => exact execCbar_canonical h
  | waitc => exact execWaitc_canonical h
  | sleep => exact execSleep_canonical h
  | ld => exact execLd_canonical h
  | st => exact execSt_canonical h
  | ldv => exact execLdv_canonical h
  | stv => exact execStv_canonical h
  | sld => exact execSld_canonical h
  | sst => exact execSst_canonical h
  | atom => exact execAtom_canonical h
  | red => exact execRed_canonical h
  | pref => exact execPref_canonical h
  | cwb => exact execCwb_canonical h
  | cinv => exact execCinv_canonical h
  | cdisc => exact execCdisc_canonical h
  | ipf => exact execIpf_canonical h
  | ipin => exact execIpin_canonical h
  | iunpin => exact execIunpin_canonical h
  | fence => exact execFence_canonical h
  | tcfg => exact execTcfg_canonical h
  | omclaim => exact execOmclaim_canonical h
  | omrel => exact execOmrel_canonical h
  | omld => exact execOmld_canonical h
  | omst => exact execOmst_canonical h
  | mma => exact execMma_canonical h
  | acz => exact execAcz_canonical h
  | acld => exact execAcld_canonical h
  | acst => exact execAcst_canonical h
  | acrd => exact execAcrd_canonical h
  | msave => exact execMsave_canonical h
  | mres => exact execMres_canonical h
  | cpy => exact execCpy_canonical h
  | cpyt => exact execCpyt_canonical h
  | cseal => exact execCseal_canonical h
  | cwait => exact execCwait_canonical h
  | xred => exact execXred_canonical h
  | spred => exact execSpred_canonical h
  | esave => exact execEsave_canonical h
  | eres => exact execEres_canonical h
  | esc => exact execEsc_canonical h
  | ldone => exact execLdone_canonical h
  | lqry => exact execLqry_canonical h
  | ldrain => exact execLdrain_canonical h
  | trap => exact execTrap_canonical h
  | bkpt => exact execBkpt_canonical h
  | sysr => exact execSysr_canonical h
  | sysw => exact execSysw_canonical h
  | launch => exact execLaunch_canonical h
  | lstat => exact execLstat_canonical h
  | rte => exact execRte_canonical h
  | memoryOpComplete => exact execMemoryOpComplete_canonical h
  | matrixOpBegin => exact execMatrixOpBegin_canonical h
  | matrixOpComplete => exact execMatrixOpComplete_canonical h
  | leaveGrant => exact execLeaveGrant_canonical h
  | copyComplete => exact execCopyComplete_canonical h
  | copyFault => exact execCopyFault_canonical h
  | copyFail => exact execCopyFail_canonical h
  | barrierPhaseComplete => exact execBarrierPhaseComplete_canonical h
  | waitcTrigger => exact execWaitcTrigger_canonical h
  | waitcPoll => exact execWaitcPoll_canonical h
  | sleepExpire => exact execSleepExpire_canonical h
  | quantumExpire => exact execQuantumExpire_canonical h
  | groupSwap => exact execGroupSwap_canonical h
  | icacheFill => exact execIcacheFill_canonical h
  | ringHoldExpire => exact execRingHoldExpire_canonical h
  | packedGroupStart => exact execPackedGroupStart_canonical h
  | ladderDoneWrite => exact execLadderDoneWrite_canonical h
  | ownerIdleExpire => exact execOwnerIdleExpire_canonical h
  | launchRecord => exact execLaunchRecord_canonical h
  | dependenceMet => exact execDependenceMet_canonical h
  | cohortPlace => exact execCohortPlace_canonical h
  | blockStart => exact execBlockStart_canonical h
  | priorityAge => exact execPriorityAge_canonical h
  | blockPreempt => exact execBlockPreempt_canonical h
  | blockRestore => exact execBlockRestore_canonical h
  | blockEnd => exact execBlockEnd_canonical h
  | launchComplete => exact execLaunchComplete_canonical h
  | teardownReport => exact execTeardownReport_canonical h
  | faultEntryAppend => exact execFaultEntryAppend_canonical h
  | resolveRecord => exact execResolveRecord_canonical h
  | fqheadWrite => exact execFqheadWrite_canonical h
  | tinvPage => exact execTinvPage_canonical h
  | tinvAsid => exact execTinvAsid_canonical h
  | tinvAll => exact execTinvAll_canonical h
  | migrationActivate => exact execMigrationActivate_canonical h
  | migrationPull => exact execMigrationPull_canonical h
  | kresWrite => exact execKresWrite_canonical h
  | counterClear => exact execCounterClear_canonical h
  | registerWrite => exact execRegisterWrite_canonical h
  | fenceout => exact execFenceout_canonical h
  | readmit => exact execReadmit_canonical h
  | poollose => exact execPoollose_canonical h
  | poolset => exact execPoolset_canonical h
  | halt => exact execHalt_canonical h
  | resume => exact execResume_canonical h
  | fidset => exact execFidset_canonical h
  | routeset => exact execRouteset_canonical h
  | winset => exact execWinset_canonical h
  | regset => exact execRegset_canonical h
  | revoke => exact execRevoke_canonical h
  | scrub => exact execScrub_canonical h
  | tclimit => exact execTclimit_canonical h
  | regtable => exact execRegtable_canonical h
  | ctxcreate => exact execCtxcreate_canonical h
  | ctxtear => exact execCtxtear_canonical h
  | attest => exact execAttest_canonical h
  | rd => exact execRd_canonical h
  | own => exact execOwn_canonical h
  | data => exact execData_canonical h
  | nh => exact execNh_canonical h
  | inv => exact execInv_canonical h
  | ack => exact execAck_canonical h
  | prune => exact execPrune_canonical h
  | pack => exact execPack_canonical h
  | unlink => exact execUnlink_canonical h
  | wb => exact execWb_canonical h
  | wba => exact execWba_canonical h
  | refuse => exact execRefuse_canonical h
  | malformedMessage => exact execMalformedMessage_canonical h
  | cxlSnoop => exact execCxlSnoop_canonical h
  | sliceRetention => exact execSliceRetention_canonical h
  | agentSilent => exact execAgentSilent_canonical h
  | poolSilent => exact execPoolSilent_canonical h
  | poolPortLoss => exact execPoolPortLoss_canonical h
  | linkDown => exact execLinkDown_canonical h
  | linkUp => exact execLinkUp_canonical h
  | prawellPacket => exact execPrawellPacket_canonical h
  | contributionApply => exact execContributionApply_canonical h
  | remoteMessage => exact execRemoteMessage_canonical h
  | remoteWriteTimeout => exact execRemoteWriteTimeout_canonical h
  | reset => exact execReset_canonical h
  | dieBringupDone => exact execDieBringupDone_canonical h
  | channelTrained => exact execChannelTrained_canonical h
  | serviceLevelStep => exact execServiceLevelStep_canonical h
  | eccCorrected => exact execEccCorrected_canonical h
  | eccUncorrectable => exact execEccUncorrectable_canonical h
  | ideKeyExchange => exact execIdeKeyExchange_canonical h
  | cxlMemAccess => exact execCxlMemAccess_canonical h
  | cxlResponse => exact execCxlResponse_canonical h
  | remoteMessageFinish => exact execRemoteMessageFinish_canonical h
  | flitCrcFail => exact .next h
  | icmp | fcmp | plop | vote | elect => exact exec_canonical_of_predicateTo rfl h
  | _ => exact exec_canonical_of_valueTo rfl h

/-! ### The issue slots -/

namespace State.Canonical

theorem noIssue {misses : List DWord} {why : List (DWord × Option Nat)} (h : s.Canonical) :
    (s.noIssue b g misses why).Canonical :=
  .ite (.ite h.update h.update.count) (.count (.ite h.update h.update.count))

theorem issueGroup (h : s.Canonical) : (s.issueGroup b g).1.Canonical ∧ ∀ o ∈ (s.issueGroup b g).2, KeepsStores o := by
  unfold State.issueGroup
  dsimp only
  split
  · exact ⟨h.resumeTrap, fun _ ho => by cases ho⟩
  · generalize ha : State.attempt exec _ b g _ = x
    have hx : x.Canonical := ha ▸ h.setGroup.attempt fun _ _ hu => exec_canonical hu
    cases hx with
    | idle => exact ⟨h.setGroup, fun _ ho => by cases ho⟩
    | miss => exact ⟨h.setGroup.noIssue, fun _ ho => by cases ho⟩
    | stall ht => exact ⟨ht.noIssue, fun _ ho => by cases ho⟩
    | issue ht => exact ⟨h.setGroup, fun _ ho => by cases ho; exact ht⟩

theorem fillActive (h : s.Canonical) : (s.fillActive core).Canonical := .foldl h fun _ _ hu => hu.update

theorem offer {ks : List (Nat × Nat)} (h : s.Canonical) : KeepsStores (s.offer ks) := by
  induction ks generalizing s with
  | nil => exact .next h
  | cons k ks ih =>
    obtain ⟨hs, ho⟩ := h.issueGroup (b := k.1) (g := k.2)
    unfold State.offer
    split
    · next e => exact ho _ (by rw [e]; rfl)
    · next e => exact ih (hs.of_eq e)

theorem serveLates {ks : List (Nat × Nat × Late)} (h : s.Canonical) : KeepsStores (s.serveLates ks) := by
  induction ks generalizing s with
  | nil => exact .next h
  | cons k ks ih =>
    have hk : KeepsStores (s.tryLate exec k.1 k.2.1 k.2.2) := h.tryLate fun _ _ hu => exec_canonical hu
    unfold State.serveLates
    split
    · next e => exact ih (hk.of_eq e)
    · exact hk

theorem issueSlot (h : s.Canonical) : KeepsStores (s.issueSlot core) := .ite (.next h) h.fillActive.offer

theorem slot (h : s.Canonical) : KeepsStores (s.slot core) := by
  unfold State.slot
  refine .ite (.next h) ?_
  split
  · next he => exact (h.serveLates.of_eq he).issueSlot
  · exact h.serveLates

theorem countFull (h : s.Canonical) : s.countFull.Canonical :=
  .foldl h fun _ _ hu => .foldl hu fun _ _ hu1 => .ite hu1 hu1.count

theorem clockTick (h : s.Canonical) : s.clockTick.Canonical := h.update.countFull.arriveLaunches.update

theorem act {x : Sys2Proof.Action} (h : s.Canonical) : KeepsStores (s.act x) := by
  unfold State.act
  split
  · exact h.slot
  · exact .next h.clockTick
  · exact .ite (exec_canonical h) (.next h)

end State.Canonical

/-! ### A step -/

namespace State.Canonical

theorem nextAction (h : s.Canonical) : s.nextAction.2.Canonical := by
  unfold State.nextAction
  split <;> exact h.update

end State.Canonical

theorem step_canonical (h : s.Canonical) : KeepsStores (step s) := h.nextAction.act

end

/-- Settles O59: every instruction and every event keeps the canonical form, and so does what a step makes of the agenda, the slots
and the clock. -/
theorem stepKeepsStores : Obligations.StepKeepsStores := fun _ _ h e => (step_canonical h).of_eq e

end Sys2Proof.Machine
end
